-- ==== Sys2Proof/Word.lean ====
section
/-!
DEFINITION. The plain types of the model: words, bytes, sparse maps and the names of the device's parts.
-/
namespace Sys2Proof

/-- A 64-bit word: a general register, a register of a register block, a global address (03 R62, R101; 08 R204). -/
abbrev Word := BitVec 64

/-- One byte of memory. -/
abbrev Byte := BitVec 8

/-- Bytes in ascending address order, little-endian where they hold a number (00 R11). -/
abbrev Bytes := List Byte

/-- A sparse map from numbers to values: the listed keys rise strictly, and a key that is not listed has the map's
default value. `Machine/Map.lean` reads and writes it. -/
abbrev SMap (α : Type) := List (Nat × α)

/-- A logical tile id, 64y + x (01 R18). -/
abbrev TileId := Fin 4608

/-- A hardware context c0–c3 (03 R62). -/
abbrev CtxId := Fin 4

/-- A region 0–17 (01 R23). -/
abbrev RegionId := Fin 18

/-- A partition P0–P5 (01 R37). -/
abbrev PartId := Fin 6

/-- A device-link port L0–L7 (01 R29). -/
abbrev PortId := Fin 8

/-- A PCIe function: 0 is the PF, n + 1 is VF n + 1 of partition Pn (19 R509). -/
abbrev FnId := Fin 7

/-- A Bulk Store site S0–S7 (01 R35). -/
abbrev SiteId := Fin 8

end Sys2Proof
end

