-- ==== Sys2Proof/Syntax.lean ====
section
/-!
DEFINITION. The commands: one constructor for each row of spec/opcode_table.json, with the row's operands.
A tile instruction names its tile, its context and the fields of its 32-bit word (03 R67). An event names the item
in flight, the tile or the unit it happens to, and what the outside world supplies with it. A dictionary operation
names the request it arrives in.
-/
namespace Sys2Proof

/-- A soft error that the environment lays on a step (16 R430, R431; log 10). -/
inductive Upset where
  /-- Nothing strikes. -/
  | none
  /-- A two-bit error in the 8 B codeword at this local offset, in tile SRAM or in the Bulk Store. -/
  | twoBit (addr : Nat)
  /-- A one-bit error in a codeword of this tile's SRAM, corrected in place. -/
  | oneBit (tile : TileId)
  /-- A one-bit error in a Bulk Store codeword of the line that holds this local offset, corrected and written back. -/
  | bulkOneBit (addr : Nat)
  /-- A two-bit error in the cached line that holds this local offset. -/
  | cacheTwoBit (addr : Nat)
  /-- A one-bit error in the cached line that holds this local offset. -/
  | cacheOneBit (addr : Nat)
  /-- The Sync Hub fails (16 R451). -/
  | hubFailure
  /-- A parity error in structure `n` of R431, of the tile given where the structure belongs to one. -/
  | parity (n : Nat) (tile : TileId)
  deriving DecidableEq, Repr

/-- Who writes a register or reaches a home slice without a tile context's request in flight (08 R222). -/
inductive Writer where
  /-- A tile, through its own register block or a remote store. -/
  | tile (t : TileId)
  /-- The Nib core of a region. -/
  | nib (r : RegionId)
  /-- A PCIe function. -/
  | host (fn : FnId)
  | steward
  | debugger
  deriving DecidableEq, Repr

/-- The path of a dictionary request (17 R455, R467; 19 R513, R514). -/
inductive Path where
  /-- The management port; the requester's MAC address. -/
  | mgmt (src : BitVec 48)
  /-- The mailbox of a PCIe function. -/
  | mailbox (fn : FnId)
  /-- The doorbell DB_LOAD of a PCIe function, with the partition field its write carries. -/
  | doorbell (fn : FnId) (part : BitVec 3)
  deriving DecidableEq, Repr

/-- What every dictionary request carries (17 R457). -/
structure ReqHdr where
  path : Path
  ver : BitVec 8
  txn : BitVec 16
  deriving DecidableEq, Repr

/-- A host access to a home slice through BAR2 or a Nib core's access (08 R212, 19 R518). -/
inductive SliceReq where
  /-- Item `i` of the requests in flight to home slices. -/
  | flight (i : Nat)
  /-- A host read of `len` bytes at BAR2 offset `off`. -/
  | hostRead (fn : FnId) (off len : Nat)
  /-- A posted host write at BAR2 offset `off`: a piece of up to 64 B (19 R519), or a whole 128 B line (08 R218). -/
  | hostWrite (fn : FnId) (off : Nat) (data : Bytes)
  /-- A Nib core's read of `len` bytes at a local offset. -/
  | nibRead (r : RegionId) (addr len : Nat)
  /-- A Nib core's write at a local offset. -/
  | nibWrite (r : RegionId) (addr : Nat) (data : Bytes)
  deriving DecidableEq, Repr

/-- The straps, and what BIST and training find at a start (01 R19, R20, R26, R36; 16 R447; 17 R471). -/
structure Silicon where
  /-- The straps as sampled: MGT_ID and BOOT_SEL (19 R530, R533). -/
  mgtId : BitVec 5
  bootSel : BitVec 2
  /-- Physical positions whose banks failed the march test, as (row, position) (16 R447). -/
  marchFailed : List (Nat × Nat)
  /-- Physical positions whose logic test failed, as (row, position). -/
  logicFailed : List (Nat × Nat)
  /-- Physical positions whose mesh stage failed, as (row, position). -/
  meshFailed : List (Nat × Nat)
  /-- Regions whose Nib core failed BIST. -/
  nibFailed : List Nat
  /-- Regions whose Reuse Cache slice failed BIST. -/
  rcFailed : List Nat
  /-- Bulk Store sites that trained. -/
  sites : BitVec 8
  /-- The Sync Hub passed. -/
  hubOk : Bool
  /-- The PCIe link trained. -/
  pcieOk : Bool
  /-- Firmware slots A and B as shipped, found at the first start: 0 the image verifies, 1 it does not, 2 the flash cannot be
  read; with SVN and version (17 R470, R471). -/
  slotState : List (Fin 3)
  slotSvn : List (Fin 65)
  slotVersion : List (BitVec 32)
  /-- First readings: quarter degrees of the 18 x 5 region sensors, and the four periphery sensors (15 R416). -/
  temps : List (List Int)
  periphery : List Int
  /-- Beats and hops that each region's monitors count in the first window (02 R53). -/
  beats : List Nat
  hops : List Nat
  /-- Counts of the 72 row sensors and 18 region sensors in the first measurement (15 R425). -/
  rowCounts : List Nat
  regionCounts : List Nat
  /-- Target times in µs from power-good at which steps 1–8 ended (17 R469). -/
  stepTimes : List Nat
  deriving DecidableEq, Repr

/-- What a partner sends while a port trains (12 R310, R314). -/
structure Partner where
  dev : Nat
  port : Nat
  lowLatency : Bool
  /-- Lanes that passed, 0–4. -/
  lanes : Nat
  deriving DecidableEq, Repr

/-- The target of a register write: a local offset of R205, or an offset of a function's BAR0 (19 R511). -/
inductive RegAddr where
  | loc (addr : Nat)
  | bar0 (off : Nat)
  deriving DecidableEq, Repr

/-- The path of a debug access (18 R487). -/
inductive DbgPath where
  | jtag
  | window (fn : FnId)
  deriving DecidableEq, Repr

/-- An SPDM request but for its code: the version, the two parameters and the body (17 R485). -/
structure SpdmReq where
  ver : Byte
  p1 : Byte
  p2 : Byte
  body : Bytes
  deriving DecidableEq, Repr

/-- The four stamps of a probe pair: departure and arrival of the probe, departure and arrival of the answer (18 R503). -/
structure ProbePair where
  t1 : BitVec 48
  t2 : BitVec 48
  t3 : BitVec 48
  t4 : BitVec 48
  deriving DecidableEq, Repr

/-- The probe pairs of a time measurement: 16 with the neighbour in the positive and in the negative direction of each dimension,
none where the exchange failed, and 16 at each device on the way from this device's parent to the root (18 R503, 12 R310). -/
structure Probes where
  pos : List (List ProbePair)
  neg : List (List ProbePair)
  above : List (List ProbePair)
  deriving DecidableEq, Repr

/-- The commands, one constructor for each row of the opcode table, in the table's order. -/
inductive Instr where
  -- tile core: arithmetic (03 R70, R71)
  | alu (t : TileId) (c : CtxId) (rd rs1 rs2 : BitVec 5) (fn : BitVec 11)
  | fpu (t : TileId) (c : CtxId) (rd rs1 rs2 : BitVec 5) (fn : BitVec 11)
  | addi (t : TileId) (c : CtxId) (rd rs1 : BitVec 5) (imm : BitVec 16)
  | andi (t : TileId) (c : CtxId) (rd rs1 : BitVec 5) (imm : BitVec 16)
  | ori (t : TileId) (c : CtxId) (rd rs1 : BitVec 5) (imm : BitVec 16)
  | xori (t : TileId) (c : CtxId) (rd rs1 : BitVec 5) (imm : BitVec 16)
  | slli (t : TileId) (c : CtxId) (rd rs1 : BitVec 5) (imm : BitVec 16)
  | srli (t : TileId) (c : CtxId) (rd rs1 : BitVec 5) (imm : BitVec 16)
  | srai (t : TileId) (c : CtxId) (rd rs1 : BitVec 5) (imm : BitVec 16)
  | slti (t : TileId) (c : CtxId) (rd rs1 : BitVec 5) (imm : BitVec 16)
  | lui (t : TileId) (c : CtxId) (rd rs1 : BitVec 5) (imm : BitVec 16)
  | lsh (t : TileId) (c : CtxId) (rd rs1 : BitVec 5) (imm : BitVec 16)
  | beq (t : TileId) (c : CtxId) (rd rs1 : BitVec 5) (imm : BitVec 16)
  | bne (t : TileId) (c : CtxId) (rd rs1 : BitVec 5) (imm : BitVec 16)
  | blt (t : TileId) (c : CtxId) (rd rs1 : BitVec 5) (imm : BitVec 16)
  | bge (t : TileId) (c : CtxId) (rd rs1 : BitVec 5) (imm : BitVec 16)
  | bltu (t : TileId) (c : CtxId) (rd rs1 : BitVec 5) (imm : BitVec 16)
  | bgeu (t : TileId) (c : CtxId) (rd rs1 : BitVec 5) (imm : BitVec 16)
  | jal (t : TileId) (c : CtxId) (rd rs1 : BitVec 5) (imm : BitVec 16)
  | jalr (t : TileId) (c : CtxId) (rd rs1 : BitVec 5) (imm : BitVec 16)
  -- tile core: memory (03 R68, R69); LD carries what the environment lays on the read (16 R430)
  | ld (t : TileId) (c : CtxId) (rt rb : BitVec 5) (width : BitVec 3) (mode : BitVec 2) (off : BitVec 11) (u : Upset)
  | st (t : TileId) (c : CtxId) (rt rb : BitVec 5) (width : BitVec 3) (mode : BitVec 2) (off : BitVec 11)
  | sta (t : TileId) (c : CtxId) (rt rb : BitVec 5) (width : BitVec 3) (mode : BitVec 2) (off : BitVec 11)
  | ldf (t : TileId) (c : CtxId) (rt rb : BitVec 5) (width : BitVec 3) (mode : BitVec 2) (off : BitVec 11)
  | stf (t : TileId) (c : CtxId) (rt rb : BitVec 5) (width : BitVec 3) (mode : BitVec 2) (off : BitVec 11)
  | ldd (t : TileId) (c : CtxId) (rt rb : BitVec 5) (width : BitVec 3) (mode : BitVec 2) (off : BitVec 11)
  | std (t : TileId) (c : CtxId) (rt rb : BitVec 5) (width : BitVec 3) (mode : BitVec 2) (off : BitVec 11)
  -- engine starts (03 R67, R73)
  | mmSet (t : TileId) (c : CtxId) (dd da db : BitVec 3) (gp : BitVec 5) (tf : BitVec 8)
  | mmAcc (t : TileId) (c : CtxId) (dd da db : BitVec 3) (gp : BitVec 5) (tf : BitVec 8)
  | mmSpill (t : TileId) (c : CtxId) (dd da db : BitVec 3) (gp : BitVec 5) (tf : BitVec 8)
  | mmSpillacc (t : TileId) (c : CtxId) (dd da db : BitVec 3) (gp : BitVec 5) (tf : BitVec 8)
  | vop (t : TileId) (c : CtxId) (dd da db : BitVec 3) (gp : BitVec 5) (tf : BitVec 8) (sub : BitVec 4)
  | vtr (t : TileId) (c : CtxId) (dd da db : BitVec 3) (gp : BitVec 5) (tf : BitVec 8) (sub : BitVec 4)
  | cvt (t : TileId) (c : CtxId) (dd da db : BitVec 3) (gp : BitVec 5) (tf : BitVec 8) (sub : BitVec 4)
  | fill (t : TileId) (c : CtxId) (dd da db : BitVec 3) (gp : BitVec 5) (tf : BitVec 8) (sub : BitVec 4)
  | movtCopy (t : TileId) (c : CtxId) (dd da db : BitVec 3) (gp : BitVec 5) (tf : BitVec 8)
  | movtGather (t : TileId) (c : CtxId) (dd da db : BitVec 3) (gp : BitVec 5) (tf : BitVec 8)
  | ligIsect (t : TileId) (c : CtxId) (dd da db : BitVec 3) (gp : BitVec 5) (tf : BitVec 8)
  | ligUnion (t : TileId) (c : CtxId) (dd da db : BitVec 3) (gp : BitVec 5) (tf : BitVec 8)
  | ligBuild (t : TileId) (c : CtxId) (dd da db : BitVec 3) (gp : BitVec 5) (tf : BitVec 8)
  | ligCheck (t : TileId) (c : CtxId) (dd da db : BitVec 3) (gp : BitVec 5) (tf : BitVec 8)
  | ligSelect (t : TileId) (c : CtxId) (dd da db : BitVec 3) (gp : BitVec 5) (tf : BitVec 8)
  | grnBits (t : TileId) (c : CtxId) (dd da db : BitVec 3) (gp : BitVec 5) (tf : BitVec 8)
  | grnUniform (t : TileId) (c : CtxId) (dd da db : BitVec 3) (gp : BitVec 5) (tf : BitVec 8)
  | grnMask (t : TileId) (c : CtxId) (dd da db : BitVec 3) (gp : BitVec 5) (tf : BitVec 8)
  | opt (t : TileId) (c : CtxId) (dd da db : BitVec 3) (gp : BitVec 5) (tf : BitVec 8) (sub : BitVec 4)
  | samp (t : TileId) (c : CtxId) (dd da db : BitVec 3) (gp : BitVec 5) (tf : BitVec 8) (sub : BitVec 4)
  | xstart (t : TileId) (c : CtxId) (ra rb rc : BitVec 5) (xfn : BitVec 11)
  | msg (t : TileId) (c : CtxId) (ra rb rc : BitVec 5) (xfn : BitVec 11)
  | enl (t : TileId) (c : CtxId) (ra rb rc : BitVec 5) (xfn : BitVec 11)
  -- tile core: synchronisation (03 R72)
  | tfSet (t : TileId) (c : CtxId) (rd rs1 : BitVec 5) (obj : BitVec 12)
  | tfClr (t : TileId) (c : CtxId) (rd rs1 : BitVec 5) (obj : BitVec 12)
  | tfTst (t : TileId) (c : CtxId) (rd rs1 : BitVec 5) (obj : BitVec 12)
  | tfTas (t : TileId) (c : CtxId) (rd rs1 : BitVec 5) (obj : BitVec 12)
  | tfWait (t : TileId) (c : CtxId) (rd rs1 : BitVec 5) (obj : BitVec 12)
  | tfWaitc (t : TileId) (c : CtxId) (rd rs1 : BitVec 5) (obj : BitVec 12)
  | gfSet (t : TileId) (c : CtxId) (rd rs1 : BitVec 5) (obj : BitVec 12)
  | gfSetRel (t : TileId) (c : CtxId) (rd rs1 : BitVec 5) (obj : BitVec 12)
  | gfClr (t : TileId) (c : CtxId) (rd rs1 : BitVec 5) (obj : BitVec 12)
  | gfClrRel (t : TileId) (c : CtxId) (rd rs1 : BitVec 5) (obj : BitVec 12)
  | gfTst (t : TileId) (c : CtxId) (rd rs1 : BitVec 5) (obj : BitVec 12)
  | gfTstAcq (t : TileId) (c : CtxId) (rd rs1 : BitVec 5) (obj : BitVec 12)
  | gfTas (t : TileId) (c : CtxId) (rd rs1 : BitVec 5) (obj : BitVec 12)
  | gfWait (t : TileId) (c : CtxId) (rd rs1 : BitVec 5) (obj : BitVec 12)
  | gfWaitAcq (t : TileId) (c : CtxId) (rd rs1 : BitVec 5) (obj : BitVec 12)
  | gfWaitc (t : TileId) (c : CtxId) (rd rs1 : BitVec 5) (obj : BitVec 12)
  | semSignal (t : TileId) (c : CtxId) (rd rs1 : BitVec 5) (obj : BitVec 12)
  | semSignalRel (t : TileId) (c : CtxId) (rd rs1 : BitVec 5) (obj : BitVec 12)
  | semWait (t : TileId) (c : CtxId) (rd rs1 : BitVec 5) (obj : BitVec 12)
  | semWaitAcq (t : TileId) (c : CtxId) (rd rs1 : BitVec 5) (obj : BitVec 12)
  | semRead (t : TileId) (c : CtxId) (rd rs1 : BitVec 5) (obj : BitVec 12)
  | barArrive (t : TileId) (c : CtxId) (rd rs1 : BitVec 5) (obj : BitVec 12)
  | barWait (t : TileId) (c : CtxId) (rd rs1 : BitVec 5) (obj : BitVec 12)
  | barArriveWait (t : TileId) (c : CtxId) (rd rs1 : BitVec 5) (obj : BitVec 12)
  | fenceFull (t : TileId) (c : CtxId) (rd rs1 : BitVec 5) (obj : BitVec 12)
  | csrRead (t : TileId) (c : CtxId) (rd rs1 : BitVec 5) (obj : BitVec 12)
  | csrWrite (t : TileId) (c : CtxId) (rd rs1 : BitVec 5) (obj : BitVec 12)
  | ctxStart (t : TileId) (c : CtxId) (rd rs1 : BitVec 5) (obj : BitVec 12)
  | ctxStop (t : TileId) (c : CtxId) (rd rs1 : BitVec 5) (obj : BitVec 12)
  | hret (t : TileId) (c : CtxId) (rd rs1 : BitVec 5) (obj : BitVec 12)
  | bkpt (t : TileId) (c : CtxId) (rd rs1 : BitVec 5) (obj : BitVec 12)
  -- engine events (03 R73–R77)
  | startQueueAcceptance (t : TileId) (unit : Fin 5) (u : Upset)
  | mmCompletion (t : TileId)
  | veCompletion (t : TileId)
  | ligCompletion (t : TileId)
  | grnCompletion (t : TileId)
  | movtCompletion (t : TileId)
  -- memory events (08)
  | remoteAccessArrival (i : Nat)
  | remoteAnswer (i : Nat)
  | homeSliceRequest (q : SliceReq) (u : Upset)
  | bulkStoreFill (i : Nat)
  | hostCompletion (i : Nat) (ok : Bool) (data : Bytes)
  | rowClose (site : SiteId) (bank : Fin 16)
  -- Sync Hub and barriers (09, 12)
  | hubOperation (i : Nat) (u : Upset)
  | hubAnswer (i : Nat)
  | rowArrival (i : Nat)
  | hubRowArrival (i : Nat)
  | barrierRelease (t : TileId) (b : Fin 32)
  | systemArrival (i : Nat)
  | systemRelease (i : Nat)
  -- exchange (10)
  | listAcceptance (t : TileId)
  | sendSlot (t : TileId)
  | segmentArrival (i : Nat)
  | segmentAcknowledgement (i : Nat)
  | segmentRefusal (i : Nat)
  | recvAccTurn (t : TileId) (slot : Nat)
  -- active messages (11)
  | msgInjection (t : TileId) (slot : Fin 8)
  | messageHeaderArrival (i : Nat)
  | messageAcceptance (i : Nat)
  | nack (i : Nat)
  | reject (i : Nat)
  | retry (t : TileId) (slot : Fin 8)
  | handlerDispatch (t : TileId)
  -- Enlarger (10); none is the root
  | enlTransferStart (branch : Option RegionId)
  | enlLineLanding (branch : Option RegionId)
  -- device links (12)
  | portTraining (p : PortId) (partner : Partner)
  | flitReceived (p : PortId) (fec : Option Nat) (flit : Bytes) (u : Upset)
  | nakRepeat (p : PortId)
  | linkStall (p : PortId)
  | retrainEnd (p : PortId) (ok : Bool) (lanes : Nat)
  | detourLive (p : PortId)
  | rdGo (w : Writer) (p : PortId) (n : PartId) (v : Word)
  | reductionStart (p : PortId) (n : PartId)
  | reductionSegment (p : PortId) (i : Nat)
  | reductionDone (p : PortId) (n : PartId)
  -- Nib cores, faults, phases, commits (09, 13, 14, 15, 16, 18)
  | timeoutScan (r : RegionId) (elapsed : Nat)
  | waitCancel (i : Nat)
  | nibWatchdog (r : RegionId)
  | faultRecord (i : Nat)
  | counterFold (r : RegionId)
  | phaseDeclaration (r : RegionId)
  | apDecl (w : Writer) (r : RegionId) (v : Word)
  | setpointLowering (elapsed : Nat)
  | commitStamp (n : PartId)
  | commitApply (n : PartId)
  -- power, heat, ageing, time (02, 15, 16)
  | tbeatPublication (beatCounts hopCounts : List Nat)
  | poolPublication
  | thermalRead (temps : List (List Int)) (periphery : List Int)
  | fadeMeasurement (rowCounts regionCounts : List Nat) (hours : Nat)
  | setpointStep (up : Bool)
  | patrolScrub (addr : Nat) (u : Upset)
  | backgroundScrub
  | timestampWrap
  | pcsample (t : TileId)
  -- register writes with behaviour of their own (03 R101, 08 R216, 09 R254, 12 R342, 19 R512, R516)
  | rlbInv (w : Writer) (t : TileId) (v : Word)
  | tfValueClear (w : Writer) (t : TileId) (n : Fin 4) (v : Word)
  | tfSetWrite (w : Writer) (t : TileId) (n : Fin 4) (v : Word)
  | nfClear (w : Writer) (t : TileId) (v : Word)
  | evselWrite (w : Writer) (t : TileId) (v : Word)
  | gfSetRegister (w : Writer) (n : Fin 16) (v : Word)
  | gfClrRegister (w : Writer) (n : Fin 16) (v : Word)
  | semWrite (w : Writer) (n : Fin 256) (v : Word)
  | rcCtlFlush (w : Writer) (r : RegionId)
  | rcCtlInval (w : Writer) (r : RegionId)
  | rcCtlZero (w : Writer) (r : RegionId)
  | lkRdnfClear (w : Writer) (v : Word)
  | intCauseClear (fn : FnId) (v : Word)
  | intMaskWrite (fn : FnId) (v : Word)
  | translationInstall (fn : FnId) (slot : Fin 256) (low : Word)
  -- debug (18)
  | dbgHalt (w : Writer) (t : TileId) (force : Bool)
  | haltTakesEffect (t : TileId)
  | dbgResume (w : Writer) (t : TileId)
  | dbgStep (w : Writer) (t : TileId) (c : CtxId)
  | partitionHalt (w : Writer) (parts : BitVec 6) (force : Bool)
  | partitionResume (w : Writer) (parts : BitVec 6)
  | debugAccess (path : DbgPath) (op : BitVec 2) (addr data : Word)
  | registerWrite (w : Writer) (a : RegAddr) (v : Word)
  -- dictionary (17)
  | idpRead (h : ReqHdr) (index : BitVec 16) (sub : BitVec 8)
  | idpWrite (h : ReqHdr) (index : BitVec 16) (sub : BitVec 8) (data : Bytes)
  | blockRead (h : ReqHdr) (index : BitVec 16) (sub : BitVec 8) (count : BitVec 8) (length : BitVec 16) (offset : BitVec 32)
  | blockWrite (h : ReqHdr) (index : BitVec 16) (sub : BitVec 8) (offset : BitVec 32) (data : Bytes)
  | subscribe (h : ReqHdr) (index : BitVec 16) (sub : BitVec 8) (data : Bytes)
  | unsubscribe (h : ReqHdr) (index : BitVec 16) (sub : BitVec 8)
  | notify (i : Nat)
  | idpFinalAnswer (i : Nat)
  | tbeatPeakReset (h : ReqHdr) (v : Byte)
  | dumpCapture (h : ReqHdr) (mirror : Option PartId) (v : Byte)
  | linkCounterZero (h : ReqHdr) (v : Byte)
  -- loading (14), partitions and tenants (17), recovery (13)
  | loadVerify (h : ReqHdr) (n : PartId)
  | loadService (h : ReqHdr) (n : PartId)
  | forget (h : ReqHdr) (n : PartId)
  | apply (h : ReqHdr)
  | assign (h : ReqHdr) (n : PartId)
  | stop (h : ReqHdr) (n : PartId)
  | kill (h : ReqHdr) (n : PartId)
  | switch (h : ReqHdr) (n : PartId)
  | release (h : ReqHdr) (n : PartId)
  | forward (h : ReqHdr) (n : PartId)
  | back (h : ReqHdr) (n : PartId)
  | stopAll (h : ReqHdr)
  | counterRaise (h : ReqHdr) (v : Byte)
  | slotWrite (h : ReqHdr) (offset : BitVec 32) (data : Bytes)
  | verify (h : ReqHdr) (v : Byte)
  | challengeRequest (h : ReqHdr) (scope : Byte)
  | signedResponse (h : ReqHdr) (sig : Bytes)
  | relock (h : ReqHdr) (v : Byte)
  | measurementRequest (h : ReqHdr) (v : Byte)
  | blotterClear (h : ReqHdr) (v : Byte)
  | bulkCounterZero (h : ReqHdr) (v : Byte)
  | timeMeasure (h : ReqHdr) (v : Byte) (pos neg above : List (List ProbePair))
  | traceTrigger (h : ReqHdr) (v : Byte)
  | traceEnable (h : ReqHdr) (v : Byte)
  | totalsRead (h : ReqHdr)
  -- host, resets, SPDM (19, 17)
  | perstN (level : Bool)
  | hotReset
  | flr (fn : FnId)
  | vfEnableClear
  | pcieLinkDown
  | d3hot (fn : FnId)
  | doeAbort (fn : FnId)
  -- an SPDM request (DMTF DSP0274) has its parameters, its body and its version; what a requester leaves out is as given here
  | getVersion (fn : FnId) (p1 p2 : Byte := 0) (body : Bytes := []) (ver : Byte := 0x10)
  | getCapabilities (fn : FnId) (p1 p2 : Byte := 0) (body : Bytes := []) (ver : Byte := 0x13)
  | negotiateAlgorithms (fn : FnId) (p1 p2 : Byte) (body : Bytes := []) (ver : Byte := 0x13)
  | getDigests (fn : FnId) (p1 p2 : Byte := 0) (body : Bytes := []) (ver : Byte := 0x13)
  | getCertificate (fn : FnId) (p1 p2 : Byte) (body : Bytes) (ver : Byte := 0x13)
  | challenge (fn : FnId) (p1 p2 : Byte) (body : Bytes := []) (ver : Byte := 0x13)
  | getMeasurements (fn : FnId) (p1 p2 : Byte) (body : Bytes) (ver : Byte := 0x13)
  | unsupportedRequest (fn : FnId) (code : Byte) (p1 p2 : Byte := 0) (body : Bytes := []) (ver : Byte := 0x13)
  | pwronRstN (si : Silicon)
  | vddAonLoss
  | eventInput (highNs : Nat)
  | bankRefresh (site : SiteId) (bank : Fin 16)
  | rcCtlBusyEnd (r : RegionId)
  | pcieLinkUp
  | vfEnableSet
  | d0Entry (fn : FnId)
  | pwronRstNAssertion
  | plcaStatusChange (ok : Bool)
  | transmitOpportunity
  | ignoredFrame
  | refclkTsLockChange (locked : Bool)
  deriving DecidableEq, Repr

end Sys2Proof
end

