-- ==== Sys2Proof/Machine/Bits.lean ====
section
/-!
DEFINITION. Bit fields, sign extension and byte order (00 R11): bit 0 is the least significant bit, and a value of
several bytes stands with its low byte first. The CRC-32 (12 R316).
-/
namespace Sys2Proof.Machine

/-- Bits `lo` to `lo + w - 1` of `n`. -/
def fld (n lo w : Nat) : Nat := n / 2 ^ lo % 2 ^ w

/-- Bit `i` of `n`. -/
def nbit (n i : Nat) : Bool := n / 2 ^ i % 2 == 1

/-- 1 or 0. -/
def b2n (b : Bool) : Nat := if b then 1 else 0

/-- `n`, of which the low `w` bits are in two's complement, as an integer. -/
def signed (w n : Nat) : Int := if n % 2 ^ w < 2 ^ (w - 1) then ((n % 2 ^ w : Nat) : Int) else ((n % 2 ^ w : Nat) : Int) - ((2 ^ w : Nat) : Int)

/-- An integer as `w` bits in two's complement. -/
def toBits (w : Nat) (i : Int) : Nat := (i % ((2 ^ w : Nat) : Int)).toNat

/-- The number that little-endian bytes hold. -/
def leNat : Bytes → Nat
  | [] => 0
  | b :: bs => b.toNat + 256 * leNat bs

/-- The low `k` bytes of `n`, low byte first. -/
def toBytes : Nat → Nat → Bytes
  | _, 0 => []
  | n, k + 1 => BitVec.ofNat 8 n :: toBytes (n / 256) k

/-- `k` bytes of zero. -/
def zeros (k : Nat) : Bytes := List.replicate k 0#8

/-- The bytes cut or filled with zeros to `k`. -/
def padTo (k : Nat) (bs : Bytes) : Bytes := bs.take k ++ zeros (k - bs.length)

/-- `v` with bit `i` set to `b`. -/
def setBit {w : Nat} (v : BitVec w) (i : Nat) (b : Bool) : BitVec w :=
  if b then v ||| (1#w <<< i) else v &&& ~~~(1#w <<< i)

/-- `v` with the `k` bits from `lo` replaced by `x`. -/
def setFld {w : Nat} (v : BitVec w) (lo k x : Nat) : BitVec w :=
  (v &&& ~~~(BitVec.ofNat w (2 ^ k - 1) <<< lo)) ||| (BitVec.ofNat w (x % 2 ^ k) <<< lo)

/-- How many bits of `n` below `w` are set. -/
def popCount (n w : Nat) : Nat := (List.range w).foldl (fun k i => k + b2n (nbit n i)) 0

/-- How many leading zeros a `w`-bit `n` has. -/
def clz (n : Nat) : Nat → Nat
  | 0 => 0
  | w + 1 => if nbit n w then 0 else clz n w + 1

/-- The bit length of `n`, at most `w`. -/
def bitLen (n : Nat) : Nat := if n = 0 then 0 else Nat.log2 n + 1

/-- The quotient rounded up. -/
def cdiv (a b : Nat) : Nat := (a + b - 1) / b

/-- Add without passing the largest `w`-bit value. -/
def satAdd (w a b : Nat) : Nat := if a + b < 2 ^ w then a + b else 2 ^ w - 1

/-- The bytes of `bs` with those from `off` on replaced by `new`. -/
def splice (bs : Bytes) (off : Nat) (new : Bytes) : Bytes := bs.take off ++ new ++ bs.drop (off + new.length)

/-- Cut a list into pieces of `k`; `fuel` bounds their number. -/
def pieces {α : Type} (k : Nat) : Nat → List α → List (List α)
  | 0, _ => []
  | _, [] => []
  | fuel + 1, l => l.take k :: pieces k fuel (l.drop k)

/-- The list without its element `i`. -/
def dropAt {α : Type} : Nat → List α → List α
  | _, [] => []
  | 0, _ :: l => l
  | i + 1, x :: l => x :: dropAt i l

/-- The list with element `i` changed by `f`. -/
def modAt {α : Type} (f : α → α) : Nat → List α → List α
  | _, [] => []
  | 0, x :: l => f x :: l
  | i + 1, x :: l => x :: modAt f i l

/-- Put `x` into a list that rises by `key`, after its equals. -/
def insertBy {α : Type} (key : α → Nat) (x : α) : List α → List α
  | [] => [x]
  | y :: l => if key x < key y then x :: y :: l else y :: insertBy key x l

/-- The list in rising order of `key`, equals in their order. -/
def sortBy {α : Type} (key : α → Nat) (l : List α) : List α := l.foldl (fun acc x => insertBy key x acc) []

/-- The largest of a list, 0 for an empty one. -/
def maxOf (l : List Nat) : Nat := l.foldl max 0

/-- The sum of a list. -/
def sumOf (l : List Nat) : Nat := l.foldl (· + ·) 0

/-! ### CRC-32 (12 R316) -/

/-- Eight shifts of the reflected polynomial. -/
def crcBits : Nat → Nat → Nat
  | 0, c => c
  | k + 1, c => crcBits k (if c % 2 = 1 then (c / 2) ^^^ 0xEDB88320 else c / 2)

/-- The Ethernet FCS CRC-32 of a run of bytes. -/
def crc32 (bs : Bytes) : Nat := (bs.foldl (fun c b => crcBits 8 (c ^^^ b.toNat)) 0xFFFFFFFF) ^^^ 0xFFFFFFFF

end Sys2Proof.Machine
end

