-- ==== Sys2Proof/Machine/Formats.lean ====
section
/-!
DEFINITION. Number formats and rounding (04 R107–R126): exact values, the three rounding modes and the encodings.
-/
namespace Sys2Proof.Machine

/-! ### Exact values -/

/-- An exact value: NaN, an infinity, or (-1)^neg * n * 2^e; a zero keeps its sign (04 R120). -/
inductive Num where
  | nan
  | inf (neg : Bool)
  | fin (neg : Bool) (n : Nat) (e : Int)
  deriving DecidableEq, Repr

/-- Plus zero. -/
def Num.zero : Num := .fin false 0 0

/-- An integer. -/
def Num.ofInt (i : Int) : Num := .fin (decide (i < 0)) i.natAbs 0

/-- Two to the `k`. -/
def Num.pow2 (k : Int) : Num := .fin false 1 k

def Num.neg : Num → Num
  | .nan => .nan
  | .inf s => .inf (!s)
  | .fin s n e => .fin (!s) n e

def Num.abs : Num → Num
  | .nan => .nan
  | .inf _ => .inf false
  | .fin _ n e => .fin false n e

def Num.isFinite : Num → Bool
  | .fin _ _ _ => true
  | _ => false

def Num.isZero : Num → Bool
  | .fin _ 0 _ => true
  | _ => false

def Num.isNeg : Num → Bool
  | .nan => false
  | .inf s => s
  | .fin s _ _ => s

/-- The signed integer that a finite value is in units of 2^u, for u not above its exponent. -/
def scaledInt (s : Bool) (n : Nat) (e u : Int) : Int :=
  let k : Int := ((n * 2 ^ (e - u).toNat : Nat) : Int)
  if s then -k else k

/-- The exact product; a zero times an infinity is NaN (04 R120). -/
def Num.mul : Num → Num → Num
  | .nan, _ => .nan
  | _, .nan => .nan
  | .inf s, .inf t => .inf (s != t)
  | .inf s, .fin t n _ => if n = 0 then .nan else .inf (s != t)
  | .fin s n _, .inf t => if n = 0 then .nan else .inf (s != t)
  | .fin s n e, .fin t m f => .fin (s != t) (n * m) (e + f)

/-- The exact sum; a zero sum is +0 unless both terms are -0 (04 R120). -/
def Num.add : Num → Num → Num
  | .nan, _ => .nan
  | _, .nan => .nan
  | .inf s, .inf t => if s = t then .inf s else .nan
  | .inf s, .fin _ _ _ => .inf s
  | .fin _ _ _, .inf t => .inf t
  | .fin s n e, .fin t m f =>
    let u := min e f
    let i := scaledInt s n e u + scaledInt t m f u
    if i = 0 then .fin (n = 0 && m = 0 && s && t) 0 0 else .fin (decide (i < 0)) i.natAbs u

/-- The exact sum of a list; +0 for an empty one. -/
def Num.sum : List Num → Num
  | [] => .zero
  | x :: xs => xs.foldl Num.add x

/-- Compare: less, equal and greater, or none where either is NaN; zeros are equal. -/
def Num.cmp : Num → Num → Option Ordering
  | .nan, _ => none
  | _, .nan => none
  | .inf s, .inf t => some (if s = t then .eq else if s then .lt else .gt)
  | .inf s, .fin _ _ _ => some (if s then .lt else .gt)
  | .fin _ _ _, .inf t => some (if t then .gt else .lt)
  | .fin s n e, .fin t m f =>
    let u := min e f
    let a := scaledInt s n e u
    let b := scaledInt t m f u
    some (if a < b then .lt else if a = b then .eq else .gt)

def Num.lt (x y : Num) : Bool := decide (x.cmp y = some .lt)
def Num.le (x y : Num) : Bool := decide (x.cmp y = some .lt) || decide (x.cmp y = some .eq)

/-- Less, with -0 below +0 (03 R71). -/
def Num.ltZ (x y : Num) : Bool := x.lt y || (x.isZero && y.isZero && x.isNeg && !y.isNeg)

/-- The IEEE 754-2019 minimum: NaN where either is NaN (03 R71). -/
def Num.minimum (x y : Num) : Num :=
  if x = .nan ∨ y = .nan then .nan else if x.ltZ y then x else y

/-- The IEEE 754-2019 maximum. -/
def Num.maximum (x y : Num) : Num :=
  if x = .nan ∨ y = .nan then .nan else if x.ltZ y then y else x

/-- floor(log2(n / d * 2^e)) for n and d not 0. -/
def floorLog2 (n d : Nat) (e : Int) : Int :=
  let l : Int := (Nat.log2 n : Int) - (Nat.log2 d : Int)
  let below := if l < 0 then decide (n * 2 ^ (-l).toNat < d) else decide (n < d * 2 ^ l.toNat)
  (if below then l - 1 else l) + e

/-! ### Rounding (04 R118) -/

/-- The rounding modes; stochastic rounding carries its 32-bit draw. -/
inductive RMode where
  | odd
  | rne
  | sr (r : BitVec 32)
  deriving DecidableEq, Repr

/-- Round the quotient `a / b` to an integer, or its truncation plus one, as the mode says. -/
def roundQuot (mode : RMode) (a b : Nat) : Nat :=
  let k := a / b
  let r := a % b
  match mode with
  | .odd => if r ≠ 0 ∧ k % 2 = 0 then k + 1 else k
  | .rne => if b < 2 * r ∨ (2 * r = b ∧ k % 2 = 1) then k + 1 else k
  | .sr d => if d.toNat < r * 2 ^ 32 / b then k + 1 else k

/-- Round n / d * 2^e to a multiple of 2^q. -/
def roundAt (mode : RMode) (n d : Nat) (e q : Int) : Nat :=
  if q ≤ e then roundQuot mode (n * 2 ^ (e - q).toNat) d else roundQuot mode n (d * 2 ^ (q - e).toNat)

/-- Round n / d * 2^e to `p` significant bits with least exponent `emin`: the integer and its unit's exponent. -/
def roundSig (mode : RMode) (p : Nat) (emin : Int) (n d : Nat) (e : Int) : Nat × Int :=
  if n = 0 then (0, emin - (p - 1 : Nat))
  else
    let q := max (floorLog2 n d e) emin - (p - 1 : Nat)
    let m := roundAt mode n d e q
    if m = 2 ^ p then (2 ^ (p - 1), q + 1) else (m, q)

/-! ### Float formats (04 R108–R110, R119) -/

/-- What a format does with a value too large, an infinity and NaN (04 R119). -/
inductive Special where
  /-- It has infinities and NaN. -/
  | ieee
  /-- E4M3: no infinity, one NaN mantissa. -/
  | nanOnly
  /-- It has neither. -/
  | none
  deriving DecidableEq, Repr

/-- A float format: exponent bits, mantissa bits, bias and its special values. -/
structure FloatFmt where
  eb : Nat
  mb : Nat
  bias : Nat
  sp : Special
  deriving DecidableEq, Repr

def fp32 : FloatFmt := { eb := 8, mb := 23, bias := 127, sp := .ieee }
def bf16 : FloatFmt := { eb := 8, mb := 7, bias := 127, sp := .ieee }
def fp16 : FloatFmt := { eb := 5, mb := 10, bias := 15, sp := .ieee }
def e4m3 : FloatFmt := { eb := 4, mb := 3, bias := 7, sp := .nanOnly }
def e5m2 : FloatFmt := { eb := 5, mb := 2, bias := 15, sp := .ieee }
def e3m2 : FloatFmt := { eb := 3, mb := 2, bias := 3, sp := .none }
def e2m3 : FloatFmt := { eb := 2, mb := 3, bias := 1, sp := .none }
def e2m1 : FloatFmt := { eb := 2, mb := 1, bias := 1, sp := .none }

/-- The least exponent of a normal value. -/
def FloatFmt.emin (f : FloatFmt) : Int := 1 - (f.bias : Int)

/-- The largest finite magnitude's exponent field and mantissa, as one number. -/
def FloatFmt.maxBits (f : FloatFmt) : Nat :=
  match f.sp with
  | .ieee => (2 ^ f.eb - 1) * 2 ^ f.mb - 1
  | .nanOnly => 2 ^ (f.eb + f.mb) - 2
  | .none => 2 ^ (f.eb + f.mb) - 1

/-- The canonical NaN; +0 in a format without NaN (04 R110, R119). -/
def FloatFmt.nanBits (f : FloatFmt) : Nat :=
  match f.sp with
  | .ieee => (2 ^ f.eb - 1) * 2 ^ f.mb + 2 ^ (f.mb - 1)
  | .nanOnly => 2 ^ (f.eb + f.mb) - 1
  | .none => 0

/-- Put the sign above the magnitude bits. -/
def FloatFmt.withSign (f : FloatFmt) (s : Bool) (b : Nat) : Nat := b2n s * 2 ^ (f.eb + f.mb) + b

/-- An infinity's encoding (04 R119). -/
def FloatFmt.infBits (f : FloatFmt) (s : Bool) : Nat :=
  match f.sp with
  | .ieee => f.withSign s ((2 ^ f.eb - 1) * 2 ^ f.mb)
  | .nanOnly => f.nanBits
  | .none => f.withSign s f.maxBits

/-- The exact value of an encoding (04 R108). -/
def FloatFmt.decode (f : FloatFmt) (b : Nat) : Num :=
  let s := nbit b (f.eb + f.mb)
  let x := fld b f.mb f.eb
  let m := fld b 0 f.mb
  let top := 2 ^ f.eb - 1
  if x = top ∧ f.sp = .ieee then (if m = 0 then .inf s else .nan)
  else if x = top ∧ f.sp = .nanOnly ∧ m = 2 ^ f.mb - 1 then .nan
  else if x = 0 then .fin s m (f.emin - f.mb)
  else .fin s (2 ^ f.mb + m) ((x : Int) - f.bias - f.mb)

/-- The magnitude bits of the rounded value m * 2^q, or those of the format's overflow (04 R119). -/
def FloatFmt.pack (f : FloatFmt) (mode : RMode) (s : Bool) (m : Nat) (q : Int) : Nat :=
  let x : Int := if m < 2 ^ f.mb then 0 else q + f.mb + f.bias
  let b := if m < 2 ^ f.mb then (m : Int) else x * 2 ^ f.mb + ((m : Int) - 2 ^ f.mb)
  if b ≤ (f.maxBits : Int) then f.withSign s b.toNat
  else match f.sp, mode with
    | .ieee, .odd => if x ≤ (2 ^ f.eb - 2 : Nat) then f.withSign s f.maxBits else f.infBits s
    | .ieee, _ => f.infBits s
    | _, _ => f.withSign s f.maxBits

/-- Round a finite value's magnitude and pack it. -/
def FloatFmt.fit (f : FloatFmt) (mode : RMode) (s : Bool) (n d : Nat) (e : Int) : Nat :=
  let r := roundSig mode (f.mb + 1) f.emin n d e
  f.pack mode s r.1 r.2

/-- Encode a value divided by `d` (04 R118, R119). Under SR an infinity comes exactly where IEEE 754 rounding overflows, in
E5M2 where the draw rounds past the largest value; between the largest value and that limit the draw stays at the largest
(DEDUCED, log 71). -/
def FloatFmt.encode (f : FloatFmt) (mode : RMode) (x : Num) (d : Nat := 1) : Nat :=
  match x with
  | .nan => f.nanBits
  | .inf s => f.infBits s
  | .fin s n e =>
    match mode with
    | .sr _ =>
      if f.sp ≠ .ieee ∨ f = e5m2 then f.fit mode s n d e
      else if f.fit .rne s n d e = f.infBits s then f.infBits s
      else
        let b := f.fit mode s n d e
        if b = f.infBits s then f.withSign s f.maxBits else b
    | _ => f.fit mode s n d e

/-- Round into FP32 and read the value back. -/
def toFp32 (mode : RMode) (x : Num) (d : Nat := 1) : Num := fp32.decode (fp32.encode mode x d)

/-- Round into the 80-bit accumulator format with round to odd (04 R108, R121). Nothing that reaches it overflows. -/
def toA80 (x : Num) : Num :=
  match x with
  | .fin s n e => let r := roundSig .odd 64 (-16382) n 1 e; .fin s r.1 r.2
  | x => x

/-! ### Tensor formats (04 R107, R112) -/

/-- The tensor formats with the signedness of the integer ones. -/
inductive Fmt where
  | flt (code : Nat)
  | int8 (sgn : Bool)
  | int4 (sgn : Bool)
  deriving DecidableEq, Repr

/-- The float format of a code. -/
def floatOf : Nat → FloatFmt
  | 0 => fp32 | 1 => bf16 | 2 => fp16 | 3 => e4m3 | 4 => e5m2 | 5 => e3m2 | 6 => e2m3 | _ => e2m1

/-- The tensor format of FMT and SGN; none for a code that is never in FMT, or SGN on a float format (04 R107, 03 R78). -/
def fmtOf (code : Nat) (sgn : Bool) : Option Fmt :=
  if code ≤ 7 then (if sgn then none else some (.flt code))
  else if code = 8 then some (.int8 sgn)
  else if code = 9 then some (.int4 sgn)
  else none

/-- Bits of one element. -/
def Fmt.bits : Fmt → Nat
  | .flt c => let f := floatOf c; f.eb + f.mb + 1
  | .int8 _ => 8
  | .int4 _ => 4

def Fmt.isInt : Fmt → Bool
  | .flt _ => false
  | _ => true

/-- The code in FMT. -/
def Fmt.code : Fmt → Nat
  | .flt c => c
  | .int8 _ => 8
  | .int4 _ => 9

/-- The exact value of an element. -/
def Fmt.decode (f : Fmt) (b : Nat) : Num :=
  match f with
  | .flt c => (floatOf c).decode b
  | .int8 s => .ofInt (if s then signed 8 b else (b % 256 : Nat))
  | .int4 s => .ofInt (if s then signed 4 b else (b % 16 : Nat))

/-- The range of an integer format. -/
def Fmt.range : Fmt → Int × Int
  | .int8 true => (-128, 127)
  | .int8 false => (0, 255)
  | .int4 true => (-8, 7)
  | .int4 false => (0, 15)
  | .flt _ => (0, 0)

/-- Saturate an integer to `lo`–`hi`. -/
def satInt (lo hi i : Int) : Int := if i < lo then lo else if hi < i then hi else i

/-- Round to an integer and saturate; NaN gives 0 (04 R119, R126). -/
def toIntSat (mode : RMode) (lo hi : Int) (x : Num) (d : Nat := 1) : Int :=
  match x with
  | .nan => 0
  | .inf s => if s then lo else hi
  | .fin s n e =>
    let k : Int := (roundAt mode n d e 0 : Nat)
    satInt lo hi (if s then -k else k)

/-- Encode a value divided by `d` in a tensor format (04 R119, R126). -/
def Fmt.encode (f : Fmt) (mode : RMode) (x : Num) (d : Nat := 1) : Nat :=
  match f with
  | .flt c => (floatOf c).encode mode x d
  | g => toBits g.bits (toIntSat mode g.range.1 g.range.2 x d)

/-- Whether an encoding is an infinity or NaN. -/
def Fmt.nonFinite (f : Fmt) (b : Nat) : Bool :=
  match f with
  | .flt c => !((floatOf c).decode b).isFinite
  | _ => false

/-- emax of the MX scale rule (04 R116). -/
def mxEmax : Nat → Int
  | 3 => 8
  | 4 => 15
  | 5 => 4
  | _ => 2

/-- The exact value of an E8M0 scale byte (04 R111). -/
def e8m0 (b : Nat) : Num := if b = 255 then .nan else .pow2 ((b : Int) - 127)

/-! ### The scalar FPU (03 R71) -/

/-- Bits [31:0] of a register as FP32. -/
def f32 (w : Word) : Num := fp32.decode (w.toNat % 2 ^ 32)

/-- An FP32 result, rounded to nearest even and zero-extended. -/
def f32Word (x : Num) : Word := BitVec.ofNat 64 (fp32.encode .rne x)

end Sys2Proof.Machine
end

