-- ==== Sys2Proof/Config.lean ====
section
/-!
DEFINITION. What the manual leaves to no rule: unspecified values (00 R17), results that it gives only by a bound,
random numbers and the checks of published cryptographic standards. Each is a constant without a body (log 5).
-/
namespace Sys2Proof.Machine

/-- The free value of `w` bits for the `n`-th draw. -/
opaque Config.freeValue (w : Nat) : Nat → BitVec w

/-- The VE's candidate for function `f` of 06 R158 (0 EXP2 to 5 SIGMOID) at (-1)^neg * n * 2^e, n odd or 0. `Machine/Functions.lean` takes it where it meets the bound of 04 R133. -/
opaque Config.function (f : Nat) (neg : Bool) (n : Nat) (e : Int) : BitVec 32

/-- The VE's candidate for output `i` of a normalised row (06 R172): `layer` for LAYERNORM, then the row's values, its
gains and ε, each as a signed mantissa and an exponent. -/
opaque Config.normalised (layer : Bool) (row gain : List (Int × Int)) (eps : Int × Int) (i : Nat) : BitVec 32

/-- The VE's candidate for g = -ln(-ln u) of a draw (06 R174), taken where it is close enough. -/
opaque Config.gumbel (draw : BitVec 32) : BitVec 32

/-- Whether LIG BUILD marks an element that is an infinity or NaN (07 R186, R197), by its format code, its bits and its
scale byte. -/
opaque Config.marksNonFinite (fmt raw scale : Nat) : Bool

/-- The key pair that a range of the Bulk Store is under before it has a key of its own (17 R477, log 29). -/
opaque Config.unassignedKey : BitVec 512

/-- Fresh-silicon TBEAT at a setpoint in mV and a temperature in quarter degrees, in ps above R546's lower bound, where no
table lists it (02 R546, 15 R423). -/
opaque Config.freshBeat (mv : Nat) (tj : Int) : Nat

/-- The device TBEAT in ps that the Steward expects at a setpoint in mV and a worst drift in ppm when it plans to hold the
rate (15 R427). -/
opaque Config.plannedBeat (mv : Nat) (drift : Int) : Nat

/-- Bytes of the slice of owning tile `k` in the banks of the Plate with this program digest: R353 gives no length (13 R350,
R353, log 26). -/
opaque Config.sliceLength (digest : BitVec 384) (k : Nat) : BitVec 20

/-- The fresh count of fade sensor `k` (0–71 the rows', 72–89 the regions') at a setpoint in mV and a temperature in quarter
degrees, interpolated from the fused points (15 R425). -/
opaque Config.freshCount (k mv : Nat) (tj : Int) : Nat

/-- Whether a drift that is no whole number of ppm goes to the number above (15 R425). -/
opaque Config.driftUp (fresh count : Nat) : Bool

/-- The drift of a sensor that counted nothing (15 R425). -/
opaque Config.deadSensor (fresh : Nat) : BitVec 32

/-! ### Identity and firmware, fused or built in (17 R465, R470–R473, R485, R486) -/

/-- 0x1000:03, the unique device identifier. -/
opaque Config.deviceId : BitVec 64

/-- 0x1000:04, the MAC address in transmission order, as a number of 6 bytes with the first lowest. -/
opaque Config.macAddress : BitVec 48

/-- 0x1000:05, the ROM version. -/
opaque Config.romVersion : BitVec 32

/-- 0x2D00:0D, the digest of the Kloelov firmware key. -/
opaque Config.firmwareKeyDigest : BitVec 384

/-- The Kloelov debug key, whose digest is fused. -/
opaque Config.debugKey : BitVec 768

/-- What the Steward finds of the image of slot A (false) or B by the bytes written over what was shipped: 0 it verifies, 1
it does not, 2 the flash cannot be read. -/
opaque Config.imageState (slotB : Bool) : List (Nat × Option (BitVec 8)) → Fin 3

/-- The SVN that such an image carries. -/
opaque Config.imageSvn (slotB : Bool) : List (Nat × Option (BitVec 8)) → Fin 65

/-- The version that such an image carries. -/
opaque Config.imageVersion (slotB : Bool) : List (Nat × Option (BitVec 8)) → BitVec 32

/-- The Nib firmware version that comes with a Steward firmware version. -/
opaque Config.nibVersion : Nat → BitVec 32

/-- The slot 0 certificate chain. -/
opaque Config.certChain : List (BitVec 8)

/-- The leaf key's signature of a message, r then s. -/
opaque Config.leafSignature : List (BitVec 8) → BitVec 768

/-- Measurement 1 of R486: the digest of the ROM. -/
opaque Config.romDigest : BitVec 384

/-- Measurements 2 (the Steward's firmware) and 3 (the Nib cores') of R486: the digest of that part of the image of slot A
(false) or B, by the version it was found to have and the bytes written over what was shipped. -/
opaque Config.firmwareDigest (nib slotB : Bool) (version : Nat) : List (Nat × Option (BitVec 8)) → BitVec 384

/-- Measurement 4 of R486: the digest of the fuse configuration, with the fused repair map, and of the OTP counter. -/
opaque Config.fuseDigest (repair : List (BitVec 8)) (otp : Nat) : BitVec 384

/-- Whether a rate difference that is no whole number of ppb goes to the number above (18 R504). -/
opaque Config.rateUp (num : Int) (den : Nat) : Bool

end Sys2Proof.Machine
end

