-- ==== Sys2Proof/Machine/Map.lean ====
section
/-!
DEFINITION. Sparse maps: a list of keys that rise strictly, none of which has the default value (log 4). Two maps
with the same values are the same list.
-/
namespace Sys2Proof.Machine

/-- The value at key `k`; the default `d` where none is listed. -/
def Map.get {α : Type} (d : α) : SMap α → Nat → α
  | [], _ => d
  | p :: m, k => if p.1 = k then p.2 else Map.get d m k

/-- Put a pair in its place among rising keys. -/
def Map.place {α : Type} (k : Nat) (v : α) : SMap α → SMap α
  | [] => [(k, v)]
  | p :: m => if k < p.1 then (k, v) :: p :: m else p :: Map.place k v m

/-- Drop key `k`. -/
def Map.drop {α : Type} (k : Nat) : SMap α → SMap α
  | [] => []
  | p :: m => if p.1 = k then Map.drop k m else p :: Map.drop k m

/-- The map with `v` at `k`; a default value is not listed. -/
def Map.set {α : Type} [DecidableEq α] (d : α) (m : SMap α) (k : Nat) (v : α) : SMap α :=
  if v = d then Map.drop k m else Map.place k v (Map.drop k m)

/-- The map with the value at `k` changed by `f`. -/
def Map.mod {α : Type} [DecidableEq α] (d : α) (m : SMap α) (k : Nat) (f : α → α) : SMap α :=
  Map.set d m k (f (Map.get d m k))

/-- Every key of the map is above `k`. -/
def Map.above {α : Type} (k : Nat) (m : SMap α) : Bool := m.all (fun p => decide (k < p.1))

/-- The canonical form: keys rise strictly and no listed value is the default. -/
def Map.wf {α : Type} [DecidableEq α] (d : α) : SMap α → Bool
  | [] => true
  | p :: m => decide (p.2 ≠ d) && Map.above p.1 m && Map.wf d m

/-- The map without the keys that satisfy `p`. -/
def Map.erase {α : Type} (p : Nat → Bool) (m : SMap α) : SMap α := m.filter (fun x => !p x.1)

/-- `n` values from key `k` on. -/
def Map.range {α : Type} (d : α) (m : SMap α) (k n : Nat) : List α :=
  (List.range n).map (fun i => Map.get d m (k + i))

/-- Write a list of values from key `k` on. -/
def Map.fill {α : Type} [DecidableEq α] (d : α) (m : SMap α) (k : Nat) : List α → SMap α
  | [] => m
  | v :: vs => Map.fill d (Map.set d m k v) (k + 1) vs

end Sys2Proof.Machine
end

