-- ==== Sys2Proof/Machine/State.lean ====
section
/-!
DEFINITION. The state of one NT-4608 as plain data, and its value while PWRON_RST_N is held low.
Each field's comment gives its width, the rule that names it and its reset value. "reset 0*" is a value this model
chose where the manual gives none (log 6).
-/
namespace Sys2Proof.Machine

/-! ### Faults -/

/-- A fault or event record of the Blotter (16 R432), field by field. -/
structure Rec where
  code : BitVec 8
  severity : BitVec 4
  scope : BitVec 4
  tile : BitVec 13
  ctx : BitVec 2
  iaddr : BitVec 32
  daddr : BitVec 47
  step : BitVec 32
  time : BitVec 48
  tepoch : BitVec 16
  part : BitVec 3
  src : BitVec 5
  aux : BitVec 8
  progress : BitVec 32
  deriving DecidableEq, Repr

/-- What a fault at a tile names: its code, data address, raising unit, issuing context, instruction address and
progress (16 R432, R434, R438). -/
structure FaultInfo where
  code : BitVec 8
  daddr : Nat := 0
  src : BitVec 5 := 0
  ctx : Nat
  iaddr : BitVec 32
  progress : Nat := 0
  /-- The context goes back to the instruction: the fault is of its issue or its acceptance (03 R105). -/
  back : Bool := false
  deriving DecidableEq, Repr

/-! ### Tile -/

/-- Context states with the codes of 03 R63. -/
inductive CtxSt where
  | off | run | wait | halt | fault
  deriving DecidableEq, Repr

/-- The units of a tile with the numbers of 03 R73. -/
inductive UnitKind where
  | me | ve | lig | grn | xp
  deriving DecidableEq, Repr

/-- The operations that a start queue holds. -/
inductive OpKind where
  | mm | vop | vtr | cvt | fill | opt | samp | lig | grn | movt | xstart | enl
  deriving DecidableEq, Repr

/-- A request in a start queue (03 R73). XSTART and ENL carry the register values they read at issue. -/
structure StartReq where
  kind : OpKind
  sub : BitVec 4
  ctx : Nat
  iaddr : BitVec 32
  dd : BitVec 3 := 0
  da : BitVec 3 := 0
  db : BitVec 3 := 0
  gp : BitVec 5 := 0
  tf : BitVec 8
  a : Word := 0
  b : Word := 0
  n : Word := 0
  gate : Option Nat := none
  chip : Bool := false
  /-- An XSTART's list header, which is the transfer unit's from issue on, is or was another's to write (03 R76, 10 R268). -/
  tainted : Bool := false
  /-- Message entries that its handler retired since, as ranges of local offsets: their bytes are unspecified to it (11 R302). -/
  lost : List (Nat × Nat) := []
  deriving DecidableEq, Repr

/-- An accepted operation: the request, the descriptors and parameter words read at acceptance (03 R75), and whether
memory it owns was touched since (03 R76). -/
structure RunOp where
  req : StartReq
  dC : BitVec 256 := 0
  dA : BitVec 256 := 0
  dB : BitVec 256 := 0
  dX : BitVec 256 := 0
  param : Word := 0
  idx : Word := 0
  tokens : Nat := 0
  /-- Memory that it reads and memory that it writes until it completes, as ranges of local offsets (03 R76). -/
  opnd : List (Nat × Nat) := []
  res : List (Nat × Nat) := []
  tainted : Bool := false
  /-- MOVT between devices or with the host: destination pieces written, source lines read for the next one, and the
  code and data address of an access that failed (10 R281, 16 R439). -/
  pos : Nat := 0
  buf : List (Nat × Bytes) := []
  err : Option (Nat × Nat) := none
  /-- MOVT GATHER: the bytes of its list (07 R200). -/
  list : Bytes := []
  /-- MM: its products are all in the accumulator file, and the next MM's run (05 R153). -/
  past : Bool := false
  /-- MM: its last work item has started, so the Ligature unit is free of it (07 R193). -/
  ligFree : Bool := false
  /-- MM: stopped by a parity error of the accumulator file; the blocks that still write out (05 R155, 16 R431). -/
  stopAt : Option Nat := none
  deriving DecidableEq, Repr

/-- What a context in WAIT waits for (03 R103). -/
inductive WaitFor where
  /-- A tile flag to be set, or to be clear (kind 1). -/
  | tf (obj : Nat) (untilSet : Bool)
  /-- The hub's answer to a global flag operation; `isWait` for the WAIT forms (kind 2). -/
  | gf (obj : Nat) (isWait : Bool)
  /-- The hub's answer to a semaphore operation (kind 3). -/
  | sem (obj : Nat) (isWait : Bool) (n : Nat)
  /-- A barrier's release (kind 4). -/
  | bar (b : Nat)
  /-- The posting of lists that name `b` as gate; then the arrival is sent, and `thenWait` waits (kind 4, 10 R271). -/
  | barHeld (b : Nat) (thenWait : Bool)
  /-- A full/empty word to be full (kind 5). -/
  | fe (word : Nat) (rt : Nat) (peek : Bool)
  /-- Room in a unit's start queue; the instruction issues again once an entry frees (kind 6). -/
  | queue (unit : Nat)
  /-- A fence or a release, for everything that this names to be done; the instruction issues then (kind 7). -/
  | fence (full : Bool)
  /-- A free message send slot; the instruction issues then (kind 7). -/
  | sendSlot
  deriving DecidableEq, Repr

/-- A context's fetch line: the line's tile offset and its codewords that held a two-bit error when it was fetched
(03 R66). The words themselves come with the commands (log 3). -/
structure FetchLine where
  line : Nat
  bad : List Nat
  deriving DecidableEq, Repr

/-- One hardware context (03 R62). -/
structure Ctx where
  /-- g0–g31, 64 bits each (03 R62); reset 0*. -/
  regs : SMap Word := []
  /-- d0–d7, 256 bits each (03 R62, R78); reset 0. -/
  descs : SMap (BitVec 256) := []
  /-- PC, 32 bits (03 R65, R103); reset 0. -/
  pc : BitVec 32 := 0
  /-- State, 3 bits (03 R63, R103); reset OFF. -/
  st : CtxSt := .off
  /-- WAITKIND and WAITOBJ with what the wait needs, 16 bits in CTX_STATE (03 R103); reset none. -/
  wait : Option WaitFor := none
  /-- Private fetch line, 512 bits (03 R66); reset none*. -/
  fetch : Option FetchLine := none
  /-- The next remote LD bypasses the remote line buffer, 1 bit (03 R100); reset 0*. -/
  bypass : Bool := false
  /-- A halted context's state to return to: true for WAIT (18 R491); reset 0*. -/
  haltedInWait : Bool := false
  /-- One STEP is granted, 1 bit (18 R494); reset 0*. -/
  stepGrant : Bool := false
  deriving DecidableEq, Repr

/-- One line of the remote line buffer (03 R98). -/
structure RlbLine where
  addr : Nat
  data : Bytes
  deriving DecidableEq, Repr

/-- A unit's start queue of two and its running operation (03 R73). -/
structure UnitSt where
  /-- Start queue, up to two requests, head first (03 R73); reset empty. -/
  queue : List StartReq := []
  /-- The accepted operation (03 R73, R75); reset none. -/
  running : Option RunOp := none
  /-- The MM whose tail runs beside the products of the next (05 R153); reset none. -/
  tail : Option RunOp := none
  deriving DecidableEq, Repr

/-- A slot list under way (10 R269–R275). -/
structure RunList where
  req : StartReq
  base : Nat
  nslots : Nat
  gate : Option Nat
  bitmap : Nat
  slots : List (BitVec 128)
  /-- LOCAL_EPOCH of the gate when the list was posted (10 R270). -/
  epoch : BitVec 32
  /-- Index of the next slot to look at for sending. -/
  next : Nat := 0
  /-- SEND slots waiting for acknowledgement, oldest first (10 R272). -/
  outstanding : List Nat := []
  /-- Receive slots that a segment has filled (10 R273). -/
  filled : List Nat := []
  /-- RECV.ACC slots whose lines lie in staging (10 R275). -/
  staged : List Nat := []
  /-- Slots complete (10 R274). -/
  done : List Nat := []
  /-- Stopped by a fault or a forced halt: sends and completes nothing more (10 R289, 18 R492). -/
  stopped : Bool := false
  /-- Slots whose memory was touched by another unit or a context since acceptance (03 R76). -/
  tainted : List Nat := []
  deriving DecidableEq, Repr

/-- The state of a used send slot (11 R306). -/
inductive SendSt where
  | waiting | inFlight | backingOff
  deriving DecidableEq, Repr

/-- A message send slot (11 R291, R306). -/
structure SendSlot where
  dstTile : Nat
  dstDev : Nat
  remote : Bool
  q : Bool
  handler : BitVec 6
  len : Nat
  payload : Nat
  flag : Nat
  ctx : Nat
  iaddr : BitVec 32
  seq : BitVec 16
  refusals : Nat := 0
  st : SendSt := .waiting
  /-- Its payload was written while it belonged to the send unit (11 R292). -/
  tainted : Bool := false
  /-- Place in the order of issue. -/
  order : Nat
  deriving DecidableEq, Repr

/-- An occupied receive-queue entry (11 R297). -/
structure QEntry where
  idx : Nat
  hdr : BitVec 128
  /-- Place in the order in which messages became whole. -/
  order : Nat
  /-- An agent other than its handler wrote it: it reads as free values (11 R302). -/
  tainted : Bool := false
  deriving DecidableEq, Repr

/-- A receive queue's entries and counters (11 R297, R306). -/
structure RecvQ where
  entries : List QEntry := []
  accepted : BitVec 32 := 0
  nacks : BitVec 32 := 0
  rejects : BitVec 32 := 0
  deriving DecidableEq, Repr

/-- The engine side of a tile. -/
structure Units where
  /-- Start queues and running operations of the five units (03 R73); reset empty. -/
  units : SMap UnitSt := []
  /-- An XSTART handed to the list engine and not yet accepted by it (10 R268); reset none*. -/
  handed : Option StartReq := none
  /-- The running slot list (10 R268–R275); reset none*. -/
  list : Option RunList := none
  /-- Units whose head request or line waits for tokens, in the order in which they began to wait: 0–4 of R73, 5 the
  list engine, 6 the message send unit (15 R409); reset none. -/
  waiting : List Nat := []
  /-- Reservation r, 4 bits (15 R407); reset 0. -/
  resv : BitVec 4 := 0
  /-- Seed in force of the Grain generator, 64 bits (13 R366, R368); reset 0*. -/
  seed : Word := 0
  /-- The ME's accumulator file, two blocks of 256: A80, or I64 in the low bits (05 R142); reset 0*. -/
  accum : SMap (BitVec 80) := []
  /-- The half of the accumulator file that the next block fills (05 R142); reset 0*. -/
  half : Nat := 0
  deriving DecidableEq, Repr

/-- The message side of a tile's XP. -/
structure Mail where
  /-- Eight send slots (11 R291); reset free. -/
  sends : SMap (Option SendSlot) := []
  /-- Send sequence counter, 16 bits (11 R294); reset 0. -/
  seq : BitVec 16 := 0
  /-- Order stamp of the next MSG; the model's own count. -/
  order : Nat := 0
  /-- Message record of the Plate, 2,176 bits (11 R295); reset none*. -/
  record : Option (BitVec 2176) := none
  /-- Q0 (11 R297); reset empty. -/
  q0 : RecvQ := {}
  /-- Q1 (11 R297); reset empty. -/
  q1 : RecvQ := {}
  /-- The running handler's queue and entry (11 R302); reset none. -/
  running : Option (Bool × Nat) := none
  /-- The tile's fault was 0x08, after which messages of other keys continue (11 R298, log 76); reset 0*. -/
  goesOn : Bool := false
  deriving DecidableEq, Repr

/-- The debug side of a tile (18 R494). -/
structure TileDbg where
  /-- HOLD, 1 bit (18 R491); reset 0. -/
  hold : Bool := false
  /-- A halt waits for a locked sequence, 1 bit (18 R494); reset 0. -/
  waiting : Bool := false
  /-- The last halt was forced, 1 bit (18 R494); reset 0. -/
  forced : Bool := false
  /-- DBG_BKPT0, 64 bits (18 R494); reset 0. -/
  bkpt0 : Word := 0
  /-- DBG_BKPT1, 64 bits (18 R494); reset 0. -/
  bkpt1 : Word := 0
  deriving DecidableEq, Repr

/-- Counters of a tile (03 R101, 18 R496, R497). -/
structure Counters where
  /-- EVCNT0–7, 32 bits each (03 R101); reset 0. -/
  evcnt : SMap (BitVec 32) := []
  /-- EVSEL, 64 bits (03 R101); reset 0. -/
  evsel : Word := 0
  /-- EVCNT0–7 as the last fold read them, 32 bits each (18 R497); reset 0*. -/
  folded : SMap (BitVec 32) := []
  /-- EVSEL as the last fold found it, 64 bits (18 R497); reset 0*. -/
  foldedSel : Word := 0
  /-- Eight totals, 64 bits each (18 R497); reset 0*. -/
  totals : SMap Word := []
  /-- ECC_CE, 64 bits (03 R101); reset 0. -/
  eccCe : Word := 0
  deriving DecidableEq, Repr

/-- The NF register (03 R104). -/
structure NfReg where
  /-- NF, 1 bit (03 R104); reset 0. -/
  nf : Bool := false
  /-- AW_NF, 1 bit (03 R104); reset 0. -/
  aw : Bool := false
  /-- NF_SRC, 1 bit: true for the VE (03 R104); reset 0. -/
  src : Bool := false
  /-- NF_INDEX, 32 bits (03 R104); reset 0. -/
  index : BitVec 32 := 0
  deriving DecidableEq, Repr

/-- One tile but for its SRAM, which is in `State.mem`. -/
structure Tile where
  /-- c0–c3 (03 R62); reset as `Ctx`. -/
  ctx : SMap Ctx := []
  /-- TF0–TF255, 256 bits (03 R96); reset 0. -/
  flags : BitVec 256 := 0
  /-- Full/empty bits, 8192 bits (03 R91); reset 0. -/
  fe : BitVec 8192 := 0
  /-- Remote line buffer, up to 64 lines, oldest first (03 R98); reset empty*. -/
  rlb : List RlbLine := []
  /-- PHASE_STEP, 64 bits (03 R101); reset 0. -/
  phaseStep : Word := 0
  /-- PHASE_PC, 34 bits (03 R101); reset 0. -/
  phasePc : BitVec 34 := 0
  /-- NF register (03 R104); reset 0. -/
  nf : NfReg := {}
  /-- FENCED of TILE_STATUS, 1 bit (03 R101); reset 0. -/
  fenced : Bool := false
  /-- The clearing pass runs, TILE_STATUS[0], 1 bit (03 R101); reset 0. -/
  clearing : Bool := false
  /-- A fault was recorded since the last load, 1 bit (16 R440); reset 0*. -/
  faulted : Bool := false
  /-- LOCAL_EPOCH of B0–B31, 32 bits each (09 R247); reset 0*. -/
  epochs : SMap (BitVec 32) := []
  /-- PENDING of B0–B31, 32 bits (09 R247); reset 0*. -/
  barPending : BitVec 32 := 0
  /-- Units, list engine, reservation and seed. -/
  un : Units := {}
  /-- Messages. -/
  mail : Mail := {}
  /-- Event counters. -/
  cnt : Counters := {}
  /-- Halting. -/
  dbg : TileDbg := {}
  deriving DecidableEq, Repr

/-! ### Traffic in flight -/

/-- An access by a context to memory (03 R68, R87, R93). -/
inductive MemOp where
  /-- A load of `size` bytes into the registers from `rt`; `acq` for an acquire load, `fill` while its line may still
  enter the remote line buffer (03 R98, R99). -/
  | load (rt size : Nat) (acq fill : Bool)
  /-- A load of 32 B into descriptor register `d`. -/
  | loadDesc (d : Nat)
  /-- A store. -/
  | store (data : Bytes)
  /-- An accumulate of elements of the given type code of R87. -/
  | acc (ty : BitVec 2) (data : Bytes)
  /-- A fill-store. -/
  | fillStore (data : Bytes)
  deriving DecidableEq, Repr

/-- Who waits for an access. -/
inductive Issuer where
  /-- Context `c` of tile `t`, with the address of the instruction. -/
  | ctx (t c : Nat) (iaddr : BitVec 32)
  /-- An agent of another device, reached over a port: its device, tile and transaction bits (12 R323), and the port. -/
  | far (dev tile : Nat) (txn : BitVec 16) (port : Nat)
  /-- The transfer unit of tile `t`, for a MOVT (10 R280). -/
  | xfer (t : Nat)
  /-- The Nib core of region `r` (08 R221). -/
  | nib (r : Nat)
  deriving DecidableEq, Repr

/-- An end of a path over the mesh (10 R278). -/
inductive Node where
  | tile (t : Nat)
  | slice (r : Nat)
  | nib (r : Nat)
  | pcie
  /-- A 4 KiB block of the device registers. -/
  | regs (k : Nat)
  /-- A port, where lines of other devices enter the mesh. -/
  | port (p : Nat)
  deriving DecidableEq, Repr

/-- When a line was sent, as the model counts lines, and from which end to which; none for an answer that goes on to another
device (10 R278). -/
structure Sent where
  no : Nat := 0
  leg : Option (Node × Node) := none
  deriving DecidableEq, Repr

/-- An access in flight (08 R225). -/
structure MemReq where
  iss : Issuer
  /-- Partition tag of the issuer, 7 for none (01 R40). -/
  part : Nat
  /-- The device it goes to, where that is another one. -/
  dev : Option Nat := none
  /-- Local offset. -/
  addr : Nat
  op : MemOp
  sent : Sent := {}
  deriving DecidableEq, Repr

/-- How an access ended. -/
inductive MemRes where
  | data (d : Bytes)
  | ack
  | fault (code : BitVec 8) (daddr : Nat)
  deriving DecidableEq, Repr

/-- An answer in flight to its issuer (08 R225). -/
structure MemAns where
  req : MemReq
  res : MemRes
  sent : Sent := {}
  deriving DecidableEq, Repr

/-- Operations at the Sync Hub (09 R240–R244). -/
inductive HubKind where
  | gfSet | gfClr | gfTst | gfTas | gfWait | gfWaitc | semSignal | semWait | semRead
  deriving DecidableEq, Repr

/-- A flag or semaphore operation in flight to the hub or waiting there (09 R239). -/
structure HubOp where
  t : Nat
  c : Nat
  iaddr : BitVec 32
  kind : HubKind
  obj : Nat
  n : BitVec 16 := 0
  acq : Bool := false
  rd : Nat := 0
  /-- A forced halt discards the answer (18 R492). -/
  drop : Bool := false
  deriving DecidableEq, Repr

/-- The hub's answer in flight (09 R239). -/
structure HubAns where
  op : HubOp
  val : Option Word
  deriving DecidableEq, Repr

/-- A tile's arrival in flight to its row combiner (09 R248). -/
structure RowArr where
  t : Nat
  c : Nat
  iaddr : BitVec 32
  b : Nat
  tag : BitVec 32
  deriving DecidableEq, Repr

/-- An exchange segment in flight (10 R272). -/
structure Segment where
  srcDev : Nat
  srcTile : Nat
  srcIdx : Nat
  dstTile : Nat
  tag : BitVec 16
  part : Nat
  len : Nat
  data : Bytes
  sent : Sent := {}
  deriving DecidableEq, Repr

/-- A segment's acknowledgement or refusal on its way to the sender (10 R273, R274). -/
structure SegReply where
  dstDev : Nat
  srcTile : Nat
  srcIdx : Nat
  sent : Sent := {}
  deriving DecidableEq, Repr

/-- An active message in flight (11 R293). -/
structure Message where
  hdr : BitVec 128
  dstDev : Nat
  payload : Bytes
  /-- The sender's send slot. -/
  slot : Nat
  sent : Sent := {}
  deriving DecidableEq, Repr

/-- A message's reply in flight (11 R296). -/
structure MsgReply where
  hdr : BitVec 128
  slot : Nat
  /-- REJECT: the fault code to raise. -/
  code : BitVec 8 := 0
  sent : Sent := {}
  deriving DecidableEq, Repr

/-- A Bulk Store read under way for one line (08 R212). -/
structure Fill where
  line : Nat
  waiting : List MemReq
  deriving DecidableEq, Repr

/-- A request at the PCIe controller that waits for its completion (08 R220). -/
structure HostReq where
  req : MemReq
  fn : Nat
  bus : Nat
  /-- Posted writes in the queue that were accepted before it. -/
  behind : Nat
  deriving DecidableEq, Repr

/-- A posted write in the PCIe controller's queue (08 R220). -/
structure Posted where
  fn : Nat
  bus : Nat
  data : Bytes
  deriving DecidableEq, Repr

/-- A system-barrier arrival or release in flight inside this device (12 R339, R340). -/
structure SysPkt where
  b : Nat
  epoch : BitVec 32
  count : Nat
  /-- The port it came in on; none from this device. -/
  port : Option Nat
  /-- The device that sent it. -/
  src : Nat
  deriving DecidableEq, Repr

/-- A cancel on its way to a wait's object (09 R261). -/
structure Cancel where
  t : Nat
  c : Nat
  wait : WaitFor
  deriving DecidableEq, Repr

/-- Everything in flight, oldest first; empty at reset. -/
structure Net where
  /-- Lines sent over the mesh so far; the model's own count (10 R278). -/
  lines : Nat := 0
  /-- Remote requests of tiles on their way to what they name (08 R225). -/
  reqs : List MemReq := []
  /-- Requests on their way to a home slice (08 R212, R225). -/
  slice : List MemReq := []
  /-- Bulk Store reads under way, by line (08 R212). -/
  fills : List Fill := []
  /-- Requests of the host and of Nib cores that wait for a BUSY slice or for a line's fill, in order (08 R212, R217). -/
  held : List SliceReq := []
  /-- Reads at the PCIe controller that wait for a completion (08 R220). -/
  hostq : List HostReq := []
  /-- Posted writes in the PCIe controller's queue (08 R220). -/
  posted : List Posted := []
  /-- Answers on their way to their issuers (08 R225). -/
  answers : List MemAns := []
  /-- Accesses to other devices that wait for their answer packet, by transaction number (12 R323). -/
  far : List (Nat × MemReq) := []
  /-- Flag and semaphore operations on their way to the hub (09 R239). -/
  hubOps : List HubOp := []
  /-- The hub's answers (09 R239). -/
  hubAns : List HubAns := []
  /-- Barrier arrivals on their way to a row combiner (09 R248, R251). -/
  rowArr : List RowArr := []
  /-- Rows' arrivals on their way to the hub: barrier and row (09 R251). -/
  hubRows : List (Nat × Nat) := []
  /-- Exchange segments (10 R272). -/
  segs : List Segment := []
  /-- Acknowledgements of segments (10 R274). -/
  segAcks : List SegReply := []
  /-- Refusals of segments (10 R273). -/
  segRefs : List SegReply := []
  /-- Message packets (11 R293). -/
  msgs : List Message := []
  /-- ACCEPTED replies (11 R296). -/
  msgAcks : List MsgReply := []
  /-- NACK replies (11 R296). -/
  msgNacks : List MsgReply := []
  /-- REJECT replies (11 R296). -/
  msgRejs : List MsgReply := []
  /-- System-barrier arrivals inside this device (12 R339). -/
  sysArr : List SysPkt := []
  /-- System-barrier releases inside this device (12 R340). -/
  sysRel : List SysPkt := []
  /-- Cancels on their way to a wait's object (09 R261). -/
  cancels : List Cancel := []
  /-- Records on their way to the Steward (16 R440). -/
  recs : List Rec := []
  deriving DecidableEq, Repr

/-! ### Sync Hub (09) -/

/-- A semaphore (09 R237). -/
structure SemSt where
  /-- Count, 16 bits (09 R237); reset 0. -/
  count : BitVec 16 := 0
  /-- SAT, 1 bit (09 R237); reset 0. -/
  sat : Bool := false
  /-- TORN, 1 bit (09 R237); reset 0. -/
  torn : Bool := false
  /-- Waiter queue, head first (09 R243); reset empty. -/
  queue : List HubOp := []
  deriving DecidableEq, Repr

/-- A row combiner's state for one barrier (09 R249). -/
structure Combiner where
  /-- Arrived bits of the row's tiles, 64 bits (09 R251); reset 0*. -/
  arrived : BitVec 64 := 0
  /-- Epoch, 32 bits (09 R249); reset 0*. -/
  epoch : BitVec 32 := 0
  deriving DecidableEq, Repr

/-- A barrier (09 R237). -/
structure BarSt where
  /-- Epoch, 32 bits (09 R237); reset 0. -/
  epoch : BitVec 32 := 0
  /-- SCOPE, 1 bit (09 R255); reset 0. -/
  scope : Bool := false
  /-- Participant masks of rows 0–71, 64 bits each (09 R246); reset 0. -/
  masks : SMap (BitVec 64) := []
  /-- Row combiners (09 R249); reset 0*. -/
  comb : SMap Combiner := []
  /-- Tiles that a release in flight has yet to reach, once for each release (09 R251); reset empty. -/
  due : List Nat := []
  /-- Rows whose arrival the hub has, 72 bits (09 R251); reset 0*. -/
  rows : BitVec 72 := 0
  /-- SYSWAIT, 1 bit (09 R255); reset 0. -/
  sysWait : Bool := false
  /-- TORN, 1 bit (09 R255); reset 0. -/
  torn : Bool := false
  /-- Arrivals that this device, as head of its W-line, has combined (12 R339); reset 0*. -/
  headCount : Nat := 0
  /-- Arrivals that this device, as root, has counted (12 R339); reset 0*. -/
  rootCount : Nat := 0
  deriving DecidableEq, Repr

/-- One synchronisation dump (09 R257). -/
structure Dump where
  /-- Capture state, 8 bits: 0 none, 1 capturing, 2 ready (09 R257); reset 0*. -/
  st : BitVec 8 := 0
  /-- Regions whose Nib core has yet to serve the capture, 18 bits (09 R258); reset 0*. -/
  todo : BitVec 18 := 0
  /-- Capture sequence, 24 bits (09 R257); reset 0*. -/
  seq : BitVec 24 := 0
  /-- Time-stamp of the capture point, 64 bits (09 R257); reset 0*. -/
  time : Word := 0
  /-- Barrier records, 1,024 B (09 R259); reset empty*. -/
  bars : Bytes := []
  /-- Flag values and TORN bits, 256 B (09 R257); reset empty*. -/
  flags : Bytes := []
  /-- Semaphore states, 2,048 B (09 R257); reset empty*. -/
  sems : Bytes := []
  /-- Waiter records, 8 B each (09 R259); reset empty*. -/
  waiters : List Word := []
  /-- Per tile: the 1,160 B record and the 96 B record (09 R257, 11 R306); reset empty*. -/
  tiles : SMap (Bytes × Bytes) := []
  /-- Tile selector, 16 bits (09 R257); reset 0*. -/
  sel : BitVec 16 := 0
  deriving DecidableEq, Repr

/-- The Sync Hub (09). -/
structure Hub where
  /-- Global flag values, 1024 bits (09 R237); reset 0. -/
  gf : BitVec 1024 := 0
  /-- TORN bits of the flags, 1024 bits (09 R254); reset 0. -/
  gfTorn : BitVec 1024 := 0
  /-- Waiters on global flags, oldest first (09 R241); reset empty. -/
  gfWait : List HubOp := []
  /-- SEM0–SEM255 (09 R237); reset 0. -/
  sems : SMap SemSt := []
  /-- B0–B31 (09 R237); reset 0. -/
  bars : SMap BarSt := []
  /-- OWN_GF bytes, 8 bits each, kept as owner + 1 with 0 for none (09 R254); reset 0xFF. -/
  ownGf : SMap Nat := []
  /-- OWN_SEM bytes, 8 bits each, kept as OWN_GF's (09 R254); reset 0xFF. -/
  ownSem : SMap Nat := []
  /-- OWN_BAR bytes, 8 bits each, kept as OWN_GF's (09 R254); reset 0xFF. -/
  ownBar : SMap Nat := []
  /-- The dump (09 R257). -/
  dump : Dump := {}
  deriving DecidableEq, Repr

/-! ### Regions -/

/-- A line of a Reuse Cache slice (08 R210): its line number, the set and the way that hold it, and its place in the
order of use. -/
structure CLine where
  line : Nat
  set : Nat
  way : Nat
  dirty : Bool
  poisoned : Bool
  used : Nat
  data : Bytes
  deriving DecidableEq, Repr

/-- The operation of a slice that is BUSY (08 R217). -/
inductive RcOp where
  | flush | inval | zero
  deriving DecidableEq, Repr

/-- A Reuse Cache slice (08 R210–R218). -/
structure RcSlice where
  /-- Valid lines with data (08 R210); reset none. -/
  lines : List CLine := []
  /-- TS ways, 8 bits of RC_WAYS (08 R216); reset 0. -/
  ts : Nat := 0
  /-- PR ways, 8 bits of RC_WAYS (08 R216); reset 0. -/
  pr : Nat := 0
  /-- Trace ways, 8 bits of RC_WAYS (08 R216); reset 0. -/
  trace : Nat := 0
  /-- TS range, first and end line (07 R201); reset empty*. -/
  tsRange : Nat × Nat := (0, 0)
  /-- PR range, first and end line (07 R201); reset empty*. -/
  prRange : Nat × Nat := (0, 0)
  /-- RC_HITS, 64 bits (08 R216); reset 0. -/
  hits : Word := 0
  /-- RC_MISSES, 64 bits (08 R216); reset 0. -/
  misses : Word := 0
  /-- RC_CE, 64 bits (08 R216); reset 0. -/
  ce : Word := 0
  /-- BUSY and the running operation (08 R216, R217); reset none. -/
  busy : Option RcOp := none
  /-- Sets that the running operation has done (08 R217); reset 0. -/
  scan : Nat := 0
  /-- Use stamps given out so far, the order of least recent use (08 R213); reset 0*. -/
  tick : Nat := 0
  deriving DecidableEq, Repr

/-- A region's pool block (15 R415). -/
structure Pool where
  /-- IN_FORCE, 16 bits (15 R415); reset 0. -/
  inForce : Nat := 0
  /-- PUBLISHED, 16 bits (15 R415); reset 0. -/
  published : Nat := 0
  /-- HWBOUND, 16 bits (15 R415); reset 0. -/
  hwBound : Nat := 0
  /-- Windows for which the computed pool has stayed above PUBLISHED (15 R411); reset 0*. -/
  above : Nat := 0
  /-- The lowering of PUBLISHED that a raise of the setpoint requires (15 R423, log 69); reset none*. -/
  limit : Option Nat := none
  /-- A load or a stop waits for the region's engines to be idle before its reservations go (15 R413); reset 0*. -/
  dropping : Bool := false
  /-- RESERVED, 16 bits (15 R415); reset 0. -/
  reserved : Nat := 0
  /-- WINDOW open, 1 bit (15 R415); reset 0. -/
  window : Bool := false
  /-- REFUSED, 1 bit (15 R415); reset 0. -/
  refused : Bool := false
  /-- HOLD, 1 bit (15 R415); reset 0. -/
  hold : Bool := false
  /-- WAITING, 1 bit (15 R415); reset 0. -/
  waiting : Bool := false
  /-- ns for which the declaration has waited (15 R414); reset 0*. -/
  waitedNs : Nat := 0
  /-- AP_TJ low half, signed quarter degrees, 16 bits (15 R415); reset 0. -/
  tj : Int := 0
  /-- Highest Tj since PWRON_RST_N, 16 bits (15 R415); reset 0. -/
  tjMax : Int := 0
  /-- AP_GATED, 64 bits (15 R415); reset 0. -/
  gated : Word := 0
  /-- AP_PHASE variant, phase id and step, 64 bits (15 R415); reset 0. -/
  phase : Word := 0
  /-- AP_DECLWAIT, 64 bits (15 R415); reset 0. -/
  declWait : Word := 0
  /-- AP_MAP0–15, 1024 bits (15 R415); reset 0. -/
  map : BitVec 1024 := 0
  deriving DecidableEq, Repr

/-- A wait that the Nib core times (09 R260). -/
structure Timer where
  t : Nat
  c : Nat
  kind : Nat
  obj : Nat
  ns : Nat
  deriving DecidableEq, Repr

/-- A region's Nib core (14 R374). -/
structure NibSt where
  /-- The core runs, 1 bit (16 R443); reset 0*. -/
  alive : Bool := false
  /-- Timers of waiting contexts (09 R260); reset empty*. -/
  timers : List Timer := []
  /-- A declaration is under way, with its phase id read at the boundary (14 R394); reset none*. -/
  declaring : Bool := false
  /-- Variant chosen at the latest declaration (14 R401); reset 0*. -/
  variant : Nat := 0
  /-- The region was stopped since its last load (14 R376); reset 0*. -/
  stopped : Bool := false
  deriving DecidableEq, Repr

/-- An Enlarger request (10 R282). -/
structure EnlReq where
  t : Nat
  ctx : Nat
  iaddr : BitVec 32
  src : Word
  dst : Nat
  lines : Nat
  tf : BitVec 8
  chip : Bool
  /-- Its source in a tile was touched since acceptance (03 R76). -/
  tainted : Bool := false
  deriving DecidableEq, Repr

/-- An Enlarger branch or the root (10 R284): the transfer in progress with the lines landed, and the queue. -/
structure EnlBranch where
  /-- The transfer in progress and its lines landed (10 R284); reset none. -/
  cur : Option (EnlReq × Nat) := none
  /-- Requests that wait, up to eight, head first (10 R284); reset empty. -/
  queue : List EnlReq := []
  /-- ENL_LINES, 64 bits (10 R287); reset 0. -/
  lines : Word := 0
  deriving DecidableEq, Repr

/-- One region (01 R23). -/
structure Reg where
  /-- In service, 1 bit (01 R22); reset 0*. -/
  inService : Bool := false
  rc : RcSlice := {}
  pool : Pool := {}
  nib : NibSt := {}
  enl : EnlBranch := {}
  /-- Beats counted in the last windows, newest first, up to 16 (02 R53); reset empty*. -/
  beats : List Nat := []
  /-- Hops counted in the last windows (02 R53); reset empty*. -/
  hops : List Nat := []
  /-- Regional TBEAT, 32 bits (02 R55); reset 0*. -/
  tbeat : Nat := 0
  /-- Regional THOP; only the device value is published (02 R53); reset 0*. -/
  thop : Nat := 0
  /-- Trim code, 6 bits (15 R426); reset 0*. -/
  trim : Nat := 0
  /-- Trim code planned by the last measurement (15 R426); reset 0*. -/
  trimPlan : Nat := 0
  /-- Drift of the region sensor, 32 bits (15 R429); reset 0*. -/
  drift : Int := 0
  /-- Trace records in the hub's queue, up to 256 of 64 B, oldest first (18 R499); reset empty*. -/
  traceQ : List Bytes := []
  /-- Trace records that the hub has dropped since its last LOST record, 64 bits (18 R499, R502); reset 0*. -/
  traceLost : Nat := 0
  deriving DecidableEq, Repr

/-! ### Partitions -/

/-- The parts of a running Plate that its Nib cores keep (14 R377). -/
structure PlateInfo where
  boundary : Nat
  timeout : BitVec 32
  entry : BitVec 32
  assign : Nat
  pword : Nat
  phase0 : Nat
  phases : Bytes
  tiling : Bytes
  digest : BitVec 384
  deriving DecidableEq, Repr

/-- A commit description with absolute addresses and object numbers (13 R352, 14 R380). -/
structure Commit where
  shard : Nat
  bankA : Nat
  bankB : Nat
  nown : Nat
  u : Nat
  cbar : Nat
  tile : Nat
  flag : Nat
  stepFlag : Nat
  rule : BitVec 3
  b1 : BitVec 32
  b2 : BitVec 32
  s0 : BitVec 32
  smin : BitVec 32
  smax : BitVec 32
  grow : Nat
  j : Word
  deriving DecidableEq, Repr

/-- A partition's commit records (13 R361). -/
structure CommitSt where
  /-- The commit description of the running Plate (13 R352, 14 R380); reset none. -/
  desc : Option Commit := none
  /-- COMMITTED_STEP, 64 bits (13 R361); reset all ones. -/
  committed : Word := 0xFFFFFFFFFFFFFFFF#64
  /-- ACTIVE, 1 bit (13 R361); reset 0*. -/
  active : Bool := false
  /-- C's epoch at the last apply, 32 bits (13 R361); reset 0*. -/
  cEpoch : BitVec 32 := 0
  /-- 0 no description, 1 stepping, 2 stamped (13 R361); reset 0. -/
  st : BitVec 8 := 0
  /-- Loss scale, 32 bits (13 R361); reset 0*. -/
  lscale : BitVec 32 := 0
  /-- Run counter, 16 bits (13 R361); reset 0*. -/
  run : Nat := 0
  /-- Skipped steps since load, 64 bits (13 R361); reset 0*. -/
  skipped : Word := 0
  /-- NEXT_STEP in force, 64 bits (13 R355); reset 0*. -/
  next : Word := 0
  /-- Seed in force, 64 bits (13 R361); reset 0*. -/
  seed : Word := 0
  /-- Root record, 32 bits, in the always-on island (13 R361, R363); reset 0*. -/
  root : BitVec 32 := 0
  /-- The root record is valid, 1 bit (13 R361, R363); reset 0*. -/
  rootOk : Bool := false
  /-- 0x2E00:20 as last written, 8 bits (13 R361); reset 0*. -/
  cmd : BitVec 8 := 0
  /-- Result of the last recovery command, 8 bits (13 R361); reset 0*. -/
  result : BitVec 8 := 0
  /-- The hub signalled U's release to the lead Nib core (13 R356); reset 0*. -/
  uSignal : Bool := false
  /-- The hub signalled C's release (13 R356); reset 0*. -/
  cSignal : Bool := false
  deriving DecidableEq, Repr

/-- A partition's tenant state (17 R478). -/
structure Tenant where
  /-- 0x2800:20, 64 bits (17 R478); reset 0*. -/
  newId : Word := 0
  /-- 0x2800:21, 768 bits (17 R478); reset 0*. -/
  newKey : BitVec 768 := 0
  /-- 0x2800:22, 64 bits (17 R478); reset 0 (R480). -/
  cur : Word := 0
  /-- 0x2800:23, 64 bits (17 R478); reset 0 (R480). -/
  next : Word := 0
  /-- Unlock key of the current tenant, 768 bits (17 R479); reset 0 (R480). -/
  curKey : BitVec 768 := 0
  /-- Unlock key of the next tenant, 768 bits (17 R479); reset 0 (R480). -/
  nextKey : BitVec 768 := 0
  /-- Key pair of the share's range, 512 bits, data key low; none when destroyed (17 R477); reset none (R480). -/
  shareKey : Option (BitVec 512) := none
  /-- Key pair of the pending share's range, 512 bits (17 R477); reset none (R480). -/
  pendKey : Option (BitVec 512) := none
  /-- 0x2800:25, 8 bits (17 R478); reset 0*. -/
  cmd : BitVec 8 := 0
  /-- 0x2800:26, 8 bits (17 R478); reset 0*. -/
  reason : BitVec 8 := 0
  /-- 0x2800:27, 8 bits (17 R478); reset 0. -/
  autoLoad : BitVec 8 := 0
  /-- 0x2800:28, 8 bits (17 R478); reset 0. -/
  killed : Bool := false
  deriving DecidableEq, Repr

/-- A partition's loading state (14 R385). -/
structure LoadSt where
  /-- 0x2800:40, 64 bits (14 R385); reset 0*. -/
  offset : Word := 0
  /-- 0x2800:42, 8 bits (14 R385); reset 0. -/
  st : BitVec 8 := 0
  /-- 0x2800:43, 8 bits (14 R385); reset 0*. -/
  reason : BitVec 8 := 0
  /-- 0x2800:44, 64 bits (14 R385); reset 0*. -/
  loc : Word := 0
  /-- 0x2800:46, 32 bits (14 R385); reset 0*. -/
  usecs : BitVec 32 := 0
  /-- The running Plate; reset none. -/
  plate : Option PlateInfo := none
  /-- The load under way is in verify mode (14 R386, R388); reset 0*. -/
  verify : Bool := false
  deriving DecidableEq, Repr

/-- One partition (01 R37). Bands and shares are those in force. -/
structure Part where
  /-- Valid, first region, count (01 R37, 17 R476); reset none*. -/
  band : Option (Nat × Nat) := none
  /-- Weight 1–64 (01 R42); reset 1. -/
  weight : Nat := 1
  /-- Share base and size, GiB (17 R475); reset 0. -/
  share : Nat × Nat := (0, 0)
  /-- Pending share base and size, GiB (17 R475); reset 0. -/
  pend : Nat × Nat := (0, 0)
  tn : Tenant := {}
  load : LoadSt := {}
  commit : CommitSt := {}
  /-- RDNF, 1 bit (12 R337, R342); reset 0. -/
  rdnf : Bool := false
  /-- Host-window translation entries, 128 bits each (19 R516); reset 0. -/
  trans : SMap (BitVec 128) := []
  /-- Staged high words of entries, 64 bits each (19 R516); reset 0*. -/
  transHi : SMap Word := []
  deriving DecidableEq, Repr

/-! ### Ports (12) -/

/-- A packet (12 R323): its route header's fields, the traffic's own header and the data lines. -/
structure Packet where
  dst : Nat
  src : Nat
  dstTile : Nat := 0
  srcTile : Nat := 0
  part : Nat := 0
  kind : Nat
  dl : Bool := false
  dup : Bool := false
  origPort : Nat := 0
  origSeq : BitVec 12 := 0
  dstep : Nat := 0
  dfail : Nat := 0
  dleg : Nat := 0
  hdr : BitVec 128 := 0
  data : Bytes := []
  deriving DecidableEq, Repr

/-- A packet whose flits are in the replay buffer (12 R318). -/
structure Replay where
  cls : Nat
  pkt : Packet
  lastSeq : BitVec 12
  flits : Nat
  deriving DecidableEq, Repr

/-- A reduction command context (12 R334, R342). -/
structure RdCtx where
  /-- RD_CMD0, 64 bits (12 R334); reset 0. -/
  cmd0 : Word := 0
  /-- RD_CMD1, 64 bits (12 R334); reset 0. -/
  cmd1 : Word := 0
  /-- RD_CMD2, 64 bits (12 R334); reset 0. -/
  cmd2 : Word := 0
  /-- RD_IDXBASE, 64 bits (12 R334); reset 0. -/
  idxBase : Word := 0
  /-- BUSY of RD_STATUS, 1 bit (12 R342); reset 0. -/
  busy : Bool := false
  /-- DONE of RD_STATUS, 1 bit (12 R342); reset 0. -/
  done : Bool := false
  /-- NF of RD_STATUS, 1 bit (12 R342); reset 0. -/
  nf : Bool := false
  /-- ERR of RD_STATUS, 1 bit (12 R342); reset 0. -/
  err : Bool := false
  /-- Gate epoch recorded at RD_GO, 32 bits (12 R333); reset 0*. -/
  epoch : BitVec 32 := 0
  /-- The first segment has been sent (12 R333); reset 0*. -/
  started : Bool := false
  /-- Elements taken in the reduce-scatter phase, passed on or summed into the own chunk (12 R335); reset 0*. -/
  rsGot : Nat := 0
  /-- Elements of other chunks written in the all-gather phase (12 R335); reset 0*. -/
  agGot : Nat := 0
  /-- The all-gather phase has begun (12 R335); reset 0*. -/
  agOn : Bool := false
  deriving DecidableEq, Repr

/-- The error counters of 0x2600:1p (12 R343). -/
structure LinkCnt where
  /-- FEC corrected symbols (12 R343); reset 0*. -/
  fecCorr : Nat := 0
  /-- FEC uncorrectable codewords (12 R343); reset 0*. -/
  uncorr : Nat := 0
  /-- Flits that failed their CRC (12 R343); reset 0*. -/
  crcFail : Nat := 0
  /-- Replays (12 R343); reset 0*. -/
  replays : Nat := 0
  /-- Retrains (12 R343); reset 0*. -/
  retrains : Nat := 0
  /-- Link stalls (12 R343); reset 0*. -/
  stalls : Nat := 0
  /-- Discarded barrier packets (12 R343); reset 0*. -/
  discBar : Nat := 0
  deriving DecidableEq, Repr

/-- One device-link port (12). -/
structure PortSt where
  /-- Port state, 4 bits (12 R343); reset 0. -/
  st : Nat := 0
  /-- Lanes in use, 3 bits (12 R342); reset 0. -/
  lanes : Nat := 0
  /-- Neighbour device, 16 bits (12 R342); reset 0. -/
  nbrDev : Nat := 0
  /-- Neighbour port, 3 bits (12 R342); reset 0. -/
  nbrPort : Nat := 0
  /-- LK_TXLINES, 64 bits (12 R342); reset 0. -/
  tx : Word := 0
  /-- LK_RXLINES, 64 bits (12 R342); reset 0. -/
  rx : Word := 0
  /-- Replay buffer, oldest first (12 R318); reset empty*. -/
  replay : List Replay := []
  /-- Next SEQ to send, 12 bits (12 R315); reset 0*. -/
  nextSeq : BitVec 12 := 0
  /-- SEQ last acknowledged by the partner, 12 bits (12 R315); reset all ones*. -/
  acked : BitVec 12 := 0xFFF#12
  /-- Next SEQ expected, 12 bits (12 R317); reset 0*. -/
  expSeq : BitVec 12 := 0
  /-- A NAK is standing, 1 bit (12 R317); reset 0*. -/
  nak : Bool := false
  /-- NAKs sent while it stands (12 R317); reset 0*. -/
  naks : Nat := 0
  /-- Lines of an unfinished packet of each class (12 R324); reset empty*. -/
  partial' : SMap Bytes := []
  /-- Packets that wait for credit or the replay buffer, with their class (12 R320); reset empty*. -/
  egress : List (Nat × Packet) := []
  /-- Lines sent of each class, 10 bits each (12 R320); reset 0*. -/
  sent : SMap (BitVec 10) := []
  /-- CC values last received, 10 bits each (12 R320); reset 0*. -/
  ccIn : SMap (BitVec 10) := []
  /-- Lines freed of each class, 10 bits each (12 R320); reset 0*. -/
  freed : SMap (BitVec 10) := []
  cnt : LinkCnt := {}
  /-- Command contexts of P0–P5 (12 R333); reset 0. -/
  rd : SMap RdCtx := []
  /-- Reduction segments that have arrived and wait for the engine (12 R338); reset empty*. -/
  rdIn : List Packet := []
  /-- The port is down because its attachment tiles are out of service (01 R33); reset 0*. -/
  noTiles : Bool := false
  /-- A DATA flit has been received in order since training, 1 bit: ACKV (12 R315); reset 0*. -/
  heard : Bool := false
  /-- Lines that each partition may still send in its turn; below 0 what it sent beyond it (12 R322, log 17); reset 0*. -/
  bal : SMap Int := []
  /-- The partition whose turn it is (12 R322); reset 0*. -/
  turn : Nat := 0
  /-- The class that each partition's last packet had (12 R322); reset RD1*. -/
  rrCls : SMap Nat := []
  /-- Flits sent so far but for the idle ones that carry no news, newest first; the model's own record (12 R315, log 13). -/
  wire : List Bytes := []
  deriving DecidableEq, Repr

/-! ### Device -/

/-- The Blotter (16 R442). -/
structure Blotter where
  /-- Records stored since the last clear, 32 bits (16 R444); reset 0*. -/
  stored : BitVec 32 := 0
  /-- Pinned records (16 R442); reset empty*. -/
  pinned : List Rec := []
  /-- Ring records by index 64–1,023 (16 R442); reset empty*. -/
  ring : SMap (Option Rec) := []
  /-- Index of the newest ring record, 16 bits (16 R444); reset 0. -/
  newest : Nat := 0
  /-- Record selector, 16 bits (16 R444); reset 0*. -/
  sel : BitVec 16 := 0
  /-- Records dropped, 32 bits (16 R444); reset 0*. -/
  dropped : Nat := 0
  /-- Fault policies, 8 bits (16 R444); reset 0x3F. -/
  policy : BitVec 8 := 0x3F#8
  deriving DecidableEq, Repr

/-- Power, heat and ageing (15). -/
structure Power where
  /-- VDD_CORE setpoint, mV (15 R429); reset 750 (R429, 19 R529). -/
  setpoint : Nat := 750
  /-- 0x2100:06 (15 R429); reset 750. -/
  holdSet : Nat := 750
  /-- 0x2100:07 (15 R429); reset 1,536. -/
  cap : Nat := 1536
  /-- Planned setpoint (15 R427); reset 750*. -/
  plan : Nat := 750
  /-- The setpoint was lowered for a waiting declaration (15 R414); reset 0*. -/
  lowered : Bool := false
  /-- Setpoint before that lowering (15 R414); reset 0*. -/
  before : Nat := 0
  /-- ns until the AVSBus master may write again (15 R420); reset 0*. -/
  avsWait : Nat := 0
  /-- ns for which no region's declaration has waited (15 R414); reset 0*. -/
  calmNs : Nat := 0
  /-- 0x2200:02, quarter degrees (15 R419); reset 400. -/
  alertAt : Int := 400
  /-- Regions held, 18 bits (15 R419); reset 0*. -/
  held : BitVec 18 := 0
  /-- Hold events, 32 bits (15 R419); reset 0. -/
  holds : Nat := 0
  /-- THERM_TRIP_N has been asserted, 1 bit (15 R419); reset 0*. -/
  tripped : Bool := false
  /-- Periphery sensors N, E, S, W, quarter degrees (15 R419); reset empty*. -/
  periphery : List Int := []
  /-- 0x2300:01 (15 R429); reset 1. -/
  policy : BitVec 8 := 1
  /-- Powered hours, 32 bits (15 R429); reset 0*. -/
  hours : Nat := 0
  /-- Powered hours since the last measurement (15 R425); reset 0*. -/
  sinceMeasured : Nat := 0
  /-- Worst drift of the last measurement (15 R429); reset 0*. -/
  worst : Int := 0
  /-- Hold-rate target, ps (15 R429); reset 0. -/
  target : Nat := 0
  /-- Plan status (15 R429); reset 0. -/
  planSt : BitVec 8 := 0
  /-- Ageing log, 48 B entries, oldest first (15 R428); reset empty*. -/
  log : List Bytes := []
  /-- Hours at the last log entry (15 R428); reset 0*. -/
  logHours : Nat := 0
  /-- Row sensor drifts, 32 bits each (15 R429); reset 0*. -/
  rowDrift : SMap Int := []
  /-- A measurement was asked for through 0x2300:02 (15 R429); reset none*. -/
  asked : Bool := false
  deriving DecidableEq, Repr

/-- Beat and hop publication (02 R55). -/
structure Timing where
  /-- 0x2400:01, 32 bits (02 R55); reset 0*. -/
  tbeat : Nat := 0
  /-- 0x2400:02, 32 bits (02 R55); reset 0*. -/
  thop : Nat := 0
  /-- 0x2400:03, 32 bits (02 R55); reset 0*. -/
  tbeatPeak : Nat := 0
  /-- 0x2400:04, 32 bits (02 R55); reset 0*. -/
  thopPeak : Nat := 0
  /-- 0x2400:05, 32 bits (02 R55); reset 0*. -/
  seq : BitVec 32 := 0
  /-- Windows of settling left (02 R55); reset 0*. -/
  settle : Nat := 0
  /-- Time-stamp counter, 48 bits (17 R465); reset 0*. -/
  time : BitVec 48 := 0
  /-- Wrap epoch, 16 bits (17 R465); reset 0*. -/
  epoch : BitVec 16 := 0
  /-- REFCLK_TS locked, 1 bit (17 R465); reset 0*. -/
  locked : Bool := false
  /-- Exchange-idle time left, ns, after a boundary release of the reference partition (15 R421); reset 0*. -/
  idleLeft : Nat := 0
  /-- Regions whose trim code has moved in the exchange-idle interval under way, 18 bits (15 R426); reset 0*. -/
  trimmed : BitVec 18 := 0
  deriving DecidableEq, Repr

/-- The Bulk Store's own state (17 R474, 01 R547). -/
structure Bulk where
  /-- Sites trained, 8 bits (17 R474); reset 0*. -/
  trained : BitVec 8 := 0
  /-- Sites in use, 8 bits (17 R474); reset 0. -/
  used : BitVec 8 := 0
  /-- Usable GiB, 16 bits (17 R474, R475); reset 0. -/
  gib : Nat := 0
  /-- Corrected errors of S0–S7, 64 bits each (17 R474); reset 0*. -/
  corrected : SMap Nat := []
  /-- Uncorrectable reads, 32 bits (17 R474); reset 0*. -/
  uncorr : Nat := 0
  /-- Lines marked bad, 32 bits (17 R474); reset 0*. -/
  marked : Nat := 0
  /-- Lines the patrol scrub marked bad, by line number (16 R430); reset empty*. -/
  badLines : List Nat := []
  /-- Hours since the last complete patrol pass, 32 bits (17 R474); reset 0*. -/
  patrolHours : Nat := 0
  /-- Lines that the patrol pass has read (16 R430); reset 0*. -/
  patrolAt : Nat := 0
  /-- Granules scrubbed, as rising disjoint ranges of granule numbers (17 R481); reset none: all unscrubbed (R480). -/
  scrubbed : List (Nat × Nat) := []
  /-- Line numbers, as disjoint ranges, of which the stored bits are under another key pair than their range's, with that
  pair (17 R477, R479, log 29); reset none. -/
  rekeyed : List (Nat × Nat × BitVec 512) := []
  /-- Open row of each bank, by site number x 16 + bank (01 R547); reset none*. -/
  openRows : SMap (Option Nat) := []
  deriving DecidableEq, Repr

/-- Link entries of 0x2600 (12 R343). -/
structure LinkCfg where
  /-- 0x2600:01, 16 bits (12 R343); reset 0. -/
  sizes : BitVec 16 := 0
  /-- 0x2600:03, 16 bits (12 R343); reset 0*. -/
  self : Nat := 0
  /-- 0x2600:04, 16 bits (12 R343); reset 0*. -/
  root : Nat := 0
  /-- 0x2600:05, 8 bits (12 R343); reset 0*. -/
  lowLat : BitVec 8 := 0
  /-- 0x2600:07, 64 bits (12 R343); reset 0*. -/
  detours : BitVec 64 := 0
  /-- 0x2600:08, 8 bits (12 R343); reset 0*. -/
  enabled : BitVec 8 := 0
  /-- 0x2600:01 has been written, 1 bit (12 R343); reset 0*. -/
  sizesSet : Bool := false
  /-- 0x2600:03 has been written, 1 bit (12 R343); reset 0*. -/
  selfSet : Bool := false
  /-- SYS packets the link switch holds (12 R331), with their egress port; reset empty*. -/
  sysHeld : List (Nat × Packet) := []
  deriving DecidableEq, Repr

/-- Firmware and security (17 R473). -/
structure Security where
  /-- OTP counter (17 R473); reset 0*. -/
  otp : Nat := 0
  /-- Running SVN (17 R473); reset 0*. -/
  svn : Nat := 0
  /-- Steward firmware version, 32 bits (17 R465); reset 0*. -/
  version : Nat := 0
  /-- Running slot: true for B (17 R473); reset 0*. -/
  slotB : Bool := false
  /-- Bytes written to slot A since it was shipped (17 R470); reset empty*. -/
  imageA : SMap (Option Byte) := []
  /-- Bytes written to slot B since it was shipped (17 R470); reset empty*. -/
  imageB : SMap (Option Byte) := []
  /-- What the Steward found of slots A and B as shipped: state, SVN and version (17 R470, R471); reset empty*. -/
  shipped : List (Fin 3 × Fin 65 × BitVec 32) := []
  /-- Bytes of 0x2D00:0A written in part so far, 768 bits (17 R461, R473); reset 0*. -/
  response : BitVec 768 := 0
  /-- VERIFY result, 8 bits (17 R473); reset 0. -/
  verify : BitVec 8 := 0
  /-- Current challenge, 384 bits (17 R473); reset 0*. -/
  challenge : BitVec 384 := 0
  /-- Scope of the challenge still to be answered, with the time it was made (17 R483); reset none. -/
  asked : Option (BitVec 8 × Nat) := none
  /-- Failed responses since the last success (17 R483); reset 0. -/
  fails : Nat := 0
  /-- Time of the third failed response, ns (17 R483); reset 0*. -/
  failAt : Nat := 0
  /-- Unlock state, 8 bits (17 R473); reset 0 (R484). -/
  unlock : BitVec 8 := 0
  /-- Nonces drawn so far; the model's own count (17 R483). -/
  nonces : Nat := 0
  /-- Verified digests, oldest first (14 R389); reset empty. -/
  digests : List (BitVec 384) := []
  deriving DecidableEq, Repr

/-- Debug, trace and EVENT entries (18 R506) with the device debug block (18 R495). -/
structure Trace where
  /-- 0x2B00:01 (18 R506); reset 0. -/
  on : BitVec 8 := 0
  /-- 0x2B00:02 (18 R506); reset 0*. -/
  part : Nat := 0
  /-- 0x2B00:03 (18 R506); reset 0*. -/
  base : Word := 0
  /-- 0x2B00:04 (18 R506); reset 0*. -/
  size : Word := 0
  /-- 0x2B00:06 (18 R506); reset 0. -/
  mode : BitVec 8 := 0
  /-- 0x2B00:07 (18 R506); reset 0. -/
  evIn : BitVec 8 := 0
  /-- 0x2B00:08 (18 R506); reset 0. -/
  evOut : BitVec 8 := 0
  /-- 0x2B00:0A (18 R506); reset 0. -/
  st : Nat := 0
  /-- 0x2B00:0B (18 R506); reset 0*. -/
  written : Nat := 0
  /-- 0x2B00:0C (18 R506); reset 0*. -/
  after : BitVec 32 := 0
  /-- Records left to write after a trigger in freeze mode (18 R500); reset none*. -/
  left : Option Nat := none
  /-- 0x2B00:0D (18 R506); reset 0*. -/
  dropped : Nat := 0
  /-- 0x2B00:0E (18 R506); reset 0x0FFE. -/
  kinds : BitVec 16 := 0x0FFE#16
  /-- 0x2B00:0F (18 R506); reset 0x11FF_0000. -/
  tiles : BitVec 32 := 0x11FF0000#32
  /-- 0x2B00:10 (18 R506); reset 0*. -/
  sample : BitVec 8 := 0
  /-- 0x2B00:11 (18 R506); reset 0*. -/
  markers : BitVec 16 := 0
  /-- 0x2B00:12 (18 R506); reset 0*. -/
  sel : BitVec 16 := 0
  /-- 0x2B00:14 (18 R506); reset 0*. -/
  notPulsed : Nat := 0
  /-- Time of the last pulse's start (18 R505); reset none*. -/
  pulseAt : Option Nat := none
  /-- DBG_ATTACH, 6 bits (18 R495); reset 0. -/
  attach : BitVec 6 := 0
  /-- DBGW_ADDR of the functions' windows, 64 bits each (18 R488); reset 0*. -/
  dbgwAddr : SMap Word := []
  /-- Read data of the last access on each path: 0 JTAG, 1 + fn a window (18 R488); reset 0*. -/
  dbgData : SMap Word := []
  /-- ERR of the last access on each path (18 R488); reset 0*. -/
  dbgErr : SMap Bool := []
  deriving DecidableEq, Repr

/-- Time alignment (18 R504). -/
structure Align where
  /-- 0x2C10:02 (18 R504); reset 0. -/
  st : BitVec 8 := 0
  /-- 0x2C10:03 (18 R504); reset 0*. -/
  offset : Int := 0
  /-- 0x2C10:04 (18 R504); reset 0. -/
  rate : Int := 0
  /-- 0x2C10:05 (18 R504); reset 0*. -/
  unc : Nat := 0
  /-- 0x2C10:06 (18 R504); reset none*. -/
  at' : Option Word := none
  /-- 0x2C10:10–17 (18 R504); reset 0*. -/
  nbr : SMap Int := []
  /-- The probe pairs of the measurement under way (18 R503); reset none. -/
  run : Option Probes := none
  deriving DecidableEq, Repr

/-- An answer to a dictionary request, with OP as the answer carries it, or a NOTIFY frame (17 R458). -/
structure IdpAns where
  path : Path
  op : BitVec 8
  txn : BitVec 16
  index : BitVec 16
  sub : BitVec 8
  /-- COUNT and OFFSET of a block operation, else 0 (17 R457). -/
  count : BitVec 8 := 0
  offset : BitVec 32 := 0
  status : BitVec 8
  data : Bytes
  deriving DecidableEq, Repr

/-- A request that was answered PENDING (17 R460). -/
structure IdpPend where
  path : Path
  op : BitVec 8
  txn : BitVec 16
  index : BitVec 16
  sub : BitVec 8
  offset : BitVec 32 := 0
  /-- The final status: 0xFF while the operation still runs. -/
  final : BitVec 8
  /-- The answer is to be discarded: its function was reset (19 R521). -/
  drop : Bool := false
  deriving DecidableEq, Repr

/-- A subscription (17 R462). -/
structure Sub where
  src : BitVec 48
  txn : BitVec 16
  index : BitVec 16
  sub : BitVec 8
  /-- Least interval, ms. -/
  ms : Nat
  /-- Time of the last NOTIFY, in ns. -/
  last : Nat
  /-- Value last sent. -/
  value : Bytes
  deriving DecidableEq, Repr

/-- A snapshot of a BLOCK_READ (17 R461). -/
structure Snap where
  path : Path
  txn : BitVec 16
  index : BitVec 16
  sub : BitVec 8
  at' : Nat
  data : Bytes
  deriving DecidableEq, Repr

/-- The management port and IDP (17 R455–R466). -/
structure Mgmt where
  /-- 0x1100:01, 5 bits, as strapped (17 R466); reset 0*. -/
  nodeId : BitVec 5 := 0
  /-- 0x1100:02 (17 R466); reset 32. -/
  toTimer : BitVec 8 := 32
  /-- 0x1100:03 (17 R466); reset 0. -/
  burst : BitVec 8 := 0
  /-- 0x1100:04 (17 R466); reset 128. -/
  burstTimer : BitVec 8 := 128
  /-- 0x1100:05 (17 R466); reset 0x88B5. -/
  etherType : BitVec 16 := 0x88B5#16
  /-- New values of :02–:05 that wait for their answer to leave (17 R466); reset empty*. -/
  staged : List (BitVec 8 × BitVec 16) := []
  /-- 0x1100:06 (17 R466); reset 0*. -/
  plcaOk : Bool := false
  /-- 0x1100:07 frames accepted, 32 bits (17 R466); reset 0*. -/
  accepted : Nat := 0
  /-- 0x1100:07 frames sent, 32 bits (17 R466); reset 0*. -/
  sent : Nat := 0
  /-- 0x1100:07 frames ignored, 32 bits (17 R466); reset 0*. -/
  ignored : Nat := 0
  /-- 0x1100:07 BUSY answers, 32 bits (17 R466); reset 0*. -/
  busy : Nat := 0
  /-- Answers and NOTIFY frames that wait for a transmit opportunity (17 R460); reset empty*. -/
  queue : List IdpAns := []
  /-- Requests answered PENDING whose final answer is to come (17 R460); reset empty*. -/
  pend : List IdpPend := []
  /-- Answers of the last second with their time, for repeats (17 R460); reset empty*. -/
  answered : List (Nat × IdpAns) := []
  /-- Snapshots (17 R461); reset empty*. -/
  snaps : List Snap := []
  /-- Subscriptions, up to 32 (17 R462); reset empty. -/
  subs : List Sub := []
  deriving DecidableEq, Repr

/-- A PCIe function (19 R512). -/
structure Fn where
  /-- DB_STATUS status, 8 bits (19 R512); reset 0xFF. -/
  dbStatus : BitVec 8 := 0xFF#8
  /-- DB_STATUS partition, 3 bits (19 R512); reset 0. -/
  dbPart : BitVec 3 := 0
  /-- MB_STATE, 2 bits (19 R512); reset 0. -/
  mbState : BitVec 2 := 0
  /-- Answer in MB_RSP with its length (19 R512); reset empty*. -/
  mbRsp : Bytes := []
  /-- MB_REQ, 2 KiB (19 R511); reset 0*. -/
  mbReq : SMap Byte := []
  /-- INT_CAUSE, 8 bits (19 R512); reset 0. -/
  cause : BitVec 8 := 0
  /-- INT_MASK, 8 bits (19 R512); reset 0. -/
  mask : BitVec 8 := 0
  /-- MSI-X table, 8 entries of 128 bits (19 R511); reset masked and otherwise 0* (PRESUMED, the PCIe specification). -/
  msix : SMap (BitVec 128) := []
  /-- Pending-bit array, 8 bits (19 R511); reset 0*. -/
  pba : BitVec 8 := 0
  /-- In D3hot, 1 bit (19 R524); reset 0*. -/
  d3 : Bool := false
  /-- SPDM: version, capabilities and algorithms agreed so far, 0–3, and 4 with the measurement specification agreed too (17
  R485); reset 0*. -/
  spdm : Nat := 0
  /-- DOE mailbox: the response object that waits to be read (19 R523); reset empty*. -/
  doe : Bytes := []
  /-- DOE Error, 1 bit: an object was larger than the mailbox takes (19 R523); reset 0*. -/
  doeErr : Bool := false
  /-- SPDM: the transcript of version, capabilities and algorithms (17 R485); reset empty*. -/
  talkA : Bytes := []
  /-- SPDM: the transcript of digests and certificates since the last challenge (17 R485); reset empty*. -/
  talkB : Bytes := []
  /-- SPDM: the transcript of measurements not yet signed (17 R485); reset empty*. -/
  talkM : Bytes := []
  deriving DecidableEq, Repr

/-- The header of a host request, as AER logs it (19 R510, R517): the function, whether it is a posted write, the BAR (0 or 2),
the offset in it and the length in bytes. -/
structure HostHdr where
  fn : Nat
  write : Bool
  bar : Nat
  off : Nat
  len : Nat
  deriving DecidableEq, Repr

/-- The PCIe side (19). -/
structure Pcie where
  /-- VF Enable, 1 bit (19 R509); reset 0*. -/
  vfEnable : Bool := false
  /-- The link is up, 1 bit (19 R522); reset 0*. -/
  linkUp : Bool := false
  /-- PF and VF1–VF6 (19 R509); reset as `Fn`. -/
  fns : SMap Fn := []
  /-- Headers of the advisory errors reported through AER, newest first (19 R517); reset empty*. -/
  aer : List HostHdr := []
  /-- Generation of the link's rate, 1 to 6, 3 bits; 0 while the link is down (19 R507); reset 0*. -/
  rate : Nat := 0
  /-- Lanes of the link, 1 to 16, 5 bits; 0 while the link is down (19 R507); reset 0*. -/
  width : Nat := 0
  /-- Max_Payload_Size, 3 bits coded as PCIe codes it: 0 is 128 B, 2 is 512 B (19 R507); reset 0 (PRESUMED, the PCIe
  specification). -/
  payload : Nat := 0
  deriving DecidableEq, Repr

/-- The staged partition table of 0x2800:01–:04 (17 R476). -/
structure Staged where
  /-- 0x2800:01, 96 bits (17 R476); reset 0*. -/
  bands : BitVec 96 := 0
  /-- 0x2800:02, 48 bits (17 R476); reset 1 per byte. -/
  weights : BitVec 48 := 0x010101010101#48
  /-- 0x2800:03, 384 bits (17 R476); reset 0*. -/
  shares : BitVec 384 := 0
  /-- 0x2800:04, 7872 bits (17 R476); reset 0*. -/
  objs : BitVec 7872 := 0
  /-- 0x2800:06 (17 R476); reset 0. -/
  result : BitVec 8 := 0
  /-- A partition table is in force (01 R38); reset 0*. -/
  inForce : Bool := false
  deriving DecidableEq, Repr

/-- Start-up, pins and service (17 R468, R469; 16 R450; 19 R526). -/
structure Boot where
  /-- Device state, 8 bits (17 R468); reset 1 (ROM_MGMT)*. -/
  st : BitVec 8 := 1
  /-- Cause of the last start, 8 bits (17 R469); reset 0*. -/
  cause : BitVec 8 := 0
  /-- Step times, 8 of 32 bits (17 R469); reset all ones each. -/
  times : List (BitVec 32) := List.replicate 8 0xFFFFFFFF#32
  /-- BOOT_SEL as sampled, 2 bits (17 R469); reset 0*. -/
  bootSel : BitVec 2 := 0
  /-- PWRON_RST_N, 1 bit (19 R526); reset 0. -/
  pwronN : Bool := false
  /-- PERST_N, 1 bit (19 R526); reset 0*. -/
  perstN : Bool := false
  /-- ALERT_N asserted, 1 bit (15 R419); reset 0*. -/
  alert : Bool := false
  /-- THERM_TRIP_N asserted, 1 bit (15 R418); reset 0*. -/
  trip : Bool := false
  /-- The always-on island has been powered since its last loss, 1 bit (17 R469); reset 0*. -/
  aonKept : Bool := false
  /-- Regions in service, 18 bits (01 R22); reset 0*. -/
  regions : BitVec 18 := 0
  /-- Positions, as row and position, that failed the march test at the last BIST (16 R447); reset empty*. -/
  marchFailed : List (Nat × Nat) := []
  /-- Positions that failed the logic test at the last BIST (16 R447); reset empty*. -/
  logicFailed : List (Nat × Nat) := []
  /-- Positions whose mesh stage failed at the last BIST (16 R447); reset empty*. -/
  meshFailed : List (Nat × Nat) := []
  /-- Repair map, 144 B (01 R22); reset empty*. -/
  repair : Bytes := []
  /-- Mesh cut, 1 bit (01 R26); reset 0*. -/
  meshCut : Bool := false
  /-- Sync Hub failed, 1 bit (16 R450); reset 0*. -/
  hubFailed : Bool := false
  /-- PCIe failed, 1 bit (16 R450); reset 0*. -/
  pcieFailed : Bool := false
  /-- Suspect positions, as row and position, up to 64 (16 R448); reset empty*. -/
  suspects : List (Nat × Nat) := []
  /-- Service level, 8 bits (16 R450); reset 0*. -/
  level : Nat := 0
  /-- Reason bits, 32 bits (16 R450); reset 0*. -/
  reasons : BitVec 32 := 0
  deriving DecidableEq, Repr

/-- What leaves the device, kept so that claims can speak of it (log 13). Not state of the device. -/
structure Out where
  /-- Frames sent at the last transmit opportunity. -/
  t1s : List IdpAns := []
  /-- Completions of the last host request: a status (true success) and data. -/
  host : Option (Bool × Bytes) := none
  /-- EVENT pulses driven so far. -/
  pulses : Nat := 0
  /-- Posted writes sent to the host so far, newest first. -/
  posted : List Posted := []
  /-- MSI-X vectors signalled so far, newest first: function and vector. -/
  msi : List (Nat × Nat) := []
  /-- AVSBus writes sent so far, newest first, mV. -/
  avs : List Nat := []
  deriving DecidableEq, Repr

/-- Device-wide state. -/
structure Dev where
  boot : Boot := {}
  power : Power := {}
  tm : Timing := {}
  bulk : Bulk := {}
  link : LinkCfg := {}
  blot : Blotter := {}
  sec : Security := {}
  trace : Trace := {}
  align : Align := {}
  mgmt : Mgmt := {}
  pcie : Pcie := {}
  staged : Staged := {}
  /-- Enlarger root (10 R284, R287); reset empty. -/
  root : EnlBranch := {}
  deriving DecidableEq, Repr

/-- The state of the block. -/
structure State where
  /-- The commands that wait, first in first out; the block's queue. -/
  pending : List Instr := []
  /-- Tiles 0–4607 (03). -/
  tiles : SMap Tile := []
  /-- Bytes of tile SRAM and of the Bulk Store by local offset, in canonical form (08 R205); reset 0* (log 4). -/
  mem : List Host.Cell := []
  /-- 8 B codewords that hold a two-bit error, by local offset, rising (03 R106, 16 R446); reset none. -/
  bad : List Nat := []
  hub : Hub := {}
  net : Net := {}
  /-- Regions 0–17 (01 R23). -/
  regions : SMap Reg := []
  /-- P0–P5 (01 R37). -/
  parts : SMap Part := []
  /-- L0–L7 (12). -/
  ports : SMap PortSt := []
  dev : Dev := {}
  out : Out := {}
  /-- Free values drawn so far; the model's own counter (log 5). -/
  free : Nat := 0
  deriving DecidableEq, Repr

/-- Why a run stops with a fault. The device's own faults are records and next states, never this (log 1). -/
inductive Fault where
  /-- The rails or the reset sequence are in a state that 19 R531 puts outside the manual. No command of this model
  raises it: it is kept for a claim to rule out. Safe: a stop. -/
  | outsideManual
  deriving DecidableEq, Repr

/-- Why a command has no meaning. -/
inductive Refusal where
  /-- Raised by an arm of `exec` whose command has no meaning yet. Safe: a stop. -/
  | notModelled (mnemonic : String)
  deriving DecidableEq, Repr

/-- The device with PWRON_RST_N held low and VDD_AON just applied: every register at the Reset column of its table,
nothing in flight, memory with nothing listed (00 R12, log 6). -/
def State.reset : State := {}

end Sys2Proof.Machine
end

