-- ==== Sys2Proof/Machine/Geometry.lean ====
section
/-!
DEFINITION. Where things are: tiles, rows, regions, partitions, port attachment (01), the address map (08 R204–R207)
and the parts of the state by their numbers.
-/
namespace Sys2Proof.Machine

/-! ### Parts of the state -/

def State.tile (s : State) (t : Nat) : Tile := Map.get {} s.tiles t
def State.onTile (s : State) (t : Nat) (f : Tile → Tile) : State := { s with tiles := Map.mod {} s.tiles t f }
def State.region (s : State) (r : Nat) : Reg := Map.get {} s.regions r
def State.onRegion (s : State) (r : Nat) (f : Reg → Reg) : State := { s with regions := Map.mod {} s.regions r f }
def State.part (s : State) (n : Nat) : Part := Map.get {} s.parts n
def State.onPart (s : State) (n : Nat) (f : Part → Part) : State := { s with parts := Map.mod {} s.parts n f }
def State.port (s : State) (p : Nat) : PortSt := Map.get {} s.ports p
def State.onPort (s : State) (p : Nat) (f : PortSt → PortSt) : State := { s with ports := Map.mod {} s.ports p f }
def State.fn (s : State) (f : Nat) : Fn := Map.get {} s.dev.pcie.fns f
def State.onNet (s : State) (f : Net → Net) : State := { s with net := f s.net }
def State.onHub (s : State) (f : Hub → Hub) : State := { s with hub := f s.hub }
def State.onDev (s : State) (f : Dev → Dev) : State := { s with dev := f s.dev }
def State.onOut (s : State) (f : Out → Out) : State := { s with out := f s.out }
def State.onPcie (s : State) (f : Pcie → Pcie) : State := s.onDev (fun d => { d with pcie := f d.pcie })
def State.onFn (s : State) (k : Nat) (f : Fn → Fn) : State :=
  s.onPcie (fun p => { p with fns := Map.mod {} p.fns k f })
def State.onBoot (s : State) (f : Boot → Boot) : State := s.onDev (fun d => { d with boot := f d.boot })
def State.onPower (s : State) (f : Power → Power) : State := s.onDev (fun d => { d with power := f d.power })
def State.onTime (s : State) (f : Timing → Timing) : State := s.onDev (fun d => { d with tm := f d.tm })
def State.onBulk (s : State) (f : Bulk → Bulk) : State := s.onDev (fun d => { d with bulk := f d.bulk })
def State.onBlot (s : State) (f : Blotter → Blotter) : State := s.onDev (fun d => { d with blot := f d.blot })
def State.onSec (s : State) (f : Security → Security) : State := s.onDev (fun d => { d with sec := f d.sec })
def State.onTrace (s : State) (f : Trace → Trace) : State := s.onDev (fun d => { d with trace := f d.trace })
def State.onMgmt (s : State) (f : Mgmt → Mgmt) : State := s.onDev (fun d => { d with mgmt := f d.mgmt })
def State.onStaged (s : State) (f : Staged → Staged) : State := s.onDev (fun d => { d with staged := f d.staged })
def State.onLink (s : State) (f : LinkCfg → LinkCfg) : State := s.onDev (fun d => { d with link := f d.link })
def State.onRc (s : State) (r : Nat) (f : RcSlice → RcSlice) : State := s.onRegion r (fun g => { g with rc := f g.rc })

def Tile.cx (x : Tile) (c : Nat) : Ctx := Map.get {} x.ctx c
def Tile.onCx (x : Tile) (c : Nat) (f : Ctx → Ctx) : Tile := { x with ctx := Map.mod {} x.ctx c f }
def Tile.unit (x : Tile) (u : Nat) : UnitSt := Map.get {} x.un.units u
/-- The operations that a unit has accepted and not completed, the older first (05 R153). -/
def UnitSt.ops (u : UnitSt) : List RunOp := u.tail.toList ++ u.running.toList
/-- The operation that completes next. -/
def UnitSt.oldest (u : UnitSt) : Option RunOp := match u.tail with | some op => some op | none => u.running
/-- Take out the operation that completes next. -/
def UnitSt.drop (u : UnitSt) : UnitSt := match u.tail with | some _ => { u with tail := none } | none => { u with running := none }
/-- Change every operation that a unit has accepted. -/
def UnitSt.mapOps (u : UnitSt) (f : RunOp → RunOp) : UnitSt := { u with running := u.running.map f, tail := u.tail.map f }
def Tile.onUn (x : Tile) (f : Units → Units) : Tile := { x with un := f x.un }
def Tile.onUnit (x : Tile) (u : Nat) (f : UnitSt → UnitSt) : Tile :=
  x.onUn (fun n => { n with units := Map.mod {} n.units u f })
def State.cx (s : State) (t c : Nat) : Ctx := (s.tile t).cx c
def State.onCx (s : State) (t c : Nat) (f : Ctx → Ctx) : State := s.onTile t (fun x => x.onCx c f)
def State.onUnit (s : State) (t u : Nat) (f : UnitSt → UnitSt) : State := s.onTile t (fun x => x.onUnit u f)
def State.onMail (s : State) (t : Nat) (f : Mail → Mail) : State := s.onTile t (fun x => { x with mail := f x.mail })

def Hub.sem (h : Hub) (n : Nat) : SemSt := Map.get {} h.sems n
def Hub.bar (h : Hub) (n : Nat) : BarSt := Map.get {} h.bars n
def State.onSem (s : State) (n : Nat) (f : SemSt → SemSt) : State :=
  s.onHub (fun h => { h with sems := Map.mod {} h.sems n f })
def State.onBar (s : State) (n : Nat) (f : BarSt → BarSt) : State :=
  s.onHub (fun h => { h with bars := Map.mod {} h.bars n f })

/-- General register `i` of a context; g0 reads 0 (03 R62). -/
def Ctx.reg (x : Ctx) (i : Nat) : Word := if i = 0 then 0 else Map.get 0 x.regs i

/-- Write a general register; a write to g0 is discarded (03 R62). -/
def Ctx.setReg (x : Ctx) (i : Nat) (v : Word) : Ctx := if i = 0 then x else { x with regs := Map.set 0 x.regs i v }

/-- Tensor-descriptor register `i` of a context (03 R62). -/
def Ctx.desc (x : Ctx) (i : Nat) : BitVec 256 := Map.get 0 x.descs i

/-- Write a tensor-descriptor register. -/
def Ctx.setDesc (x : Ctx) (i : Nat) (v : BitVec 256) : Ctx := { x with descs := Map.set 0 x.descs i v }

/-! ### Places (01, 02) -/

def numTiles : Nat := 4608
def tileX (t : Nat) : Nat := t % 64
def tileY (t : Nat) : Nat := t / 64
/-- The region of a tile (01 R23). -/
def regionOf (t : Nat) : Nat := t / 256
def absDiff (a b : Nat) : Nat := if a ≤ b then b - a else a - b
/-- The Manhattan distance d (02). -/
def dist (a b : Nat) : Nat := absDiff (tileX a) (tileX b) + absDiff (tileY a) (tileY b)
/-- Hops from column x to the spine crossing (02). -/
def hopsH (x : Nat) : Nat := if x ≤ 31 then 32 - x else x - 31
/-- Spine hops from row y to the Sync Hub (02). -/
def hopsS (y : Nat) : Nat := if y ≤ 35 then 35 - y else y - 36

/-- Attachment tiles of port Lp (01 R29). -/
def attachTiles (p : Nat) : List Nat :=
  match p with
  | 0 => [319, 1471, 2623, 3775]
  | 1 => [256, 1408, 2560, 3712]
  | 2 => [4548, 4564, 4580, 4596]
  | 3 => [4, 20, 36, 52]
  | 4 => [4556, 4572, 4588, 4604]
  | 5 => [12, 28, 44, 60]
  | 6 => [895, 2047, 3199, 4351]
  | 7 => [832, 1984, 3136, 4288]
  | _ => []

/-- The attachment tile between port `p` and tile `t`: the nearest in a region in service, the lower id on a tie
(01 R31). -/
def attachFor (s : State) (p t : Nat) : Option Nat :=
  ((attachTiles p).filter (fun a => (s.region (regionOf a)).inService)).foldl
    (fun best a => match best with
      | none => some a
      | some b => if dist a t < dist b t then some a else some b) none

/-! ### Partitions (01 R37–R41) -/

/-- Whether region `r` belongs to partition `n`. -/
def inBand (s : State) (n r : Nat) : Bool :=
  match (s.part n).band with
  | some (r0, k) => decide (r0 ≤ r) && decide (r < r0 + k)
  | none => false

/-- The partition of a region; 7 for none. -/
def partOfRegion (s : State) (r : Nat) : Nat := ((List.range 6).find? (fun n => inBand s n r)).getD 7

/-- The partition of a tile; 7 for none. -/
def partOf (s : State) (t : Nat) : Nat := partOfRegion s (regionOf t)

/-- The regions of partition `n`. -/
def bandOf (s : State) (n : Nat) : List Nat :=
  match (s.part n).band with
  | some (r0, k) => (List.range k).map (r0 + ·)
  | none => []

/-- The lowest region of partition `n`; its Nib core is the lead (14 R386). -/
def leadRegion (s : State) (n : Nat) : Nat := ((s.part n).band.getD (0, 0)).1

/-- The tiles of a region. -/
def tilesOf (r : Nat) : List Nat := (List.range 256).map (256 * r + ·)

/-- The tiles of partition `n`. -/
def partTiles (s : State) (n : Nat) : List Nat := (bandOf s n).flatMap tilesOf

/-! ### Addresses (08 R204, R205, R207) -/

def tileBase (t : Nat) : Nat := t * 0x100000
def bulkBase : Nat := 0x4000000000
def hostBase : Nat := 0x100000000000
def devBase : Nat := 0x200000000
def regBase : Nat := 0x180000000
def gib : Nat := 0x40000000

/-- What a local offset names. -/
inductive Place where
  /-- Offset `o` of tile `t`'s SRAM. -/
  | sram (t o : Nat)
  /-- Offset `o` of tile `t`'s register block. -/
  | block (t o : Nat)
  /-- Offset `o` of the device registers. -/
  | devreg (o : Nat)
  /-- A Bulk Store address. -/
  | bulk
  /-- Offset `o` of the host window. -/
  | host (o : Nat)
  /-- Outside every mapped range. -/
  | none
  deriving DecidableEq, Repr

/-- Decode a local offset with `g` usable GiB of Bulk Store. -/
def placeOf (g a : Nat) : Place :=
  if a < 0x120000000 then .sram (a / 0x100000) (a % 0x100000)
  else if regBase ≤ a ∧ a < regBase + 0x1200000 then .block ((a - regBase) / 0x1000) ((a - regBase) % 0x1000)
  else if devBase ≤ a ∧ a < devBase + 0x10000000 then .devreg (a - devBase)
  else if bulkBase ≤ a ∧ a < bulkBase + g * gib then .bulk
  else if hostBase ≤ a ∧ a < hostBase + 0x100000000000 then .host (a - hostBase)
  else .none

/-- Decode a local offset on this device. -/
def State.place (s : State) (a : Nat) : Place := placeOf s.dev.bulk.gib a

/-- Sizes of the four dimensions (12 R309, R343). -/
def dims (s : State) : List Nat := (List.range 4).map (fun k => fld s.dev.link.sizes.toNat (4 * k) 4 + 1)

/-- The system size (12 R309). -/
def systemSize (s : State) : Nat := (dims s).foldl (· * ·) 1

/-- Where a global address leads (08 R204): a local offset, an offset on another device, or nowhere. -/
inductive Route where
  | here (a : Nat)
  | far (dev a : Nat)
  | bounds
  deriving DecidableEq, Repr

/-- Decode a global address (08 R204, R86). -/
def routeOf (s : State) (w : Word) : Route :=
  let n := w.toNat
  let a := fld n 0 47
  let dev := fld n 47 16
  if nbit n 63 then
    if dev = s.dev.link.self then .here a
    else if systemSize s ≤ dev then .bounds
    else .far dev a
  else if dev = 0 then .here a else .bounds

/-- The partition whose share, or pending share, holds a Bulk Store address; 7 for none (08 R211). -/
def shareOwner (s : State) (a : Nat) : Nat :=
  let g := (a - bulkBase) / gib
  let inside := fun (r : Nat × Nat) => decide (r.1 ≤ g) && decide (g < r.1 + r.2)
  ((List.range 6).find? (fun n => inside (s.part n).share || inside (s.part n).pend)).getD 7

/-- Whether an address lies in partition `n`'s share. -/
def inShare (s : State) (n a : Nat) : Bool :=
  let g := (a - bulkBase) / gib
  decide (bulkBase ≤ a) && decide ((s.part n).share.1 ≤ g) && decide (g < (s.part n).share.1 + (s.part n).share.2)

/-- Share base of partition `n` as an address. -/
def shareBase (s : State) (n : Nat) : Nat := bulkBase + (s.part n).share.1 * gib

/-- The home of a line for partition `n`: slice, set and tag (08 R211). -/
def homeOf (s : State) (n a : Nat) : Nat × Nat × Nat :=
  let l := a / 128
  match (s.part n).band with
  | some (r0, k) => (r0 + l % k, l / k % 512, l / k / 512)
  | none => (0, 0, 0)

/-- The Bulk Store site of an address, counted over the sites in use, with its bank and row (01 R35, R36, R547). -/
def siteOf (s : State) (a : Nat) : Nat × Nat × Nat :=
  let o := a - bulkBase
  if popCount s.dev.bulk.used.toNat 8 = 8 then
    let u := o / 2 ^ 11 * 256 + o % 256
    (o / 256 % 8, u / 2 ^ 11 % 16, u / 2 ^ 15)
  else
    let u := o / 2 ^ 10 * 256 + o % 256
    (o / 256 % 4, u / 2 ^ 11 % 16, u / 2 ^ 15)

/-- The number Ss of the `i`-th site in use. -/
def siteNumber (s : State) (i : Nat) : Nat :=
  (((List.range 8).filter (fun k => nbit s.dev.bulk.used.toNat k))[i]?).getD 0

/-- The Plate's handler context of a tile (11 R295). -/
def Mail.handler (m : Mail) : Option Nat := m.record.map (fun r => fld r.toNat 0 2)

end Sys2Proof.Machine
end

