-- ==== Sys2Proof/Machine/Ops.lean ====
section
/-!
DEFINITION. The shared operations: memory with its check bits, free values, fault records, the flags of a tile and
what they wake, a tile's fault (03 R105) and a region's stop (14 R376).
-/
namespace Sys2Proof.Machine

/-- What a command answers. -/
abbrev Res := Host.Outcome State Fault Refusal

/-- A step of a self-timed stage: none is taken after a thermal trip (15 R418). -/
def selfTimed (s act : State) : State := if s.dev.boot.trip then s else act

/-! ### Free values (00 R17, log 5) -/

/-- Draw one free value of `w` bits. -/
def drawFree (w : Nat) (s : State) : BitVec w × State := (Config.freeValue w s.free, { s with free := s.free + 1 })

/-- Draw `n` free bytes. -/
def drawBytes (n : Nat) (s : State) : Bytes × State :=
  ((List.range n).map (fun i => Config.freeValue 8 (s.free + i)), { s with free := s.free + n })

/-! ### Memory (00 R11, 03 R82, R83, 16 R446) -/

/-- The `n` bytes at local offset `a` of tile SRAM or of the Bulk Store itself. -/
def State.bytes (s : State) (a n : Nat) : Bytes := Map.range 0#8 s.mem a n

/-- The codewords of `bad` outside those that lie whole within the `n` bytes at `a`. -/
def badAfter (bad : List Nat) (a n : Nat) : List Nat := bad.filter (fun k => !(decide (a ≤ k) && decide (k + 8 ≤ a + n)))

/-- Write bytes; a codeword written whole has good check bits again (16 R446). -/
def State.poke (s : State) (a : Nat) (bs : Bytes) : State :=
  { s with mem := Map.fill 0#8 s.mem a bs, bad := badAfter s.bad a bs.length }

/-- The lowest codeword with a two-bit error that meets the `n` bytes at `a`. -/
def State.badIn (s : State) (a n : Nat) : Option Nat := s.bad.find? (fun k => decide (k < a + n) && decide (a < k + 8))

/-- Give the codeword that holds `a` a two-bit error (16 R430). -/
def markBad (a : Nat) (s : State) : State :=
  { s with bad := insertBy id (a / 8 * 8) (s.bad.filter (fun k => k ≠ a / 8 * 8)) }

/-- The codeword whose check a store of `n` bytes at `a` must read: only a store narrower than 8 B, or not aligned to
8 B, reads one (03 R83). -/
def mergeBad (s : State) (a n : Nat) : Option Nat := if n < 8 ∨ a % 8 ≠ 0 then s.badIn a n else none

/-- Memory of tile `t` with every byte zero, good check bits and every full/empty bit empty (03 R85, R91). -/
def clearSram (t : Nat) (s : State) : State :=
  { s with mem := Map.erase (fun a => a / 0x100000 = t) s.mem, bad := s.bad.filter (fun a => a / 0x100000 ≠ t) }

/-! ### Event counters (18 R496) -/

/-- The codes that R496 defines. -/
def eventDefined (code : Nat) : Bool :=
  decide (code ≤ 0x0E) || [0x10, 0x11, 0x12, 0x13, 0x14, 0x15, 0x16, 0x18, 0x19, 0x1A, 0x20, 0x21, 0x22, 0x24, 0x25, 0x26,
    0x27, 0x28, 0x29, 0x2A, 0x2B, 0x2C].contains code

/-- Count `k` events of a code in every counter that selects it. -/
def Tile.count (x : Tile) (code k : Nat) : Tile :=
  if x.cnt.evsel = 0 ∨ k = 0 then x
  else (List.range 8).foldl (fun x n =>
    if fld x.cnt.evsel.toNat (8 * n) 8 = code then
      { x with cnt := { x.cnt with evcnt := Map.mod 0 x.cnt.evcnt n (fun v => v + BitVec.ofNat 32 k) } }
    else x) x

/-- Count a corrected SRAM error (03 R106). -/
def Tile.corrected (x : Tile) : Tile :=
  { x with cnt := { x.cnt with eccCe := BitVec.ofNat 64 (satAdd 64 x.cnt.eccCe.toNat 1) } }.count 0x2C 1

/-! ### Records (16 R432, R434, R435, R440) -/

/-- The lead Nib core's control tile of partition `n` (14 R378). -/
def controlTile (s : State) (n : Nat) : Nat := 256 * leadRegion s n

/-- STEP of a record that no tile raises: the control tile's superstep, 0 without a partition (16 R432, log 14). -/
def stepOf (s : State) (n : Nat) : BitVec 32 :=
  if n < 6 then (s.tile (controlTile s n)).phaseStep.setWidth 32 else 0

/-- The time-stamp counter with its wrap epoch in the high bits (17 R465). -/
def timeNow (s : State) : Nat := s.dev.tm.epoch.toNat * 2 ^ 48 + s.dev.tm.time.toNat

/-- A region hub's copy of the counter, 3 cycles behind it (02 R52), with the wrap epoch in the high bits. While the counter
has not reached 3, as before its first publication, the copy shows 0 (DESIGN CHOICE, log 27). R52 says that a tile reads the copy
and names no address and no instruction for it, so no command of a tile does (DESIGN CHOICE, log 27). -/
def hubTime (s : State) : Nat := timeNow s - 3

/-- A record with its time fields filled in: a region's from its hub's copy, another's from the counter (16 R435). -/
def stamp (s : State) (r : Rec) : Rec :=
  let n := if r.scope = 0 ∨ r.scope = 1 then hubTime s else timeNow s
  { r with time := BitVec.ofNat 48 n, tepoch := BitVec.ofNat 16 (n / 2 ^ 48) }

/-- A record that names no tile. -/
def plainRec (s : State) (code sev scope part src aux : Nat) (daddr : Nat := 0) (progress : Nat := 0) : Rec :=
  stamp s { code := BitVec.ofNat 8 code, severity := BitVec.ofNat 4 sev, scope := BitVec.ofNat 4 scope, tile := 0x1FFF#13,
            ctx := 0, iaddr := 0xFFFFFFFF#32, daddr := BitVec.ofNat 47 daddr, step := stepOf s part, time := 0,
            tepoch := 0, part := BitVec.ofNat 3 part, src := BitVec.ofNat 5 src, aux := BitVec.ofNat 8 aux,
            progress := BitVec.ofNat 32 progress }

/-- The record of a tile's fault. -/
def tileRec (s : State) (t : Nat) (sev : Nat) (fi : FaultInfo) : Rec :=
  stamp s { code := fi.code, severity := BitVec.ofNat 4 sev, scope := 0, tile := BitVec.ofNat 13 t,
            ctx := BitVec.ofNat 2 fi.ctx, iaddr := fi.iaddr, daddr := BitVec.ofNat 47 fi.daddr,
            step := (s.tile t).phaseStep.setWidth 32, time := 0, tepoch := 0, part := BitVec.ofNat 3 (partOf s t),
            src := fi.src, aux := 0, progress := BitVec.ofNat 32 (min fi.progress 0xFFFFFFFF) }

/-- Whether the Steward or the loader raises a record itself: no Nib core forwards it (16 R440). -/
def stewardRec (r : Rec) : Bool := r.src == 14 || r.src == 15

/-- The region whose Nib core forwards a record other than a tile's fault (16 R440). -/
def recRegion (r : Rec) : Option Nat :=
  if stewardRec r then none
  else if r.scope = 1 then some r.aux.toNat else if r.scope = 0 ∧ r.severity = 0 then some (regionOf r.tile.toNat) else none

/-- The region whose hub a record passes. -/
def hubOf (r : Rec) : Option Nat :=
  if stewardRec r then none
  else if r.scope = 0 then some (regionOf r.tile.toNat) else if r.scope = 1 then some r.aux.toNat else none

/-- Whether region `r`'s Nib core has the fault protocol to serve, which comes before every other duty (14 R375, 16 R440). -/
def faultDue (s : State) (r : Nat) : Bool := !s.dev.boot.trip && s.net.recs.any (fun q => decide (hubOf q = some r))

/-- Send a record toward the Steward. A record of a region's other kind that meets 64 pending ones is dropped and
counted (16 R440). -/
def raiseRec (r : Rec) (s : State) : State :=
  let full := match recRegion r with
    | some g => decide (64 ≤ (s.net.recs.filter (fun q => recRegion q = some g)).length)
    | none => false
  if full then s.onBlot (fun b => { b with dropped := satAdd 32 b.dropped 1 })
  else s.onNet (fun n => { n with recs := n.recs ++ [r] })

/-! ### Contexts -/

/-- End an instruction: the PC moves to `npc`, PHASE_PC and the counters follow, and a granted step is used up
(03 R101, 18 R494, R496). -/
def Tile.retire (x : Tile) (c : Nat) (npc : BitVec 32) : Tile :=
  let x := { x with phasePc := BitVec.ofNat 34 (c * 2 ^ 32 + (x.cx c).pc.toNat) }
  let x := (x.count 0x02 1).count (0x03 + c) 1
  x.onCx c (fun k =>
    { k with pc := npc, stepGrant := false, st := if k.st = .run ∧ k.stepGrant then .halt else k.st })

/-- A context that leaves a wait runs; a halted one stays halted (18 R491). -/
def Ctx.unwait (k : Ctx) : Ctx :=
  { k with wait := none, haltedInWait := false, st := match k.st with | .wait => .run | st => st }

/-- End a wait whose instruction is done: the PC moves past it. -/
def Tile.endWait (x : Tile) (c : Nat) : Tile :=
  (x.onCx c Ctx.unwait).retire c ((x.cx c).pc + 4)

/-- End a wait whose instruction is to issue now. -/
def Tile.wake (x : Tile) (c : Nat) : Tile := x.onCx c Ctx.unwait

/-- Whether a context is in WAIT, or halted in it, for `w`. -/
def Tile.waitsFor (x : Tile) (c : Nat) (w : WaitFor) : Bool := decide ((x.cx c).wait = some w)

/-- Put context `c` into WAIT at its instruction (03 R63). -/
def Tile.block (x : Tile) (c : Nat) (w : WaitFor) : Tile := x.onCx c (fun k => { k with st := .wait, wait := some w })

/-- End with their instructions the waits of the tile that equal `w`. -/
def Tile.endWaits (x : Tile) (w : WaitFor) : Tile :=
  [0, 1, 2, 3].foldl (fun x c => if x.waitsFor c w then x.endWait c else x) x

/-! ### Tile flags (03 R96, R97) -/

/-- The value of a tile flag. -/
def Tile.flag (x : Tile) (f : Nat) : Bool := x.flags.getLsbD f

/-- Write a tile flag; a context that waits for the new value goes on (03 R72). -/
def Tile.putFlag (x : Tile) (f : Nat) (b : Bool) : Tile :=
  { x with flags := setBit x.flags f b }.endWaits (.tf f b)

/-- Write a tile flag of tile `t`. -/
def putFlag (t f : Nat) (b : Bool) (s : State) : State := s.onTile t (fun x => x.putFlag f b)

/-! ### Semaphore queues (09 R243) -/

/-- Serve a waiter queue in order from a count: the count left, the waiters left and those answered. -/
def serveQueue : Nat → List HubOp → Nat × List HubOp × List HubOp
  | k, [] => (k, [], [])
  | k, o :: q => if o.n.toNat ≤ k then
      let r := serveQueue (k - o.n.toNat) q
      (r.1, r.2.1, o :: r.2.2)
    else (k, o :: q, [])

/-- Serve semaphore `n`'s queue and send the answers (09 R243). -/
def serveSem (n : Nat) (s : State) : State :=
  let m := s.hub.sem n
  let r := serveQueue m.count.toNat m.queue
  (s.onSem n (fun m => { m with count := BitVec.ofNat 16 r.1, queue := r.2.1 })).onNet
    (fun k => { k with hubAns := k.hubAns ++ r.2.2.map (fun o => { op := o, val := none }) })

/-- Take context `c` of tile `t` out of every wait held at the hub; a queue closes up (09 R261). -/
def leaveHub (t c : Nat) (s : State) : State :=
  let mine := fun (o : HubOp) => decide (o.t = t) && decide (o.c = c)
  let s := s.onHub (fun h => { h with gfWait := h.gfWait.filter (fun o => !mine o) })
  match s.hub.sems.find? (fun p => p.2.queue.any mine) with
  | some p => serveSem p.1 (s.onSem p.1 (fun m => { m with queue := m.queue.filter (fun o => !mine o) }))
  | none => s

/-! ### A tile's fault and a region's stop -/

/-- A context of a stopped tile (03 R105, 18 R491). -/
def Ctx.stopped (k : Ctx) : Ctx :=
  match k.st with
  | .run | .wait | .halt => { k with st := .fault, wait := none, haltedInWait := false, stepGrant := false }
  | _ => k

/-- Every context of tile `t` that runs, waits or is halted enters FAULT, waits are cancelled at their objects, the
requests that no unit has accepted are discarded (03 R105), and so are the messages that are not in flight (11 R305). -/
def stopTile (t : Nat) (s : State) : State :=
  let s := [0, 1, 2, 3].foldl (fun s c => if ((s.cx t c).wait).isSome then leaveHub t c s else s) s
  s.onTile t (fun x =>
    let some' := [0, 1, 2, 3].any (fun c => let st := (x.cx c).st; decide (st ≠ .off))
    let x := [0, 1, 2, 3].foldl (fun x c => x.onCx c Ctx.stopped) x
    let x := x.onUn (fun n => { n with handed := none, waiting := [] })
    let x := [0, 1, 2, 3, 4].foldl (fun x u => x.onUnit u (fun q => { q with queue := [] })) x
    { x with faulted := x.faulted || some', dbg := { x.dbg with waiting := false },
             mail := { x.mail with goesOn := false, sends := x.mail.sends.filter (fun p => match p.2 with
               | some m => decide (m.st = .inFlight)
               | none => false) } })

/-- A fault of tile `t` (03 R105, 16 R440). -/
def tileFault (t : Nat) (fi : FaultInfo) (s : State) : State :=
  let old := (s.tile t).faulted
  let s := if old then s else raiseRec (tileRec s t 1 fi) s
  let s := stopTile t s
  let s := s.onTile t (fun x => { x with faulted := true })
  if fi.back && !old then s.onCx t fi.ctx (fun k => { k with st := .fault, pc := fi.iaddr }) else s

/-- A fault of the instruction that context `c` is about to issue: it has no effect and the context stands at it. -/
def issueFault (t c : Nat) (code : Nat) (s : State) (daddr : Nat := 0) (src : Nat := 0) : State :=
  tileFault t { code := BitVec.ofNat 8 code, daddr := daddr, src := BitVec.ofNat 5 src, ctx := c,
                iaddr := (s.cx t c).pc, back := true } s

/-- A region stop (14 R376); `cause` is the code for PROGRESS (16 R437). A region that is stopped already stays as it
is (log 15). -/
def stopRegion (r cause : Nat) (s : State) : State :=
  if (s.region r).nib.stopped then s
  else
    let s := (tilesOf r).foldl (fun s t => if (s.tile t) = {} then s else stopTile t s) s
    let s := raiseRec (plainRec s 0x81 2 1 (partOfRegion s r) 12 r 0 cause) s
    s.onRegion r (fun g => { g with nib := { g.nib with stopped := true, declaring := false } })

/-! ### Debug unlocks (17 R484) -/

/-- Whether a debugger has partition `n` open: with a tenant through its own bit, else through device scope. -/
def unlockedPart (s : State) (n : Nat) : Bool :=
  if n < 6 ∧ (s.part n).tn.cur ≠ 0 then s.dev.sec.unlock.getLsbD n else s.dev.sec.unlock.getLsbD 7

/-- Whether a debugger has every partition of a list open, or device scope where the list is empty (17 R484). -/
def unlockedAll (s : State) (l : List Nat) : Bool := if l.isEmpty then unlockedPart s 7 else l.all (unlockedPart s)

/-! ### Interrupt causes (19 R512, R515) -/

/-- An MSI-X entry that no one has written: masked, as the PCIe specification resets it (log 6). -/
def msixReset : BitVec 128 := 0x1000000000000000000000000#128

/-- MSI-X entry `i` of a function. -/
def Fn.vector (f : Fn) (i : Nat) : BitVec 128 := Map.get msixReset f.msix i

/-- Signal vector `i` of function `k`: a masked vector pends, and a function in D3hot signals nothing (19 R515, R524). -/
def signalMsi (k i : Nat) (s : State) : State :=
  let f := s.fn k
  if f.d3 then s
  else if (f.vector i).getLsbD 96 then s.onFn k (fun f => { f with pba := setBit f.pba i true })
  else s.onOut (fun o => { o with msi := (k, i) :: o.msi })

/-- Cause bit `i` of function `k` becomes set. -/
def raiseCause (k i : Nat) (s : State) : State :=
  let f := s.fn k
  let s := s.onFn k (fun f => { f with cause := setBit f.cause i true })
  if f.cause.getLsbD i || !f.mask.getLsbD i then s else signalMsi k i s

/-- The functions that exist: the PF, and the VFs while VF Enable is set (19 R509). -/
def liveFns (s : State) : List Nat := if s.dev.pcie.vfEnable then [0, 1, 2, 3, 4, 5, 6] else [0]

/-- The functions that hear of partition `n`: its own, and the PF (19 R509, R512). -/
def partFns (s : State) (n : Nat) : List Nat :=
  if s.dev.pcie.vfEnable then (if n < 6 then [0, n + 1] else [0]) else if n = 0 then [0] else []

/-- Raise a cause at every function that hears of partition `n`. -/
def causePart (n i : Nat) (s : State) : State := (partFns s n).foldl (fun s k => raiseCause k i s) s

/-- Raise a cause at every function. -/
def causeAll (i : Nat) (s : State) : State := (liveFns s).foldl (fun s k => raiseCause k i s) s

/-! ### Device state and load states (17 R468, 14 R385) -/

/-- Move the device to a state (17 R468). -/
def setDevState (st : Nat) (s : State) : State :=
  if s.dev.boot.st.toNat = st then s else causeAll 5 (s.onBoot (fun b => { b with st := BitVec.ofNat 8 st }))

/-- The reference partition: the lowest-numbered one in the running state (15 R421). -/
def referencePart (s : State) : Option Nat := (List.range 6).find? (fun n => decide ((s.part n).load.st = 2))

/-- Exchange-idle time: after a boundary release of the reference partition, or while no partition runs (15 R421). -/
def exchangeIdle (s : State) : Bool := decide (0 < s.dev.tm.idleLeft) || (referencePart s).isNone

/-! ### The mesh (10 R278) -/

/-- The end at which an access to local offset `a` is served. -/
def nodeAt (s : State) (a : Nat) : Node :=
  match s.place a with
  | .sram t _ | .block t _ => .tile t
  | .bulk => .slice (homeOf s (shareOwner s a) a).1
  | .host _ => .pcie
  | .devreg o => .regs (o / 0x1000)
  | .none => .regs 0x10000

/-- The end that an access comes from; none where that is another device. -/
def Issuer.node : Issuer → Option Node
  | .ctx t _ _ | .xfer t => some (.tile t)
  | .nib r => some (.nib r)
  | .far _ _ _ _ => none

/-- Send a line over the mesh: `f` puts it on its list. -/
def onMesh (leg : Option (Node × Node)) (f : Sent → Net → Net) (s : State) : State :=
  s.onNet (fun n => { f { no := n.lines, leg := leg } n with lines := n.lines + 1 })

/-- Count a line at the tile end of a path, where it has one (18 R496): `code` is 0x20 injected or 0x21 ejected. A remote access's
request is one line, and so is its answer (DEDUCED, log 8). -/
def countLine (code : Nat) (x : Option Node) (s : State) : State :=
  match x with
  | some (.tile t) => s.onTile t (fun x => x.count code 1)
  | _ => s

/-- Everything in flight over the mesh; a segment of which lines are missing holds nothing up (DESIGN CHOICE, log 17). -/
def Net.sents (n : Net) : List Sent :=
  n.reqs.map (fun x => x.sent) ++ n.slice.map (fun x => x.sent) ++ n.answers.map (fun x => x.sent) ++ (n.segs.filter (fun x => x.len ≤ x.data.length)).map (fun x => x.sent)
    ++ n.segAcks.map (fun x => x.sent) ++ n.segRefs.map (fun x => x.sent) ++ n.msgs.map (fun x => x.sent)
    ++ n.msgAcks.map (fun x => x.sent) ++ n.msgNacks.map (fun x => x.sent) ++ n.msgRejs.map (fun x => x.sent)

/-- Whether a line may arrive: none sent before it from the same end to the same end is still in flight (10 R278). -/
def arrives (s : State) (x : Sent) : Bool :=
  x.leg.isNone || s.net.sents.all (fun y => !(y.leg == x.leg && decide (y.no < x.no)))

/-- A new exchange-idle interval: every trim code may move again (15 R426). -/
def newIdle (s : State) : State := s.onTime (fun t => { t with trimmed := 0 })

/-- STOPPED or RUNNING, by whether a partition loads or runs or a tenant command runs; below service level 2 the device stays in
STOPPED (17 R468). -/
def settleDevState (s : State) : State :=
  if s.dev.boot.st = 5 ∨ s.dev.boot.st = 6 then
    let busy := fun (n : Nat) => (s.part n).load.st == 1 || (s.part n).load.st == 2 || (s.part n).tn.cmd == 1
    setDevState (if decide (2 ≤ s.dev.boot.level) && (List.range 6).any busy then 6 else 5) s
  else s

/-- Whether a pending request is the LOAD of partition `n` that still runs (14 R385, 17 R467). -/
def IdpPend.loads (q : IdpPend) (n : Nat) : Bool :=
  q.final == 0xFF && q.sub == 0x41 && (q.index.toNat == 0x3080 + 0x100 * n || (n == 0 && q.index == 0x2800))

/-- A load that ends fixes the final status of the request that started it: OK where the partition runs (17 R459). -/
def endLoadRequest (n st : Nat) (s : State) : State :=
  s.onMgmt (fun g => { g with pend := g.pend.map (fun q => if q.loads n then { q with final := if st = 2 then 0 else 8 } else q) })

/-- Change partition `n`'s load state. -/
def setLoad (n st : Nat) (s : State) : State :=
  let old := (s.part n).load.st.toNat
  if old = st then s
  else
    let was := exchangeIdle s
    let s := if old = 1 then endLoadRequest n st s else s
    let s := s.onPart n (fun p => { p with load := { p.load with st := BitVec.ofNat 8 st } })
    settleDevState (causePart n 2 (if !was && exchangeIdle s then newIdle s else s))

/-! ### Reservations of a stopped region (15 R413) -/

/-- Whether the ME, VE, Ligature unit and Grain generator of every tile of region `r` are idle (14 R394). -/
def regionIdle (s : State) (r : Nat) : Bool :=
  s.tiles.all (fun p => regionOf p.1 != r || [0, 1, 2, 3].all (fun u =>
    (p.2.unit u).queue.isEmpty && (p.2.unit u).running.isNone))

/-- Every reservation of region `r` is 0. -/
def dropTokens (r : Nat) (s : State) : State :=
  let s := (tilesOf r).foldl (fun s t => s.onTile t (fun x => x.onUn (fun u => { u with resv := 0 }))) s
  s.onRegion r (fun g => { g with pool := { g.pool with reserved := 0, dropping := false } })

/-- A region that is to give its tokens back does so once its engines are idle. -/
def settleTokens (r : Nat) (s : State) : State :=
  if (s.region r).pool.dropping && regionIdle s r then dropTokens r s else s

/-- Region `r` gives its tokens back: at once, or when its engines are idle (15 R413). -/
def returnTokens (r : Nat) (s : State) : State :=
  settleTokens r (s.onRegion r (fun g => { g with pool := { g.pool with dropping := true } }))

/-- Stop every region of partition `n`; a partition that ran or loaded is then stopped, and a load's fence ends (16 R441,
17 R479). -/
def stopPartition (n cause : Nat) (s : State) : State :=
  let s := (bandOf s n).foldl (fun s r => stopRegion r cause s) s
  let was := (s.part n).load.st
  let s := if was = 1 then (partTiles s n).foldl (fun s t => s.onTile t (fun x => { x with fenced := false })) s else s
  if was = 1 ∨ was = 2 then (bandOf s n).foldl (fun s r => returnTokens r s) (setLoad n 3 s) else s

/-- Stop every partition. -/
def stopAllPartitions (cause : Nat) (s : State) : State := (List.range 6).foldl (fun s n => stopPartition n cause s) s

end Sys2Proof.Machine
end

