-- ==== Sys2Proof/Machine/Flags.lean ====
section
/-!
DEFINITION. Comparisons and flags: the conditions of the branches and set instructions (03 R70, R71), the NF register
(03 R104, 04 R127, R128, 03 R88).
-/
namespace Sys2Proof.Machine

/-- 1 or 0 as a word. -/
def boolWord (b : Bool) : Word := if b then 1#64 else 0#64

/-- The conditions of the branches (03 R70). -/
inductive Cond where
  | eq | ne | lt | ge | ltu | geu
  deriving DecidableEq, Repr

/-- Whether `a` compares with `b` as named. -/
def Cond.holds : Cond → Word → Word → Bool
  | .eq, a, b => decide (a = b)
  | .ne, a, b => decide (a ≠ b)
  | .lt, a, b => BitVec.slt a b
  | .ge, a, b => !BitVec.slt a b
  | .ltu, a, b => BitVec.ult a b
  | .geu, a, b => !BitVec.ult a b

/-- The FPU's comparisons; false where either side is NaN (03 R71). -/
def fpuCmp (fn : Nat) (a b : Num) : Bool :=
  match fn with
  | 5 => decide (a.cmp b = some .eq)
  | 6 => a.lt b
  | _ => a.le b

/-- A non-finite output of the ME (`ve` false) or the VE at a row-major index: it is kept while NF is clear
(03 R104, 04 R128). -/
def NfReg.set (r : NfReg) (ve : Bool) (index : Nat) : NfReg :=
  if r.nf then r else { r with nf := true, src := ve, index := BitVec.ofNat 32 (min index 0xFFFFFFFF) }

/-- A write of ones to bits [1:0] of NF (03 R104). -/
def NfReg.clear (r : NfReg) (v : Word) : NfReg :=
  { r with nf := r.nf && !v.getLsbD 0, aw := r.aw && !v.getLsbD 1 }

/-- The NF register as it reads (03 R104). -/
def NfReg.word (r : NfReg) : Word :=
  BitVec.ofNat 64 (b2n r.nf + 2 * b2n r.aw + 4 * b2n r.src + r.index.toNat * 2 ^ 32)

end Sys2Proof.Machine
end

