-- ==== Sys2Proof/Machine/Aes.lean ====
section
/-!
DEFINITION. AES-256 of FIPS 197 and AES-XTS of IEEE 1619 for a 128 B line, which 17 R477 names (log 11).
-/
namespace Sys2Proof.Machine

/-! ### Tables, 32 entries to a number with the lowest entry lowest -/

/-- The substitution box. -/
def aesBox : List Nat :=
  [
    0xC072A49CAFA2D4ADF04759FA7DC982CA76ABD7FE2B670130C56F6BF27B777C63,
    0x75B227EBE28012079A059618C323C7041531D871F1E5A534CCF73F362693FDB7,
    0xCF584C4A39BECB6A5BB1FC20ED00D153842FE329B3D63B52A05A6E1B1A2C8309,
    0xD2F3FF1021DAB6BCF5389D928F40A351A89F3C507F02F94585334D43FBAAEFD0,
    0xDB0B5EDE14B8EE4688902A22DC4F816073195D643D7EA7C41744975FEC130CCD,
    0x08AE7A65EAF4566CA94ED58D6D37C8E779E4959162ACD3C25C2406490A3A32E0,
    0x9E1DC186B95735610EF6034866B53E708A8BBD4B1F74DDE8C6B4A61C2E2578BA,
    0x16BB54B00F2D99416842E6BF0D89A18CDF2855CEE9871E9B948ED9691198F8E1
  ]

/-- Its inverse. -/
def aesUnbox : List Nat :=
  [
    0xCBE9DEC444438E3487FF2F9B8239E37CFBD7F3819EA340BF38A53630D56A0952,
    0x25D18B6D49A25B76B224D92866A12E084EC3FA420B954CEE3D23C2A632947B54,
    0x849D8DA75746155EDAB9EDFD5048706C92B6655DCC5CA4D41698688664F6F872,
    0x6B8A130103BDAFC1020F3FCA8F1E2CD00645B3B80558E4F70AD3BC8C00ABD890,
    0x6EDF751CE837F9E28535ADE72274AC9673E6B4F0CECFF297EADC674F4111913A,
    0xF45ACD78FEC0DB9A2079D2C64B3E56FC1BBE18AA0E62B76F89C5291D711AF147,
    0xEF9CC9939F7AE52D0D4AB519A97F51605FEC8027591012B131C7078833A8DD1F,
    0x7D0C2155631469E126D677BA7E042B17619953833CBBEBC8B0F52AAE4D3BE0A0
  ]

/-- Entry `i` of a table. -/
def boxAt (t : List Nat) (i : Nat) : Nat := fld ((t[i / 32]?).getD 0) (8 * (i % 32)) 8

/-! ### The field of 2^8 elements -/

/-- Twice an element. -/
def gfTwice (a : Nat) : Nat := if a < 128 then 2 * a else (2 * a) ^^^ 0x11B

/-- The product of an element and a number below 16. -/
def gfTimes (k a : Nat) : Nat :=
  let b := gfTwice a
  let c := gfTwice b
  let d := gfTwice c
  (if nbit k 0 then a else 0) ^^^ (if nbit k 1 then b else 0) ^^^ (if nbit k 2 then c else 0) ^^^ (if nbit k 3 then d else 0)

/-- A column times a circulant matrix whose first row is given. -/
def mixWith (row col : List Nat) : List Nat :=
  (List.range 4).map (fun r => (List.range 4).foldl (fun a c =>
    a ^^^ gfTimes ((row[(c + 4 - r) % 4]?).getD 0) ((col[c]?).getD 0)) 0)

/-! ### The cipher; a block is 16 numbers, column by column -/

/-- Element by element. -/
def xorAll (a b : List Nat) : List Nat := List.zipWith (· ^^^ ·) a b

/-- Rotate row `r` of a block by `k r` columns to the left. -/
def rowsBy (k : Nat → Nat) (b : List Nat) : List Nat :=
  (List.range 16).map (fun i => (b[i % 4 + 4 * ((i / 4 + k (i % 4)) % 4)]?).getD 0)

/-- Extend the key's words, kept newest first, up to word `i + k`. -/
def aesExtend : Nat → Nat → Nat → List (List Nat) → List (List Nat)
  | 0, _, _, w => w
  | k + 1, i, rc, w =>
    let t := (w[0]?).getD []
    let u := if i % 8 = 0 then xorAll ((t.drop 1 ++ t.take 1).map (boxAt aesBox)) [rc, 0, 0, 0]
      else if i % 8 = 4 then t.map (boxAt aesBox) else t
    aesExtend k (i + 1) (if i % 8 = 0 then gfTwice rc else rc) (xorAll ((w[7]?).getD []) u :: w)

/-- The fifteen round keys of a 256-bit key of 32 bytes. -/
def aesKeys (key : List Nat) : List (List Nat) :=
  pieces 16 15 ((aesExtend 52 8 1 (pieces 4 8 key).reverse).reverse.flatten)

/-- Encrypt a block. -/
def aesEnc (keys : List (List Nat)) (b : List Nat) : List Nat :=
  let sub := fun (b : List Nat) => rowsBy (fun r => r) (b.map (boxAt aesBox))
  let b := xorAll b ((keys[0]?).getD [])
  let b := ((keys.drop 1).take 13).foldl (fun b k => xorAll ((pieces 4 4 (sub b)).flatMap (mixWith [2, 3, 1, 1])) k) b
  xorAll (sub b) ((keys[14]?).getD [])

/-- Decrypt a block. -/
def aesDec (keys : List (List Nat)) (b : List Nat) : List Nat :=
  let sub := fun (b : List Nat) => (rowsBy (fun r => 4 - r) b).map (boxAt aesUnbox)
  let b := xorAll b ((keys[14]?).getD [])
  let b := ((keys.drop 1).take 13).reverse.foldl (fun b k =>
    (pieces 4 4 (xorAll (sub b) k)).flatMap (mixWith [14, 11, 13, 9])) b
  xorAll (sub b) ((keys[0]?).getD [])

/-! ### XTS (17 R477) -/

/-- The tweaks of a data unit's blocks, from the first one on. -/
def tweaks : Nat → Nat → List Nat
  | 0, _ => []
  | k + 1, t => t :: tweaks k (if nbit t 127 then (2 * t % 2 ^ 128) ^^^ 0x87 else 2 * t)

/-- The bytes of a number, as numbers. -/
def natBytes (n k : Nat) : List Nat := (toBytes n k).map (fun b => b.toNat)

/-- One line under a key pair, data key low: `dec` decrypts, else encrypts. The data unit's number is the line's. -/
def xtsLine (dec : Bool) (key : BitVec 512) (line : Nat) (d : Bytes) : Bytes :=
  let k1 := aesKeys (natBytes key.toNat 32)
  let k2 := aesKeys (natBytes (key.toNat / 2 ^ 256) 32)
  let t := leNat ((aesEnc k2 (natBytes line 16)).map (fun n => BitVec.ofNat 8 n))
  (List.zip (pieces 16 8 d) (tweaks 8 t)).flatMap (fun (b, t) =>
    let t := natBytes t 16
    let x := xorAll (b.map (fun y => y.toNat)) t
    (xorAll (if dec then aesDec k1 x else aesEnc k1 x) t).map (fun n => BitVec.ofNat 8 n))

end Sys2Proof.Machine
end

