-- ==== Sys2Proof/Machine/Cache.lean ====
section
/-!
DEFINITION. The Reuse Cache in front of the Bulk Store (08 R210–R218), the Bulk Store's lines with their scrub state
(17 R481) and open rows (01 R547).
-/
namespace Sys2Proof.Machine

/-! ### The Bulk Store itself -/

/-- Join a range to a list of rising disjoint ranges. -/
def addRange (lo hi : Nat) : List (Nat × Nat) → List (Nat × Nat)
  | [] => [(lo, hi)]
  | (a, b) :: l =>
    if hi < a then (lo, hi) :: (a, b) :: l
    else if b < lo then (a, b) :: addRange lo hi l
    else addRange (min lo a) (max hi b) l

/-- Take a range out of a list of rising disjoint ranges. -/
def cutRange (lo hi : Nat) (l : List (Nat × Nat)) : List (Nat × Nat) :=
  l.flatMap (fun (a, b) => (if a < lo then [(a, min b lo)] else []) ++ (if hi < b then [(max a hi, b)] else []))

/-- Take a range out of a list of ranges with keys. -/
def cutKeyed {α : Type} (lo hi : Nat) (l : List (Nat × Nat × α)) : List (Nat × Nat × α) :=
  l.flatMap (fun (a, b, k) => (cutRange lo hi [(a, b)]).map (fun (a, b) => (a, b, k)))

/-- The 1 MiB granule of a Bulk Store address (17 R481). -/
def granuleOf (a : Nat) : Nat := (a - bulkBase) / 0x100000

/-- Whether a granule has been scrubbed. -/
def isScrubbed (s : State) (g : Nat) : Bool :=
  s.dev.bulk.scrubbed.any (fun (lo, hi) => decide (lo ≤ g) && decide (g < hi))

/-- A bank of a site in use: its package site number Ss and the bank (01 R547, log 75). -/
def bankKey (s : State) (site bank : Nat) : Nat := siteNumber s site * 16 + bank

/-- The access opens its row (01 R547). -/
def openRow (a : Nat) (s : State) : State :=
  let p := siteOf s a
  s.onBulk (fun b => { b with openRows := Map.set none b.openRows (bankKey s p.1 p.2.1) (some p.2.2) })

/-- The writes of a granule's lines, in rising order, leave the last of its rows open in every bank of every site in use
(01 R547, log 75). -/
def openGranule (g : Nat) (s : State) : State :=
  let n := if popCount s.dev.bulk.used.toNat 8 = 8 then 8 else 4
  let row := (g + 1) * (32 / n) - 1
  s.onBulk (fun b => { b with openRows := (List.range (16 * n)).foldl (fun m k =>
    Map.set none m (bankKey s (k / 16) (k % 16)) (some row)) b.openRows })

/-- Zero a granule: nothing of it is listed in memory, and its codewords are good. -/
def scrubGranule (g : Nat) (s : State) : State :=
  let base := bulkBase + g * 0x100000
  let inside := fun (a : Nat) => decide (base ≤ a) && decide (a < base + 0x100000)
  let s := { s with mem := Map.erase inside s.mem, bad := s.bad.filter (fun a => !inside a) }
  (openGranule g s).onBulk (fun b =>
    { b with scrubbed := addRange g (g + 1) b.scrubbed, badLines := b.badLines.filter (fun l => !inside (l * 128)),
             rekeyed := cutKeyed (base / 128) (base / 128 + 8192) b.rekeyed })

/-- Mark a range of addresses unscrubbed; its lines read as zeros (17 R480, R481). -/
def unscrub (lo hi : Nat) (s : State) : State :=
  let inside := fun (a : Nat) => decide (lo ≤ a) && decide (a < hi)
  let s := { s with mem := Map.erase inside s.mem, bad := s.bad.filter (fun a => !inside a) }
  s.onBulk (fun b =>
    { b with scrubbed := cutRange (granuleOf lo) (granuleOf hi) b.scrubbed,
             badLines := b.badLines.filter (fun l => !inside (l * 128)), rekeyed := cutKeyed (lo / 128) (hi / 128) b.rekeyed })

/-- The key pair in force at an address (17 R477). -/
def keyAt (s : State) (a : Nat) : BitVec 512 :=
  let p := s.part (shareOwner s a)
  let g := (a - bulkBase) / gib
  (if p.share.1 ≤ g ∧ g < p.share.1 + p.share.2 then p.tn.shareKey else p.tn.pendKey).getD Config.unassignedKey

/-- The key pair that line `l`'s stored bits are under, where it is not the one in force. -/
def otherKey (s : State) (l : Nat) : Option (BitVec 512) :=
  (s.dev.bulk.rekeyed.find? (fun (lo, hi, _) => decide (lo ≤ l) && decide (l < hi))).map (fun r => r.2.2)

/-- `n` bytes of one line as the Bulk Store reads them: memory holds them under the key they were written with, and a line
under another key is that line's ciphertext, decrypted with the key in force (17 R477, R479). -/
def bulkBytes (s : State) (a n : Nat) : Bytes :=
  let l := a / 128
  match otherKey s l with
  | none => s.bytes a n
  | some k => ((xtsLine true (keyAt s a) l (xtsLine false k l (s.bytes (l * 128) 128))).drop (a % 128)).take n

/-- Every scrubbed line from `lo` to `hi` is stored under key pair `key`, or under the older one it was already listed with;
the range gets another key. -/
def rekey (lo hi : Nat) (key : BitVec 512) (s : State) : State :=
  let whole := s.dev.bulk.scrubbed.map (fun (a, b) => (max (bulkBase + a * 0x100000) lo / 128, min (bulkBase + b * 0x100000) hi / 128))
  let fresh := s.dev.bulk.rekeyed.foldl (fun l (a, b, _) => cutRange a b l) (whole.filter (fun r => r.1 < r.2))
  s.onBulk (fun b => { b with rekeyed := b.rekeyed ++ fresh.map (fun (a, b) => (a, b, key)) })

/-- Before a narrower write, the rest of a line under another key is stored as it reads. -/
def settleLine (l : Nat) (s : State) : State :=
  if (otherKey s l).isSome then
    (s.poke (l * 128) (bulkBytes s (l * 128) 128)).onBulk (fun b => { b with rekeyed := cutKeyed l (l + 1) b.rekeyed })
  else s

/-- Whether the Bulk Store cannot give line `l`: a codeword with a two-bit error or the scrub's mark (08 R218). -/
def bulkLineBad (s : State) (l : Nat) : Bool :=
  isScrubbed s (granuleOf (l * 128)) && ((s.badIn (l * 128) 128).isSome || s.dev.bulk.badLines.contains l)

/-- Read line `l` from the Bulk Store; fault 0x0F where it cannot be corrected (08 R218). -/
def bulkReadLine (l : Nat) (s : State) : Except Nat Bytes × State :=
  let s := openRow (l * 128) s
  if bulkLineBad s l then (.error 0x0F, s.onBulk (fun b => { b with uncorr := satAdd 32 b.uncorr 1 }))
  else (.ok (bulkBytes s (l * 128) 128), s)

/-- Write whole codewords or a merged piece of a line to the Bulk Store; the first write to a granule zeroes it
(17 R481), a whole line clears the line's mark (08 R218). -/
def bulkPut (a : Nat) (bs : Bytes) (s : State) : State :=
  let g := granuleOf a
  let s := if isScrubbed s g then s else scrubGranule g s
  let s := openRow a (settleLine (a / 128) s)
  let s := if bs.length = 128 then s.onBulk (fun b => { b with badLines := b.badLines.filter (· ≠ a / 128) }) else s
  s.poke a bs

/-- A write that reaches the Bulk Store without a slice: a narrower one needs the line's data (08 R218). -/
def bulkWrite (a : Nat) (bs : Bytes) (s : State) : Except Nat Unit × State :=
  if bs.length ≠ 128 ∧ bulkLineBad s (a / 128) then
    (.error 0x0F, (openRow a s).onBulk (fun b => { b with uncorr := satAdd 32 b.uncorr 1 }))
  else (.ok (), bulkPut a bs s)

/-! ### A slice -/

/-- The classes of R213. -/
inductive LineClass where
  | tiling | ts | pr | trace
  deriving DecidableEq, Repr

/-- A slice without the claims of a phase: their ways are tiling's, with their lines (07 R201). -/
def RcSlice.unclaimed (c : RcSlice) : RcSlice := { c with ts := 0, pr := 0, tsRange := (0, 0), prRange := (0, 0) }

/-- Tiling ways of a slice (08 R213, R216). -/
def RcSlice.tilingWays (c : RcSlice) : Nat := 16 - c.ts - c.pr - c.trace

/-- The ways of a class: tiling lowest, then predictor, test-strip and trace (log 16). -/
def RcSlice.ways (c : RcSlice) : LineClass → List Nat
  | .tiling => List.range c.tilingWays
  | .pr => (List.range c.pr).map (c.tilingWays + ·)
  | .ts => (List.range c.ts).map (c.tilingWays + c.pr + ·)
  | .trace => (List.range c.trace).map (c.tilingWays + c.pr + c.ts + ·)

/-- The Contact Sheet's lines while trace is on (18 R498). -/
def inSheet (s : State) (l : Nat) : Bool :=
  let base := shareBase s s.dev.trace.part + s.dev.trace.base.toNat
  decide (s.dev.trace.on = 1) && decide (base / 128 ≤ l) && decide (l < (base + s.dev.trace.size.toNat) / 128)

/-- The class of a line at a slice (08 R213, 07 R201). A line that lies in both claims' ranges is of the test strip (DESIGN CHOICE,
log 81). -/
def lineClass (s : State) (c : RcSlice) (l : Nat) : LineClass :=
  if inSheet s l then .trace
  else if decide (0 < c.ts) && decide (c.tsRange.1 ≤ l) && decide (l < c.tsRange.2) then .ts
  else if decide (0 < c.pr) && decide (c.prRange.1 ≤ l) && decide (l < c.prRange.2) then .pr
  else .tiling

/-- A line that the slice holds. -/
def RcSlice.find (c : RcSlice) (l : Nat) : Option CLine := c.lines.find? (fun x => x.line = l)

/-- Change line `l` of a slice. -/
def RcSlice.onLine (c : RcSlice) (l : Nat) (f : CLine → CLine) : RcSlice :=
  { c with lines := c.lines.map (fun x => if x.line = l then f x else x) }

/-- Use line `l` (08 R213). -/
def RcSlice.touch (c : RcSlice) (l : Nat) : RcSlice :=
  { c.onLine l (fun x => { x with used := c.tick }) with tick := c.tick + 1 }

/-- Drop line `l`. -/
def RcSlice.dropLine (c : RcSlice) (l : Nat) : RcSlice := { c with lines := c.lines.filter (fun x => x.line ≠ l) }

/-- Where a new line of a class goes in a set: a way without a line, or the least recently used line's way. A poisoned
line is no victim, and a line of the predictor range gives way to none of its kind (08 R213, 07 R201). -/
def victimFor (s : State) (c : RcSlice) (set : Nat) (k : LineClass) : Option (Nat × Option CLine) :=
  let here := c.lines.filter (fun x => x.set = set)
  let ways := c.ways k
  match ways.find? (fun w => here.all (fun x => x.way ≠ w)) with
  | some w => some (w, none)
  | none =>
    let cand := here.filter (fun x => ways.contains x.way && !x.poisoned &&
      !(decide (k = .pr) && decide (lineClass s c x.line = .pr)))
    (cand.foldl (fun b x => match b with
      | none => some x
      | some y => if x.used < y.used then some x else some y) none).map (fun v => (v.way, some v))

/-- Write a dirty line back; a poisoned line is skipped (08 R218). -/
def writeBack (x : CLine) (s : State) : State := if x.dirty && !x.poisoned then bulkPut (x.line * 128) x.data s else s

/-- Allocate line `l` in slice `r`, or answer no where no way can take it (08 R213). -/
def allocate (r l set : Nat) (data : Bytes) (dirty : Bool) (s : State) : Bool × State :=
  let c := (s.region r).rc
  match victimFor s c set (lineClass s c l) with
  | none => (false, s)
  | some (w, v) =>
    let s := match v with
      | some x => (writeBack x s).onRc r (fun c => c.dropLine x.line)
      | none => s
    (true, s.onRc r (fun c =>
      { c with lines := c.lines ++ [{ line := l, set := set, way := w, dirty := dirty, poisoned := false,
                                      used := c.tick, data := data }], tick := c.tick + 1 }))

/-- Count a hit or a miss. -/
def countRc (r : Nat) (hit : Bool) (s : State) : State :=
  s.onRc r (fun c => if hit then { c with hits := c.hits + 1 } else { c with misses := c.misses + 1 })

/-- Read within one line at its home for partition `n`; 7 stands for a line without a home slice, which the Bulk Store
serves (08 R211). `alloc` is false for a Nib core and the host (08 R212). -/
def homeRead (n a len : Nat) (alloc : Bool) (s : State) : Except Nat Bytes × State :=
  let l := a / 128
  let cut := fun (d : Bytes) => (d.drop (a % 128)).take len
  if 6 ≤ n then
    match bulkReadLine l s with
    | (.ok d, s) => (.ok (cut d), s)
    | (.error e, s) => (.error e, s)
  else
    let (r, set, _) := homeOf s n a
    match (s.region r).rc.find l with
    | some x =>
      if x.poisoned then (.error 0x01, s)
      else (.ok (cut x.data), countRc r true (s.onRc r (fun c => c.touch l)))
    | none =>
      match bulkReadLine l (countRc r false s) with
      | (.ok d, s) => (.ok (cut d), if alloc then (allocate r l set d false s).2 else s)
      | (.error e, s) => (.error e, s)

/-- Write within one line at its home (08 R212, R218). -/
def homeWrite (n a : Nat) (bs : Bytes) (alloc : Bool) (s : State) : Except Nat Unit × State :=
  let l := a / 128
  if 6 ≤ n then bulkWrite a bs s
  else
    let (r, set, _) := homeOf s n a
    match (s.region r).rc.find l with
    | some x =>
      if x.poisoned && decide (bs.length ≠ 128) then (.error 0x01, s)
      else
        (.ok (), countRc r true (s.onRc r (fun c => (c.onLine l (fun x =>
          { x with data := splice x.data (a % 128) bs, dirty := true, poisoned := false })).touch l)))
    | none =>
      let s := countRc r false s
      if !alloc then bulkWrite a bs s
      else if bs.length = 128 then
        match allocate r l set bs true s with
        | (true, s) => (.ok (), s)
        | (false, s) => bulkWrite a bs s
      else
        match bulkReadLine l s with
        | (.error e, s) => (.error e, s)
        | (.ok d, s) =>
          match allocate r l set (splice d (a % 128) bs) true s with
          | (true, s) => (.ok (), s)
          | (false, s) => bulkWrite a bs s

/-- The coherent view of `len` bytes of one line, changing nothing (08 R215, 18 R490). -/
def viewBulk (s : State) (a len : Nat) : Bytes :=
  let n := shareOwner s a
  let held := if 6 ≤ n then none else (s.region (homeOf s n a).1).rc.find (a / 128)
  match held with
  | some x => (x.data.drop (a % 128)).take len
  | none => bulkBytes s a len

/-- The coherent view of any run of bytes of the Bulk Store. -/
def viewBulkRun (s : State) (a len : Nat) : Bytes :=
  (List.range (cdiv (a % 128 + len) 128)).flatMap (fun i =>
    let lo := max a ((a / 128 + i) * 128)
    viewBulk s lo (min (a + len) ((a / 128 + i + 1) * 128) - lo))

/-- An RC_CTL operation does the sets from `lo` up to `hi` of slice `r` (08 R216–R218): FLUSH writes dirty lines back and
keeps them, INVAL writes them back and drops every line, ZERO drops every line. -/
def scanSets (op : RcOp) (r lo hi : Nat) (s : State) : State :=
  let here := fun (x : CLine) => decide (lo ≤ x.set) && decide (x.set < hi)
  let ls := (s.region r).rc.lines.filter here
  let s := if op = .zero then s else ls.foldl (fun s x => writeBack x s) s
  s.onRc r (fun c => { c with lines := match op with
    | .flush => c.lines.map (fun x => if here x && !x.poisoned then { x with dirty := false } else x)
    | .inval | .zero => c.lines.filter (fun x => !here x) })

/-- The running operation of slice `r` goes on over a free number of sets, as a read of its registers may find it (08
R217). -/
def scanOn (r : Nat) (s : State) : State :=
  let c := (s.region r).rc
  match c.busy with
  | none => s
  | some op =>
    let (k, s) := drawFree 10 s
    let hi := max c.scan (min 512 k.toNat)
    (scanSets op r c.scan hi s).onRc r (fun c => { c with scan := hi })

/-- The running operation of slice `r` ends with its full effect (08 R217). -/
def scanEnd (r : Nat) (s : State) : State :=
  let c := (s.region r).rc
  match c.busy with
  | none => s
  | some op => (scanSets op r c.scan 512 s).onRc r (fun c => { c with busy := none, scan := 0 })

/-- Write back, then invalidate every line (08 R216, R218). -/
def invalSlice (r : Nat) (s : State) : State := scanSets .inval r 0 512 s

/-- Invalidate every line without a write-back (08 R216). -/
def zeroSlice (r : Nat) (s : State) : State := scanSets .zero r 0 512 s

/-- Write back and drop the lines in the ways that satisfy `p` (18 R498). -/
def emptyWays (r : Nat) (p : Nat → Bool) (s : State) : State :=
  let ls := (s.region r).rc.lines.filter (fun x => p x.way)
  (ls.foldl (fun s x => writeBack x s) s).onRc r (fun c => { c with lines := c.lines.filter (fun x => !p x.way) })

/-- Count a corrected error of a slice (08 R216). -/
def correctRc (r : Nat) (s : State) : State :=
  s.onRc r (fun c => { c with ce := BitVec.ofNat 64 (satAdd 64 c.ce.toNat 1) })

/-- A two-bit error strikes the cached line at `a`: a clean line is discarded, fetched again and counted, a dirty one is
poisoned and recorded (08 R218). A clean line that cannot be fetched again stays out. -/
def strikeLine (a : Nat) (s : State) : State :=
  let n := shareOwner s a
  if 6 ≤ n then s
  else
    let r := (homeOf s n a).1
    match (s.region r).rc.find (a / 128) with
    | none => s
    | some x =>
      if x.poisoned then s
      else if x.dirty then
        raiseRec (plainRec s 0x01 0 1 (partOfRegion s r) 10 r (a / 128 * 128))
          (s.onRc r (fun c => c.onLine (a / 128) (fun x => { x with poisoned := true })))
      else match bulkReadLine (a / 128) (correctRc r s) with
        | (.ok d, s) => s.onRc r (fun c => c.onLine (a / 128) (fun x => { x with data := d }))
        | (.error _, s) => s.onRc r (fun c => c.dropLine (a / 128))

/-- A one-bit error strikes the cached line at `a`. -/
def strikeLineOne (a : Nat) (s : State) : State :=
  let n := shareOwner s a
  if 6 ≤ n then s
  else
    let r := (homeOf s n a).1
    if ((s.region r).rc.find (a / 128)).isSome then correctRc r s else s

end Sys2Proof.Machine
end

