-- ==== Sys2Proof/Machine/Owned.lean ====
section
/-!
DEFINITION. Slots of a list (10 R267) and memory that a unit owns from acceptance to completion (03 R76; 10 R268, R271,
R283; 11 R292).
-/
namespace Sys2Proof.Machine

/-! ### Slots (10 R267) -/

/-- A slot of a list. -/
structure Slot where
  kind : Nat
  acct : Nat
  remote : Bool
  nostage : Bool
  resv : Nat
  peer : Nat
  dev : Nat
  seq : Nat
  loc : Nat
  len : Nat
  stage : Nat
  group : Nat
  deriving DecidableEq, Repr

/-- Read the fields of a slot. -/
def slotOf (v : BitVec 128) : Slot :=
  let n := v.toNat
  { kind := fld n 0 2, acct := fld n 2 2, remote := nbit n 4, nostage := nbit n 5, resv := fld n 6 2 + fld n 21 11,
    peer := fld n 8 13, dev := fld n 32 16, seq := fld n 48 16, loc := fld n 64 20, len := fld n 84 20,
    stage := fld n 104 20, group := fld n 124 4 }

/-- Whether a slot receives. -/
def Slot.receives (k : Slot) : Bool := k.kind == 1 || k.kind == 2

/-- Whether a slot has a staging range. -/
def Slot.stages (k : Slot) : Bool := k.kind == 2 && !k.nostage

/-- The slots of a list. -/
def RunList.all (l : RunList) : List Slot := l.slots.map slotOf

/-- Slot `i` of a list. -/
def RunList.slot (l : RunList) (i : Nat) : Slot := slotOf ((l.slots[i]?).getD 0)

/-- Bytes of the completion bitmap (10 R267). -/
def bitmapBytes (nslots : Nat) : Nat := 64 * cdiv nslots 512

/-- The memory that one slot writes, as ranges of local offsets of tile `t`. -/
def Slot.writes (k : Slot) (t : Nat) : List (Nat × Nat) :=
  (if k.receives then [(tileBase t + k.loc, k.len)] else []) ++ (if k.stages then [(tileBase t + k.stage, k.len)] else [])

/-- The memory that a slot uses. -/
def Slot.uses (k : Slot) (t : Nat) : List (Nat × Nat) := if k.kind = 0 then [(tileBase t + k.loc, k.len)] else k.writes t

/-- The memory that a list writes until it completes. -/
def RunList.res (l : RunList) (t : Nat) : List (Nat × Nat) :=
  if l.stopped then [] else (tileBase t + l.bitmap, bitmapBytes l.nslots) :: l.all.flatMap (fun k => k.writes t)

/-! ### Ownership -/

/-- Whether two runs of bytes meet. -/
def meets (a n b m : Nat) : Bool := decide (0 < n) && decide (0 < m) && decide (a < b + m) && decide (b < a + n)

/-- Whether the `n` bytes at `a` meet a list of ranges. -/
def meetsAny (a n : Nat) (l : List (Nat × Nat)) : Bool := l.any (fun r => meets a n r.1 r.2)

/-- The requests that a branch or the root holds. -/
def EnlBranch.reqs (e : EnlBranch) : List EnlReq := (match e.cur with | some p => [p.1] | none => []) ++ e.queue

/-- Every accepted Enlarger request (10 R284). -/
def enlReqs (s : State) : List EnlReq := s.dev.root.reqs ++ s.regions.flatMap (fun p => p.2.enl.reqs)

/-- Whether tile `t'` is a target of a request (10 R282). -/
def EnlReq.reaches (s : State) (q : EnlReq) (t' : Nat) : Bool :=
  if q.chip then decide (partOf s q.t < 6) && decide (partOf s t' = partOf s q.t) else regionOf t' == regionOf q.t

/-- Whether a request's destination meets the `n` bytes at local offset `a`. -/
def EnlReq.writes (s : State) (q : EnlReq) (a n : Nat) : Bool :=
  decide (a < 0x120000000) && q.reaches s (a / 0x100000) && meets (a % 0x100000) n q.dst (128 * q.lines)

/-- Whether an operation of a unit writes any of the `n` bytes at `a`, the list engine's left aside. -/
def ownedByOp (s : State) (a n : Nat) : Bool :=
  (s.tiles.any (fun p => p.2.un.units.any (fun u => u.2.ops.any (fun op => meetsAny a n op.res))))
    || (enlReqs s).any (fun q => q.writes s a n)

/-- A queue's capacity, entry size in lines, and base (11 R295). -/
def queueGeom (r : BitVec 2176) (q1 : Bool) : Nat × Nat × Nat :=
  let n := r.toNat
  if q1 then (fld n 24 7, fld n 32 5, fld n 96 20) else (fld n 8 7, fld n 16 5, fld n 64 20)

/-- The bytes of entry `i` of a receive queue of tile `t` (11 R295). -/
def entryRange (t : Nat) (r : BitVec 2176) (q1 : Bool) (i : Nat) : Nat × Nat :=
  let (_, lines, base) := queueGeom r q1
  (tileBase t + base + 64 * lines * i, 64 * lines)

/-- Whether the `n` bytes at `a` meet an occupied entry of tile `t` that another agent wrote (11 R302). -/
def Mail.blurred (m : Mail) (t a n : Nat) : Bool :=
  match m.record with
  | none => false
  | some r => [(false, m.q0), (true, m.q1)].any (fun p => p.2.entries.any (fun e =>
      e.tainted && (let (b, k) := entryRange t r p.1 e.idx; meets a n b k)))

/-- Whether a running operation or list writes any of the `n` bytes at `a`, or they are of a message entry that another agent
wrote: what reads them gets free values (03 R76, 11 R302). -/
def ownedResult (s : State) (a n : Nat) : Bool :=
  ownedByOp s a n || s.tiles.any (fun p => (match p.2.un.list with
    | some l => meetsAny a n (l.res p.1)
    | none => false) || p.2.mail.blurred p.1 a n)

/-- Mark the slots whose memory a write of `n` bytes at `a` meets and that have not been sent or filled. -/
def RunList.touch (l : RunList) (t a n : Nat) : RunList :=
  { l with tainted := l.tainted ++ (l.all.zipIdx.filter (fun p =>
      meetsAny a n (p.1.uses t) && !l.tainted.contains p.2)).map (fun p => p.2) }

/-- Mark an XSTART whose list header a write of `n` bytes at `a` meets (10 R268). -/
def StartReq.touch (q : StartReq) (a n : Nat) : StartReq :=
  if q.kind = .xstart ∧ meets a n (fld q.a.toNat 0 47) 16 then { q with tainted := true } else q

/-- Mark the occupied entries that a write of `n` bytes at `a` meets; a running handler's own write leaves its entry as it is
(11 R302). -/
def Mail.touch (m : Mail) (t a n : Nat) (own : Bool) : Mail :=
  match m.record with
  | none => m
  | some r =>
    let mark := fun (q1 : Bool) (q : RecvQ) => { q with entries := q.entries.map (fun e =>
      let (b, k) := entryRange t r q1 e.idx
      if meets a n b k && !(own && decide (m.running = some (q1, e.idx))) then { e with tainted := true } else e) }
    { m with q0 := mark false m.q0, q1 := mark true m.q1 }

/-- Mark the requests, the running operations, the slots, the messages and the entries whose memory a write of `n` bytes at `a`
meets; `own` says that the tile's running handler writes. -/
def Tile.touch (x : Tile) (t a n : Nat) (own : Bool) : Tile :=
  let mark := fun (op : RunOp) => if meetsAny a n (op.opnd ++ op.res) then { op with tainted := true } else op
  let x := [0, 1, 2, 3, 4].foldl (fun (x : Tile) u => if (x.unit u).ops = [] then x else x.onUnit u (fun q => q.mapOps mark)) x
  let x := x.onUn (fun u => { u with list := u.list.map (fun l => l.touch t a n), handed := u.handed.map (fun q => q.touch a n) })
  let x := if (x.unit 4).queue = [] then x else x.onUnit 4 (fun u => { u with queue := u.queue.map (fun q => q.touch a n) })
  let x := if x.mail.q0.entries = [] ∧ x.mail.q1.entries = [] then x else { x with mail := x.mail.touch t a n own }
  if x.mail.sends = [] then x
  else { x with mail := { x.mail with sends := x.mail.sends.map (fun p => (p.1, p.2.map (fun m =>
      if meets a n (tileBase t + m.payload) m.len then { m with tainted := true } else m))) } }

/-- Mark a request whose source in a tile a write meets. -/
def EnlReq.touch (q : EnlReq) (a n : Nat) : EnlReq :=
  if meets a n (fld q.src.toNat 0 47) (128 * q.lines) && decide (fld q.src.toNat 0 47 < 0x120000000) then
    { q with tainted := true } else q

/-- Mark the requests of a branch. -/
def EnlBranch.touch (e : EnlBranch) (a n : Nat) : EnlBranch :=
  { e with cur := e.cur.map (fun p => (p.1.touch a n, p.2)), queue := e.queue.map (fun q => q.touch a n) }

/-- Whether a tile has anything that a write could touch. -/
def Tile.busy (x : Tile) : Bool :=
  !x.un.units.isEmpty || x.un.handed.isSome || x.un.list.isSome || !x.mail.sends.isEmpty
    || !x.mail.q0.entries.isEmpty || !x.mail.q1.entries.isEmpty

/-- A write of `n` bytes at `a` by a context or another unit; `own` says that the handler which runs in the tile there writes. -/
def touchWrite (a n : Nat) (s : State) (own : Bool := false) : State :=
  let s := { s with tiles := s.tiles.map (fun p => if p.2.busy then (p.1, p.2.touch p.1 a n own) else p) }
  if (enlReqs s).isEmpty then s
  else { s with regions := s.regions.map (fun p => (p.1, { p.2 with enl := p.2.enl.touch a n })),
                dev := { s.dev with root := s.dev.root.touch a n } }

/-- What a context or another unit reads: free values where a unit owns the bytes as a result (03 R76). -/
def readShared (a n : Nat) (s : State) : Bytes × State := if ownedResult s a n then drawBytes n s else (s.bytes a n, s)

/-- Whether the bytes of a run are unspecified to a start request: a unit owns them as a result, or its handler retired the entry
that held them (03 R76, 11 R302). -/
def StartReq.unsure (q : StartReq) (s : State) (a n : Nat) : Bool := ownedResult s a n || meetsAny a n q.lost

/-- What a unit reads for a start request. -/
def readFor (q : StartReq) (a n : Nat) (s : State) : Bytes × State := if q.unsure s a n then drawBytes n s else (s.bytes a n, s)

/-- The memory that a unit sees which reads some ranges for a start request: those that are unspecified hold free values. -/
def viewFor (q : StartReq) (l : List (Nat × Nat)) (s : State) : State :=
  l.foldl (fun v r =>
    if q.unsure s r.1 r.2 then
      let (bs, v) := drawBytes r.2 v
      { v with mem := Map.fill 0#8 v.mem r.1 bs }
    else v) s

/-- What a context or another unit writes. -/
def writeShared (a : Nat) (bs : Bytes) (s : State) (own : Bool := false) : State := (touchWrite a bs.length s own).poke a bs

/-- Whether context `c` of tile `t` runs a handler (11 R301). -/
def runsHandler (s : State) (t c : Nat) : Bool := (s.tile t).mail.running.isSome && decide ((s.tile t).mail.handler = some c)

end Sys2Proof.Machine
end

