-- ==== Sys2Proof/Machine/Slice.lean ====
section
/-!
DEFINITION. What a home slice does with a request that it takes, and with one that has to wait (08 R212, R217).
-/
namespace Sys2Proof.Machine

/-- Send an answer toward its issuer. -/
def answer (r : MemReq) (v : MemRes) (s : State) : State :=
  countLine 0x20 (some (nodeAt s r.addr)) <| onMesh (r.iss.node.map (fun d => (nodeAt s r.addr, d))) (fun x n => { n with answers := n.answers ++ [{ req := r, res := v, sent := x }] }) s

/-- The bytes that a load moves: with a fill, its whole 64 B line (03 R98). -/
def MemOp.span (op : MemOp) (a : Nat) : Nat × Nat :=
  match op with
  | .load _ _ _ true => (a / 64 * 64, 64)
  | .load _ size _ false => (a, size)
  | .loadDesc _ => (a, 32)
  | .store d | .acc _ d | .fillStore d => (a, d.length)

/-- Whether the slice that serves an access is BUSY (08 R217). -/
def sliceBusy (s : State) (n a : Nat) : Bool :=
  decide (n < 6) && ((s.region (homeOf s n a).1).rc.busy).isSome

/-- An access to a Bulk Store line takes effect at its home. Bytes that a unit owns as a result read as free values
(03 R76). -/
def atBulk (alloc : Bool) (r : MemReq) (s : State) : MemRes × State :=
  let n := shareOwner s r.addr
  match r.op with
  | .load _ _ _ _ | .loadDesc _ =>
    let (a, k) := r.op.span r.addr
    match homeRead n a k alloc s with
    | (.ok d, s) => if ownedResult s a k then let (d, s) := drawBytes k s; (.data d, s) else (.data d, s)
    | (.error c, s) => (.fault (BitVec.ofNat 8 c) r.addr, s)
  | .store d | .acc _ d | .fillStore d =>
    match homeWrite n r.addr d alloc (touchWrite r.addr d.length s) with
    | (.ok _, s) => (.ack, s)
    | (.error c, s) => (.fault (BitVec.ofNat 8 c) r.addr, s)

/-- Whether a line is in a partition's home slice. -/
def held (s : State) (n a : Nat) : Bool := decide (n < 6) && ((s.region (homeOf s n a).1).rc.find (a / 128)).isSome

/-- The fill that is under way for a line. -/
def fillOf (s : State) (l : Nat) : Bool := s.net.fills.any (fun f => f.line = l)

/-- Serve the accesses that waited for a line, in order. -/
def serveWaiting (l : List MemReq) (s : State) : State :=
  l.foldl (fun s r => let (v, s) := atBulk true r s; answer r v s) s

/-- The `i`-th fill's data returns: the line is allocated and what waited is served (08 R212, R218). -/
def endFill (i : Nat) (s : State) : State :=
  match s.net.fills[i]? with
  | none => s
  | some f => serveWaiting f.waiting (s.onNet (fun n => { n with fills := dropAt i n.fills }))

/-- A request that an operation of one step makes waits at its line's home until the slice is not BUSY and the line's fill is
there (08 R212, R217; log 75): both end within the step. -/
def awaitLine (a : Nat) (s : State) : State :=
  let n := shareOwner s a
  let s := if sliceBusy s n a then scanEnd (homeOf s n a).1 s else s
  match s.net.fills.findIdx? (fun f => f.line = a / 128) with
  | some i => endFill i s
  | none => s

/-- A read at a line's home by an operation of one step. -/
def awaitRead (a len : Nat) (s : State) : Except Nat Bytes × State :=
  let s := awaitLine a s
  homeRead (shareOwner s a) a len false s

/-- A write at a line's home by an operation of one step. -/
def awaitWrite (a : Nat) (d : Bytes) (s : State) : Except Nat Unit × State :=
  let s := awaitLine a s
  homeWrite (shareOwner s a) a d false s

end Sys2Proof.Machine
end

