-- ==== Sys2Proof/Machine/Trace.lean ====
section
/-!
DEFINITION. Trace records and the Contact Sheet (18 R498–R502).
-/
namespace Sys2Proof.Machine

/-- The 32 bytes of a fault record (16 R432). -/
def recBytes (r : Rec) : Bytes :=
  toBytes (r.code.toNat + r.severity.toNat * 2 ^ 8 + r.scope.toNat * 2 ^ 12 + r.tile.toNat * 2 ^ 16 + r.ctx.toNat * 2 ^ 29
    + r.iaddr.toNat * 2 ^ 32 + r.daddr.toNat * 2 ^ 64 + r.step.toNat * 2 ^ 112 + r.time.toNat * 2 ^ 144
    + r.tepoch.toNat * 2 ^ 192 + r.part.toNat * 2 ^ 208 + r.src.toNat * 2 ^ 211 + r.aux.toNat * 2 ^ 216
    + r.progress.toNat * 2 ^ 224) 32

/-- A trace record of 64 B (18 R501). -/
def traceBytes (s : State) (kind ctx tile step iaddr : Nat) (payload : Bytes) : Bytes :=
  toBytes kind 1 ++ toBytes ctx 1 ++ toBytes tile 2 ++ toBytes step 4 ++ toBytes (hubTime s) 8 ++ toBytes iaddr 4
    ++ padTo 44 payload

/-- Records that the Contact Sheet holds. -/
def sheetRecords (s : State) : Nat := s.dev.trace.size.toNat / 64

/-- Count a dropped record (18 R500). -/
def dropTrace (s : State) : State := s.onTrace (fun t => { t with dropped := satAdd 64 t.dropped 1 })

/-- Recording stops; the functions hear of it (18 R500, 19 R512). -/
def stopTrace (s : State) : State := causeAll 6 (s.onTrace (fun t => { t with st := 3 }))

/-- Where the next record stands in the Contact Sheet (18 R500). -/
def sheetAt (s : State) : Nat :=
  let t := s.dev.trace
  shareBase s t.part + t.base.toNat + 64 * (if t.mode.getLsbD 0 then t.written % sheetRecords s else t.written)

/-- Write one record to the Contact Sheet, in the mode in force (18 R498, R500). -/
def putTrace (bs : Bytes) (s : State) : State :=
  let t := s.dev.trace
  let ring := t.mode.getLsbD 0
  if t.on ≠ 1 ∨ t.st = 0 ∨ t.st = 1 then s
  else if t.st = 3 then (if ring then s else dropTrace s)
  else
    let n := sheetRecords s
    match homeWrite t.part (sheetAt s) bs true s with
    | (.error _, s) => dropTrace s
    | (.ok _, s) =>
      let left := s.dev.trace.left.map (· - 1)
      let w := s.dev.trace.written + 1
      let s := s.onTrace (fun t => { t with written := w, left := left })
      if (!ring && decide (n ≤ w)) || decide (left = some 0) then stopTrace s else s

/-! ### The hubs' queues (18 R499) -/

/-- Change region `r`'s queue of records. -/
def onTraceQ (r : Nat) (f : List Bytes → List Bytes) (s : State) : State := s.onRegion r (fun g => { g with traceQ := f g.traceQ })

/-- Whether the slice of the next record's line takes no request: it is BUSY, or the line's fill is under way (08 R212, R217). -/
def sheetBusy (s : State) : Bool :=
  let t := s.dev.trace
  decide (t.on = 1) && decide (t.st = 2) && (sliceBusy s t.part (sheetAt s) || fillOf s (sheetAt s / 128))

/-- Room has returned in region `r`'s queue: a LOST record goes in before any newer one, where records were dropped. -/
def noteLost (r : Nat) (s : State) : State :=
  let k := (s.region r).traceLost
  if k = 0 then s
  else onTraceQ r (fun q => q ++ [traceBytes s 0xB 0 0x1FFF (stepOf s s.dev.trace.part).toNat 0xFFFFFFFF (toBytes k 8)])
    (s.onRegion r (fun g => { g with traceLost := 0 }))

/-- Region `r`'s hub writes the records of its queue to the Contact Sheet while a slice takes them (DESIGN CHOICE, log 51: a
record waits for nothing else). `fuel` bounds them. -/
def drainTrace : Nat → Nat → State → State
  | 0, _, s => s
  | fuel + 1, r, s =>
    match (s.region r).traceQ with
    | [] => s
    | bs :: _ =>
      if sheetBusy s then s
      else drainTrace fuel r (noteLost r (putTrace bs (onTraceQ r (fun q => q.drop 1) s)))

/-- A record reaches region `r`'s hub: it is queued, or dropped and counted where 256 wait. -/
def pushTrace (r : Nat) (bs : Bytes) (s : State) : State :=
  if 256 ≤ (s.region r).traceQ.length then
    dropTrace (s.onRegion r (fun g => { g with traceLost := satAdd 64 g.traceLost 1 }))
  else drainTrace 512 r (onTraceQ r (fun q => q ++ [bs]) s)

/-- Every hub's queue goes on, as a slice takes requests again. -/
def drainTraces (s : State) : State :=
  (List.range 18).foldl (fun s r => if (s.region r).traceQ = [] then s else drainTrace 512 r s) s

/-- Whether records of a kind are enabled (18 R502). -/
def kindOn (s : State) (kind : Nat) : Bool := decide (s.dev.trace.on = 1) && s.dev.trace.kinds.getLsbD kind

/-- A record of tile `t`, written where the tile is of the traced partition and inside the tile range (18 R502). -/
def traceTile (t kind ctx iaddr : Nat) (payload : Bytes) (s : State) : State :=
  let lo := fld s.dev.trace.tiles.toNat 0 13
  let hi := fld s.dev.trace.tiles.toNat 16 13
  if kindOn s kind && decide (partOf s t = s.dev.trace.part) && decide (lo ≤ t) && decide (t ≤ hi) then
    pushTrace (regionOf t) (traceBytes s kind ctx t (s.tile t).phaseStep.toNat iaddr payload) s
  else s

/-- A record of the hub of region `r`, of partition `n` (18 R502). -/
def traceHub (r n kind : Nat) (payload : Bytes) (s : State) : State :=
  if kindOn s kind && decide (n = s.dev.trace.part) then
    pushTrace r (traceBytes s kind 0 0x1FFF (stepOf s n).toNat 0xFFFFFFFF payload) s
  else s

/-- A trigger: a waiting recording begins, and in freeze mode the count of further records is set (18 R500). -/
def triggerTrace (s : State) : State :=
  if s.dev.trace.on ≠ 1 then s
  else
    let s := s.onTrace (fun t => { t with st := if t.st = 1 then 2 else t.st })
    let t := s.dev.trace
    if t.st = 2 ∧ t.mode.getLsbD 2 ∧ t.mode.getLsbD 0 ∧ t.left = none then
      let s := s.onTrace (fun t => { t with left := some t.after.toNat })
      if t.after = 0 then stopTrace s else s
    else s

end Sys2Proof.Machine
end

