-- ==== Sys2Proof/Machine/Issue.lean ====
section
/-!
DEFINITION. How a context issues an instruction: when it can (03 R63, R66, 02 R46, 18 R494), what is in flight for it,
and how each kind of instruction ends (03 R65, R105).
-/
namespace Sys2Proof.Machine

/-! ### What is in flight -/

/-- Every access in flight. -/
def inFlight (s : State) : List MemReq :=
  s.net.reqs ++ s.net.slice ++ s.net.fills.flatMap (fun f => f.waiting) ++ s.net.hostq.map (fun h => h.req)
    ++ s.net.answers.map (fun a => a.req) ++ s.net.far.map (fun f => f.2)

/-- Whether an access is of context `c` of tile `t`. -/
def MemReq.of (r : MemReq) (t c : Nat) : Bool :=
  match r.iss with
  | .ctx t' c' _ => decide (t' = t) && decide (c' = c)
  | .far _ _ _ _ => false
  | .xfer _ => false
  | .nib _ => false

/-- The accesses of a context in flight. -/
def ctxReqs (s : State) (t c : Nat) : List MemReq := (inFlight s).filter (fun r => r.of t c)

/-- Whether an access writes (08 R225). -/
def MemOp.isWrite : MemOp → Bool
  | .load _ _ _ _ | .loadDesc _ => false
  | .store _ | .acc _ _ | .fillStore _ => true

/-- The general registers that an access will write. -/
def MemOp.regs : MemOp → List Nat
  | .load rt size _ _ => (List.range (max 1 (size / 8))).map (rt + ·)
  | _ => []

/-- The descriptor registers that an access will write. -/
def MemOp.descs : MemOp → List Nat
  | .loadDesc d => [d]
  | _ => []

/-- Whether an access is an acquire load. -/
def MemOp.isAcquire : MemOp → Bool
  | .load _ _ acq _ => acq
  | _ => false

/-- Whether a message of the context is not accepted yet; it counts as a write (11 R292). -/
def messagesOut (s : State) (t c : Nat) : Bool :=
  (s.tile t).mail.sends.any (fun p => match p.2 with | some m => decide (m.ctx = c) | none => false)

/-- Whether a write of the context is not acknowledged yet (08 R226). -/
def writesOut (s : State) (t c : Nat) : Bool := (ctxReqs s t c).any (fun r => r.op.isWrite) || messagesOut s t c

/-- Whether anything of the context is outstanding (08 R228). A flag or semaphore operation holds its context, so none
is outstanding when a fence issues. -/
def anyOut (s : State) (t c : Nat) : Bool := !(ctxReqs s t c).isEmpty || messagesOut s t c

/-- Let the contexts of tile `t` whose fence or release has nothing left to wait for issue it (08 R226, R228). -/
def wakeFences (t : Nat) (s : State) : State :=
  [0, 1, 2, 3].foldl (fun s c =>
    if (s.tile t).waitsFor c (.fence true) && !anyOut s t c || (s.tile t).waitsFor c (.fence false) && !writesOut s t c
    then s.onTile t (fun x => x.wake c) else s) s

/-! ### Registers an instruction uses -/

/-- The registers and descriptor registers that an instruction reads and writes. -/
structure Uses where
  reads : List Nat := []
  writes : List Nat := []
  dreads : List Nat := []
  dwrites : List Nat := []
  deriving DecidableEq, Repr

/-- State tensors of an optimiser rule (13 R345). -/
def optStates (sub : Nat) : Nat := if sub = 2 ∨ sub = 3 ∨ sub = 4 then 2 else 1

/-- The descriptor registers that a start request reads at acceptance. -/
def StartReq.descs (q : StartReq) : List Nat :=
  match q.kind with
  | .xstart | .enl => []
  | .opt => [q.dd.toNat, q.da.toNat, q.db.toNat] ++ (if optStates q.sub.toNat = 2 then [(q.db.toNat + 1) % 8] else [])
  | _ => [q.dd.toNat, q.da.toNat, q.db.toNat]

/-- Whether an operation draws Grain bits at IDXBASE, by its parameter word: RND = 1, a SAMP with T > 0, and every GRN (06 R160,
R173; 13 R372). -/
def OpKind.readsIdx (k : OpKind) (param : Word) : Bool :=
  match k with
  | .grn => true
  | .samp => fld param.toNat 32 31 != 0
  | .vop | .vtr | .cvt | .fill => param.getLsbD 0
  | _ => false

/-- The registers that a start request reads at acceptance: gp, and the one after it for IDXBASE. -/
def StartReq.regs (q : StartReq) (k : Ctx) : List Nat :=
  q.gp.toNat :: (if q.kind.readsIdx (k.reg q.gp.toNat) then [(q.gp.toNat + 1) % 32] else [])

/-- The requests of context `c` that wait in the tile's start queues. -/
def queuedOf (x : Tile) (c : Nat) : List StartReq :=
  [0, 1, 2, 3, 4].flatMap (fun u => (x.unit u).queue.filter (fun q => q.ctx = c))

/-- Whether an instruction must wait for a register: a load in flight will write it (02 R46), or a request in a start
queue is still to read it (03 R75). -/
def interlocked (s : State) (t c : Nat) (u : Uses) : Bool :=
  let rs := ctxReqs s t c
  let comingR := rs.flatMap (fun r => r.op.regs)
  let comingD := rs.flatMap (fun r => r.op.descs)
  let qs := queuedOf (s.tile t) c
  (u.reads ++ u.writes).any (fun r => decide (r ≠ 0) && comingR.contains r)
    || (u.dreads ++ u.dwrites).any (fun d => comingD.contains d)
    || u.writes.any (fun r => decide (r ≠ 0) && qs.any (fun q => (q.regs (s.cx t c)).contains r))
    || u.dwrites.any (fun d => qs.any (fun q => q.descs.contains d))

/-! ### Issue -/

/-- Whether a context can issue: it runs, no acquire load of it is still out (08 R227), no halt waits for it (18 R491), and
the device has not tripped (15 R418). -/
def canIssue (s : State) (t c : Nat) : Bool :=
  !s.dev.boot.trip && !(s.tile t).dbg.waiting && decide ((s.cx t c).st = .run) && !(s.tile t).clearing && !(ctxReqs s t c).any (fun r => r.op.isAcquire)

/-- Whether a breakpoint register matches (18 R494). -/
def bkptHit (b : Word) (c : Nat) (pc : BitVec 32) : Bool :=
  b.getLsbD 36 && b.getLsbD (32 + c) && decide (fld b.toNat 2 30 * 4 = pc.toNat)

/-- Whether an armed breakpoint halts the context before its next instruction. A granted step passes it. -/
def breaks (s : State) (t c : Nat) : Bool :=
  let x := s.tile t
  !(x.cx c).stepGrant && (bkptHit x.dbg.bkpt0 c (x.cx c).pc || bkptHit x.dbg.bkpt1 c (x.cx c).pc)

/-- Halt a context at an instruction boundary (18 R491). -/
def haltCtx (t c : Nat) (s : State) : State := s.onCx t c (fun k => { k with st := .halt, stepGrant := false })

/-- Fetch the line that holds the PC, unless the context has it (03 R66). -/
def fetched (t c : Nat) (s : State) : State :=
  let line := (s.cx t c).pc.toNat / 64 * 64
  match (s.cx t c).fetch with
  | some f => if f.line = line then s else
      s.onCx t c (fun k => { k with fetch := some { line := line, bad := s.bad.filter (fun a => a / 64 = (tileBase t + line) / 64) } })
  | none =>
      s.onCx t c (fun k => { k with fetch := some { line := line, bad := s.bad.filter (fun a => a / 64 = (tileBase t + line) / 64) } })

/-- The codeword of the next instruction. -/
def nextCodeword (s : State) (t c : Nat) : Nat := tileBase t + (s.cx t c).pc.toNat / 8 * 8

/-- Whether the fetch line holds a two-bit error in the next instruction's codeword (03 R66). -/
def fetchBad (s : State) (t c : Nat) : Bool :=
  match (s.cx t c).fetch with
  | some f => f.bad.contains (nextCodeword s t c)
  | none => false

/-- How an instruction ends. -/
inductive Eff where
  /-- It is done and the PC moves to the next word. -/
  | done (s : State)
  /-- It jumps to `npc`. -/
  | jump (s : State) (npc : BitVec 32)
  /-- It faults and has no effect (03 R105). -/
  | fault (code daddr : Nat)
  /-- It waits at its address. -/
  | wait (w : WaitFor)
  /-- It has left state `s`, which says where its context stands. -/
  | left (s : State)

/-- The last word of a tile (03 R65). -/
def lastPc : BitVec 32 := 0xFFFFC#32

/-- Carry out the end of an instruction of context `c` of tile `t`, which began in `s`. Off the end of the tile, any
instruction but a jump faults (03 R65). -/
def finish (t c : Nat) (s : State) : Eff → State
  | .fault code daddr => issueFault t c code s daddr
  | .jump s' npc => s'.onTile t (fun x => (x.retire c npc).onCx c (fun k => { k with fetch := none }))
  | .done s' => if (s.cx t c).pc = lastPc then issueFault t c 0x02 s
      else s'.onTile t (fun x => x.retire c ((s.cx t c).pc + 4))
  | .wait w => if (s.cx t c).pc = lastPc then issueFault t c 0x02 s else s.onTile t (fun x => x.block c w)
  | .left s' => if (s.cx t c).pc = lastPc then issueFault t c 0x02 s else s'

/-- Issue an instruction of context `c` of tile `t` that uses `u` and acts as `body` says. Where the context cannot
issue, nothing happens (log 1). -/
def issue (t c : Nat) (u : Uses) (body : State → Eff) (s : State) : State :=
  if !canIssue s t c then s
  else if breaks s t c then (haltCtx t c s).onTile t (fun x => { x with dbg := { x.dbg with hold := true } })
  else if interlocked s t c u then s
  else
    let s := fetched t c s
    if fetchBad s t c then issueFault t c 0x01 s (nextCodeword s t c)
    else finish t c s (body s)

/-- An instruction whose fields break R70's rules faults before anything else. -/
def legal (ok : Bool) (body : State → Eff) (s : State) : Eff := if ok then body s else .fault 0x0B 0

end Sys2Proof.Machine
end

