-- ==== Sys2Proof/Machine/Operands.lean ====
section
/-!
DEFINITION. Operand forms: registers and immediates, the M format's address and register group (03 R68), jump targets
(03 R65) and the fields of a tensor descriptor (03 R78).
-/
namespace Sys2Proof.Machine

/-- A register operand of context `c` of tile `t`. -/
def rv (s : State) (t c : Nat) (r : BitVec 5) : Word := (s.cx t c).reg r.toNat

/-- Write a register result. -/
def setRv (t c : Nat) (r : BitVec 5) (v : Word) (s : State) : State := s.onCx t c (fun k => k.setReg r.toNat v)

/-- A 16-bit immediate, sign-extended (03 R67). -/
def immWord (imm : BitVec 16) : Word := imm.signExtend 64

/-! ### Jump targets -/

/-- Whether a 64-bit target can be a PC: bits [63:20] and [1:0] are 0 (03 R65). -/
def pcOk (w : Word) : Bool := decide (w.toNat < 0x100000) && decide (w.toNat % 4 = 0)

/-- The target of a PC-relative jump. -/
def pcRel (pc : BitVec 32) (imm : BitVec 16) : Word := pc.setWidth 64 + immWord imm * 4#64

/-! ### The M format (03 R68) -/

/-- The access size of a width code; none for the reserved one. -/
def accessSize (width : BitVec 3) : Option Nat :=
  match width.toNat with
  | 0 => some 1 | 1 => some 2 | 2 => some 4 | 3 => some 8 | 4 => some 16 | 5 => some 32 | 6 => some 64 | _ => none

/-- The registers of a group from `rt`. -/
def regGroup (rt size : Nat) : List Nat := (List.range (max 1 (size / 8))).map (rt + ·)

/-- The multiple rule for `rt`. -/
def rtOk (rt : BitVec 5) (size : Nat) : Bool := decide (rt.toNat % max 1 (size / 8) = 0)

/-- rb + off11 x size. -/
def memAddr (s : State) (t c : Nat) (rb : BitVec 5) (off : BitVec 11) (size : Nat) : Word :=
  rv s t c rb + off.signExtend 64 * BitVec.ofNat 64 size

/-- The bytes that a store takes from its registers, lowest register first. -/
def storeBytes (s : State) (t c : Nat) (rt size : Nat) : Bytes :=
  if size ≤ 8 then toBytes ((s.cx t c).reg rt).toNat size
  else (regGroup rt size).flatMap (fun r => toBytes ((s.cx t c).reg r).toNat 8)

/-- A load's bytes put into its registers; narrow loads zero-extend and g0's share is discarded. -/
def Ctx.loadRegs (k : Ctx) (rt : Nat) (bs : Bytes) : Ctx :=
  ((pieces 8 8 bs).zipIdx).foldl (fun k p => k.setReg (rt + p.2) (BitVec.ofNat 64 (leNat p.1))) k

/-! ### Tensor descriptors (03 R78) -/

/-- The fields of a tensor descriptor. -/
structure Desc where
  base : Word
  ext0 : Nat
  ext1 : Nat
  ext2 : Nat
  fmt : Nat
  sgn : Bool
  scl : Nat
  mta : Nat
  kdim : Nat
  bc1 : Bool
  bc2 : Bool
  stride1 : Nat
  stride2 : Nat
  aux0 : Nat
  aux1 : Nat
  deriving DecidableEq, Repr

/-- Read the fields of a descriptor. -/
def descOf (v : BitVec 256) : Desc :=
  let n := v.toNat
  { base := BitVec.ofNat 64 (fld n 0 64), ext0 := fld n 64 16, ext1 := fld n 80 16, ext2 := fld n 96 16,
    fmt := fld n 112 4, sgn := nbit n 116, scl := fld n 117 2, mta := fld n 119 2, kdim := fld n 121 1,
    bc1 := nbit n 122, bc2 := nbit n 123, stride1 := fld n 128 32, stride2 := fld n 160 32, aux0 := fld n 192 32,
    aux1 := fld n 224 32 }

end Sys2Proof.Machine
end

