-- ==== Sys2Proof/Machine/Alu.lean ====
section
/-!
DEFINITION. Arithmetic, branches and jumps of the tile core (03 R65, R70, R71).
-/
namespace Sys2Proof.Machine

/-- The ALU operations by fn (03 R71); none for a reserved code. -/
def aluOp (fn : Nat) (a b : Word) : Option Word :=
  match fn with
  | 0 => some (a + b)
  | 1 => some (a - b)
  | 2 => some (a &&& b)
  | 3 => some (a ||| b)
  | 4 => some (a ^^^ b)
  | 5 => some (a <<< (b.toNat % 64))
  | 6 => some (a >>> (b.toNat % 64))
  | 7 => some (a.sshiftRight (b.toNat % 64))
  | 8 => some (boolWord (BitVec.slt a b))
  | 9 => some (boolWord (BitVec.ult a b))
  | 10 => some (if BitVec.slt a b then a else b)
  | 11 => some (if BitVec.slt a b then b else a)
  | 12 => some (if BitVec.ult a b then a else b)
  | 13 => some (if BitVec.ult a b then b else a)
  | 14 => some (a * b)
  | 15 => some (BitVec.ofInt 64 (a.toInt * b.toInt / 2 ^ 64))
  | 16 => some (BitVec.ofNat 64 (a.toNat * b.toNat / 2 ^ 64))
  | 17 => some (BitVec.ofNat 64 (clz a.toNat 64))
  | 18 => some (BitVec.ofNat 64 (popCount a.toNat 64))
  | _ => none

/-- Whether an ALU operation leaves rs2 unused (03 R71). -/
def aluUnary (fn : Nat) : Bool := fn == 17 || fn == 18

/-- The FPU operations by fn (03 R71); none for a reserved code. -/
def fpuOp (fn : Nat) (a b : Word) : Option Word :=
  match fn with
  | 0 => some (f32Word ((f32 a).add (f32 b)))
  | 1 => some (f32Word ((f32 a).add (f32 b).neg))
  | 2 => some (f32Word ((f32 a).mul (f32 b)))
  | 3 => some (f32Word ((f32 a).minimum (f32 b)))
  | 4 => some (f32Word ((f32 a).maximum (f32 b)))
  | 5 => some (boolWord (fpuCmp 5 (f32 a) (f32 b)))
  | 6 => some (boolWord (fpuCmp 6 (f32 a) (f32 b)))
  | 7 => some (boolWord (fpuCmp 7 (f32 a) (f32 b)))
  | 8 => some (BitVec.ofNat 64 (toBits 32 (toIntSat .rne (-0x80000000) 0x7FFFFFFF (f32 a))))
  | 9 => some (f32Word (.ofInt (signed 32 a.toNat)))
  | _ => none

/-- Whether an FPU operation leaves rs2 unused (03 R71). -/
def fpuUnary (fn : Nat) : Bool := fn == 8 || fn == 9

/-- An instruction that writes `v` to rd. -/
def writes (t c : Nat) (rd : BitVec 5) (v : Word) (s : State) : Eff := .done (setRv t c rd v s)

/-- An S-format instruction with operation `op`, of which `unary fn` leaves rs2 unused. -/
def sForm (op : Nat → Word → Word → Option Word) (unary : Nat → Bool) (t c : Nat) (rd rs1 rs2 : BitVec 5)
    (fn : BitVec 11) (s : State) : State :=
  issue t c { reads := [rs1.toNat, rs2.toNat], writes := [rd.toNat] } (fun s =>
    match op fn.toNat (rv s t c rs1) (rv s t c rs2) with
    | some v => legal (!unary fn.toNat || rs2 == 0#5) (writes t c rd v) s
    | none => .fault 0x0B 0) s

/-- ALU (03 R71). -/
def execAlu (t : TileId) (c : CtxId) (rd rs1 rs2 : BitVec 5) (fn : BitVec 11) (s : State) : Res :=
  .next (sForm aluOp aluUnary t c rd rs1 rs2 fn s)

/-- FPU (03 R71). -/
def execFpu (t : TileId) (c : CtxId) (rd rs1 rs2 : BitVec 5) (fn : BitVec 11) (s : State) : Res :=
  .next (sForm fpuOp fpuUnary t c rd rs1 rs2 fn s)

/-- An I-format instruction that writes `op rs1 imm`. -/
def iForm (op : Word → Word → Word) (t c : Nat) (rd rs1 : BitVec 5) (imm : BitVec 16) (s : State) : State :=
  issue t c { reads := [rs1.toNat], writes := [rd.toNat] }
    (fun s => writes t c rd (op (rv s t c rs1) (immWord imm)) s) s

/-- ADDI (03 R70). -/
def execAddi (t : TileId) (c : CtxId) (rd rs1 : BitVec 5) (imm : BitVec 16) (s : State) : Res :=
  .next (iForm (fun a i => a + i) t c rd rs1 imm s)

/-- ANDI (03 R70). -/
def execAndi (t : TileId) (c : CtxId) (rd rs1 : BitVec 5) (imm : BitVec 16) (s : State) : Res :=
  .next (iForm (fun a i => a &&& i) t c rd rs1 imm s)

/-- ORI (03 R70). -/
def execOri (t : TileId) (c : CtxId) (rd rs1 : BitVec 5) (imm : BitVec 16) (s : State) : Res :=
  .next (iForm (fun a i => a ||| i) t c rd rs1 imm s)

/-- XORI (03 R70). -/
def execXori (t : TileId) (c : CtxId) (rd rs1 : BitVec 5) (imm : BitVec 16) (s : State) : Res :=
  .next (iForm (fun a i => a ^^^ i) t c rd rs1 imm s)

/-- SLLI: the shift is imm[5:0] (03 R70). -/
def execSlli (t : TileId) (c : CtxId) (rd rs1 : BitVec 5) (imm : BitVec 16) (s : State) : Res :=
  .next (iForm (fun a i => a <<< (i.toNat % 64)) t c rd rs1 imm s)

/-- SRLI (03 R70). -/
def execSrli (t : TileId) (c : CtxId) (rd rs1 : BitVec 5) (imm : BitVec 16) (s : State) : Res :=
  .next (iForm (fun a i => a >>> (i.toNat % 64)) t c rd rs1 imm s)

/-- SRAI (03 R70). -/
def execSrai (t : TileId) (c : CtxId) (rd rs1 : BitVec 5) (imm : BitVec 16) (s : State) : Res :=
  .next (iForm (fun a i => a.sshiftRight (i.toNat % 64)) t c rd rs1 imm s)

/-- SLTI (03 R70). -/
def execSlti (t : TileId) (c : CtxId) (rd rs1 : BitVec 5) (imm : BitVec 16) (s : State) : Res :=
  .next (iForm (fun a i => boolWord (BitVec.slt a i)) t c rd rs1 imm s)

/-- LUI: rs1 must be g0 (03 R70). -/
def execLui (t : TileId) (c : CtxId) (rd rs1 : BitVec 5) (imm : BitVec 16) (s : State) : Res :=
  .next (issue t c { writes := [rd.toNat] } (legal (rs1 == 0#5) (writes t c rd (immWord imm <<< 16))) s)

/-- LSH: rd shifted left by 16 with the immediate below; rs1 must be g0 (03 R70). -/
def execLsh (t : TileId) (c : CtxId) (rd rs1 : BitVec 5) (imm : BitVec 16) (s : State) : Res :=
  .next (issue t c { reads := [rd.toNat], writes := [rd.toNat] }
    (fun s => legal (rs1 == 0#5) (writes t c rd ((rv s t c rd <<< 16) ||| imm.setWidth 64)) s) s)

/-- A jump to a 64-bit target, or fault 0x02 on it (03 R65). -/
def jumpTo (target : Word) (s : State) : Eff := if pcOk target then .jump s (target.setWidth 32) else .fault 0x02 0

/-- A branch: where rs1 compares with rd, PC + imm x 4 (03 R70). -/
def branch (k : Cond) (t c : Nat) (rd rs1 : BitVec 5) (imm : BitVec 16) (s : State) : State :=
  issue t c { reads := [rs1.toNat, rd.toNat] } (fun s =>
    if k.holds (rv s t c rs1) (rv s t c rd) then jumpTo (pcRel (s.cx t c).pc imm) s else .done s) s

/-- BEQ (03 R70). -/
def execBeq (t : TileId) (c : CtxId) (rd rs1 : BitVec 5) (imm : BitVec 16) (s : State) : Res :=
  .next (branch .eq t c rd rs1 imm s)

/-- BNE (03 R70). -/
def execBne (t : TileId) (c : CtxId) (rd rs1 : BitVec 5) (imm : BitVec 16) (s : State) : Res :=
  .next (branch .ne t c rd rs1 imm s)

/-- BLT (03 R70). -/
def execBlt (t : TileId) (c : CtxId) (rd rs1 : BitVec 5) (imm : BitVec 16) (s : State) : Res :=
  .next (branch .lt t c rd rs1 imm s)

/-- BGE (03 R70). -/
def execBge (t : TileId) (c : CtxId) (rd rs1 : BitVec 5) (imm : BitVec 16) (s : State) : Res :=
  .next (branch .ge t c rd rs1 imm s)

/-- BLTU (03 R70). -/
def execBltu (t : TileId) (c : CtxId) (rd rs1 : BitVec 5) (imm : BitVec 16) (s : State) : Res :=
  .next (branch .ltu t c rd rs1 imm s)

/-- BGEU (03 R70). -/
def execBgeu (t : TileId) (c : CtxId) (rd rs1 : BitVec 5) (imm : BitVec 16) (s : State) : Res :=
  .next (branch .geu t c rd rs1 imm s)

/-- The address of the next word, as a link. -/
def linkWord (s : State) (t c : Nat) : Word := (s.cx t c).pc.setWidth 64 + 4#64

/-- JAL: rd holds PC + 4; rs1 must be g0 (03 R70). -/
def execJal (t : TileId) (c : CtxId) (rd rs1 : BitVec 5) (imm : BitVec 16) (s : State) : Res :=
  .next (issue t c { writes := [rd.toNat] } (fun s => legal (rs1 == 0#5)
    (fun s => jumpTo (pcRel (s.cx t c).pc imm) (setRv t c rd (linkWord s t c) s)) s) s)

/-- JALR: PC becomes rs1 + imm (03 R70). -/
def execJalr (t : TileId) (c : CtxId) (rd rs1 : BitVec 5) (imm : BitVec 16) (s : State) : Res :=
  .next (issue t c { reads := [rs1.toNat], writes := [rd.toNat] }
    (fun s => jumpTo (rv s t c rs1 + immWord imm) (setRv t c rd (linkWord s t c) s)) s)

end Sys2Proof.Machine
end

