-- ==== Sys2Proof/Machine/Functions.lean ====
section
/-!
DEFINITION. The VE's functions: the manual bounds their results and fixes their special and exact cases (04 R133, R134);
between those a result is a candidate that `Config` leaves open, taken where it meets the bound (log 12). The Grain
sequence (13 R366, R367).
-/
namespace Sys2Proof.Machine

/-! ### Enclosures: exact values below and above a real number -/

/-- A lower and an upper bound. -/
abbrev Encl := Num × Num

/-- floor(sqrt(n)) by bits, for n below 4^k. -/
def isqrt (n : Nat) : Nat → Nat → Nat
  | 0, r => r
  | k + 1, r => isqrt n k (if (r + 2 ^ k) * (r + 2 ^ k) ≤ n then r + 2 ^ k else r)

/-- An integer of units 2^-p with an error of at most `err` of them, as an enclosure. -/
def enclFix (v : Int) (err : Nat) (p : Int) : Encl :=
  let f := fun (i : Int) => Num.fin (decide (i < 0)) i.natAbs (-p)
  (f (v - err), f (v + err))

/-- The quotient of two positive values, to 160 significant bits. -/
def enclDiv (n : Nat) (e : Int) (d : Nat) (f : Int) : Encl :=
  let sh : Int := 160 + (Nat.log2 d : Int) - (Nat.log2 n : Int)
  let q := if 0 ≤ sh then n * 2 ^ sh.toNat / d else n / (d * 2 ^ (-sh).toNat)
  (.fin false q (e - f - sh), .fin false (q + 1) (e - f - sh))

/-- The square root of n / d * 2^e, to 130 significant bits. -/
def enclSqrt (n d : Nat) (e : Int) : Encl :=
  let sh : Int := 260 + (Nat.log2 d : Int) - (Nat.log2 n : Int)
  let sh := if (e - sh) % 2 = 0 then sh else sh + 1
  let q := if 0 ≤ sh then n * 2 ^ sh.toNat / d else n / (d * 2 ^ (-sh).toNat)
  let r := isqrt q 140 0
  (.fin false r ((e - sh) / 2), .fin false (r + 1) ((e - sh) / 2))

/-- floor(ln 2 * 2^128). -/
def ln2Fix : Nat := 235865763225513294137944142764154484399

/-- floor(log2 e * 2^128). -/
def log2eFix : Nat := 490923683258796565746369346286093237521

/-- floor(log2 e * 2^256). -/
def log2eFix256 : Nat := 167052672916848388242985626561247531987276682633131050150846402744536260568207

/-- n * 2^e in units of 2^-128, rounded toward zero. -/
def fix128 (n : Nat) (e : Int) : Nat :=
  if 0 ≤ e + 128 then n * 2 ^ (e + 128).toNat else n / 2 ^ (-(e + 128)).toNat

/-- Σ t^k / k! in units of 2^-128. -/
def expSeries (t : Nat) : Nat → Nat → Nat → Nat → Nat
  | 0, _, _, acc => acc
  | k + 1, i, term, acc => let next := term * t / 2 ^ 128 / i; expSeries t k (i + 1) next (acc + next)

/-- 2^x for x in units of 2^-128. -/
def enclExp2 (x : Int) : Encl :=
  let ip := x / 2 ^ 128
  let f := (x % 2 ^ 128).toNat
  let m := expSeries (f * ln2Fix / 2 ^ 128) 40 1 (2 ^ 128) (2 ^ 128)
  let e := enclFix m 1024 128
  let sc := fun (x : Num) => match x with | .fin s n k => Num.fin s n (k + ip) | x => x
  (sc e.1, sc e.2)

/-- Σ z^(2i+1) / (2i+1) in units of 2^-128. -/
def atanhSeries (z2 : Nat) : Nat → Nat → Nat → Nat → Nat
  | 0, _, _, acc => acc
  | k + 1, i, pow, acc => atanhSeries z2 k (i + 2) (pow * z2 / 2 ^ 128) (acc + pow / i)

/-- log2 n in units of 2^-128, off by less than 1024 of them. -/
def log2Fix (n : Nat) : Nat :=
  let l := Nat.log2 n
  let z := (n - 2 ^ l) * 2 ^ 128 / (n + 2 ^ l)
  l * 2 ^ 128 + 2 * atanhSeries (z * z / 2 ^ 128) 50 1 z 0 * log2eFix / 2 ^ 128

/-- log2 of n * 2^e. -/
def enclLog2 (n : Nat) (e : Int) : Encl := enclFix ((log2Fix n : Nat) + e * 2 ^ 128) 1024 128

/-- -ln(-ln u) for u = (r + 0.5) * 2^-32 (06 R174). -/
def enclGumbel (r : Nat) : Encl :=
  let w := (33 * 2 ^ 128 - log2Fix (2 * r + 1)) * ln2Fix / 2 ^ 128
  enclFix (((128 * 2 ^ 128 : Nat) - (log2Fix w : Nat) : Int) * ln2Fix / 2 ^ 128) (2 ^ 50) 128

/-- exp(-x) for x = n * 2^e below 2^10. -/
def enclExpNeg (n : Nat) (e : Int) : Encl := enclExp2 (-((fix128 (n * log2eFix) (e - 128) : Nat) : Int))

/-- x / (1 + x) for an enclosure of a positive x. -/
def enclLogistic (x : Encl) : Encl :=
  let q := fun (up : Bool) (x : Num) => match x, x.add (.pow2 0) with
    | .fin _ n e, .fin _ d f => if n = 0 then Num.zero else if up then (enclDiv n e d f).2 else (enclDiv n e d f).1
    | _, _ => .zero
  (q false x.1, q true x.2)

/-- 1 - x for an enclosure. -/
def enclOneMinus (x : Encl) : Encl := ((Num.pow2 0).add x.2.neg, (Num.pow2 0).add x.1.neg)

/-- Twice an enclosure, less 1. -/
def enclTwiceLessOne (x : Encl) : Encl :=
  ((x.1.mul (.pow2 1)).add (Num.pow2 0).neg, (x.2.mul (.pow2 1)).add (Num.pow2 0).neg)

/-- tanh of n * 2^e: x - x^3/3 and x - x^3/3 + 2x^5/15 for a small x; 2 / (1 + exp(-2x)) - 1 otherwise. -/
def enclTanh (n : Nat) (e : Int) : Encl :=
  if floorLog2 n 1 e < -12 then
    let x := Num.fin false n e
    let c := fun (a b : Nat) (y : Num) (up : Bool) => match y with
      | .fin s m k => Num.fin s (a * m * 2 ^ 128 / b + b2n up) (k - 128)
      | y => y
    let x3 := x.mul (x.mul x)
    let x5 := x3.mul (x.mul x)
    let lo := x.add (c 1 3 x3 true).neg
    (lo, (x.add (c 1 3 x3 false).neg).add (c 2 15 x5 true))
  else if 6 ≤ floorLog2 n 1 e then ((Num.pow2 0).add (Num.pow2 (-100)).neg, .pow2 0)
  else enclTwiceLessOne (enclOneMinus (enclLogistic (enclExpNeg (2 * n) e)))

/-- sigmoid of ±n * 2^e. -/
def enclSigmoid (neg : Bool) (n : Nat) (e : Int) : Encl :=
  if 10 ≤ floorLog2 n 1 e then (if neg then (.zero, .pow2 (-1000)) else ((Num.pow2 0).add (Num.pow2 (-100)).neg, .pow2 0))
  else
    let l := enclLogistic (enclExpNeg n e)
    if neg then l else enclOneMinus l

/-! ### Bounded results -/

/-- ulp of 04 R133 at z. -/
def ulpOf (z : Num) : Num :=
  match z with
  | .fin _ 0 _ => .pow2 (-149)
  | .fin _ n e => .pow2 (max (floorLog2 n 1 e) (-126) - 23)
  | z => z

/-- The part of a positive enclosure that lies on the side of 2^k where the value is known to lie. -/
def enclSide (below : Bool) (k : Int) (z : Encl) : Encl :=
  let p := Num.pow2 k
  if below then (z.1, if p.lt z.2 then p else z.2) else (if z.1.lt p then p else z.1, z.2)

/-- A candidate where it lies within `k` ulp of the enclosed value, otherwise the value rounded to nearest; a value that
rounds to an infinity is that infinity. An enclosure passes a power of two only upward to it, so that its smaller end has the
value's ulp. -/
def within (k : Nat) (z : Encl) (cand : BitVec 32) : Num :=
  let near := toFp32 .rne z.1
  let y := fp32.decode cand.toNat
  let low := if z.2.abs.lt z.1.abs then z.2 else z.1
  let δ := (Num.ofInt k).mul (ulpOf low)
  if !near.isFinite then near
  else if y.isFinite && (z.1.add δ.neg).le y && y.le (z.2.add δ) then y
  else near

/-- A candidate where it lies within `δ` of the enclosed value, otherwise the value rounded to nearest. -/
def closeTo (δ : Num) (z : Encl) (cand : BitVec 32) : Num :=
  let y := fp32.decode cand.toNat
  if y.isFinite && (z.1.add δ.neg).le y && y.le (z.2.add δ) then y else toFp32 .rne z.1

/-- A value as sign, odd mantissa and exponent. -/
def oddForm (n : Nat) (e : Int) : Nat × Int :=
  if n = 0 then (0, 0)
  else
    let k := Nat.log2 (Nat.gcd n (2 ^ Nat.log2 n))
    (n / 2 ^ k, e + k)

/-- The candidate of function `f`. -/
def candidate (f : Nat) (neg : Bool) (n : Nat) (e : Int) : BitVec 32 :=
  let p := oddForm n e
  Config.function f neg p.1 p.2

/-- exp2 (04 R133, R134). -/
def fnExp2 (x : Num) : Num :=
  match x with
  | .nan => .nan
  | .inf s => if s then .zero else .inf false
  | .fin s n e =>
    let p := oddForm n e
    if (Num.ofInt 128).le x then .inf false
    else if x.lt (Num.ofInt (-150)) then .zero
    else if 0 ≤ p.2 ∧ (Num.ofInt (-149)).le x then .pow2 (scaledInt s n e (min e 0) / 2 ^ (-(min e 0)).toNat)
    else
      let v : Int := (fix128 n e : Nat)
      within 2 (enclSide s 0 (enclExp2 (if s then -v else v))) (candidate 0 s n e)

/-- log2. -/
def fnLog2 (x : Num) : Num :=
  match x with
  | .nan => .nan
  | .inf s => if s then .nan else .inf false
  | .fin s n e =>
    let p := oddForm n e
    if n = 0 then .inf true
    else if s then .nan
    else if p.1 = 1 then .ofInt p.2
    else within 2 (enclLog2 n e) (candidate 1 s n e)

/-- Give an enclosure's result a sign. -/
def signed' (s : Bool) (x : Num) : Num := if s then x.neg else x

/-- reciprocal. -/
def fnRecip (x : Num) : Num :=
  match x with
  | .nan => .nan
  | .inf s => .fin s 0 0
  | .fin s n e =>
    let p := oddForm n e
    if n = 0 then .inf s
    else if p.1 = 1 then signed' s (toFp32 .rne (.pow2 (-p.2)))
    else
      let z := enclDiv 1 0 n e
      within 1 (if s then (z.2.neg, z.1.neg) else z) (candidate 2 s n e)

/-- rsqrt. -/
def fnRsqrt (x : Num) : Num :=
  match x with
  | .nan => .nan
  | .inf s => if s then .nan else .zero
  | .fin s n e =>
    let p := oddForm n e
    if n = 0 then .inf s
    else if s then .nan
    else if p.1 = 1 ∧ p.2 % 2 = 0 then .pow2 (-(p.2 / 2))
    else within 2 (enclSqrt 1 n (-e)) (candidate 3 s n e)

/-- tanh. -/
def fnTanh (x : Num) : Num :=
  match x with
  | .nan => .nan
  | .inf s => signed' s (.pow2 0)
  | .fin s n e =>
    if n = 0 then x
    else
      let z := enclTanh n e
      within 3 (if s then (z.2.neg, z.1.neg) else z) (candidate 4 s n e)

/-- sigmoid. -/
def fnSigmoid (x : Num) : Num :=
  match x with
  | .nan => .nan
  | .inf s => if s then .zero else .pow2 0
  | .fin s n e => if n = 0 then .pow2 (-1) else within 3 (enclSide s (-1) (enclSigmoid s n e)) (candidate 5 s n e)

/-- The function of a VTR sub (06 R158). -/
def vtrFn (sub : Nat) (x : Num) : Num :=
  match sub with
  | 0 => fnExp2 x
  | 1 => fnLog2 x
  | 2 => fnRecip x
  | 3 => fnRsqrt x
  | 4 => fnTanh x
  | _ => fnSigmoid x

/-! ### The Grain sequence (13 R366, R367) -/

/-- S(p) after `k` doublings: the step z -> m z + a applied where bit i of p is set. -/
def grainJump (p : Nat) : Nat → Nat → Nat → Nat → Nat
  | 0, _, _, z => z
  | k + 1, m, a, z =>
    let z' := if nbit p (63 - k) then (m * z + a) % 2 ^ 64 else z
    grainJump p k (m * m % 2 ^ 64) ((m * a + a) % 2 ^ 64) z'

/-- S(p). -/
def grainState (p : Nat) : Nat := grainJump p 64 0x9E6C63D0876A9A4D 0x6A09 0

/-- The output at position p. -/
def grainOut (p : Nat) : BitVec 32 :=
  let z := grainState p
  let x : BitVec 32 := BitVec.ofNat 32 ((z ^^^ (z / 2 ^ 31)) / 2 ^ 32)
  x.rotateRight (z / 2 ^ 59)

/-- mix(z). -/
def grainMix (z : Nat) : Nat :=
  let z := (z ^^^ (z / 2 ^ 30)) * 0x8F3BE2C51D74A96B % 2 ^ 64
  let z := (z ^^^ (z / 2 ^ 27)) * 0xC4D17B29E08635F1 % 2 ^ 64
  z ^^^ (z / 2 ^ 31)

/-- The draw for a seed, a stream and a logical index. -/
def grainDraw (seed stream i : Nat) : BitVec 32 := grainOut ((grainMix seed + stream * 2 ^ 48 + i % 2 ^ 48) % 2 ^ 64)

end Sys2Proof.Machine
end

