-- ==== Sys2Proof/Machine/Route.lean ====
section
/-!
DEFINITION. Packets on the torus: coordinates, routing, classes, detours and the egress of a port (12 R309–R331).
-/
namespace Sys2Proof.Machine

/-! ### Coordinates (12 R309, R310, R311) -/

/-- The coordinates of a device in dimensions of the given sizes. -/
def coordsOf : List Nat → Nat → List Nat
  | [], _ => []
  | d :: ds, n => n % d :: coordsOf ds (n / d)

/-- The device at given coordinates. -/
def deviceAt : List Nat → List Nat → Nat
  | d :: ds, x :: xs => x % d + d * deviceAt ds xs
  | _, _ => 0

/-- This device's coordinates. -/
def selfCoords (s : State) : List Nat := coordsOf (dims s) s.dev.link.self

/-- The size of dimension `k`. -/
def dimSize (s : State) (k : Nat) : Nat := ((dims s)[k]?).getD 1

/-- The neighbour device over port `p`: one step up for even ports, down for odd ones (12 R310). -/
def neighbour (s : State) (p : Nat) : Nat :=
  let at' := selfCoords s
  let k := p / 2
  let sz := dimSize s k
  let x := (at'[k]?).getD 0
  deviceAt (dims s) (at'.set k ((if p % 2 = 0 then x + 1 else x + sz - 1) % sz))

/-- The port at the other end of port `p`'s cable: the opposite one of its dimension. -/
def oppositePort (p : Nat) : Nat := if p % 2 = 0 then p + 1 else p - 1

/-- Whether sending on port `p` crosses the dateline, the link between coordinates S - 1 and 0 (12 R325). -/
def crossesDateline (s : State) (p : Nat) : Bool :=
  let x := ((selfCoords s)[p / 2]?).getD 0
  if p % 2 = 0 then x + 1 == dimSize s (p / 2) else x == 0

/-- The port toward a device: dimension order, the shorter way, positive on a tie; none for this device (12 R325). -/
def portToward (s : State) (dst : Nat) : Option Nat :=
  let here := selfCoords s
  let there := coordsOf (dims s) dst
  match (List.range 4).find? (fun k => (here[k]?).getD 0 ≠ (there[k]?).getD 0) with
  | none => none
  | some k =>
    let sz := dimSize s k
    let d := ((there[k]?).getD 0 + sz - (here[k]?).getD 0) % sz
    some (if 2 * d ≤ sz then 2 * k else 2 * k + 1)

/-! ### Port states (12 R343) -/

def pDisabled : Nat := 0
def pTraining : Nat := 1
def pUp : Nat := 2
def pRetrain : Nat := 3
def pSetup : Nat := 4
def pDetoured : Nat := 5
def pNoDetour : Nat := 6
def pMismatch : Nat := 7

/-- Whether traffic for port `p` goes to the port, to wait there if need be: it is up, trains, or is down with its
detour not yet live (12 R327, R328). -/
def takesTraffic (s : State) (p : Nat) : Bool := [pTraining, pUp, pRetrain, pSetup].contains (s.port p).st

/-- The detour entry of port `p`: its first-leg port, where valid (12 R343). -/
def detourOf (s : State) (p : Nat) : Option Nat :=
  let b := fld s.dev.link.detours.toNat (8 * p) 8
  if nbit b 3 then some (fld b 0 3) else none

/-! ### Classes and credits (12 R319, R320) -/

/-- Buffer lines of a class. -/
def classLines (k : Nat) : Nat := match k with | 4 => 64 | 5 => 128 | _ => 384

/-- Available credit of a class, modulo 2^10 (12 R320). -/
def creditOf (x : PortSt) (k : Nat) : Nat :=
  (classLines k + 1024 - (Map.get 0 x.sent k).toNat + (Map.get 0 x.ccIn k).toNat) % 1024

/-- Lines of a packet: its route line and its data lines (12 R323). -/
def Packet.lines (p : Packet) : Nat := 1 + cdiv p.data.length 64

/-- Flits of a packet (12 R326). -/
def Packet.flits (p : Packet) : Nat := cdiv p.lines 4

/-- The class of a packet that crosses or has crossed a dateline, or not (12 R325). -/
def classFor (kind : Nat) (dl : Bool) : Nat :=
  match kind with
  | 8 => 2 + b2n dl
  | 9 => 4
  | 10 => 4
  | _ => b2n dl

/-! ### Flits (12 R315, R316) -/

/-- Whether `a` comes after `b` modulo 2^12, within half the range (12 R318). -/
def seqAhead (a b : BitVec 12) : Bool := decide (a ≠ b) && decide ((a - b).toNat < 2048)

/-- The route header of a packet (12 R323). -/
def routeHdr (q : Packet) : Nat :=
  q.dst % 2 ^ 16 + q.src % 2 ^ 16 * 2 ^ 16 + q.dstTile % 2 ^ 13 * 2 ^ 32 + q.srcTile % 2 ^ 13 * 2 ^ 45 + q.part % 8 * 2 ^ 58
    + q.kind % 16 * 2 ^ 61 + cdiv q.data.length 64 % 128 * 2 ^ 65 + b2n q.dl * 2 ^ 72 + b2n q.dup * 2 ^ 73
    + q.origPort % 8 * 2 ^ 74 + q.origSeq.toNat * 2 ^ 77 + q.dstep % 4 * 2 ^ 90 + q.dfail % 8 * 2 ^ 92 + q.dleg % 8 * 2 ^ 95

/-- The lines of a packet: its route line and its data lines (12 R323). -/
def packetLines (q : Packet) : Bytes :=
  toBytes (routeHdr q) 16 ++ toBytes q.hdr.toNat 16 ++ zeros 32 ++ padTo (64 * cdiv q.data.length 64) q.data

/-- A flit that a port sends: its header with the acknowledgement, the NAK and the credits of now, its CRC and its line
slots, unused ones zero (12 R315, R316, R320). -/
def flitOf (x : PortSt) (ftype cls lines : Nat) (seq : BitVec 12) (body : Bytes) : Bytes :=
  let cc := (List.range 6).foldl (fun a k => a + (Map.get 0 x.freed k).toNat * 2 ^ (10 * k)) 0
  let h := toBytes (ftype + cls * 2 ^ 2 + lines * 2 ^ 5 + seq.toNat * 2 ^ 8 + (x.expSeq - 1).toNat * 2 ^ 20
    + b2n x.heard * 2 ^ 32 + b2n x.nak * 2 ^ 33 + cc * 2 ^ 36) 12
  let body := padTo 256 body
  h ++ toBytes (crc32 (h ++ body)) 4 ++ body

/-- Send an IDLE flit, whose header tells the partner what is new (12 R315, R317). -/
def sendIdle (x : PortSt) : PortSt := { x with wire := flitOf x 1 0 0 0 [] :: x.wire }

/-- Flit `i` of a packet in class `k` whose last flit has number `last` (12 R323). -/
def dataFlit (x : PortSt) (k : Nat) (q : Packet) (last : BitVec 12) (i : Nat) : Bytes :=
  flitOf x 0 k (min 4 (q.lines - 4 * i)) (last - BitVec.ofNat 12 (q.flits - 1 - i)) (((packetLines q).drop (256 * i)).take 256)

/-- Send a TRAIN flit: while it trains, a port tells its partner its device number, its own number and its FEC mode (12 R310; the
places in slot 0 are log 18's). -/
def sendTrain (dev p : Nat) (low : Bool) (x : PortSt) : PortSt :=
  { x with wire := flitOf x 2 0 0 0 (toBytes (dev % 2 ^ 16 + p % 8 * 2 ^ 16 + b2n low * 2 ^ 19) 4) :: x.wire }

/-- Put flits on the wire, the first one first. -/
def sendFlits (l : List Bytes) (x : PortSt) : PortSt := { x with wire := l.reverse ++ x.wire }

/-- Flits of a sent packet that are not acknowledged (12 R318). -/
def Replay.left (r : Replay) (ack : BitVec 12) : Nat :=
  if seqAhead r.lastSeq ack then min r.flits (r.lastSeq - ack).toNat else 0

/-- Unacknowledged flits (12 R342). -/
def unacked (x : PortSt) : Nat := sumOf (x.replay.map (fun r => r.left x.acked))

/-- Flits in the replay buffer, which holds whole packets (12 R318). -/
def buffered (x : PortSt) : Nat := sumOf (x.replay.map (fun r => r.flits))

/-- Resend every unacknowledged flit in the original order (12 R317). -/
def resend (x : PortSt) : PortSt :=
  sendFlits (x.replay.flatMap (fun r =>
    ((List.range r.flits).drop (r.flits - r.left x.acked)).map (dataFlit x r.cls r.pkt r.lastSeq))) x

/-! ### The egress (12 R318, R320, R322, R324, R339) -/

/-- Whether the port can send a packet now: it is up, the class has credit for every line and the replay buffer has
room (12 R318, R320). -/
def canSend (x : PortSt) (e : Nat × Packet) : Bool :=
  decide (x.st = pUp) && decide (e.2.lines ≤ creditOf x e.1) && decide (buffered x + e.2.flits ≤ 1024)

/-- Send one packet: its flits take the next sequence numbers and stay in the replay buffer (12 R317, R318). -/
def transmit (e : Nat × Packet) (x : PortSt) : PortSt :=
  let last := x.nextSeq + BitVec.ofNat 12 (e.2.flits - 1)
  sendFlits ((List.range e.2.flits).map (dataFlit x e.1 e.2 last))
    { x with nextSeq := x.nextSeq + BitVec.ofNat 12 e.2.flits,
             replay := x.replay ++ [{ cls := e.1, pkt := e.2, lastSeq := last, flits := e.2.flits }],
             sent := Map.mod 0 x.sent e.1 (fun v => v + BitVec.ofNat 10 e.2.lines),
             tx := x.tx + BitVec.ofNat 64 e.2.lines }

/-- Whether a packet waits behind another of its class: behind any in SYS and DTR, else behind one of its partition or
between the same devices (12 R322, R324). -/
def waitsBehind (e : Nat × Packet) (l : List (Nat × Packet)) : Bool :=
  l.any (fun f => f.1 == e.1 && (decide (4 ≤ e.1) || f.2.part == e.2.part || (f.2.src == e.2.src && f.2.dst == e.2.dst)))

/-- Whether a SYS packet of the same barrier and direction is in flight on the port (12 R339). -/
def sysInFlight (x : PortSt) (e : Nat × Packet) : Bool :=
  e.1 == 4 && x.replay.any (fun r =>
    r.cls == 4 && r.pkt.kind == e.2.kind && fld r.pkt.hdr.toNat 0 8 == fld e.2.hdr.toNat 0 8)

/-- Whether a packet is a barrier's (12 R319). -/
def Packet.isSys (q : Packet) : Bool := q.kind == 9 || q.kind == 10

/-- The packets that could go now, with their places; `hold` keeps barrier packets (12 R331). -/
def sendable (hold : Bool) (x : PortSt) : List ((Nat × Packet) × Nat) :=
  x.egress.zipIdx.filter (fun e =>
    canSend x e.1 && !(hold && e.1.2.isSys) && !sysInFlight x e.1 && !waitsBehind e.1 (x.egress.take e.2))

/-- The partition whose turn comes, among those that have something to send, and the balances then: each turn adds a
partition's weight to its balance, and a balance above 0 is served; one that has nothing to send keeps no balance
(12 R322, log 17). -/
def takeShare (w : Nat → Nat) (ok : Nat → Bool) : Nat → Nat → SMap Int → Option (Nat × SMap Int)
  | 0, _, _ => none
  | fuel + 1, n, b =>
    if ok n && decide (0 < Map.get 0 b n) then some (n, b)
    else
      let m := (n + 1) % 8
      takeShare w ok fuel m (Map.mod 0 b m (fun v => if ok m then v + w m else min v 0))

/-- The next packet that the egress serves, and the port with its turns taken: SYS, then DTR, then the partitions by
weight at line grain, and within one its classes in turn (12 R322). -/
def nextEgress (hold : Bool) (w : Nat → Nat) (x : PortSt) : Option (Nat × PortSt) :=
  let l := sendable hold x
  match l.find? (fun e => e.1.1 = 4), l.find? (fun e => e.1.1 = 5) with
  | some e, _ => some (e.2, x)
  | none, some e => some (e.2, x)
  | none, none =>
    match takeShare w (fun n => l.any (fun e => e.1.2.part % 8 == n)) 600 x.turn x.bal with
    | none => none
    | some (n, b) =>
      let k := Map.get 3 x.rrCls n
      ((List.range 4).findSome? (fun i => l.find? (fun e => e.1.2.part % 8 == n && e.1.1 == (k + 1 + i) % 4))).map (fun e =>
        (e.2, { x with turn := n, bal := Map.mod 0 b n (fun v => v - e.1.2.lines), rrCls := Map.set 3 x.rrCls n e.1.1 }))

/-- Send packets while any can go. -/
def drainPort (hold : Bool) (w : Nat → Nat) : Nat → PortSt → PortSt
  | 0, x => x
  | fuel + 1, x =>
    match nextEgress hold w x with
    | none => x
    | some (i, x) =>
      match x.egress[i]? with
      | none => x
      | some e => drainPort hold w fuel (transmit e { x with egress := dropAt i x.egress })

/-- The weight that a partition tag has here, 1 where no partition has its number (12 R322). -/
def portWeight (s : State) (n : Nat) : Nat := if n < 6 ∧ (s.part n).band.isSome then max 1 (s.part n).weight else 1

/-- Whether the link switch holds SYS packets (12 R331). -/
def holdsSys (s : State) : Bool := (List.range 8).any (fun p => [pRetrain, pSetup].contains (s.port p).st)

/-- Let port `p` send what it can. -/
def drain (p : Nat) (s : State) : State := s.onPort p (fun x => drainPort (holdsSys s) (portWeight s) x.egress.length x)

/-- Barrier, epoch and count of a barrier packet's own header (12 R339, log 18). -/
def barHdr (b epoch count : Nat) : BitVec 128 := BitVec.ofNat 128 (b + epoch * 2 ^ 8 + count * 2 ^ 40)

/-- Join a barrier arrival to one that waits at the same egress (12 R339). One that is resent stays as it is: its receiver must
find its own number (12 R329, log 17). -/
def mergeArrival (e : Nat × Packet) : List (Nat × Packet) → List (Nat × Packet)
  | [] => [e]
  | f :: l =>
    if e.2.kind = 9 ∧ f.2.kind = 9 ∧ e.1 = f.1 ∧ e.2.dup = false ∧ f.2.dup = false ∧ e.2.dst = f.2.dst
        ∧ e.2.dfail = f.2.dfail ∧ e.2.dstep = f.2.dstep ∧ fld e.2.hdr.toNat 0 40 = fld f.2.hdr.toNat 0 40 then
      (f.1, { f.2 with hdr := barHdr (fld f.2.hdr.toNat 0 8) (fld f.2.hdr.toNat 8 32)
                               (fld f.2.hdr.toNat 40 16 + fld e.2.hdr.toNat 40 16) }) :: l
    else f :: mergeArrival e l

/-- Put a packet at port `p`'s egress in class `k`. -/
def enqueue (p k : Nat) (q : Packet) (s : State) : State :=
  drain p (s.onPort p (fun x => { x with egress := mergeArrival (k, q) x.egress }))

/-- Hold a SYS packet that would leave over port `f` (12 R331). -/
def holdSys (f : Nat) (q : Packet) (s : State) : State :=
  s.onDev (fun d => { d with link := { d.link with sysHeld := d.link.sysHeld ++ [(f, q)] } })

/-- Whether a detour leg can use port `p`: it is not down (12 R330). -/
def legOpen (s : State) (p : Nat) : Bool := [pTraining, pUp, pRetrain].contains (s.port p).st

/-- Send a packet out of port `f`, or over its detour where it is down; `none` where neither can carry it (12 R328,
R330). The link switch may hold a SYS packet first (12 R331). -/
def sendOut (f : Nat) (dl : Bool) (q : Packet) (s : State) : Option State :=
  let k := classFor q.kind (dl || crossesDateline s f)
  let q := { q with dl := dl || crossesDateline s f }
  if k = 4 ∧ holdsSys s then some (holdSys f q s)
  else if takesTraffic s f then some (enqueue f k q s)
  else
    match detourOf s f with
    | some g => if legOpen s g then some (enqueue g 5 { q with dstep := 0, dfail := f, dleg := g } s) else none
    | none => none

/-- Lines of a class are free in port `p`'s ingress buffer (12 R320). -/
def freeLines (p k n : Nat) (s : State) : State :=
  s.onPort p (fun x => { x with freed := Map.mod 0 x.freed k (fun v => v + BitVec.ofNat 10 n) })

/-- Route a packet onward. `dim` is the dimension in which it arrived and has `dl` for; a new dimension starts afresh
(12 R325). -/
def routeOut (dim : Option Nat) (q : Packet) (s : State) : Except Nat State :=
  match portToward s q.dst with
  | none => .ok s
  | some f =>
    let dl := if dim = some (f / 2) then q.dl else false
    match sendOut f dl q s with
    | some s => .ok s
    | none => .error f

/-- Data address of fault 0x0E (16 R434, 12 R330). -/
def unreachAddr (dev port : Nat) : Nat := 0x7C0000000000 + dev * 2 ^ 8 + port

/-- Send a packet of this device's own; the port that bars it where it cannot leave. -/
def originate (q : Packet) (s : State) : Except Nat State := routeOut none { q with src := s.dev.link.self } s

/-- Whether a packet to `dst` could leave the device now, and if not the port that bars it. -/
def barredBy (s : State) (dst : Nat) : Option Nat :=
  match originate { dst := dst, src := 0, kind := 0 } s with
  | .ok _ => none
  | .error p => some p

/-- A report that a packet cannot be delivered, for its source (12 R330, log 18). -/
def reportFor (q : Packet) (port : Nat) : Packet :=
  { dst := q.src, src := 0, dstTile := q.srcTile, srcTile := q.dstTile, part := q.part, kind := 11,
    hdr := BitVec.ofNat 128 (q.dst + port * 2 ^ 16 + q.kind * 2 ^ 24 + fld q.hdr.toNat 64 16 * 2 ^ 64) }

/-! ### Accesses between devices (12 R323, R326; the layout is log 18) -/

/-- The own header of a read or write request: offset, size, kind of write, element type and transaction. -/
def reqHdr (txn : Nat) (r : MemReq) : BitVec 128 :=
  let f := match r.op with
    | .load _ size acq fill => (if fill then 64 else size, 0, b2n acq)
    | .loadDesc _ => (32, 0, 0)
    | .store d => (d.length, 0, 0)
    | .acc ty d => (d.length, 1, ty.toNat)
    | .fillStore d => (d.length, 2, 0)
  let a := match r.op with
    | .load _ _ _ true => r.addr / 64 * 64
    | _ => r.addr
  BitVec.ofNat 128 (fld a 0 47 + f.1 * 2 ^ 48 + f.2.1 * 2 ^ 56 + f.2.2 * 2 ^ 58 + txn * 2 ^ 64)

/-- The data that an access carries. -/
def MemOp.data : MemOp → Bytes
  | .load _ _ _ _ | .loadDesc _ => []
  | .store d | .acc _ d | .fillStore d => d

/-- The lowest transaction number that no access to another device uses. -/
def freeTxn (s : State) : Nat :=
  ((List.range (s.net.far.length + 1)).find? (fun k => !s.net.far.any (fun f => f.1 = k))).getD 0

/-- Send an access of tile `t` to device `dev`; the port that bars it where it cannot leave. -/
def sendFar (t dev : Nat) (r : MemReq) (s : State) : Except Nat State :=
  let txn := freeTxn s
  let kind := if r.op.data = [] then 4 else 6
  match originate { dst := dev, src := 0, dstTile := (if r.addr < 0x120000000 then r.addr / 0x100000 else 0), srcTile := t,
                    part := r.part, kind := kind, hdr := reqHdr txn r, data := padTo (64 * cdiv r.op.data.length 64) r.op.data } s with
  | .error p => .error p
  | .ok s => .ok (s.onNet (fun n => { n with far := n.far ++ [(txn, r)] }))

end Sys2Proof.Machine
end

