-- ==== Sys2Proof/Machine/Level.lean ====
section
/-!
DEFINITION. Service levels (16 R449–R451).
-/
namespace Sys2Proof.Machine

/-- Whether a port is usable: UP or DOWN_DETOURED (16 R449). -/
def portUsable (x : PortSt) : Bool := x.st == pUp || x.st == pDetoured

/-- Whether some port is usable. -/
def anyPort (s : State) : Bool := (List.range 8).any (fun p => portUsable (s.port p))

/-- The highest level whose requirements the device meets (16 R449, R451; 01 R26). -/
def levelOf (s : State) : Nat :=
  let b := s.dev.boot
  if b.trip || b.pcieFailed || decide (popCount s.dev.bulk.trained.toNat 8 < 4) then 0
  else if b.hubFailed || b.meshCut || b.regions == 0 then 1
  else if anyPort s then 3 else 2

/-- The reason bits of 0x2500:04 (16 R450). -/
def reasonsOf (s : State) : Nat :=
  let b := s.dev.boot
  let k := popCount s.dev.bulk.trained.toNat 8
  b2n b.pcieFailed + b2n (decide (k < 8)) * 2 + b2n (decide (k < 4)) * 4 + b2n b.hubFailed * 8
    + b2n (b.regions != 0x3FFFF#18) * 2 ^ 4 + b2n (b.regions == 0) * 2 ^ 5 + b2n b.meshCut * 2 ^ 6 + b2n (!anyPort s) * 2 ^ 7
    + b2n ((List.range 8).any (fun p => (s.port p).st == pNoDetour)) * 2 ^ 8 + b2n b.trip * 2 ^ 9

/-- Evaluate the level; a change is recorded, with severity 0 where it rose and 4 where it fell (16 R437, R449). -/
def updateLevel (s : State) : State :=
  let old := s.dev.boot.level
  let new := levelOf s
  let why := reasonsOf s
  let s := s.onBoot (fun b => { b with level := new, reasons := BitVec.ofNat 32 why })
  if new = old then s
  else causeAll 5 (raiseRec (plainRec s 0x82 (if old < new then 0 else 4) 2 7 14 0 0 (new + old * 2 ^ 4 + why * 2 ^ 8)) s)

end Sys2Proof.Machine
end

