-- ==== Sys2Proof/Machine/TileRegs.lean ====
section
/-!
DEFINITION. The remote line buffer (03 R98–R100) and the tile register block (03 R101–R104) with CSR and the commands
that write one of its registers.
-/
namespace Sys2Proof.Machine

/-! ### Remote line buffer -/

/-- The key of a line: its global address, with the device of another one. -/
def lineKey (dev : Option Nat) (a : Nat) : Nat :=
  (match dev with | some d => 2 ^ 63 + d * 2 ^ 47 | none => 0) + a / 64 * 64

/-- Apply `f` to every access in flight. -/
def mapReqs (f : MemReq → MemReq) (s : State) : State :=
  s.onNet (fun n =>
    { n with reqs := n.reqs.map f, slice := n.slice.map f,
             fills := n.fills.map (fun x => { x with waiting := x.waiting.map f }),
             hostq := n.hostq.map (fun x => { x with req := f x.req }),
             answers := n.answers.map (fun x => { x with req := f x.req }),
             far := n.far.map (fun x => (x.1, f x.2)) })

/-- Drop the fill of a load of tile `t` whose line key satisfies `p` (03 R99). -/
def MemReq.noFill (t : Nat) (p : Nat → Bool) (r : MemReq) : MemReq :=
  match r.iss, r.op with
  | .ctx t' _ _, .load rt size acq true =>
    if t' = t ∧ p (lineKey r.dev r.addr) then { r with op := .load rt size acq false } else r
  | _, _ => r

/-- Invalidate the lines of tile `t`'s buffer whose key satisfies `p`, and the fills under way for them (03 R99). -/
def dropLines (t : Nat) (p : Nat → Bool) (s : State) : State :=
  mapReqs (fun r => r.noFill t p) (s.onTile t (fun x => { x with rlb := x.rlb.filter (fun l => !p l.addr) }))

/-- Invalidate all 64 lines (03 R100). -/
def invalidateRlb (t : Nat) (s : State) : State := dropLines t (fun _ => true) s

/-- An acquire completes: the buffer is emptied and the context's next remote LD bypasses it (03 R100). -/
def acquire (t c : Nat) (s : State) : State := (invalidateRlb t s).onCx t c (fun k => { k with bypass := true })

/-- Fill a line; the line filled longest ago makes room (03 R98). -/
def Tile.fillLine (x : Tile) (key : Nat) (data : Bytes) : Tile :=
  let l := x.rlb.filter (fun l => l.addr ≠ key)
  { x with rlb := (if 64 ≤ l.length then l.drop 1 else l) ++ [{ addr := key, data := data }] }

/-! ### Reading the block (03 R101) -/

/-- Code of a context state (03 R63). -/
def CtxSt.code : CtxSt → Nat
  | .off => 0 | .run => 1 | .wait => 2 | .halt => 3 | .fault => 4

/-- WAITKIND and WAITOBJ of a wait (03 R103). -/
def WaitFor.kindObj : WaitFor → Nat × Nat
  | .tf o _ => (1, o)
  | .gf o _ => (2, o)
  | .sem o _ _ => (3, o)
  | .bar b => (4, b)
  | .barHeld b _ => (4, b)
  | .fe w _ _ => (5, w)
  | .queue u => (6, u)
  | .fence _ => (7, 0)
  | .sendSlot => (7, 0)

/-- WAITKIND and WAITOBJ of a context in WAIT; zeros otherwise. -/
def Ctx.waitInfo (k : Ctx) : Nat × Nat :=
  match k.st, k.wait with
  | .wait, some w => w.kindObj
  | _, _ => (0, 0)

/-- CTX_STATE of context `c` (03 R103). -/
def ctxWord (x : Tile) (c : Nat) : Word :=
  let k := x.cx c
  BitVec.ofNat 64 (k.st.code + k.waitInfo.1 * 2 ^ 3 + k.waitInfo.2 % 2 ^ 13 * 2 ^ 6
    + b2n (decide (x.mail.handler = some c)) * 2 ^ 19 + k.pc.toNat * 2 ^ 32)

/-- A register of tile `t`'s block (03 R101). -/
def blockWord (s : State) (t o : Nat) : Word :=
  let x := s.tile t
  if o = 0x000 then BitVec.ofNat 64 (t + tileX t * 2 ^ 13 + tileY t * 2 ^ 19 + regionOf t * 2 ^ 26)
  else if o = 0x008 then BitVec.ofNat 64 (b2n x.clearing + partOf s t * 2 + b2n x.fenced * 2 ^ 4)
  else if 0x010 ≤ o ∧ o ≤ 0x028 then ctxWord x ((o - 0x010) / 8)
  else if o = 0x040 then x.phaseStep
  else if o = 0x048 then x.phasePc.setWidth 64
  else if o = 0x050 then x.nf.word
  else if o = 0x060 then x.cnt.eccCe
  else if 0x100 ≤ o ∧ o ≤ 0x118 then BitVec.ofNat 64 (fld x.flags.toNat (64 * ((o - 0x100) / 8)) 64)
  else if 0x200 ≤ o ∧ o ≤ 0x238 then (Map.get 0 x.cnt.evcnt ((o - 0x200) / 8)).setWidth 64
  else if o = 0x240 then x.cnt.evsel
  else if 0x400 ≤ o ∧ o ≤ 0x7F8 then BitVec.ofNat 64 (fld x.fe.toNat (64 * ((o - 0x400) / 8)) 64)
  else 0

/-! ### Writing the block -/

/-- Write ones over the tile flags 64n to 64n + 63 (03 R101). -/
def Tile.putFlags (x : Tile) (n : Nat) (v : Word) (b : Bool) : Tile :=
  (List.range 64).foldl (fun x i => if v.getLsbD i then x.putFlag (64 * n + i) b else x) x

/-- EVSEL with reserved codes read back as 0x00; a selector that changes zeroes its counter (18 R496). -/
def Tile.selectEvents (x : Tile) (v : Word) : Tile :=
  let code := fun (n : Nat) => let k := fld v.toNat (8 * n) 8; if eventDefined k then k else 0
  let sel := (List.range 8).foldl (fun a n => a + code n * 2 ^ (8 * n)) 0
  let cnt := (List.range 8).foldl (fun m n =>
    if fld x.cnt.evsel.toNat (8 * n) 8 = code n then m else Map.set 0 m n 0) x.cnt.evcnt
  { x with cnt := { x.cnt with evsel := BitVec.ofNat 64 sel, evcnt := cnt } }

/-- The effect of a permitted write of tile `t`'s block (03 R101, 00 R12). -/
def putBlock (t o : Nat) (v : Word) (s : State) : State :=
  if o = 0x050 then s.onTile t (fun x => { x with nf := x.nf.clear v })
  else if o = 0x058 then (if v.getLsbD 0 then invalidateRlb t s else s)
  else if 0x100 ≤ o ∧ o ≤ 0x118 then s.onTile t (fun x => x.putFlags ((o - 0x100) / 8) v false)
  else if 0x120 ≤ o ∧ o ≤ 0x138 then s.onTile t (fun x => x.putFlags ((o - 0x120) / 8) v true)
  else if o = 0x240 then s.onTile t (fun x => x.selectEvents v)
  else s

/-- Whether a write names TF255: bit 63 of TF_VALUE3 or TF_SET3 (14 R392). -/
def namesPhaseFlag (o : Nat) (v : Word) : Bool := (o == 0x118 || o == 0x138) && v.getLsbD 63

/-- Whether another tile of the partition may write a register: TF_VALUE and TF_SET only (03 R102). -/
def peerMayWrite (o : Nat) : Bool := decide (0x100 ≤ o) && decide (o ≤ 0x138)

/-- Whether a tile answers the debugger: a fence holds it off, but for a killed partition's (17 R482). -/
def answersDebug (s : State) (t : Nat) : Bool :=
  !(s.tile t).clearing && (!(s.tile t).fenced || (s.part (partOf s t)).tn.killed)

/-- The code that refuses a write of tile `t`'s block at offset `o` by `w`; none where it is permitted (03 R102, 01 R25,
R39, 14 R392, 19 R517; 17 R482, 18 R489). -/
def blockWriteFault (s : State) (w : Writer) (t o : Nat) (v : Word) : Option Nat :=
  match w with
  | .tile k =>
    if 6 ≤ partOf s k ∨ partOf s t ≠ partOf s k then some 0x0A
    else if k.val = t then (if namesPhaseFlag o v then some 0x02 else none)
    else if (s.tile t).fenced ∨ (s.tile t).clearing then some 0x0A
    else if !peerMayWrite o || namesPhaseFlag o v then some 0x02
    else none
  | .nib r => if regionOf t = r.val ∧ !(s.tile t).fenced then none else some 0x0A
  | .host _ => some 0x02
  | .steward => some 0x02
  | .debugger => if unlockedPart s (partOf s t) && answersDebug s t then none else some 0x0A

/-- The answer to a host request. -/
def hostAnswer (ok : Bool) (d : Bytes) (s : State) : State := s.onOut (fun o => { o with host := some (ok, d) })

/-- Refuse a host request: a Completer Abort, or for a posted write an advisory error with the request's header logged
(19 R517). -/
def refuseHost (h : HostHdr) (s : State) : State :=
  if h.write then s.onPcie (fun p => { p with aer := h :: p.aer }) else hostAnswer false [] s

/-- The BAR0 offset at which a host reaches a register of the local map (19 R511). -/
def bar0Of (a : Nat) : Nat := if devBase ≤ a then 0x10000000 + (a - devBase) else 0x1000000 + (a - regBase)

/-- Report a refused write at its writer: a record for a Nib core, an advisory error for the host, nothing for the
debugger. A tile's own refusal comes back in its answer, so it is not met here (19 R517, 18 R489, 01 R25). -/
def refuseWrite (w : Writer) (code daddr : Nat) (s : State) : State :=
  match w with
  | .tile t => issueFault t 0 code s daddr
  | .nib r => stopRegion r.val code (raiseRec (plainRec s code 2 1 (partOfRegion s r.val) 12 r.val daddr) s)
  | .host f => refuseHost { fn := f.val, write := true, bar := 0, off := bar0Of daddr, len := 8 } s
  | .steward | .debugger => s

/-- A write of one register of tile `t`'s block by `w`; nothing is written after a thermal trip (15 R418). -/
def writeBlock (w : Writer) (t o : Nat) (v : Word) (s : State) : State :=
  if s.dev.boot.trip then s
  else match blockWriteFault s w t o v with
  | some code => refuseWrite w code (regBase + t * 0x1000 + o) s
  | none => putBlock t o v s

/-! ### Markers (18 R502) -/

/-- The MARKER record of context `c` of tile `t`, which sets flag `f` (18 R502). It takes g1 as it stands: no rule has the
instruction wait for a load in flight into a register that it does not name (DESIGN CHOICE, log 51). -/
def marker (t c f : Nat) (s : State) : State :=
  if 224 ≤ f ∧ f < 240 ∧ s.dev.trace.markers.getLsbD (f - 224) then
    traceTile t 7 c (s.cx t c).pc.toNat (toBytes f 1 ++ zeros 3 ++ toBytes ((s.cx t c).reg 1).toNat 8) s
  else s

/-- The MARKER records of a write of register `o` of a tile's block by context `c` of tile `t`: those of the flags that a write of
TF_SET3 sets (DESIGN CHOICE, log 51: they are the writing context's, whichever tile the flags are of). -/
def markWrite (t c o : Nat) (v : Word) (s : State) : State :=
  if o = 0x138 then (List.range 16).foldl (fun s i => if v.getLsbD (32 + i) then marker t c (224 + i) s else s) s else s

/-! ### CSR (03 R70, R72) and the register commands -/

/-- CSR, sub 0: rd holds the tile's register at obj x 8; rs1 is unused. -/
def execCsrRead (t : TileId) (c : CtxId) (rd rs1 : BitVec 5) (obj : BitVec 12) (s : State) :
    Host.Outcome State Fault Refusal :=
  .next (issue t c { writes := [rd.toNat] } (fun s => legal (rs1 == 0#5 && decide (obj.toNat ≤ 511))
    (fun s => .done (setRv t c rd (blockWord s t (obj.toNat * 8)) s)) s) s)

/-- CSR, sub 1: the tile's register at obj x 8 is written with rs1; rd is unused, and TF255 is out of reach
(14 R393). -/
def execCsrWrite (t : TileId) (c : CtxId) (rd rs1 : BitVec 5) (obj : BitVec 12) (s : State) :
    Host.Outcome State Fault Refusal :=
  .next (issue t c { reads := [rs1.toNat] } (fun s =>
    legal (rd == 0#5 && decide (obj.toNat ≤ 511) && !namesPhaseFlag (obj.toNat * 8) (rv s t c rs1))
      (fun s => .done (putBlock t (obj.toNat * 8) (rv s t c rs1) (markWrite t c (obj.toNat * 8) (rv s t c rs1) s))) s) s)

/-- RLB_INV: a write of 1 to bit 0 invalidates the remote line buffer (03 R100, R101). -/
def execRlbInv (w : Writer) (t : TileId) (v : Word) (s : State) : Host.Outcome State Fault Refusal :=
  .next (writeBlock w t 0x058 v s)

/-- TF_VALUEn: a write of ones clears flags 64n to 64n + 63 (03 R101). -/
def execTfValueClear (w : Writer) (t : TileId) (n : Fin 4) (v : Word) (s : State) : Host.Outcome State Fault Refusal :=
  .next (writeBlock w t (0x100 + 8 * n.val) v s)

/-- TF_SETn: a write of ones sets flags 64n to 64n + 63 (03 R101). -/
def execTfSetWrite (w : Writer) (t : TileId) (n : Fin 4) (v : Word) (s : State) : Host.Outcome State Fault Refusal :=
  .next (writeBlock w t (0x120 + 8 * n.val) v s)

/-- NF: a write of ones to bits [1:0] clears them (03 R104). -/
def execNfClear (w : Writer) (t : TileId) (v : Word) (s : State) : Host.Outcome State Fault Refusal :=
  .next (writeBlock w t 0x050 v s)

/-- EVSEL (03 R101, 18 R496). -/
def execEvselWrite (w : Writer) (t : TileId) (v : Word) (s : State) : Host.Outcome State Fault Refusal :=
  .next (writeBlock w t 0x240 v s)

end Sys2Proof.Machine
end

