-- ==== Sys2Proof/Machine/Tensor.lean ====
section
/-!
DEFINITION. Tensors in memory: layout, scales and footprints (03 R78–R81), index lists (07 R182–R186), reading elements
with their scales (04 R113–R115) and writing them (04 R116–R119, R122, R127).
-/
namespace Sys2Proof.Machine

/-! ### Layout (03 R78–R80) -/

/-- Bits of an element by format code (04 R107). -/
def fmtWidth (code : Nat) : Nat :=
  match code with
  | 0 => 32 | 1 => 16 | 2 => 16 | 3 => 8 | 4 => 8 | 5 => 6 | 6 => 6 | 7 => 4 | 8 => 8 | 9 => 4 | _ => 8

/-- The element format. -/
def Desc.format (d : Desc) : Fmt := (fmtOf d.fmt d.sgn).getD (.flt 0)

/-- The stride of dim1 in force. -/
def Desc.s1 (d : Desc) : Nat := if d.bc1 then 0 else d.stride1

/-- The stride of dim2 in force. -/
def Desc.s2 (d : Desc) : Nat := if d.bc2 then 0 else d.stride2

/-- Elements. -/
def Desc.count (d : Desc) : Nat := d.ext0 * d.ext1 * d.ext2

/-- Bytes of one dim0 row. -/
def Desc.rowBytes (d : Desc) : Nat := (d.ext0 * fmtWidth d.fmt + 7) / 8

/-- Local offset of element (0, 0, 0). -/
def Desc.loc (d : Desc) : Nat := fld d.base.toNat 0 47

/-- Local offset of row (i1, i2). -/
def Desc.row (d : Desc) (i1 i2 : Nat) : Nat := d.loc + d.s1 * i1 + d.s2 * i2

/-- Scale extents of K, of the other dimension and of dim2 (03 R80). -/
def Desc.scaleExt (d : Desc) : Nat × Nat × Nat :=
  let e1 := if d.bc1 then 1 else d.ext1
  let e2 := if d.bc2 then 1 else d.ext2
  if d.kdim = 0 then (d.ext0, e1, e2) else (e1, d.ext0, e2)

/-- Scale blocks of one K-row. -/
def Desc.scaleBlocks (d : Desc) : Nat := cdiv d.scaleExt.1 32

/-- Index in the scale array of an element's scale byte. -/
def Desc.scaleIdx (d : Desc) (i0 i1 i2 : Nat) : Nat :=
  let j1 := if d.bc1 then 0 else i1
  let j2 := if d.bc2 then 0 else i2
  let (jk, jn) := if d.kdim = 0 then (i0, j1) else (j1, i0)
  (j2 * d.scaleExt.2.1 + jn) * d.scaleBlocks + jk / 32

/-- Local offset of the scale array. -/
def Desc.scaleLoc (d : Desc) : Nat := ((d.loc : Int) + signed 32 d.aux0).toNat

/-- Local offset of the metadata. -/
def Desc.metaLoc (d : Desc) : Nat := ((d.loc : Int) + signed 32 d.aux1).toNat

/-- Extent of K (05 R136). -/
def Desc.kExt (d : Desc) : Nat := if d.kdim = 0 then d.ext0 else d.ext1

/-- Extent of the dimension that is neither K nor dim2. -/
def Desc.nExt (d : Desc) : Nat := if d.kdim = 0 then d.ext1 else d.ext0

/-- K-rows (07 R181). -/
def Desc.kRows (d : Desc) : Nat := d.nExt * d.ext2

/-- The descriptor checks that raise fault 0x09 (03 R78–R81, 04 R114). A non-zero reserved field [127:124] raises it, as R81's
"reserved field value"; 00 R14 would have it ignored (DEDUCED, log 71). -/
def descOk (v : BitVec 256) : Bool :=
  let d := descOf v
  let w := fmtWidth d.fmt
  let gran := if w = 6 then 3 else max 1 (w / 8)
  let α := fp32.decode d.aux0
  (fmtOf d.fmt d.sgn).isSome && fld v.toNat 124 4 == 0 && d.scl != 3 && d.mta != 3
    && (d.scl != 0 || d.aux0 == 0) && (d.mta != 0 || d.aux1 == 0)
    && (d.scl != 1 || (decide (3 ≤ d.fmt) && decide (d.fmt ≤ 7))) && (d.scl != 2 || d.fmt == 3 || d.fmt == 4)
    && (w != 6 || d.ext0 % 4 == 0) && (w != 4 || d.ext0 % 2 == 0)
    && d.loc % gran == 0 && d.s1 % gran == 0 && d.s2 % gran == 0
    && (d.bc1 || d.stride1 != 0) && (d.bc2 || d.stride2 != 0)
    && (d.scl != 2 || (α.isFinite && !α.isZero && !α.isNeg))

/-! ### Index lists (07 R183) -/

/-- The header of a list. -/
structure ListHdr where
  nrows : Nat
  total : Nat
  range : Nat
  ovf : Bool
  resv : Nat
  deriving DecidableEq, Repr

/-- Read a list header. -/
def listHdrOf (bs : Bytes) : ListHdr :=
  let n := leNat bs
  { nrows := fld n 0 32, total := fld n 32 32, range := fld n 64 16, ovf := nbit n 80, resv := fld n 81 47 }

/-- Bytes of a list with this header. -/
def ListHdr.size (h : ListHdr) : Nat := 20 + 4 * h.nrows + 2 * h.total

/-- Whether a header is one that a unit accepts (07 R183, R185). -/
def ListHdr.ok (h : ListHdr) : Bool := decide (1 ≤ h.nrows) && h.resv == 0 && !h.ovf

/-! ### Footprints (05 R138, R139; 03 R81) -/

/-- Where a run of global addresses lies, whole. -/
inductive Span where
  | tile (t : Nat)
  | bulk
  | host
  /-- In a window of another device. -/
  | far (dev : Nat)
  deriving DecidableEq, Repr

/-- The window that holds the addresses from `lo` to `hi - 1`; none where no single one does. `g` is the Bulk Store's
usable size, on another device the most it can be. -/
def spanAt (g a len : Nat) (dev : Option Nat) : Option Span :=
  match placeOf g a with
  | .sram t o => if o + len ≤ 0x100000 then some (match dev with | some d => .far d | none => .tile t) else none
  | .bulk => if a + len ≤ bulkBase + g * gib then some (match dev with | some d => .far d | none => .bulk) else none
  | .host o => if dev.isNone ∧ o + len ≤ 0x100000000000 then some .host else none
  | _ => none

/-- The window of a run of global addresses. -/
def spanOf (s : State) (lo : Int) (len : Nat) : Option Span :=
  if lo < 0 ∨ (0x10000000000000000 : Int) < lo + len then none
  else match routeOf s (BitVec.ofInt 64 lo) with
  | .here a => spanAt s.dev.bulk.gib a len none
  | .far d a => spanAt 186 a len (some d)
  | .bounds => none

/-- The bytes of a run without a side effect; zeros where it cannot be seen. -/
def peekRun (s : State) (lo : Int) (len : Nat) : Bytes :=
  match spanOf s lo len with
  | some (.tile _) => s.bytes (fld lo.toNat 0 47) len
  | some .bulk => viewBulkRun s (fld lo.toNat 0 47) len
  | _ => zeros len

/-- The two-bit error in a run of this device's tile SRAM. -/
def badRun (s : State) (lo : Int) (len : Nat) : Option Nat :=
  match spanOf s lo len with
  | some (.tile _) => s.badIn (fld lo.toNat 0 47) len
  | _ => none

/-- Global address of the metadata. -/
def Desc.metaAt (d : Desc) : Int := (d.base.toNat : Int) + signed 32 d.aux1

/-- The metadata's header where it is a list. -/
def Desc.hdr (s : State) (d : Desc) : ListHdr := listHdrOf (peekRun s d.metaAt 16)

/-- The address of element (0, 0, 0); this device's own windows by their local offset (03 R86). -/
def Desc.at0 (s : State) (d : Desc) : Int := match routeOf s d.base with | .here a => a | _ => d.base.toNat

/-- The runs of global addresses that a tensor takes: data, scales, metadata; empty ones left out. -/
def Desc.runs (s : State) (d : Desc) : List (Int × Nat) :=
  let data := if d.count = 0 then 0 else d.s1 * (d.ext1 - 1) + d.s2 * (d.ext2 - 1) + d.rowBytes
  let scl := if d.scl = 1 then d.scaleBlocks * d.scaleExt.2.1 * d.scaleExt.2.2 else 0
  let mta := if d.mta = 1 then 4 * d.kRows * cdiv d.kExt 32 else if d.mta = 2 then (d.hdr s).size else 0
  [(d.at0 s, data), (d.at0 s + signed 32 d.aux0, scl), (d.at0 s + signed 32 d.aux1, mta)].filter (fun r => r.2 ≠ 0)

/-- The footprint: from the lowest byte to the highest; none for an empty one (05 R138). -/
def Desc.foot (s : State) (d : Desc) : Option (Int × Nat) :=
  match d.runs s with
  | [] => none
  | r :: rs =>
    let p := rs.foldl (fun (p : Int × Int) r => (min p.1 r.1, max p.2 (r.1 + r.2))) (r.1, r.1 + r.2)
    some (p.1, (p.2 - p.1).toNat)

/-- Whether two footprints meet. -/
def footsMeet (a b : Option (Int × Nat)) : Bool :=
  match a, b with
  | some a, some b => decide (a.1 < b.1 + b.2) && decide (b.1 < a.1 + a.2)
  | _, _ => false

/-- A footprint as a range of local offsets. -/
def footRange (f : Option (Int × Nat)) : List (Nat × Nat) :=
  match f with
  | some (lo, n) => [(fld lo.toNat 0 47, n)]
  | none => []

/-- The checks of one descriptor (03 R81): 0x09 on its fields, 0x01 on its list's header, 0x02 where its footprint lies
in no window, or, for an engine, not in tile `own`'s. -/
def checkDesc (s : State) (own : Option Nat) (v : BitVec 256) : Except (Nat × Nat) Unit :=
  let d := descOf v
  let inReach := fun (lo : Int) (n : Nat) => match spanOf s lo n, own with
    | none, _ => false
    | some (.tile t), some k => decide (t = k)
    | some _, some _ => false
    | some _, none => true
  if !descOk v then .error (0x09, 0)
  else if d.mta = 2 ∧ !inReach d.metaAt 16 then .error (0x02, fld d.metaAt.toNat 0 47)
  else match (if d.mta = 2 then badRun s d.metaAt 16 else none) with
  | some k => .error (0x01, k)
  | none =>
    match d.foot s with
    | none => .ok ()
    | some (lo, n) =>
      if inReach lo n then .ok ()
      else if inReach lo 1 then .error (0x02, fld (lo + n - 1).toNat 0 47)
      else .error (0x02, fld lo.toNat 0 47)

/-- The first failing check of a list of descriptors. -/
def checkDescs (s : State) (own : Option Nat) (vs : List (BitVec 256)) : Except (Nat × Nat) Unit :=
  vs.foldl (fun r v => match r with | .error e => .error e | .ok () => checkDesc s own v) (.ok ())

/-! ### Reading -/

/-- Multiply by 2^k. -/
def Num.scale (x : Num) (k : Int) : Num :=
  match x with
  | .fin s n e => .fin s n (e + k)
  | x => x

/-- The raw bits of the elements of row (i1, i2). -/
def Desc.rawRow (s : State) (d : Desc) (i1 i2 : Nat) : List Nat :=
  let n := leNat (s.bytes (d.row i1 i2) d.rowBytes)
  (List.range d.ext0).map (fun i => fld n (fmtWidth d.fmt * i) (fmtWidth d.fmt))

/-- The scale byte of an element under SCL = 01. -/
def Desc.scaleByte (s : State) (d : Desc) (i0 i1 i2 : Nat) : Nat :=
  leNat (s.bytes (d.scaleLoc + d.scaleIdx i0 i1 i2) 1)

/-- The exact value of an element with its block scale, but without a per-tensor one (04 R113). -/
def Desc.blockValue (s : State) (d : Desc) (raw i0 i1 i2 : Nat) : Num :=
  let v := d.format.decode raw
  if d.scl = 1 then
    let b := d.scaleByte s i0 i1 i2
    if b = 255 then .nan else v.scale ((b : Int) - 127)
  else v

/-- The per-tensor scale; 1 where there is none (04 R114). -/
def Desc.alpha (d : Desc) : Num := if d.scl = 2 then fp32.decode d.aux0 else .pow2 0

/-- The elements in row-major order, each as `f` reads it. -/
def Desc.elemsBy (s : State) (d : Desc) (f : Nat → Nat → Nat → Nat → Num) : List Num :=
  (List.range d.ext2).flatMap (fun i2 => (List.range d.ext1).flatMap (fun i1 =>
    ((d.rawRow s i1 i2).zipIdx).map (fun p => f p.1 p.2 i1 i2)))

/-- The exact scaled values in row-major order (04 R113–R115). -/
def Desc.elems (s : State) (d : Desc) : List Num :=
  d.elemsBy s (fun raw i0 i1 i2 => (d.blockValue s raw i0 i1 i2).mul d.alpha)

/-- The rows along dim0 of a row-major list. -/
def rowsOf {α : Type} (n : Nat) (l : List α) : List (List α) :=
  if n = 0 then [] else pieces n l.length l

/-- The lowest two-bit error in a list of ranges. -/
def badInRanges (s : State) (l : List (Nat × Nat)) : Option Nat :=
  l.foldl (fun b r => match b, s.badIn r.1 r.2 with
    | some x, some y => some (min x y)
    | some x, none => some x
    | none, y => y) none

/-! ### Writing -/

/-- The encoding of x / d with whether it counts as non-finite (04 R127). The ME's final write-out gives the bits of a single
rounding to nearest, which is what 04 R116, R117 and R122 promise of the chained conversion; a finite value of 2^128 or more
is no infinity on the way (DEDUCED, log 71). -/
def encodeAs (f : Fmt) (m : RMode) (x : Num) (d : Nat) : Nat × Bool :=
  let b := f.encode m x d
  (b, !x.isFinite || f.nonFinite b)

/-- The scale byte that a block's exact results choose (04 R116). -/
def mxByte (code : Nat) (xs : List Num) : Nat :=
  if xs.any (fun x => !x.isFinite) then 255
  else
    let top := xs.foldl (fun (b : Option Int) x => match x with
      | .fin _ n e => if n = 0 then b else
          let k := floorLog2 n 1 e
          match b with | some j => some (max j k) | none => some k
      | _ => b) none
    match top with
    | none => 0
    | some k => (satInt (-127) 127 (k - mxEmax code) + 127).toNat

/-- What a write-out has done so far. -/
structure Written where
  s : State
  /-- Lowest index of a non-finite element. -/
  nf : Option Nat := none

/-- Keep the lowest non-finite index. -/
def Written.mark (w : Written) (i : Nat) (b : Bool) : Written :=
  if b then { w with nf := match w.nf with | some j => some (min i j) | none => some i } else w

/-- Write the raw codes of a run of elements of row (i1, i2) from element `i0`; nothing else of the row changes. -/
def Desc.putRaw (d : Desc) (i0 i1 i2 : Nat) (raws : List Nat) (s : State) : State :=
  let w := fmtWidth d.fmt
  let lo := i0 * w / 8
  let hi := ((i0 + raws.length) * w + 7) / 8
  let old := leNat (s.bytes (d.row i1 i2 + lo) (hi - lo))
  let sh := i0 * w - 8 * lo
  let new := (raws.zipIdx).foldl (fun a p => a + p.1 % 2 ^ w * 2 ^ (w * p.2)) 0
  let val := old % 2 ^ sh + new * 2 ^ sh + old / 2 ^ (sh + w * raws.length) * 2 ^ (sh + w * raws.length)
  s.poke (d.row i1 i2 + lo) (toBytes val (hi - lo))

/-- Write the elements of row (i1, i2) from `i0` on; `at'` is their row-major index, `how` each one's rounding. A tainted
operation writes free values (03 R76). -/
def Desc.putRun (d : Desc) (tainted : Bool) (how : Nat → RMode) (i0 i1 i2 : Nat) (xs : List Num) (w : Written) :
    Written :=
  let f := d.format
  let idx := i0 + d.ext0 * (i1 + d.ext1 * i2)
  if tainted then
    let rs := (List.range xs.length).map (fun k => (Config.freeValue (fmtWidth d.fmt) (w.s.free + k)).toNat)
    let s := { w.s with free := w.s.free + xs.length }
    let w := { w with s := d.putRaw i0 i1 i2 rs s }
    (rs.zipIdx).foldl (fun w p => w.mark (idx + p.2) (f.nonFinite p.1)) w
  else
    let αn := match d.alpha with | .fin _ n _ => n | _ => 1
    let αe := match d.alpha with | .fin _ _ e => e | _ => 0
    let rs := (xs.zipIdx).map (fun p => encodeAs f (how (idx + p.2)) (p.1.scale (-αe)) αn)
    let w := { w with s := d.putRaw i0 i1 i2 (rs.map (fun r => r.1)) w.s }
    (rs.zipIdx).foldl (fun w p => w.mark (idx + p.2) p.1.2) w

/-- Write one scale block of row (i1, i2) from `i0` on with its scale byte (04 R116, R127). -/
def Desc.putBlock (d : Desc) (tainted : Bool) (how : Nat → RMode) (i0 i1 i2 : Nat) (xs : List Num) (w : Written) :
    Written :=
  let put := fun (b : Nat) (w : Written) => { w with s := w.s.poke (d.scaleLoc + d.scaleIdx i0 i1 i2) (toBytes b 1) }
  let idx := i0 + d.ext0 * (i1 + d.ext1 * i2)
  if tainted then
    let (b, s) := drawFree 8 w.s
    put b.toNat ({ d with scl := 0 }.putRun true how i0 i1 i2 xs { w with s := s })
  else
    let b := mxByte d.fmt xs
    if b = 255 then
      let k := (xs.findIdx? (fun x => !x.isFinite)).getD 0
      put b ({ w with s := d.putRaw i0 i1 i2 (xs.map (fun _ => 0)) w.s }.mark (idx + k) true)
    else put b ({ d with scl := 0 }.putRun false how i0 i1 i2 (xs.map (fun (x : Num) => x.scale (127 - (b : Int)))) w)

/-- Write elements `i0` to `i0 + xs.length - 1` of row (i1, i2); under SCL = 01 they are whole scale blocks. -/
def Desc.put (d : Desc) (tainted : Bool) (how : Nat → RMode) (i0 i1 i2 : Nat) (xs : List Num) (w : Written) : Written :=
  if xs = [] then w
  else if d.scl = 1 then
    ((pieces 32 xs.length xs).zipIdx).foldl (fun w p => d.putBlock tainted how (i0 + 32 * p.2) i1 i2 p.1 w) w
  else d.putRun tainted how i0 i1 i2 xs w

/-- Write whole rows from row 0 on, in row-major order. -/
def Desc.putRows (d : Desc) (tainted : Bool) (how : Nat → RMode) (rows : List (List Num)) (s : State) : Written :=
  (rows.zipIdx).foldl (fun w p => d.put tainted how 0 (p.2 % d.ext1) (p.2 / d.ext1) p.1 w) { s := s }

end Sys2Proof.Machine
end

