-- ==== Sys2Proof/Machine/Blocks.lean ====
section
/-!
DEFINITION. The output blocks of an MM (05 R141, R147, R155) and what each of them reads, in order (05 R143, R154; 07 R183, R191).
-/
namespace Sys2Proof.Machine

/-! ### Output blocks (05 R141, R155) -/

/-- Blocks along M, along N and in all. -/
def blockGrid (c : Desc) : Nat × Nat × Nat :=
  let bm := cdiv c.ext1 16
  let bn := cdiv c.ext0 16
  (bm, bn, bm * bn * c.ext2)

/-- Where block `k` lies: its batch, its rows and its columns. -/
structure BlockAt where
  n : Nat
  row0 : Nat
  row1 : Nat
  col0 : Nat
  col1 : Nat
  deriving DecidableEq, Repr

/-- The place of block `k` in the order of R141. -/
def blockAt (c : Desc) (k : Nat) : BlockAt :=
  let (bm, bn, _) := blockGrid c
  let p := k / bn % bm
  let q := k % bn
  { n := k / (bm * bn), row0 := 16 * p, row1 := min (16 * p + 16) c.ext1, col0 := 16 * q, col1 := min (16 * q + 16) c.ext0 }

/-- The blocks that write out where block `stop` writes nothing: those before it, but for one that shares its scale block. -/
def blocksKept (c : Desc) (stop : Nat) : Nat := if c.scl = 1 ∧ stop % (blockGrid c).2.1 % 2 = 1 then stop - 1 else stop

/-- The first column of what is written when block `k` is complete: its own, or under SCL = 01 that of the scale blocks which it
shares with the block before it; none while the next block shares them (05 R147). -/
def writesFrom (c : Desc) (k : Nat) : Option Nat :=
  let bn := (blockGrid c).2.1
  let q := k % bn
  if c.scl ≠ 1 then some (16 * q) else if q % 2 = 1 ∨ q + 1 = bn then some (32 * (q / 2)) else none

/-! ### What blocks read -/

/-- The tile ranges of dim1 rows `r0` to `r1` and dim0 columns `c0` to `c1` in batch `n`, with their scale bytes. -/
def rectRanges (d : Desc) (r0 r1 c0 c1 n : Nat) : List (Nat × Nat) :=
  if r1 ≤ r0 ∨ c1 ≤ c0 then []
  else
    let w := fmtWidth d.fmt
    let rows := (List.range (r1 - r0)).map (r0 + ·)
    let lo := c0 * w / 8
    let data := rows.map (fun i => (d.row i n + lo, (c1 * w + 7) / 8 - lo))
    if d.scl ≠ 1 then data
    else if d.kdim = 0 then
      data ++ rows.map (fun i => (d.scaleLoc + d.scaleIdx c0 i n, (c1 - 1) / 32 - c0 / 32 + 1))
    else
      data ++ (List.range (c1 - c0)).map (fun k =>
        (d.scaleLoc + d.scaleIdx (c0 + k) r0 n, if d.bc1 then 1 else (r1 - 1) / 32 - r0 / 32 + 1))

/-- The pointers of row `r` of an index list, not past TOTAL (07 R183, R185). -/
def metaSpan (s : State) (d : Desc) (h : ListHdr) (r : Nat) : Nat × Nat :=
  let ptr := fun (i : Nat) => min (leNat (s.bytes (d.metaLoc + 16 + 4 * i) 4)) h.total
  (ptr r, ptr (r + 1))

/-- The metadata of K-row `r` that work block `j` of `js` reads: the bitmap's segment; of an index list the pointers with the
first work block and each entry with its segment, one past the last segment with the last (07 R182, R183, R191; DEDUCED, log 73). -/
def metaRanges (s : State) (d : Desc) (j js r : Nat) : List (Nat × Nat) :=
  if d.mta = 1 then [(d.metaLoc + r * (4 * cdiv d.kExt 32) + 4 * j, 4)]
  else if d.mta = 2 then
    let h := d.hdr s
    let row := if h.nrows = 1 then 0 else r
    let p := metaSpan s d h row
    let at' := fun (i : Nat) => d.metaLoc + 20 + 4 * h.nrows + 2 * (p.1 + i)
    (if j = 0 then [(d.metaLoc + 16 + 4 * row, 8)] else []) ++
      ((List.range (p.2 - p.1)).filter (fun i => min (leNat (s.bytes (at' i) 2) / 32) (js - 1) == j)).map (fun i => (at' i, 2))
  else []

/-- What work block `j` of `js` reads of an operand's K-rows `r0` to `r1` in batch `n`. -/
def kRanges (s : State) (d : Desc) (j js r0 r1 n : Nat) : List (Nat × Nat) :=
  let lo := 32 * j
  let hi := min (32 * j + 32) d.kExt
  (if d.kdim = 0 then rectRanges d r0 r1 lo hi n else rectRanges d lo hi r0 r1 n)
    ++ (List.range (r1 - r0)).flatMap (fun i => metaRanges s d j js (r0 + i + d.nExt * n))

/-- Batch index of an operand for batch `n` of C (05 R136). -/
def batchOf (d c : Desc) (n : Nat) : Nat := if d.ext2 = c.ext2 then n else 0

/-- What work block `j` of `js` of block `k` reads; the accumulator's start is read before the first (05 R143). A read made
ahead, into the staging lines (R154) or for the evaluation of a work item (07 R191), counts to the block that uses the data
(DEDUCED, log 73). -/
def blockReads (s : State) (a b c : Desc) (acc : Bool) (k j js : Nat) : List (Nat × Nat) :=
  let x := blockAt c k
  (if acc && j == 0 then rectRanges c x.row0 x.row1 x.col0 x.col1 x.n else [])
    ++ (if j = 0 then [] else kRanges s a (j - 1) js x.row0 x.row1 (batchOf a c x.n)
      ++ kRanges s b (j - 1) js x.col0 x.col1 (batchOf b c x.n))

/-- The first block whose reads meet a two-bit error, with the codeword: the lowest that the first work block to meet one reads
(DESIGN CHOICE among the reads of one work block, log 73). -/
def firstBadBlock (s : State) (a b c : Desc) (acc : Bool) (op : RunOp) : Option (Nat × Nat) :=
  let js := cdiv a.kExt 32
  if (badInRanges s op.opnd).isNone then none
  else (List.range (blockGrid c).2.2).findSome? (fun k => (List.range (js + 1)).findSome? (fun j =>
    (badInRanges s (blockReads s a b c acc k j js)).map (fun w => (k, w))))

/-- How many blocks an MM writes: none of them with an empty K where it accumulates (05 R141, R148). -/
def mmBlocks (op : RunOp) : Nat :=
  if (descOf op.dA).kExt = 0 ∧ op.req.sub.toNat % 2 = 1 then 0 else (blockGrid (descOf op.dC)).2.2

/-- The block at which an MM stops for a two-bit error in what it reads (05 R155). An empty K reads nothing. -/
def badBlock (s : State) (op : RunOp) : Option (Nat × Nat) :=
  let a := descOf op.dA
  if op.past ∨ a.kExt = 0 then none else firstBadBlock s a (descOf op.dB) (descOf op.dC) (op.req.sub.toNat % 2 == 1) op

/-- The blocks that an MM which a parity error stops while block `v` is under way writes out: those before it, as far as the
ME reads them without an error (05 R155). -/
def keptAt (s : State) (op : RunOp) (v : Nat) : Nat :=
  let k := v % max 1 (mmBlocks op)
  blocksKept (descOf op.dC) (match badBlock s op with | some (b, _) => min k b | none => k)

end Sys2Proof.Machine
end

