-- ==== Sys2Proof/Machine/Resets.lean ====
section
/-!
DEFINITION. Resets of the PCIe functions (19 R521, R522).
-/
namespace Sys2Proof.Machine

/-- A translation table with every slot out of use. -/
def disabled (m : SMap (BitVec 128)) : SMap (BitVec 128) := (m.map (fun e => (e.1, e.2 &&& ~~~1#128))).filter (fun e => e.2 != 0)

/-- The host-window reads outstanding that satisfy `p` raise fault 0x02 at their requesters (19 R521, R522). -/
def failHost (p : HostReq → Bool) (s : State) : State :=
  s.onNet (fun n =>
    let l := n.hostq.filter p
    { n with hostq := n.hostq.filter (fun h => !p h), lines := n.lines + l.length,
             answers := n.answers ++ l.zipIdx.map (fun (h, i) =>
               { req := h.req, res := .fault 0x02#8 h.req.addr,
                 sent := { no := n.lines + i, leg := h.req.iss.node.map (fun d => (.pcie, d)) } }) })

/-- The posted writes that satisfy `p` are discarded (19 R521). -/
def dropPosted (p : Posted → Bool) (s : State) : State :=
  s.onNet (fun n =>
    { n with posted := n.posted.filter (fun w => !p w),
             hostq := n.hostq.map (fun h => { h with behind := h.behind - ((n.posted.take h.behind).filter p).length }) })

/-- The oldest `k` posted writes have left for the host (08 R220). -/
def leavePosted (k : Nat) (s : State) : State :=
  (s.onOut (fun o => { o with posted := (s.net.posted.take k).reverse ++ o.posted })).onNet (fun n =>
    { n with posted := n.posted.drop k, hostq := n.hostq.map (fun h => { h with behind := h.behind - k }) })

/-- Whether a request held at a home slice is the host's, of a function that satisfies `p`. -/
def fromHost (p : Nat → Bool) : SliceReq → Bool
  | .hostRead f _ _ | .hostWrite f _ _ => p f.val
  | _ => false

/-- The requests of such functions that wait at a home slice are gone (DESIGN CHOICE, log 75). -/
def dropHeld (p : Nat → Bool) (s : State) : State :=
  s.onNet (fun n => { n with held := n.held.filter (fun q => !fromHost p q) })

/-- Whether a path is one of function `f`. -/
def pathOf (f : Nat) : Path → Bool
  | .mgmt _ => false
  | .mailbox g => g.val == f
  | .doorbell g _ => g.val == f

/-- Function `f` is reset: its registers, its translation table, MSI-X and DOE, with its reads outstanding, its posted writes
and the answers to come (19 R521). -/
def resetFn (f : Nat) (s : State) : State :=
  let n := if f = 0 then (if s.dev.pcie.vfEnable then 7 else 0) else f - 1
  let s := dropHeld (· == f) (dropPosted (fun w => w.fn == f) (failHost (fun h => h.fn == f) s))
  let s := s.onMgmt (fun g => { g with pend := g.pend.map (fun q => if pathOf f q.path then { q with drop := true } else q) })
  let s := if n < 6 then s.onPart n (fun p => { p with trans := disabled p.trans, transHi := [] }) else s
  s.onFn f (fun _ => {})

/-- Every virtual function is reset, and VF Enable is clear. -/
def resetVfs (s : State) : State := ([1, 2, 3, 4, 5, 6].foldl (fun s f => resetFn f s) s).onPcie (fun p => { p with vfEnable := false })

/-- Every function is reset. -/
def resetFns (s : State) : State := resetVfs (resetFn 0 s)

/-- The link carries nothing: the posted queue is discarded, and what the host asked for is gone (19 R520, R522). -/
def cutLink (s : State) : State :=
  (dropHeld (fun _ => true) (s.onNet (fun n => { n with posted := [] }))).onPcie
    (fun p => { p with linkUp := false, rate := 0, width := 0 })

/-- The link is down: window reads outstanding fault, and the posted queue is discarded (19 R522). -/
def linkDown (s : State) : State := cutLink (failHost (fun _ => true) s)

/-- The link has trained, at a rate of 2.5 to 64 GT/s and a width of x1 to x16 that the partner and the channel decide (19 R507). -/
def trainLink (s : State) : State :=
  let (r, s) := drawFree 8 s
  let (w, s) := drawFree 8 s
  s.onPcie (fun p => { p with linkUp := true, rate := 1 + r.toNat % 6, width := 2 ^ (w.toNat % 5) })

end Sys2Proof.Machine
end

