-- ==== Sys2Proof/Machine/Upsets.lean ====
section
/-!
DEFINITION. Soft errors that the environment lays on a step (16 R430, R431, log 10).
-/
namespace Sys2Proof.Machine

/-- The Sync Hub fails: every partition stops, and the level stays 1 until the next reset (16 R451). -/
def failHub (s : State) : State := updateLevel ((stopAllPartitions 0 s).onBoot (fun b => { b with hubFailed := true }))

/-- What an upset does to the device, before the step that meets it. -/
def strike (u : Upset) (s : State) : State :=
  match u with
  | .twoBit a => markBad a s
  | .oneBit t => s.onTile t Tile.corrected
  | .cacheTwoBit a => strikeLine a s
  | .cacheOneBit a => strikeLineOne a s
  | .bulkOneBit a => s.onBulk (fun b => { b with corrected := Map.mod 0 b.corrected (siteNumber s (siteOf s a).1) (fun k => satAdd 64 k 1) })
  | .none | .hubFailure | .parity _ _ => s

/-- Data address of a parity error (16 R434). -/
def parityAddr (n : Nat) : Nat := 0x7B0000000000 + n

/-- A parity error of the ME's accumulator file stops the running MM (16 R431, 05 R155): where two overlap, the newer, whose
block is being filled, while the older one writes out (DESIGN CHOICE, log 73). The block under way is a free value (log 73);
those before it write out when the ME has stopped. -/
def stopMm (t : Nat) (op : RunOp) (s : State) : State :=
  let (v, s) := drawFree 32 s
  let kept := keptAt s op v.toNat
  tileFault t { code := 0x01, daddr := parityAddr 0x20, src := 1, ctx := op.req.ctx, iaddr := op.req.iaddr, progress := kept }
    (s.onUnit t 0 (fun q => { q with running := some { op with stopAt := some kept } }))

/-- A parity error of structure `n` of a tile: a fault of context `c` at its instruction (16 R431). One of the accumulator file
stops the newer of two overlapped MMs, and the older completes (DESIGN CHOICE, log 73). -/
def tileParity (t c n : Nat) (s : State) : State :=
  let me := ((s.tile t).unit 0).running
  if n = 0x20 then
    match me with
    | some op => if op.stopAt.isSome then s else stopMm t op s
    | none => s
  else if n = 0x30 then
    let l := (s.tile t).un.list
    let s := s.onTile t (fun x => x.onUn (fun n => { n with list := n.list.map (fun l => { l with stopped := true }) }))
    match l with
    | some l => tileFault t { code := 0x01, daddr := parityAddr n, src := 5, ctx := l.req.ctx, iaddr := l.req.iaddr,
                              progress := l.done.length } s
    | none => tileFault t { code := 0x01, daddr := parityAddr n, src := 7, ctx := c, iaddr := (s.cx t c).pc } s
  else tileFault t { code := 0x01, daddr := parityAddr n, ctx := if n < 4 then n else c, iaddr := (s.cx t (if n < 4 then n else c)).pc } s

/-- The Sync Hub's objects in their tenant-switch state, with their owners (09 R237). -/
def Hub.fresh (h : Hub) : Hub := { ownGf := h.ownGf, ownSem := h.ownSem, ownBar := h.ownBar, dump := h.dump }

/-- A parity error of a structure that is no tile's (16 R431). -/
def deviceParity (n : Nat) (s : State) : State :=
  if 0x100 ≤ n ∧ n < 0x112 then
    let r := n - 0x100
    stopRegion r 0x01 (raiseRec (plainRec s 0x01 2 1 (partOfRegion s r) 12 r (parityAddr n)) s)
  else if n = 0x200 then
    (stopAllPartitions 0x01 (raiseRec (plainRec s 0x01 4 2 7 8 0 (parityAddr n)) s)).onHub Hub.fresh
  else if 0x300 ≤ n ∧ n < 0x308 then
    let p := n - 0x300
    let s := raiseRec (plainRec s 0x01 0 3 7 11 p (parityAddr n)) s
    updateLevel (s.onPort p (fun x => if x.st = pUp then { x with st := pRetrain, cnt := { x.cnt with retrains := satAdd 32 x.cnt.retrains 1 } } else x))
  else if 0x400 ≤ n ∧ n < 0x408 then
    stopAllPartitions 0x01 (raiseRec (plainRec s 0x01 4 2 7 13 0 (parityAddr n)) s)
  else if n = 0x500 then
    linkDown (resetFns (stopAllPartitions 0x01 (raiseRec (plainRec s 0x01 4 2 7 14 0 (parityAddr n)) s)))
  else s

/-- The structure of a parity error that concerns a tile. -/
def isTileStructure (n : Nat) : Bool := decide (n < 4) || n == 0x10 || n == 0x20 || n == 0x30

/-- A parity error. -/
def parity (n t c : Nat) (s : State) : State := if isTileStructure n then tileParity t c n s else deviceParity n s

end Sys2Proof.Machine
end

