-- ==== Sys2Proof/Machine/TileMem.lean ====
section
/-!
DEFINITION. Loads and stores of the tile core (03 R68, R69, R87–R95; 08 R204–R209, R223–R227): local accesses act at
once, every other access leaves as a request in flight.
-/
namespace Sys2Proof.Machine

/-! ### Accumulate on write (03 R87, R88) -/

/-- The element size of an accumulate type; none for the reserved one. -/
def accSize (ty : BitVec 2) : Option Nat :=
  match ty.toNat with | 0 => some 4 | 1 => some 2 | 2 => some 4 | _ => none

/-- One element's sum, and whether it is not finite. -/
def accElem (ty : BitVec 2) (old new : Nat) : Nat × Bool :=
  match ty.toNat with
  | 0 => let r := fp32.encode .odd ((fp32.decode old).add (fp32.decode new)); (r, !(fp32.decode r).isFinite)
  | 1 => let r := bf16.encode .odd ((bf16.decode old).add (bf16.decode new)); (r, !(bf16.decode r).isFinite)
  | _ => ((old + new) % 2 ^ 32, false)

/-- The sums of a run of elements. -/
def accBytes (ty : BitVec 2) (old new : Bytes) : Bytes × Bool :=
  let w := (accSize ty).getD 4
  let rs := (List.zip (pieces w old.length old) (pieces w new.length new)).map
    (fun p => accElem ty (leNat p.1) (leNat p.2))
  (rs.flatMap (fun r => toBytes r.1 w), rs.any (fun r => r.2))

/-- Accumulate into SRAM at local offset `a` of tile `t`, or answer the codeword that cannot be read (03 R83, R88). -/
def accumulate (t a : Nat) (ty : BitVec 2) (new : Bytes) (s : State) (own : Bool := false) : Except Nat State :=
  match s.badIn a new.length with
  | some k => .error k
  | none =>
    let (old, s) := readShared a new.length s
    let r := accBytes ty old new
    let s := writeShared a r.1 s own
    .ok (s.onTile t (fun x => ({ x with nf := { x.nf with aw := x.nf.aw || r.2 } }).count 0x2B 1))

/-! ### Full/empty words (03 R91–R95) -/

/-- The full/empty word at tile offset `o`; none outside them. -/
def feWord (o : Nat) : Option Nat := if o < 0x10000 ∧ o % 8 = 0 then some (o / 8) else none

def Tile.full (x : Tile) (w : Nat) : Bool := x.fe.getLsbD w
def setFull (t w : Nat) (b : Bool) (s : State) : State := s.onTile t (fun x => { x with fe := setBit x.fe w b })

/-- Whether context `c` of a tile waits for word `w` to fill, for which register and whether it only looks. A halted
context is not served (20 R541). -/
def feWaiter (x : Tile) (c w : Nat) : Option (Nat × Bool) :=
  match (x.cx c).st, (x.cx c).wait with
  | .wait, some (.fe w' rt peek) => if w' = w then some (rt, peek) else none
  | _, _ => none

/-- Serve the contexts that wait on word `w`, lowest first, while it is full (03 R94). -/
def serveFull (t w : Nat) (s : State) : State :=
  [0, 1, 2, 3].foldl (fun s c =>
    match feWaiter (s.tile t) c w with
    | some (rt, peek) =>
      if !(s.tile t).full w then s
      else
        let (v, s) := readShared (tileBase t + 8 * w) 8 s
        let s := s.onTile t (fun x => (x.onCx c (fun k => k.setReg rt (BitVec.ofNat 64 (leNat v)))).endWait c)
        if peek then s else setFull t w false s
    | none => s) s

/-- Fill word `w` of tile `t`; a word that is full stays as it is (03 R93). -/
def fillStore (t w : Nat) (bs : Bytes) (s : State) (own : Bool := false) : Except Nat State :=
  if (s.tile t).full w then .error 0x0C
  else .ok (serveFull t w (setFull t w true (writeShared (tileBase t + 8 * w) bs s own)))

/-! ### Where an access leads -/

/-- Where a context's access goes. -/
inductive Target where
  /-- The tile's own SRAM. -/
  | own (o : Nat)
  /-- Another tile's SRAM or any register, over the mesh. -/
  | mesh (a : Nat)
  /-- A home slice: the Bulk Store or the host window. -/
  | slice (a : Nat)
  /-- Another device. -/
  | far (dev a : Nat)
  /-- Nowhere, for a reason. -/
  | bad (code : Nat)
  deriving DecidableEq, Repr

/-- What a context may do with an access. -/
inductive AccKind where
  | load | store | acc | fillLoad | fillStore
  deriving DecidableEq, Repr

/-- Whether a register access is of the one width that registers have (03 R101, 08 R205). -/
def regShape (size o : Nat) : Bool := size == 8 && o % 8 == 0

/-- Decode an access of tile `t` with its range, kind and reach checks (08 R204–R209, 03 R86, R95, R102). -/
def targetOf (s : State) (t : Nat) (k : AccKind) (size : Nat) (addr : Word) (v : Word := 0) : Target :=
  let n := partOf s t
  let out := if k = .fillLoad ∨ k = .fillStore then Target.bad 0x0C else .bad 0x02
  match routeOf s addr with
  | .bounds => out
  | .far d a =>
    match placeOf 186 a with
    | .sram _ o =>
      if k = .fillLoad ∨ (k = .fillStore ∧ (feWord o).isNone) then .bad 0x0C else .far d a
    | .bulk =>
      if k = .fillLoad ∨ k = .fillStore then .bad 0x0C
      else if k = .acc then .bad 0x02 else .far d a
    | _ => out
  | .here a =>
    match s.place a with
    | .sram t' o =>
      if k = .fillLoad ∧ t' ≠ t then .bad 0x0C
      else if (k = .fillLoad ∨ k = .fillStore) ∧ (feWord o).isNone then .bad 0x0C
      else if t' = t then .own o
      else if 6 ≤ n ∨ partOf s t' ≠ n then .bad 0x0A
      else .mesh a
    | .block t' o =>
      if k = .fillLoad ∨ k = .fillStore then .bad 0x0C
      else if k = .acc ∨ !regShape size o then .bad 0x02
      else if 6 ≤ n ∨ partOf s t' ≠ n then .bad 0x0A
      else if k = .store ∧ t' ≠ t ∧ !peerMayWrite o then .bad 0x02
      else if k = .store ∧ namesPhaseFlag o v then .bad 0x02
      else .mesh a
    | .devreg o =>
      if k = .fillLoad ∨ k = .fillStore then .bad 0x0C
      else if k = .acc ∨ !regShape size o ∨ 0x6000000 ≤ o then .bad 0x02
      else .mesh a
    | .bulk =>
      if k = .fillLoad ∨ k = .fillStore then .bad 0x0C
      else if k = .acc then .bad 0x02
      else if inShare s n a then .slice a else .bad 0x0A
    | .host _ =>
      if k = .fillLoad ∨ k = .fillStore then .bad 0x0C
      else if k = .acc then .bad 0x02 else .slice a
    | .none => out

/-- Data address of an access's record: its local offset (16 R434). -/
def dataAddr (addr : Word) : Nat := fld addr.toNat 0 47

/-- Whether a target is in a Bulk Store or the host window, this device's or another's (18 R496). -/
def Target.bulk : Target → Bool
  | .slice _ => true
  | .far _ a => decide (bulkBase ≤ a)
  | _ => false

/-- Send an access of context `c` of tile `t` on its way, or fault where no port leads to its device (12 R330). -/
def sendAccess (t c : Nat) (g : Target) (op : MemOp) (s : State) : Eff :=
  let mk := fun (dev : Option Nat) (a : Nat) =>
    ({ iss := .ctx t c (s.cx t c).pc, part := partOf s t, dev := dev, addr := a, op := op } : MemReq)
  let sent := fun (s : State) => countLine 0x20 (some (.tile t)) (if g.bulk then s.onTile t (fun x => x.count 0x27 1) else s)
  match g with
  | .mesh a => .done (sent (onMesh (some (.tile t, nodeAt s a)) (fun k n => { n with reqs := n.reqs ++ [{ mk none a with sent := k }] }) s))
  | .slice a => .done (sent (onMesh (some (.tile t, nodeAt s a))
      (fun k n => { n with slice := n.slice ++ [{ mk none a with sent := k }] }) s))
  | .far d a =>
    match sendFar t d (mk (some d) a) s with
    | .ok s => .done (sent s)
    | .error p => .fault 0x0E (unreachAddr d p)
  | _ => .done s

/-- The memory checks common to every access: a legal width, a target aligned to it and in reach. -/
def withTarget (t c : Nat) (k : AccKind) (size : Nat) (rb : BitVec 5) (off : BitVec 11)
    (body : Target → State → Eff) (s : State) (v : Word := 0) : Eff :=
  let addr := memAddr s t c rb off size
  if addr.toNat % size ≠ 0 then .fault 0x02 (dataAddr addr)
  else match targetOf s t k size addr v with
    | .bad code => .fault code (dataAddr addr)
    | g => body g s

/-- A remote write invalidates a matching line of the tile's own buffer (03 R99). -/
def dropOwnLine (t : Nat) (g : Target) (s : State) : State :=
  match g with
  | .mesh a | .slice a => dropLines t (· == lineKey none a) s
  | .far d a => dropLines t (· == lineKey (some d) a) s
  | _ => s

/-- A store's instruction: it writes the tile's own SRAM at once or leaves. -/
def storeTo (t c : Nat) (bs : Bytes) (g : Target) (s : State) : Eff :=
  match g with
  | .own o =>
    match mergeBad s (tileBase t + o) bs.length with
    | some k => .fault 0x01 k
    | none => .done (writeShared (tileBase t + o) bs s (runsHandler s t c))
  | g => sendAccess t c g (.store bs) (dropOwnLine t g s)

/-- A read of the tile's own SRAM: the bytes, or the codeword that cannot be corrected. -/
def loadOwn (t o size : Nat) (s : State) : Except Nat (Bytes × State) :=
  match s.badIn (tileBase t + o) size with
  | some k => .error k
  | none => .ok (readShared (tileBase t + o) size s)

/-- Whether a target's loads may fill the remote line buffer: memory, not registers (03 R98). -/
def fillable (s : State) (g : Target) : Bool :=
  match g with
  | .mesh a => match s.place a with | .sram _ _ => true | _ => false
  | .slice _ | .far _ _ => true
  | _ => false

/-- The key of a target's line. -/
def Target.key : Target → Nat
  | .mesh a | .slice a => lineKey none a
  | .far d a => lineKey (some d) a
  | _ => 0

/-- The offset of a target within its 64 B line. -/
def Target.inLine : Target → Nat
  | .mesh a | .slice a | .far _ a => a % 64
  | _ => 0

/-- Count a load that leaves for another tile's window (18 R496). -/
def countLoad (t : Nat) (g : Target) (x : Tile) : Tile :=
  match g with
  | .mesh a => if a / 0x100000 ≠ t ∧ a < 0x120000000 then x.count 0x26 1 else x
  | .far _ a => if a < 0x120000000 then x.count 0x26 1 else x
  | _ => x

/-- A load's instruction: from the tile's own SRAM, from the remote line buffer, or on its way (03 R98, R100). -/
def loadFrom (t c : Nat) (rt size : Nat) (acq : Bool) (g : Target) (s : State) : Eff :=
  match g with
  | .own o =>
    match loadOwn t o size s with
    | .error k => .fault 0x01 k
    | .ok (bs, s) =>
      let s := s.onCx t c (fun k => k.loadRegs rt bs)
      .done (if acq then acquire t c s else s)
  | g =>
    let k := s.cx t c
    let may := fillable s g && !acq && !k.bypass
    match (s.tile t).rlb.find? (fun l => may && l.addr == g.key) with
    | some l =>
      .done ((s.onTile t (fun x => x.count 0x24 1)).onCx t c (fun k => k.loadRegs rt ((l.data.drop g.inLine).take size)))
    | none =>
      let s := s.onTile t (fun x => countLoad t g (if may then x.count 0x25 1 else x))
      sendAccess t c g (.load rt size acq may) (s.onCx t c (fun k => { k with bypass := false }))

/-! ### The instructions -/

/-- An M-format instruction with its width and mode rules; `body` gets the size. -/
def mForm (t c : Nat) (u : Nat → Uses) (width : BitVec 3) (ok : Nat → Bool) (body : Nat → State → Eff)
    (s : State) : State :=
  match accessSize width with
  | some size => issue t c (u size) (legal (ok size) (body size)) s
  | none => issue t c {} (fun _ => .fault 0x0B 0) s

/-- LD (03 R68, R69, R98; 08 R227). The upset strikes as the read is made. -/
def execLd (t : TileId) (c : CtxId) (rt rb : BitVec 5) (width : BitVec 3) (mode : BitVec 2) (off : BitVec 11)
    (u : Upset) (s : State) : Host.Outcome State Fault Refusal :=
  .next (mForm t c (fun size => { reads := [rb.toNat], writes := regGroup rt.toNat size }) width
    (fun size => decide (mode.toNat < 2) && rtOk rt size)
    (fun size s => match u with
      | .parity n k => if isTileStructure n && decide (k = t) then .left (parity n k.val c s)
          else withTarget t c .load size rb off (loadFrom t c rt.toNat size (mode == 1#2)) s
      | .hubFailure => .left (failHub s)
      | u => withTarget t c .load size rb off (loadFrom t c rt.toNat size (mode == 1#2)) (strike u s)) s)

/-- ST (03 R68, R69, R83; 08 R226): a release waits for the context's earlier writes. -/
def execSt (t : TileId) (c : CtxId) (rt rb : BitVec 5) (width : BitVec 3) (mode : BitVec 2) (off : BitVec 11)
    (s : State) : Host.Outcome State Fault Refusal :=
  .next (mForm t c (fun size => { reads := rb.toNat :: regGroup rt.toNat size }) width
    (fun size => (mode == 0#2 || mode == 2#2) && rtOk rt size)
    (fun size s =>
      if mode == 2#2 && writesOut s t c then .wait (.fence false)
      else
        let bs := storeBytes s t c rt.toNat size
        withTarget t c .store size rb off (storeTo t c bs) s (BitVec.ofNat 64 (leNat bs))) s)

/-- STA (03 R87–R89, 08 R206). -/
def execSta (t : TileId) (c : CtxId) (rt rb : BitVec 5) (width : BitVec 3) (mode : BitVec 2) (off : BitVec 11)
    (s : State) : Host.Outcome State Fault Refusal :=
  .next (mForm t c (fun size => { reads := rb.toNat :: regGroup rt.toNat size }) width
    (fun size => rtOk rt size && (match accSize mode with | some w => decide (w ≤ size) | none => false))
    (fun size s => withTarget t c .acc size rb off (fun g s =>
      let bs := storeBytes s t c rt.toNat size
      match g with
      | .own o =>
        match accumulate t (tileBase t + o) mode bs s (runsHandler s t c) with
        | .ok s => .done s
        | .error k => .fault 0x01 k
      | g => sendAccess t c g (.acc mode bs) (dropOwnLine t g s)) s) s)

/-- LDF (03 R94, R95). -/
def execLdf (t : TileId) (c : CtxId) (rt rb : BitVec 5) (width : BitVec 3) (mode : BitVec 2) (off : BitVec 11)
    (s : State) : Host.Outcome State Fault Refusal :=
  .next (mForm t c (fun _ => { reads := [rb.toNat], writes := [rt.toNat] }) width
    (fun size => size == 8 && decide (mode.toNat < 2))
    (fun size s => withTarget t c .fillLoad size rb off (fun g s =>
      match g with
      | .own o =>
        if !(s.tile t).full (o / 8) then .wait (.fe (o / 8) rt.toNat (mode == 1#2))
        else match loadOwn t o 8 s with
          | .error k => .fault 0x01 k
          | .ok (bs, s) =>
            let s := s.onCx t c (fun k => k.loadRegs rt.toNat bs)
            .done (if mode == 1#2 then s else setFull t (o / 8) false s)
      | _ => .fault 0x0C 0) s) s)

/-- STF (03 R93, R95). -/
def execStf (t : TileId) (c : CtxId) (rt rb : BitVec 5) (width : BitVec 3) (mode : BitVec 2) (off : BitVec 11)
    (s : State) : Host.Outcome State Fault Refusal :=
  .next (mForm t c (fun _ => { reads := [rb.toNat, rt.toNat] }) width
    (fun size => size == 8 && mode == 0#2)
    (fun size s => withTarget t c .fillStore size rb off (fun g s =>
      let bs := storeBytes s t c rt.toNat 8
      match g with
      | .own o =>
        match fillStore t (o / 8) bs s (runsHandler s t c) with
        | .ok s => .done s
        | .error code => .fault code (tileBase t + o)
      | g => sendAccess t c g (.fillStore bs) (dropOwnLine t g s)) s) s)

/-- LDD: a descriptor register from 32 B (03 R68, R98). -/
def execLdd (t : TileId) (c : CtxId) (rt rb : BitVec 5) (width : BitVec 3) (mode : BitVec 2) (off : BitVec 11)
    (s : State) : Host.Outcome State Fault Refusal :=
  .next (issue t c { reads := [rb.toNat], dwrites := [rt.toNat % 8] }
    (legal (width == 5#3 && decide (rt.toNat < 8) && mode == 0#2) (fun s =>
      withTarget t c .load 32 rb off (fun g s =>
        match g with
        | .own o =>
          match loadOwn t o 32 s with
          | .error k => .fault 0x01 k
          | .ok (bs, s) => .done (s.onCx t c (fun k => k.setDesc rt.toNat (BitVec.ofNat 256 (leNat bs))))
        | g => sendAccess t c g (.loadDesc rt.toNat) (s.onTile t (countLoad t g))) s)) s)

/-- STD: 32 B from a descriptor register (03 R68). -/
def execStd (t : TileId) (c : CtxId) (rt rb : BitVec 5) (width : BitVec 3) (mode : BitVec 2) (off : BitVec 11)
    (s : State) : Host.Outcome State Fault Refusal :=
  .next (issue t c { reads := [rb.toNat], dreads := [rt.toNat % 8] }
    (legal (width == 5#3 && decide (rt.toNat < 8) && mode == 0#2) (fun s =>
      withTarget t c .store 32 rb off
        (storeTo t c (toBytes ((s.cx t c).desc rt.toNat).toNat 32)) s)) s)

end Sys2Proof.Machine
end

