-- ==== Sys2Proof/Machine/Hub.lean ====
section
/-!
DEFINITION. The Sync Hub: global flags and semaphores (09 R237–R245), barriers with their row combiners (09 R246–R253)
and the system barriers between devices (12 R339–R341).
-/
namespace Sys2Proof.Machine

/-! ### Flags and semaphores -/

/-- Whether partition `n` owns object `obj` by an ownership map (01 R41, 09 R254). -/
def ownedBy (m : SMap Nat) (n obj : Nat) : Bool := decide (n < 6) && Map.get 0 m obj == n + 1

/-- Send the hub's answer to an operation (09 R239). -/
def answerHub (o : HubOp) (v : Option Word) (s : State) : State :=
  s.onNet (fun n => { n with hubAns := n.hubAns ++ [{ op := o, val := v }] })

/-- The value of a global flag. -/
def gfValue (s : State) (obj : Nat) : Bool := s.hub.gf.getLsbD obj

/-- Write a global flag and answer every waiter that this satisfies, oldest first (09 R240, R241). -/
def putGf (obj : Nat) (b : Bool) (s : State) : State :=
  let sat := fun (o : HubOp) => o.obj == obj && decide (o.kind = if b then .gfWait else .gfWaitc)
  let done := s.hub.gfWait.filter sat
  let s := s.onHub (fun h => { h with gf := setBit h.gf obj b, gfWait := h.gfWait.filter (fun o => !sat o) })
  done.foldl (fun s o => answerHub o none s) s

/-- A fault that the hub raises, recorded against the issuing instruction (09 R239). -/
def hubFault (o : HubOp) (code : Nat) (s : State) : State :=
  tileFault o.t { code := BitVec.ofNat 8 code, src := 8, ctx := o.c, iaddr := o.iaddr, back := !o.drop } s

/-- Whether an operation is on a global flag. -/
def HubKind.isFlag : HubKind → Bool
  | .gfSet | .gfClr | .gfTst | .gfTas | .gfWait | .gfWaitc => true
  | .semSignal | .semWait | .semRead => false

/-- Whether the context still waits for the hub; the wait of a context in FAULT is cancelled (03 R105). -/
def stillWaits (s : State) (o : HubOp) : Bool := ((s.cx o.t o.c).wait).isSome

/-- Apply SIGNAL with a signed delta (09 R242). -/
def semSignal (o : HubOp) (s : State) : State :=
  let m := s.hub.sem o.obj
  let sum : Int := m.count.toNat + o.n.toInt
  if sum < 0 then hubFault o 0x04 s
  else
    let above := decide (65535 < sum)
    let k := if above then 65535 else sum.toNat
    answerHub o none (serveSem o.obj
      (s.onSem o.obj (fun m => { m with count := BitVec.ofNat 16 k, sat := m.sat || above })))

/-- Apply a flag or semaphore operation in the serial order (09 R238–R244). -/
def applyHub (o : HubOp) (s : State) : State :=
  let own := if o.kind.isFlag then s.hub.ownGf else s.hub.ownSem
  let v := gfValue s o.obj
  if !ownedBy own (partOf s o.t) o.obj then hubFault o 0x0A s
  else match o.kind with
  | .gfSet => answerHub o none (putGf o.obj true s)
  | .gfClr => answerHub o none (putGf o.obj false s)
  | .gfTst => answerHub o (some (boolWord v)) s
  | .gfTas => answerHub o (some (boolWord v)) (putGf o.obj true s)
  | .gfWait => if v then answerHub o none s else if stillWaits s o then s.onHub (fun h => { h with gfWait := h.gfWait ++ [o] }) else s
  | .gfWaitc => if !v then answerHub o none s else if stillWaits s o then s.onHub (fun h => { h with gfWait := h.gfWait ++ [o] }) else s
  | .semSignal => semSignal o s
  | .semWait =>
    let m := s.hub.sem o.obj
    if m.queue.isEmpty && decide (o.n.toNat ≤ m.count.toNat) then
      answerHub o none (s.onSem o.obj (fun m => { m with count := m.count - o.n }))
    else if stillWaits s o then s.onSem o.obj (fun m => { m with queue := m.queue ++ [o] }) else s
  | .semRead =>
    let m := s.hub.sem o.obj
    answerHub o (some (BitVec.ofNat 64 (m.count.toNat + b2n m.sat * 2 ^ 16))) s

/-- The hub's answer reaches its context (09 R239): the result and the acquire's effect, or nothing where a forced halt
discards it (18 R492); a context in FAULT stands past the instruction. -/
def takeHubAnswer (a : HubAns) (s : State) : State :=
  let o := a.op
  let k := s.cx o.t o.c
  let mine := match k.wait with
    | some (.gf obj _) => o.kind.isFlag && decide (obj = o.obj)
    | some (.sem obj _ _) => !o.kind.isFlag && decide (obj = o.obj)
    | _ => false
  if o.drop then s
  else if k.st = .fault then s.onCx o.t o.c (fun k => { k with pc := o.iaddr + 4 })
  else if !mine then s
  else
    let s := match a.val with
      | some v => s.onCx o.t o.c (fun k => k.setReg o.rd v)
      | none => s
    let s := if o.acq then acquire o.t o.c s else s
    s.onTile o.t (fun x => x.endWait o.c)

/-! ### Barriers -/

/-- Participants of a barrier (09 R246). -/
def participants (m : BarSt) : Nat := sumOf (m.masks.map (fun p => popCount p.2.toNat 64))

/-- Whether tile `t` participates. -/
def participates (m : BarSt) (t : Nat) : Bool := (Map.get 0 m.masks (tileY t)).getLsbD (tileX t)

/-- Arrivals that the combiners hold for the barrier's current epoch (09 R251). -/
def arrivedNow (m : BarSt) : Nat :=
  sumOf (m.comb.map (fun p => if p.2.epoch = m.epoch then popCount p.2.arrived.toNat 64 else 0))

/-- Whether row `y` has a participant that has not arrived in the current epoch (09 R254). -/
def rowMissing (m : BarSt) (y : Nat) : Bool :=
  let mask := Map.get 0 m.masks y
  let k := Map.get {} m.comb y
  let got := if k.epoch = m.epoch then k.arrived else 0
  decide (mask &&& ~~~got ≠ 0)

/-- Whether no arrival is counted in the current epoch and no release is in flight (09 R255): every combiner of the
owner's rows has taken the epoch. -/
def barIdle (s : State) (b : Nat) : Bool :=
  let m := s.hub.bar b
  let own := Map.get 0 s.hub.ownBar b
  let rows := if own = 0 then [] else (bandOf s (own - 1)).flatMap (fun r => (List.range 4).map (4 * r + ·))
  arrivedNow m == 0 && !m.sysWait && rows.all (fun y => decide ((Map.get {} m.comb y).epoch = m.epoch))

/-- No release of the barrier is in flight: no tile awaits one, and every row combiner has taken the epoch, with no arrival where it
had not. A release ends within beats, so it does before a clearing pass or a new table (DEDUCED, log 15). -/
def BarSt.settled (m : BarSt) : BarSt :=
  { m with due := [], comb := (List.range 72).foldl (fun a y =>
      if (Map.get {} m.comb y).epoch = m.epoch then a else Map.set {} a y { arrived := 0, epoch := m.epoch }) m.comb }

/-- Settle the barriers of a list. -/
def settleBars (l : List Nat) (s : State) : State := l.foldl (fun s b => s.onBar b BarSt.settled) s

/-- Whether a list of the tile that names `b` as its gate has not finished posting (10 R271). -/
def gateHolds (x : Tile) (b : Nat) : Bool :=
  let names := fun (q : StartReq) => decide (q.gate = some b)
  (x.unit 4).queue.any names || (match x.un.handed with | some q => names q | none => false)

/-- The tile arrives: PENDING is set and the arrival leaves for the row combiner (09 R248). -/
def arrive (t c b : Nat) (s : State) : State :=
  let x := s.tile t
  let e := Map.get 0 x.epochs b
  let s := s.onTile t (fun x => { x with barPending := setBit x.barPending b true })
  let s := s.onNet (fun n => { n with rowArr := n.rowArr ++ [{ t := t, c := c, iaddr := (x.cx c).pc, b := b, tag := e }] })
  traceTile t 5 c (x.cx c).pc.toNat (toBytes b 1 ++ [0#8] ++ zeros 2 ++ toBytes e.toNat 4) s

/-- Send the arrivals that waited for lists with gate `b` to post (10 R271). -/
def releaseHeld (t b : Nat) (s : State) : State :=
  [0, 1, 2, 3].foldl (fun s c =>
    if gateHolds (s.tile t) b then s
    else match (s.cx t c).wait with
    | some (.barHeld b' w) =>
      if b' ≠ b then s
      else if w then (arrive t c b s).onCx t c (fun k => { k with wait := some (.bar b) })
      else (arrive t c b s).onTile t (fun x => x.endWait c)
    | _ => s) s

/-- A tile's arrival at its row combiner (09 R249, R251). -/
def countArrival (a : RowArr) (s : State) : State :=
  let y := tileY a.t
  let m := s.hub.bar a.b
  let k := Map.get {} m.comb y
  if !participates m a.t || k.arrived.getLsbD (tileX a.t) || decide (a.tag ≠ k.epoch) then
    tileFault a.t { code := 0x11, src := 9, ctx := a.c, iaddr := a.iaddr } s
  else
    let got := setBit k.arrived (tileX a.t) true
    let s := s.onBar a.b (fun m => { m with comb := Map.set {} m.comb y { k with arrived := got } })
    if Map.get 0 m.masks y &&& ~~~got = 0 then s.onNet (fun n => { n with hubRows := n.hubRows ++ [(a.b, y)] }) else s

/-- Whether a release may come within 64 ns of the previous pulse's start: the counter moves only in windows of 65,536 ns (log 7),
so within two of them it is a free value. -/
def pulseNear (s : State) : Bool × State :=
  match s.dev.trace.pulseAt with
  | none => (false, s)
  | some p => if p + 131072 ≤ timeNow s then (false, s) else let (v, s) := drawFree 1 s; (v == 1#1, s)

/-- The EVENT ball's pulse at a release of barrier `b` (18 R505). -/
def eventPulse (b : Nat) (s : State) : State :=
  let t := s.dev.trace
  if !t.evOut.getLsbD 7 || fld t.evOut.toNat 0 5 ≠ b then s
  else match pulseNear s with
  | (true, s) => s.onTrace (fun t => { t with notPulsed := satAdd 32 t.notPulsed 1 })
  | (false, s) => (s.onTrace (fun t => { t with pulseAt := some (timeNow s) })).onOut (fun o => { o with pulses := o.pulses + 1 })

/-- Partition `n`'s boundary barrier is `b` (10 R265). -/
def isBoundary (s : State) (n b : Nat) : Bool :=
  match (s.part n).load.plate with
  | some p => decide (p.boundary = b)
  | none => false

/-- Send a setpoint, clamped to the fused window; the next write follows 100 µs later at the earliest (15 R420). -/
def sendSetpoint (mv : Nat) (s : State) : State :=
  let v := min 850 (max 650 mv)
  ((s.onPower (fun w => { w with setpoint := v, avsWait := 100000 })).onOut (fun o => { o with avs := v :: o.avs })).onTime (fun t => { t with settle := 16 })

/-- Every region's trim code that has not moved in this exchange-idle interval moves one step toward its plan; a change
starts settling (15 R426, 02 R55). -/
def stepTrims (s : State) : State :=
  let due := (List.range 18).filter (fun r =>
    decide ((s.region r).trim < (s.region r).trimPlan) && !s.dev.tm.trimmed.getLsbD r)
  if due = [] then s
  else (due.foldl (fun s r => s.onRegion r (fun g => { g with trim := g.trim + 1 })) s).onTime
    (fun t => { t with settle := 16, trimmed := due.foldl (fun m r => setBit m r true) t.trimmed })

/-- What the hub tells the Nib cores of partition `n` at a release of barrier `b` (13 R356, 14 R394, 15 R412, R421). At a phase
boundary their slices' claims are released (07 R201). -/
def signalRelease (n b : Nat) (s : State) : State :=
  let s := if isBoundary s n b then
      let s := (bandOf s n).foldl (fun s r => s.onRegion r (fun g =>
        { g with pool := { g.pool with window := true }, nib := { g.nib with declaring := !g.nib.stopped }, rc := g.rc.unclaimed })) s
      if referencePart s = some n then stepTrims (newIdle (s.onTime (fun t => { t with idleLeft := 50000 }))) else s
    else s
  s.onPart n (fun p => match p.commit.desc with
    | some d => { p with commit := { p.commit with uSignal := p.commit.uSignal || decide (d.u = b),
                                                   cSignal := p.commit.cSignal || decide (d.cbar = b) } }
    | none => p)

/-- The epoch steps and the release starts (09 R251 step 4). -/
def epochStep (b : Nat) (s : State) : State :=
  let own := Map.get 0 s.hub.ownBar b
  let tiles := if own = 0 then [] else partTiles s (own - 1)
  let s := s.onBar b (fun m => { m with epoch := m.epoch + 1, rows := 0, sysWait := false, due := m.due ++ tiles })
  let s := if own = 0 then s else signalRelease (own - 1) b s
  eventPulse b s

/-- Whether every row with participants has arrived (09 R246, R251). -/
def rowsComplete (m : BarSt) : Bool := m.masks.all (fun p => p.2 == 0 || m.rows.getLsbD p.1)

/-- A row arrival at the hub: on the last row the epoch steps, or the device's arrival leaves for the root (09 R251,
R253). -/
def countRow (b y : Nat) (s : State) : State :=
  let s := s.onBar b (fun m => { m with rows := setBit m.rows y true })
  if !rowsComplete (s.hub.bar b) then s
  else if (s.hub.bar b).scope then
    let s := s.onBar b (fun m => { m with sysWait := true })
    s.onNet (fun n => { n with sysArr := n.sysArr ++
      [{ b := b, epoch := (s.hub.bar b).epoch, count := 1, port := none, src := s.dev.link.self }] })
  else epochStep b s

/-- The release of the tile's next epoch reaches tile `t` (09 R251 step 5, 10 R265, 14 R392). -/
def releaseAt (t b : Nat) (s : State) : State :=
  let e := Map.get 0 (s.tile t).epochs b + 1
  let s := s.onBar b (fun m => { m with due := m.due.erase t, comb := Map.mod {} m.comb (tileY t) (fun k =>
    if k.epoch + 1 = e then { arrived := 0, epoch := e } else k) })
  let s := s.onTile t (fun x => { x with epochs := Map.set 0 x.epochs b e, barPending := setBit x.barPending b false })
  let bound := isBoundary s (partOf s t) b
  let s := if bound then s.onTile t (fun x => { x with phaseStep := x.phaseStep + 1 }.putFlag 255 false) else s
  let s := s.onTile t (fun x => x.endWaits (.bar b))
  let s := traceTile t 5 0 0xFFFFFFFF (toBytes b 1 ++ [1#8] ++ zeros 2 ++ toBytes e.toNat 4) s
  if bound then
    let x := s.tile t
    traceTile t 9 0 0xFFFFFFFF (toBytes x.cnt.evsel.toNat 8 ++
      (Map.range 0 x.cnt.evcnt 0 8).flatMap (fun v => toBytes v.toNat 4)) s
  else s

/-! ### System barriers (12 R339, R340) -/

/-- The head of this device's W-line: the member with the root's W coordinate. -/
def lineHead (s : State) : Nat :=
  let ds := dims s
  deviceAt ds ((selfCoords s).set 3 (((coordsOf ds s.dev.link.root)[3]?).getD 0))

/-- Whether a device is of this device's W-line. -/
def ofMyLine (s : State) (dev : Nat) : Bool := decide ((coordsOf (dims s) dev).take 3 = (selfCoords s).take 3)

/-- Count a discarded barrier packet at the port it came in on (09 R253, 12 R339, R340). -/
def discardSys (port : Option Nat) (s : State) : State :=
  match port with
  | some p => s.onPort p (fun x => { x with cnt := { x.cnt with discBar := satAdd 32 x.cnt.discBar 1 } })
  | none => s

/-- The tile that a barrier packet of this device counts as issued by: the control tile of the partition that has the barrier
(12 R323, R330, log 17); none where no partition has it. -/
def barTile (s : State) (b : Nat) : Option Nat :=
  match Map.get 0 s.hub.ownBar b with
  | 0 => none
  | n + 1 => some (controlTile s n)

/-- A packet of barrier `b` to device `dst`, with its tile and its partition's tag. -/
def barPacket (s : State) (kind dst b epoch count : Nat) : Packet :=
  { dst := dst, src := s.dev.link.self, kind := kind, srcTile := (barTile s b).getD 0,
    part := (match Map.get 0 s.hub.ownBar b with | 0 => 7 | n + 1 => n), hdr := barHdr b epoch count }

/-- A barrier packet of this device that no port can carry: fault 0x0E, and nothing is sent (12 R330). -/
def barUnreach (b dst port : Nat) (s : State) : State :=
  match barTile s b with
  | some t => tileFault t { code := 0x0E, daddr := unreachAddr dst port, src := 9, ctx := 0, iaddr := 0xFFFFFFFF#32 } s
  | none => s

/-- Send a barrier arrival toward a device. -/
def sendArrival (dst b epoch count : Nat) (s : State) : State :=
  match originate (barPacket s 9 dst b epoch count) s with
  | .ok s => s
  | .error p => barUnreach b dst p s

/-- The root counts `k` devices; on the last it records a commit barrier's epoch (13 R363) and starts the release. -/
def countRoot (b k : Nat) (s : State) : State :=
  let got := (s.hub.bar b).rootCount + k
  if got < systemSize s then s.onBar b (fun m => { m with rootCount := got })
  else
    let s := s.onBar b (fun m => { m with rootCount := 0 })
    let e := (s.hub.bar b).epoch + 1
    let s := match Map.get 0 s.hub.ownBar b with
      | 0 => s
      | n + 1 => s.onPart n (fun p => match p.commit.desc with
          | some d => if d.cbar = b then { p with commit := { p.commit with root := e, rootOk := true } } else p
          | none => p)
    s.onNet (fun n => { n with sysRel := n.sysRel ++ [{ b := b, epoch := e, count := 0, port := none, src := s.dev.link.self }] })

/-- A head counts `k` devices of its line; on the last it passes the line's sum to the root. -/
def countHead (b k : Nat) (s : State) : State :=
  let sw := dimSize s 3
  let got := (s.hub.bar b).headCount + k
  if got < sw then s.onBar b (fun m => { m with headCount := got })
  else
    let s := s.onBar b (fun m => { m with headCount := 0 })
    if s.dev.link.self = s.dev.link.root then countRoot b sw s
    else sendArrival s.dev.link.root b (s.hub.bar b).epoch.toNat sw s

/-- A barrier arrival at this device: sent on to the line's head, combined there, or counted at the root. -/
def systemArrival (a : SysPkt) (s : State) : State :=
  let self := s.dev.link.self
  if a.port.isSome && decide (a.epoch ≠ (s.hub.bar a.b).epoch) then discardSys a.port s
  else if lineHead s ≠ self then
    if a.port.isNone then sendArrival (lineHead s) a.b a.epoch.toNat a.count s else discardSys a.port s
  else if ofMyLine s a.src then countHead a.b a.count s
  else if self = s.dev.link.root then countRoot a.b a.count s
  else discardSys a.port s

/-- Ports over which a release goes on: the direction it came in, while the ring's other half is not reached, and both
directions of every later dimension. The positive direction covers distances up to half the ring (12 R325, R340). -/
def releasePorts (s : State) (port : Option Nat) : List Nat :=
  let ds := dims s
  let here := selfCoords s
  let root := coordsOf ds s.dev.link.root
  let goes := fun (p : Nat) =>
    let k := p / 2
    let sz := dimSize s k
    let δ := ((here[k]?).getD 0 + sz - (root[k]?).getD 0) % sz
    if p % 2 = 0 then decide (2 * (δ + 1) ≤ sz) else decide (2 * ((sz - δ) % sz + 1) < sz)
  match port with
  | none => (List.range 8).filter goes
  | some i => (List.range 8).filter (fun p => (p == oppositePort i || decide (i / 2 < p / 2)) && goes p)

/-- A system release at this device: forwarded, then applied where it is one ahead of a barrier in SYSWAIT (09 R253). -/
def systemRelease (a : SysPkt) (s : State) : State :=
  let s := (releasePorts s a.port).foldl (fun s p =>
    let q := barPacket s 10 (neighbour s p) a.b a.epoch.toNat 0
    (sendOut p false q s).getD (barUnreach a.b q.dst p s)) s
  let m := s.hub.bar a.b
  if m.sysWait && decide (a.epoch = m.epoch + 1) then epochStep a.b s else discardSys a.port s

/-! ### The events -/

/-- What an upset does to an event, before it: a parity error or the hub's failure takes the event's place (16 R431, R451). -/
def withUpset (u : Upset) (t : Nat) (body : State → State) (s : State) : State :=
  match u with
  | .parity n k => parity n (if isTileStructure n then k.val else t) 0 s
  | .hubFailure => failHub s
  | u => body (strike u s)

/-- HUB_OPERATION: the `i`-th operation in flight is applied at the hub (09 R238). -/
def execHubOperation (i : Nat) (u : Upset) (s : State) : Res :=
  .next (selfTimed s <| match s.net.hubOps[i]? with
    | some o => withUpset u o.t (fun s => applyHub o (s.onNet (fun n => { n with hubOps := dropAt i n.hubOps }))) s
    | none => s)

/-- HUB_ANSWER: the `i`-th answer reaches its context (09 R239). -/
def execHubAnswer (i : Nat) (s : State) : Res :=
  .next (selfTimed s <| match s.net.hubAns[i]? with
    | some a => takeHubAnswer a (s.onNet (fun n => { n with hubAns := dropAt i n.hubAns }))
    | none => s)

/-- Whether no earlier arrival in flight is of the same tile. -/
def firstOfTile (l : List RowArr) (i t : Nat) : Bool := (l.take i).all (fun a => a.t ≠ t)

/-- ROW_ARRIVAL: the `i`-th barrier arrival in flight reaches its row combiner (09 R249). -/
def execRowArrival (i : Nat) (s : State) : Res :=
  .next (selfTimed s <| match s.net.rowArr[i]? with
    | some a => if firstOfTile s.net.rowArr i a.t then countArrival a (s.onNet (fun n => { n with rowArr := dropAt i n.rowArr })) else s
    | none => s)

/-- HUB_ROW_ARRIVAL: the `i`-th row arrival in flight reaches the hub (09 R251). -/
def execHubRowArrival (i : Nat) (s : State) : Res :=
  .next (selfTimed s <| match s.net.hubRows[i]? with
    | some (b, y) => countRow b y (s.onNet (fun n => { n with hubRows := dropAt i n.hubRows }))
    | none => s)

/-- Whether a release of barrier `b` is on its way to tile `t` (09 R251). -/
def releaseComing (s : State) (t b : Nat) : Bool := (s.hub.bar b).due.contains t

/-- BARRIER_RELEASE: a release of barrier `b` reaches tile `t` (09 R251). -/
def execBarrierRelease (t : TileId) (b : Fin 32) (s : State) : Res :=
  .next (selfTimed s <| if releaseComing s t b then releaseAt t b s else s)

/-- SYSTEM_ARRIVAL: the `i`-th barrier arrival at the port logic is passed on, combined or counted (12 R339); while a link
change is in progress it waits (12 R331). -/
def execSystemArrival (i : Nat) (s : State) : Res :=
  .next (selfTimed s <| if holdsSys s then s else match s.net.sysArr[i]? with
    | some a => systemArrival a (s.onNet (fun n => { n with sysArr := dropAt i n.sysArr }))
    | none => s)

/-- SYSTEM_RELEASE: the `i`-th release at the port logic is forwarded and applied (12 R340, 09 R253); while a link change is in
progress it waits (12 R331). -/
def execSystemRelease (i : Nat) (s : State) : Res :=
  .next (selfTimed s <| if holdsSys s then s else match s.net.sysRel[i]? with
    | some a => systemRelease a (s.onNet (fun n => { n with sysRel := dropAt i n.sysRel }))
    | none => s)

end Sys2Proof.Machine
end

