-- ==== Sys2Proof/Machine/Reduce.lean ====
section
/-!
DEFINITION. The reduction engines of the ports: ring reduce-scatter and all-gather (12 R333–R338, R342; 20 R539).
-/
namespace Sys2Proof.Machine

/-! ### The command (12 R334) -/

/-- A posted command with its ring. -/
structure Ring where
  /-- The port that receives, and the partition. -/
  p : Nat
  n : Nat
  op : Nat
  ifmt : Bool
  ofmt : Bool
  rnd : Bool
  gate : Nat
  gf : Nat
  gfv : Bool
  stream : Nat
  rtag : Nat
  tfirst : Nat
  nt : Nat
  soff : Nat
  doff : Nat
  stripe : Nat
  idx : Nat
  /-- Size of the ring and this device's coordinate in it. -/
  size : Nat
  at' : Nat
  deriving DecidableEq, Repr

/-- The command context of partition `n` at port `p`. -/
def rdCtx (s : State) (p n : Nat) : RdCtx := Map.get {} (s.port p).rd n

/-- Change a command context. -/
def onRd (p n : Nat) (f : RdCtx → RdCtx) (s : State) : State := s.onPort p (fun x => { x with rd := Map.mod {} x.rd n f })

/-- Read a context's command. -/
def ringOf (s : State) (p n : Nat) : Ring :=
  let x := rdCtx s p n
  let a := x.cmd0.toNat
  let b := x.cmd1.toNat
  let c := x.cmd2.toNat
  { p := p, n := n, op := fld a 0 2, ifmt := nbit a 2, ofmt := nbit a 3, rnd := nbit a 4, gate := 28 + fld a 5 2,
    gf := fld a 8 10, gfv := nbit a 18, stream := fld a 32 16, rtag := fld a 48 16, tfirst := fld b 0 13, nt := fld b 13 13,
    soff := fld c 0 20, doff := fld c 20 20, stripe := fld c 40 20, idx := x.idxBase.toNat, size := dimSize s (p / 2),
    at' := ((selfCoords s)[p / 2]?).getD 0 }

/-- Bytes of an element. -/
def elemBytes (bf : Bool) : Nat := if bf then 2 else 4

/-- Whether chunk `j` of one piece lies inside a tile's window. -/
def chunkFits (off j stripe : Nat) (bf : Bool) : Bool := decide (off + (j + 1) * stripe * elemBytes bf ≤ 0x100000)

/-- The checks of R333 and R334. -/
def rdOk (s : State) (p n : Nat) : Bool :=
  let x := rdCtx s p n
  let k := ringOf s p n
  !x.busy && k.op != 3 && !nbit x.cmd0.toNat 7 && fld x.cmd0.toNat 19 13 == 0 && fld x.cmd1.toNat 26 38 == 0
    && fld x.cmd2.toNat 60 4 == 0 && decide (2 ≤ k.size) && (s.hub.bar k.gate).scope
    && decide (1 ≤ k.nt) && decide (k.nt ≤ 4608)
    && (List.range k.nt).all (fun i => decide (k.tfirst + i < 4608) && decide (partOf s (k.tfirst + i) = n))
    && k.soff % 64 == 0 && k.doff % 64 == 0 && k.stripe % 32 == 0 && decide (32 ≤ k.stripe) && decide (k.stripe ≤ 262144)
    && (k.op == 1 || chunkFits k.soff (k.size - 1) k.stripe k.ifmt)
    && chunkFits k.doff (if k.op = 0 then k.at' else k.size - 1) k.stripe k.ofmt

/-- Whether the gate and the flag of a command are the partition's (01 R41). -/
def rdOwns (s : State) (n : Nat) (k : Ring) : Bool :=
  ownedBy s.hub.ownBar n k.gate && (!k.gfv || ownedBy s.hub.ownGf n k.gf)

/-- RD_GO: post the command (12 R333). Fault 0x09 where it breaks a rule, then 0x0A where it uses another partition's gate or
flag (01 R41, log 20). -/
def rdPost (p n : Nat) (s : State) : Except Nat State :=
  if !rdOk s p n then .error 0x09
  else if !rdOwns s n (ringOf s p n) then .error 0x0A
  else
    let e := (s.hub.bar (ringOf s p n).gate).epoch
    .ok (onRd p n (fun x => { x with busy := true, done := false, nf := false, err := false, epoch := e, started := false,
                                     rsGot := 0, agGot := 0, agOn := false }) s)

/-! ### The ring (12 R335) -/

/-- The port that sends. -/
def Ring.out (k : Ring) : Nat := oppositePort k.p

/-- The coordinate one step upstream. -/
def Ring.up (k : Ring) : Nat := if k.p % 2 = 1 then (k.at' + k.size - 1) % k.size else (k.at' + 1) % k.size

/-- The coordinate one step downstream. -/
def Ring.down (k : Ring) : Nat := if k.p % 2 = 1 then (k.at' + 1) % k.size else (k.at' + k.size - 1) % k.size

/-- Elements that a device takes in one phase: every chunk but one. -/
def Ring.phaseElems (k : Ring) : Nat := (k.size - 1) * k.nt * k.stripe

/-- Offset of element `i` of chunk `j` in a tile, from `off`. -/
def Ring.elemAt (k : Ring) (off j i : Nat) (bf : Bool) : Nat := off + (j * k.stripe + i) * elemBytes bf

/-- The values that a run of elements holds. -/
def valsOf (bf : Bool) (bs : Bytes) : List Num :=
  (pieces (elemBytes bf) bs.length bs).map (fun b => if bf then bf16.decode (leNat b) else fp32.decode (leNat b))

/-- A reduction header (12 R338). -/
def redHdr (k : Ring) (nf ag : Bool) (j piece off : Nat) : BitVec 128 :=
  BitVec.ofNat 128 (k.rtag + k.op * 2 ^ 16 + b2n k.ofmt * 2 ^ 18 + b2n k.rnd * 2 ^ 19 + b2n nf * 2 ^ 20 + b2n ag * 2 ^ 21
    + j * 2 ^ 22 + piece * 2 ^ 26 + off * 2 ^ 39)

/-- Mark a non-finite value: NF of the command and RDNF (12 R337, R342). -/
def markNf (k : Ring) (nf : Bool) (s : State) : State :=
  if nf then (onRd k.p k.n (fun x => { x with nf := true }) s).onPart k.n (fun x => { x with rdnf := true }) else s

/-- The command stops with a fault: its destination ranges are unspecified (16 R439). -/
def stopRing (k : Ring) (s : State) : State :=
  let s := onRd k.p k.n (fun x => { x with busy := false, err := true }) s
  (List.range k.nt).foldl (fun s i =>
    let lo := if k.op = 0 then k.at' else 0
    let len := (if k.op = 0 then 1 else k.size) * k.stripe * elemBytes k.ofmt
    let (bs, s) := drawBytes len s
    writeShared (tileBase (k.tfirst + i) + k.elemAt k.doff lo 0 k.ofmt) bs s) s

/-- The fault of a piece's tile that stops the command. -/
def ringFault (k : Ring) (piece code daddr : Nat) (s : State) : State :=
  tileFault (k.tfirst + piece) { code := BitVec.ofNat 8 code, daddr := daddr, src := 11, ctx := 0, iaddr := 0xFFFFFFFF#32 }
    (stopRing k s)

/-- Send one segment downstream. A segment that no port can carry is a fault of its piece's tile (12 R330). -/
def sendRing (k : Ring) (dl nf ag : Bool) (j piece off : Nat) (data : Bytes) (s : State) : State :=
  let nf := nf || (s.part k.n).rdnf
  let q : Packet := { dst := neighbour s k.out, src := s.dev.link.self, srcTile := k.tfirst + piece, part := k.n, kind := 8,
                      hdr := redHdr k nf ag j piece off, data := data }
  match sendOut k.out dl q s with
  | some s => s
  | none => ringFault k piece 0x0E (unreachAddr (neighbour s k.out) k.out) s

/-- Whether a command of the ring still runs. -/
def ringRuns (s : State) (k : Ring) : Bool := (rdCtx s k.p k.n).busy

/-- Elements that fill a packet's 63 data lines (12 R323). -/
def segElems (bf : Bool) : Nat := 4032 / elemBytes bf

/-- Send chunk `j` of one piece from this device: contributions as FP32, or results as they stand. -/
def sendPiece (k : Ring) (ag : Bool) (j piece : Nat) (s : State) : State :=
  let full := segElems (ag && k.ofmt)
  (List.range (cdiv k.stripe full)).foldl (fun s i =>
    if !ringRuns s k then s
    else
      let off := i * full
      let cnt := min full (k.stripe - off)
      let bf := if ag then k.ofmt else k.ifmt
      let a := tileBase (k.tfirst + piece) + k.elemAt (if ag then k.doff else k.soff) j off bf
      match s.badIn a (cnt * elemBytes bf) with
      | some w => ringFault k piece 0x01 w s
      | none =>
        let (bs, s) := readShared a (cnt * elemBytes bf) s
        let xs := valsOf bf bs
        let nf := xs.any (fun x => !x.isFinite)
        let out := if ag then bs else xs.flatMap (fun x => toBytes (fp32.encode .rne x) 4)
        sendRing k false nf ag j piece off out (markNf k nf s)) s

/-- Send a whole chunk. -/
def sendChunk (k : Ring) (ag : Bool) (j : Nat) (s : State) : State :=
  (List.range k.nt).foldl (fun s piece => sendPiece k ag j piece s) s

/-- Begin the all-gather phase with the own chunk. -/
def beginGather (k : Ring) (s : State) : State := sendChunk k true k.at' (onRd k.p k.n (fun x => { x with agOn := true }) s)

/-- REDUCTION_START: the gate has released at the hub, and the engine sends its first segments (12 R333, R335). -/
def execReductionStart (p : PortId) (n : PartId) (s : State) : Res :=
  .next (selfTimed s <|
    let x := rdCtx s p n
    let k := ringOf s p n
    if !x.busy || x.started || decide ((s.hub.bar k.gate).epoch = x.epoch) then s
    else
      let s := onRd p n (fun x => { x with started := true }) s
      if k.op = 1 then beginGather k s else sendChunk k false k.up s)

/-! ### A segment that arrives (12 R335–R338) -/

/-- Whether a segment's header is that of the posted command, and its run of elements lies in a chunk. -/
def segMatches (s : State) (k : Ring) (q : Packet) : Bool :=
  let h := q.hdr.toNat
  let ag := nbit h 21
  let cnt := q.data.length / (if ag then elemBytes k.ofmt else 4)
  ringRuns s k && fld h 0 16 == k.rtag && fld h 16 2 == k.op && nbit h 18 == k.ofmt
    && decide (fld h 22 4 < k.size) && decide (fld h 26 13 < k.nt) && decide (fld h 39 20 + cnt ≤ k.stripe)
    && (if ag then k.op != 0 && fld h 22 4 != k.at' else k.op != 1 && fld h 22 4 != k.up)

/-- The last addition of element `e`: rounded once to the result format, in the mode that the reduction header selects (12 R336,
04 R121). -/
def lastRound (s : State) (k : Ring) (rnd : Bool) (e : Nat) (x : Num) : Nat :=
  let mode := if rnd then .sr (grainDraw (s.part k.n).commit.seed.toNat k.stream (k.idx + e)) else .rne
  if k.ofmt then bf16.encode mode x else fp32.encode mode x

/-- A partial sum of chunk `j`: passed on with this device's contribution, or finished by its owner. -/
def takePartial (k : Ring) (q : Packet) (s : State) : State :=
  let h := q.hdr.toNat
  let j := fld h 22 4
  let piece := fld h 26 13
  let off := fld h 39 20
  let ins := valsOf false q.data
  let a := tileBase (k.tfirst + piece) + k.elemAt k.soff j off k.ifmt
  let len := ins.length * elemBytes k.ifmt
  match s.badIn a len with
  | some w => ringFault k piece 0x01 w s
  | none =>
    let (bs, s) := readShared a len s
    let sums := (List.zip ins (valsOf k.ifmt bs)).map (fun p => p.1.add p.2)
    let s := onRd k.p k.n (fun x => { x with rsGot := x.rsGot + ins.length }) s
    if j = k.at' then
      let e0 := (j * k.nt + piece) * k.stripe + off
      let raws := (sums.zipIdx).map (fun p => lastRound s k (nbit h 19) (e0 + p.2) p.1)
      let out := raws.flatMap (fun r => toBytes r (elemBytes k.ofmt))
      let nf := (ins ++ valsOf k.ifmt bs ++ valsOf k.ofmt out).any (fun x => !x.isFinite)
      writeShared (tileBase (k.tfirst + piece) + k.elemAt k.doff j off k.ofmt) out (markNf k nf s)
    else
      let outs := sums.map (fun x => toFp32 .odd x)
      let nf := (ins ++ valsOf k.ifmt bs ++ outs).any (fun x => !x.isFinite)
      sendRing k q.dl (nbit h 20 || nf) false j piece off (outs.flatMap (fun x => toBytes (fp32.encode .rne x) 4)) (markNf k nf s)

/-- A result of chunk `j`: written, and passed on until it reaches the device before its owner. -/
def takeResult (k : Ring) (q : Packet) (s : State) : State :=
  let h := q.hdr.toNat
  let j := fld h 22 4
  let piece := fld h 26 13
  let off := fld h 39 20
  let nf := (valsOf k.ofmt q.data).any (fun x => !x.isFinite)
  let s := markNf k nf s
  let s := writeShared (tileBase (k.tfirst + piece) + k.elemAt k.doff j off k.ofmt) q.data s
  let s := onRd k.p k.n (fun x => { x with agGot := x.agGot + q.data.length / elemBytes k.ofmt }) s
  if k.down = j then s else sendRing k q.dl (nbit h 20 || nf) true j piece off q.data s

/-- Take a reduction segment at port `p` (12 R335–R338). -/
def takeRing (p : Nat) (q : Packet) (s : State) : State :=
  let k := ringOf s p q.part
  if decide (6 ≤ q.part) || !segMatches s k q then raiseRec (plainRec s 0x06 0 3 q.part 11 p) s
  else
    let s := markNf k (nbit q.hdr.toNat 20) s
    if nbit q.hdr.toNat 21 then takeResult k q s
    else
      let s := takePartial k q s
      let x := rdCtx s p q.part
      if x.busy && decide (k.op = 2) && !x.agOn && decide (k.phaseElems ≤ x.rsGot) then beginGather k s else s

/-- The ingress lines of a segment are free once the engine has taken it, and the partner hears of it; a detoured segment holds
none (12 R315, R320, R328, R332). -/
def freeRing (p : Nat) (q : Packet) (s : State) : State :=
  if q.dstep = 2 then s
  else (freeLines p (2 + b2n q.dl) q.lines s).onPort p (fun x => if x.st = pUp then sendIdle x else x)

/-- Whether the engine sends a segment on: a partial that is not its own chunk's, or a result that has not reached the device
before its owner. -/
def passesOn (s : State) (k : Ring) (q : Packet) : Bool :=
  decide (q.part < 6) && segMatches s k q && (if nbit q.hdr.toNat 21 then decide (k.down ≠ fld q.hdr.toNat 22 4) else decide (fld q.hdr.toNat 22 4 ≠ k.at'))

/-- Whether what the engine sends on has egress credit now, at its port or at its detour's; until then the segment keeps its
ingress lines (12 R332). -/
def egressFree (s : State) (k : Ring) (q : Packet) : Bool :=
  let free := fun (f c : Nat) => canSend (s.port f) (c, q) && !(s.port f).egress.any (fun e => e.1 == c)
  if takesTraffic s k.out then free k.out (classFor 8 (q.dl || crossesDateline s k.out))
  else match detourOf s k.out with
    | some g => !legOpen s g || free g 5
    | none => true

/-- REDUCTION_SEGMENT: port `p`'s engine takes the `i`-th segment that has arrived, the first of its partition, once what it
sends on has egress credit (12 R332, R338). -/
def execReductionSegment (p : PortId) (i : Nat) (s : State) : Res :=
  .next (selfTimed s <|
    let l := (s.port p).rdIn
    match l[i]? with
    | some q =>
      let k := ringOf s p q.part
      if !(l.take i).all (fun r => r.part ≠ q.part) || (passesOn s k q && !egressFree s k q) then s
      else takeRing p q (freeRing p q (s.onPort p (fun x => { x with rdIn := dropAt i x.rdIn })))
    | none => s)

/-! ### Completion (12 R338) -/

/-- Whether a reduction segment of partition `n` sent out of port `f` is not acknowledged yet, on its way or over a
detour. -/
def ringUnacked (s : State) (f n : Nat) : Bool :=
  let mine := fun (d : Bool) (q : Packet) => q.kind == 8 && q.part == n && (if d then q.dstep == 0 && q.dfail == f && q.src == s.dev.link.self else true)
  s.ports.any (fun p =>
    p.2.egress.any (fun e => mine (p.1 ≠ f || e.1 == 5) e.2) || p.2.replay.any (fun r => mine (p.1 ≠ f || r.cls == 5) r.pkt))

/-- REDUCTION_DONE: every result is written and every segment sent is acknowledged (12 R338). A flag that is no longer the
partition's is not set: fault 0x0A, scope link (01 R41, log 20). -/
def execReductionDone (p : PortId) (n : PartId) (s : State) : Res :=
  .next (selfTimed s <|
    let x := rdCtx s p n
    let k := ringOf s p n
    let rs := k.op == 1 || decide (k.phaseElems ≤ x.rsGot)
    let ag := k.op == 0 || (x.agOn && decide (k.phaseElems ≤ x.agGot))
    if !x.busy || !x.started || !rs || !ag || ringUnacked s k.out n then s
    else
      let s := onRd p n (fun x => { x with busy := false, done := true }) s
      if !k.gfv then s
      else if ownedBy s.hub.ownGf n k.gf then putGf k.gf true s
      else raiseRec (plainRec s 0x0A 0 3 n 11 p) s)

end Sys2Proof.Machine
end

