-- ==== Sys2Proof/Machine/Registers.lean ====
section
/-!
DEFINITION. The device registers (08 R207): Sync Hub (09 R254–R256), Reuse Cache control (08 R216, R217), Enlarger
(10 R287), ports (12 R342), Bulk Store control (17 R475) and aperture pools (15 R412, R415), with who may read and write
them.
-/
namespace Sys2Proof.Machine

/-! ### Who asks (08 R208, 19 R509) -/

/-- The partition whose function `f` is; 7 for none (19 R509). -/
def fnPart (s : State) (f : Nat) : Nat := if f = 0 then (if s.dev.pcie.vfEnable then 7 else 0) else f - 1

/-- The partition that an agent acts for; 7 for none. -/
def writerPart (s : State) (w : Writer) : Nat :=
  match w with
  | .tile t => partOf s t
  | .nib r => partOfRegion s r
  | .host f => fnPart s f
  | .steward | .debugger => 7

/-- The agents that belong to no partition and have every right. -/
def fullRights : Writer → Bool
  | .steward | .debugger => true
  | _ => false

/-- A tile. -/
def byTile : Writer → Bool
  | .tile _ => true
  | _ => false

/-- Whether an agent acts for partition `n`. -/
def actsFor (s : State) (w : Writer) (n : Nat) : Bool := decide (n < 6) && writerPart s w == n

/-- The device is compute-ready: STOPPED or RUNNING (17 R468). -/
def computeReady (s : State) : Bool := s.dev.boot.st == 5 || s.dev.boot.st == 6

/-- Whether a function's memory requests reach the device's resources: the link is up, the function exists and is in D0,
and the device is compute-ready (19 R509, R520, R522, R524). -/
def hostServed (s : State) (f : Nat) : Bool :=
  computeReady s && s.dev.pcie.linkUp && (f == 0 || s.dev.pcie.vfEnable) && !(s.fn f).d3

/-! ### Sync Hub block -/

/-- The owner of an object as its OWN byte: 0–5, or 0xFF (09 R254). -/
def ownByte (m : SMap Nat) (obj : Nat) : Nat := match Map.get 0 m obj with | 0 => 0xFF | n + 1 => n

/-- The objects from `lo` on, `k` of them, that an agent may see, as a mask. -/
def ownMask (s : State) (w : Writer) (m : SMap Nat) (lo k : Nat) : Nat :=
  (List.range k).foldl (fun a j => a + b2n (fullRights w || actsFor s w (ownByte m (lo + j))) * 2 ^ j) 0

/-- Eight OWN bytes as an agent sees them. -/
def ownBytes (s : State) (w : Writer) (m : SMap Nat) (i : Nat) : Nat :=
  leNat ((List.range 8).map (fun k =>
    let b := ownByte m (8 * i + k)
    BitVec.ofNat 8 (if fullRights w || actsFor s w b then b else 0xFF)))

/-- SEM_STATE (09 R255). -/
def semStateWord (m : SemSt) : Nat :=
  m.count.toNat + b2n m.sat * 2 ^ 16 + b2n m.torn * 2 ^ 17 + m.queue.length * 2 ^ 32

/-- BAR_CFG (09 R255). -/
def barCfgWord (s : State) (b : Nat) : Nat :=
  let m := s.hub.bar b
  b2n m.scope + b2n (barIdle s b) * 2 + b2n m.torn * 4 + b2n m.sysWait * 8 + participants m * 2 ^ 16

/-- BAR_MISSING0 and 1: rows `lo` to `lo + k - 1` (09 R254). -/
def missingWord (m : BarSt) (lo k : Nat) : Nat := (List.range k).foldl (fun a y => a + b2n (rowMissing m (lo + y)) * 2 ^ y) 0


/-- Read the Sync Hub block. -/
def readHubBlock (s : State) (w : Writer) (o : Nat) : Except Nat Nat :=
  let h := s.hub
  let shared := fun (m : SMap Nat) (lo k v : Nat) => show Except Nat Nat from if ownMask s w m lo k = 0 then .error 0x0A else .ok v
  let single := fun (m : SMap Nat) (obj v : Nat) => show Except Nat Nat from if ownMask s w m obj 1 = 0 then .error 0x0A else .ok v
  if o % 8 ≠ 0 then .error 0x02
  else if o < 0x80 then shared h.ownGf (o * 8) 64 (fld h.gf.toNat (o * 8) 64 &&& ownMask s w h.ownGf (o * 8) 64)
  else if o < 0x180 then shared h.ownGf (o % 0x80 * 8) 64 0
  else if o < 0x200 then shared h.ownGf ((o - 0x180) * 8) 64
    (fld h.gfTorn.toNat ((o - 0x180) * 8) 64 &&& ownMask s w h.ownGf ((o - 0x180) * 8) 64)
  else if 0x1000 ≤ o ∧ o < 0x1800 then single h.ownSem ((o - 0x1000) / 8) (semStateWord (h.sem ((o - 0x1000) / 8)))
  else if 0x1800 ≤ o ∧ o < 0x2000 then single h.ownSem ((o - 0x1800) / 8) 0
  else if 0x2000 ≤ o ∧ o < 0x2800 then
    let b := (o - 0x2000) / 0x40
    let m := h.bar b
    match o % 0x40 / 8 with
    | 0 => single h.ownBar b (barCfgWord s b)
    | 1 => single h.ownBar b m.epoch.toNat
    | 2 => single h.ownBar b (arrivedNow m)
    | 3 => single h.ownBar b (missingWord m 0 64)
    | 4 => single h.ownBar b (missingWord m 64 8)
    | _ => .ok 0
  else if 0x100000 ≤ o ∧ o < 0x108000 ∧ o % 0x400 < 0x240 then
    single h.ownBar ((o - 0x100000) / 0x400) (Map.get 0 (h.bar ((o - 0x100000) / 0x400)).masks (o % 0x400 / 8)).toNat
  else if 0x200000 ≤ o ∧ o < 0x200400 then shared h.ownGf (o - 0x200000) 8 (ownBytes s w h.ownGf ((o - 0x200000) / 8))
  else if 0x200400 ≤ o ∧ o < 0x200500 then shared h.ownSem (o - 0x200400) 8 (ownBytes s w h.ownSem ((o - 0x200400) / 8))
  else if 0x200500 ≤ o ∧ o < 0x200520 then shared h.ownBar (o - 0x200500) 8 (ownBytes s w h.ownBar ((o - 0x200500) / 8))
  else .ok 0

/-- Set or clear the flags that a write of GF_SETn or GF_CLRn names, in ascending order (09 R254, R256). -/
def putGfs (n : Nat) (v : Word) (b : Bool) (s : State) : State :=
  (List.range 64).foldl (fun s j => if v.getLsbD j then putGf (64 * n + j) b s else s) s

/-- SEM_WRITE (09 R254, R256). -/
def semWrite (n : Nat) (v : Word) (s : State) : State :=
  serveSem n (s.onSem n (fun m => { m with count := v.setWidth 16, sat := m.sat && !v.getLsbD 16 }))

/-- Write the Sync Hub block (09 R256). -/
def writeHubBlock (w : Writer) (o : Nat) (v : Word) (s : State) : Except Nat State :=
  let h := s.hub
  let may := fun (m : SMap Nat) (obj : Nat) => !byTile w && ownMask s w m obj 1 != 0
  let flags := fun (n : Nat) (b : Bool) =>
    let mask := ownMask s w h.ownGf (64 * n) 64
    if byTile w ∨ mask = 0 ∨ v.toNat &&& mask ≠ v.toNat then .error 0x0A else .ok (putGfs n v b s)
  if o % 8 ≠ 0 then .error 0x02
  else if 0x80 ≤ o ∧ o < 0x100 then flags ((o - 0x80) / 8) true
  else if 0x100 ≤ o ∧ o < 0x180 then flags ((o - 0x100) / 8) false
  else if 0x1800 ≤ o ∧ o < 0x2000 then
    if may h.ownSem ((o - 0x1800) / 8) then .ok (semWrite ((o - 0x1800) / 8) v s) else .error 0x0A
  else if 0x2000 ≤ o ∧ o < 0x2800 ∧ o % 0x40 = 0 then
    let b := (o - 0x2000) / 0x40
    if !may h.ownBar b then .error 0x0A
    else if !barIdle s b || (v.getLsbD 0 && decide (b < 28)) then .error 0x02
    else .ok (s.onBar b (fun m => { m with scope := v.getLsbD 0 }))
  else if 0x100000 ≤ o ∧ o < 0x108000 ∧ o % 0x400 < 0x240 then
    let b := (o - 0x100000) / 0x400
    let y := o % 0x400 / 8
    if !may h.ownBar b then .error 0x0A
    else if !barIdle s b || (v != 0 && !ownedBy h.ownBar (partOfRegion s (y / 4)) b) then .error 0x02
    else .ok (s.onBar b (fun m => { m with masks := Map.set 0 m.masks y v }))
  else match readHubBlock s w o with
    | .error e => .error e
    | .ok _ => if byTile w ∧ (o < 0x200 ∨ (0x1000 ≤ o ∧ o < 0x2800 ∧ (o < 0x2000 ∨ o % 0x40 < 0x28))
        ∨ (0x200000 ≤ o ∧ o < 0x200520)) then .error 0x0A else .ok s

/-! ### Reuse Cache control (08 R216, R217) -/

/-- Valid lines of a class's ways. -/
def validIn (c : RcSlice) (k : LineClass) : Nat := (c.lines.filter (fun l => (c.ways k).contains l.way)).length

/-- Whether an agent has slice `r`'s rights: its Nib core, the partition's function, the Steward or the debugger. -/
def ownsSlice (s : State) (w : Writer) (r : Nat) : Bool :=
  match w with
  | .tile _ => false
  | .nib k => k.val == r
  | .host _ => actsFor s w (partOfRegion s r)
  | .steward | .debugger => true

/-- Whether slice `r` is fenced from an agent: its partition was killed, and only a debugger that has it open passes (17
R482). -/
def sliceFenced (s : State) (w : Writer) (r : Nat) : Bool :=
  (s.part (partOfRegion s r)).tn.killed && !(w == .debugger && unlockedPart s (partOfRegion s r))

/-- Whether an agent may read slice `r`'s block. -/
def readsSlice (s : State) (w : Writer) (r : Nat) : Bool :=
  ownsSlice s w r || (byTile w && actsFor s w (partOfRegion s r))

def readRcBlock (s : State) (w : Writer) (o : Nat) : Except Nat Nat :=
  let r := o / 0x1000
  let c := (s.region r).rc
  if o % 8 ≠ 0 then .error 0x02
  else if 18 ≤ r ∨ 0x40 ≤ o % 0x1000 then .ok 0
  else if !readsSlice s w r || sliceFenced s w r then .error 0x0A
  else .ok (match o % 0x1000 / 8 with
    | 0 => c.tilingWays + c.ts * 2 ^ 8 + c.pr * 2 ^ 16 + c.trace * 2 ^ 24
    | 1 => validIn c .tiling + validIn c .ts * 2 ^ 16 + validIn c .pr * 2 ^ 32 + validIn c .trace * 2 ^ 48
    | 2 => (c.lines.filter (fun l => l.dirty)).length
    | 3 => c.hits.toNat
    | 4 => c.misses.toNat
    | 5 => c.ce.toNat
    | 7 => b2n c.busy.isSome + (c.lines.filter (fun l => l.poisoned)).length * 2 ^ 16
    | _ => 0)

/-- The operation that a write of RC_CTL orders: ZERO before INVAL before FLUSH. -/
def rcOpOf (v : Word) : Option RcOp :=
  if v.getLsbD 2 then some .zero else if v.getLsbD 1 then some .inval else if v.getLsbD 0 then some .flush else none

/-- Start an RC_CTL operation; a write while BUSY is 1 is ignored. -/
def startRc (r : Nat) (op : RcOp) (s : State) : State :=
  s.onRc r (fun c => match c.busy with | some _ => c | none => { c with busy := some op })

def writeRcBlock (w : Writer) (o : Nat) (v : Word) (s : State) : Except Nat State :=
  let r := o / 0x1000
  if o % 8 ≠ 0 then .error 0x02
  else if 18 ≤ r ∨ 0x40 ≤ o % 0x1000 then .ok s
  else if sliceFenced s w r then .error 0x0A
  else if !ownsSlice s w r then .error 0x02
  else if o % 0x1000 = 0x30 then .ok (match rcOpOf v with | some op => startRc r op s | none => s)
  else .ok s

/-! ### Enlarger block (10 R287) -/

/-- The chip-wide transfer in progress for partition `n`. -/
def chipCur (s : State) (n : Nat) : Option EnlReq :=
  match s.dev.root.cur with
  | some (q, _) => if partOf s q.t = n ∧ n < 6 then some q else none
  | none => none

def readEnlBlock (s : State) (w : Writer) (o : Nat) : Except Nat Nat :=
  let r := o / 0x100
  if o % 8 ≠ 0 then .error 0x02
  else if o = 0x1000 then
    if !fullRights w ∧ 6 ≤ writerPart s w then .error 0x0A
    else
      let e := s.dev.root
      .ok (b2n e.cur.isSome + e.queue.length * 2 + (match e.cur with
        | some (q, _) => q.t * 2 ^ 7 + partOf s q.t * 2 ^ 20
        | none => 0))
  else if 18 ≤ r ∨ 0x10 ≤ o % 0x100 then .ok 0
  else if !fullRights w && !actsFor s w (partOfRegion s r) then .error 0x0A
  else
    let e := (s.region r).enl
    if o % 0x100 = 8 then .ok e.lines.toNat
    else
      let chip := chipCur s (partOfRegion s r)
      .ok (b2n (e.cur.isSome || chip.isSome) + e.queue.length * 2 + b2n chip.isSome * 2 ^ 5 + (match chip, e.cur with
        | some q, _ => q.t * 2 ^ 6
        | none, some (q, _) => q.t * 2 ^ 6
        | none, none => 0))

/-! ### Port block (12 R342) -/

/-- RDNF of every partition as LK_RDNF. -/
def rdnfWord (s : State) : Nat := (List.range 6).foldl (fun a n => a + b2n (s.part n).rdnf * 2 ^ n) 0

/-- LK_STATE. -/
def lkStateWord (s : State) (p : Nat) : Nat :=
  let x := s.port p
  x.st + x.lanes * 2 ^ 4 + b2n (nbit s.dev.link.lowLat.toNat p) * 2 ^ 7 + x.nbrDev * 2 ^ 8 + x.nbrPort * 2 ^ 24

/-- RD_STATUS. -/
def rdStatusWord (x : RdCtx) : Nat := b2n x.busy + b2n x.done * 2 + b2n x.nf * 4 + b2n x.err * 8

/-- The bits of RD_CMD0 to RD_CMD2 that are not reserved (12 R334). -/
def rdMask : Nat → Nat
  | 0 => 0xFFFFFFFF0007FF7F
  | 1 => 0x3FFFFFF
  | 2 => 0xFFFFFFFFFFFFFFF
  | _ => 0xFFFFFFFFFFFFFFFF

def readPortBlock (s : State) (w : Writer) (o : Nat) : Except Nat Nat :=
  let p := o / 0x10000
  let k := o % 0x10000
  let x := s.port p
  if o % 8 ≠ 0 then .error 0x02
  else if !fullRights w ∧ 6 ≤ writerPart s w then .error 0x0A
  else if o = 0x80000 then .ok (rdnfWord s)
  else if 8 ≤ p then .ok 0
  else if k < 0x28 then .ok (match k / 8 with
    | 0 => lkStateWord s p
    | 1 => if x.st ≤ 1 then 0 else (List.range 6).foldl (fun a c => a + creditOf x c * 2 ^ (10 * c)) 0
    | 2 => x.tx.toNat
    | 3 => x.rx.toNat
    | _ => unacked x)
  else if 0x1000 ≤ k ∧ k < 0x1600 ∧ k % 0x100 < 0x30 then
    let n := (k - 0x1000) / 0x100
    let c := Map.get {} x.rd n
    if !fullRights w && !actsFor s w n then .error 0x0A
    else .ok (match k % 0x100 / 8 with
      | 0 => c.cmd0.toNat &&& rdMask 0
      | 1 => c.cmd1.toNat &&& rdMask 1
      | 2 => c.cmd2.toNat &&& rdMask 2
      | 3 => c.idxBase.toNat
      | 5 => rdStatusWord c
      | _ => 0)
  else .ok 0

/-- Clear RDNF bits: an agent clears only its own partition's (12 R342, log 21). -/
def clearRdnf (w : Writer) (v : Word) (s : State) : Except Nat State :=
  let n := writerPart s w
  if 6 ≤ n then .error 0x02
  else if (List.range 6).any (fun k => v.getLsbD k && k != n) then .error 0x02
  else .ok (if v.getLsbD n then s.onPart n (fun p => { p with rdnf := false }) else s)

def writePortBlock (w : Writer) (o : Nat) (v : Word) (s : State) : Except Nat State :=
  let p := o / 0x10000
  let k := o % 0x10000
  if o % 8 ≠ 0 then .error 0x02
  else if o = 0x80000 then clearRdnf w v s
  else if 8 ≤ p then .ok s
  else if k < 0x28 then .error 0x02
  else if 0x1000 ≤ k ∧ k < 0x1600 ∧ k % 0x100 < 0x30 then
    let n := (k - 0x1000) / 0x100
    if fullRights w ∨ 6 ≤ writerPart s w then .error 0x02
    else if !actsFor s w n then .error 0x0A
    else match k % 0x100 / 8 with
      | 0 => .ok (onRd p n (fun c => { c with cmd0 := v }) s)
      | 1 => .ok (onRd p n (fun c => { c with cmd1 := v }) s)
      | 2 => .ok (onRd p n (fun c => { c with cmd2 := v }) s)
      | 3 => .ok (onRd p n (fun c => { c with idxBase := v }) s)
      | 4 => if v.getLsbD 0 then rdPost p n s else .ok s
      | _ => .error 0x02
  else .ok s

/-! ### Bulk Store control (17 R475) -/

/-- Granules of the usable Bulk Store that a tenant scrub has still to zero (17 R474, R480, R481). -/
def unscrubbed (s : State) : Nat := s.dev.bulk.gib * 1024 - sumOf (s.dev.bulk.scrubbed.map (fun r => r.2 - r.1))

/-- Read the Bulk Store control block. BS_STATUS is no partition's register, so only the Steward and the debugger read it;
an offset without a register reads 0 (08 R207). -/
def readBsBlock (s : State) (w : Writer) (o : Nat) : Except Nat Nat :=
  if o % 8 ≠ 0 then .error 0x02
  else if !fullRights w ∧ 6 ≤ writerPart s w then .error 0x02
  else if o = 0 then if !fullRights w then .error 0x02 else .ok (s.dev.bulk.used.toNat + s.dev.bulk.gib * 2 ^ 8 + b2n (unscrubbed s != 0) * 2 ^ 24)
  else if 0x100 ≤ o ∧ o < 0x160 then
    let n := (o - 0x100) / 0x10
    let x := s.part n
    if !fullRights w && !actsFor s w n then .error 0x02
    else if o % 0x10 = 0 then .ok (x.share.1 + x.share.2 * 2 ^ 16 + x.pend.1 * 2 ^ 32 + x.pend.2 * 2 ^ 48)
    else .ok (b2n x.tn.shareKey.isSome + b2n x.tn.pendKey.isSome * 2)
  else .ok 0

def writeBsBlock (w : Writer) (o : Nat) (s : State) : Except Nat State :=
  if o % 8 ≠ 0 then .error 0x02
  else if w = .steward then .ok s
  else if o = 0 ∨ (0x100 ≤ o ∧ o < 0x160) then .error 0x02
  else .ok s

/-! ### Aperture pools (15 R412, R415) -/

/-- The sum of a region's reservation map. -/
def mapSum (m : BitVec 1024) : Nat := sumOf ((List.range 256).map (fun j => fld m.toNat (4 * j) 4))

/-- Give every tile of region `r` its reservation from the map (15 R407, R412). -/
def giveTokens (r : Nat) (m : BitVec 1024) (s : State) : State :=
  (List.range 256).foldl (fun s j =>
    s.onTile (256 * r + j) (fun x => x.onUn (fun u => { u with resv := BitVec.ofNat 4 (fld m.toNat (4 * j) 4) }))) s

/-- The phase word of a region: the id of the next phase, in its control tile (14 R395). -/
def phaseWord (s : State) (r : Nat) : Nat :=
  match (s.part (partOfRegion s r)).load.plate with
  | some p => leNat (s.bytes (tileBase (256 * r) + p.pword) 4)
  | none => 0

/-- Change a region's pool. -/
def onPool (r : Nat) (f : Pool → Pool) (s : State) : State := s.onRegion r (fun g => { g with pool := f g.pool })

/-- AP_DECL: latch the map, or refuse it (15 R412); `phase` is the phase id for AP_PHASE. -/
def latch (r phase : Nat) (s : State) : State :=
  let g := s.region r
  let sum := mapSum g.pool.map
  if g.pool.published < sum ∨ g.pool.hwBound < sum then onPool r (fun p => { p with refused := true }) s
  else
    let step := (s.tile (256 * r)).phaseStep
    let s := giveTokens r g.pool.map s
    let s := onPool r (fun p => { p with inForce := p.published, reserved := sum, window := false, refused := false,
                                         waiting := false, waitedNs := 0,
                                         phase := BitVec.ofNat 64 (g.nib.variant + phase % 2 ^ 16 * 2 ^ 16 + fld step.toNat 0 32 * 2 ^ 32) }) s
    traceHub r (partOfRegion s r) 0xA (toBytes r 1 ++ toBytes g.nib.variant 1 ++ toBytes g.pool.published 2
      ++ toBytes sum 2 ++ toBytes phase 2) s

/-- Whether an agent may write region `r`'s map and declaration. -/
def ownsPool (w : Writer) (r : Nat) : Bool :=
  match w with
  | .nib k => k.val == r
  | .steward | .debugger => true
  | _ => false

def readPoolBlock (s : State) (w : Writer) (o : Nat) : Except Nat Nat :=
  let r := o / 0x1000
  let p := (s.region r).pool
  let k := o % 0x1000
  if o % 8 ≠ 0 then .error 0x02
  else if 18 ≤ r then .ok 0
  else if !(k < 0x38 || (0x100 ≤ k && k < 0x180)) then .ok 0
  else if !fullRights w && !actsFor s w (partOfRegion s r) then .error 0x0A
  else if k < 0x38 then .ok (match k / 8 with
    | 0 => p.inForce + p.published * 2 ^ 16 + p.hwBound * 2 ^ 32
    | 1 => p.reserved + b2n p.window * 2 ^ 16 + b2n p.refused * 2 ^ 17 + b2n p.hold * 2 ^ 18 + b2n p.waiting * 2 ^ 19
    | 3 => toBits 16 p.tj + toBits 16 p.tjMax * 2 ^ 16
    | 4 => p.gated.toNat
    | 5 => p.phase.toNat
    | 6 => p.declWait.toNat
    | _ => 0)
  else .ok (fld p.map.toNat ((k - 0x100) * 8) 64)

def writePoolBlock (w : Writer) (o : Nat) (v : Word) (s : State) : Except Nat State :=
  let r := o / 0x1000
  let k := o % 0x1000
  if o % 8 ≠ 0 then .error 0x02
  else if 18 ≤ r then .ok s
  else if k = 0x10 ∨ (0x100 ≤ k ∧ k < 0x180) then
    if !ownsPool w r || !(s.region r).pool.window then .error 0x02
    else if k = 0x10 then .ok (if v.getLsbD 0 then latch r (phaseWord s r) s else s)
    else .ok (onPool r (fun p => { p with map := setFld p.map ((k - 0x100) * 8) 64 v.toNat }) s)
  else if k < 0x38 then .error 0x02
  else .ok s

/-! ### All blocks (08 R207) -/

/-- Read a device register at offset `o` of R207's range: the value, or the code that refuses it. -/
def devRead (s : State) (w : Writer) (o : Nat) : Except Nat Nat :=
  let x := o % 0x1000000
  match o / 0x1000000 with
  | 0 => readHubBlock s w x
  | 1 => readRcBlock s w x
  | 2 => readEnlBlock s w x
  | 3 => readPortBlock s w x
  | 4 => readBsBlock s w x
  | 5 => readPoolBlock s w x
  | _ => .error 0x02

/-- A read of a device register as it takes effect: one of a BUSY slice meets an intermediate state (08 R217). -/
def devReadAt (w : Writer) (o : Nat) (s : State) : Except Nat Nat × State :=
  let s := if o / 0x1000000 = 1 then scanOn (o % 0x1000000 / 0x1000) s else s
  (devRead s w o, s)

/-- Write a device register. -/
def devWrite (w : Writer) (o : Nat) (v : Word) (s : State) : Except Nat State :=
  let x := o % 0x1000000
  match o / 0x1000000 with
  | 0 => writeHubBlock w x v s
  | 1 => writeRcBlock w x v s
  | 2 => .error 0x02
  | 3 => writePortBlock w x v s
  | 4 => writeBsBlock w x s
  | 5 => writePoolBlock w x v s
  | _ => .error 0x02

/-- The partitions that an object map gives to `k` objects from `lo` on. -/
def objOwners (m : SMap Nat) (lo k : Nat) : List Nat := ((List.range k).map (fun j => ownByte m (lo + j))).filter (· < 6)

/-- The partitions that the device register at `o` belongs to; none is the device's own (08 R208). -/
def devScope (s : State) (o : Nat) : List Nat :=
  let x := o % 0x1000000
  let h := s.hub
  let region := fun (r : Nat) => if r < 18 then [partOfRegion s r] else []
  match o / 0x1000000 with
  | 0 =>
    if x < 0x200 then objOwners h.ownGf (x % 0x80 / 8 * 64) 64
    else if 0x1000 ≤ x ∧ x < 0x2000 then objOwners h.ownSem (x % 0x800 / 8) 1
    else if 0x2000 ≤ x ∧ x < 0x2800 then objOwners h.ownBar ((x - 0x2000) / 0x40) 1
    else if 0x100000 ≤ x ∧ x < 0x108000 then objOwners h.ownBar ((x - 0x100000) / 0x400) 1
    else []
  | 1 => region (x / 0x1000)
  | 2 => region (x / 0x100)
  | 3 => if 0x1000 ≤ x % 0x10000 ∧ x % 0x10000 < 0x1600 then [(x % 0x10000 - 0x1000) / 0x100] else []
  | 4 => if 0x100 ≤ x ∧ x < 0x160 then [(x - 0x100) / 0x10] else []
  | 5 => region (x / 0x1000)
  | _ => []

/-- A write of a device register by `w`, refused at its writer where a rule bars it. A function that is not served is
refused as any other (19 R517, R520), and a debugger's write outside what is unlocked has no effect (18 R489). Nothing is
written after a thermal trip (15 R418). -/
def writeDev (w : Writer) (o : Nat) (v : Word) (s : State) : State :=
  let barred := match w with
    | .host f => !hostServed s f || fnPart s f == 7
    | .debugger => !unlockedAll s (devScope s o)
    | _ => false
  if s.dev.boot.trip then s
  else if barred then refuseWrite w 0x02 (devBase + o) s
  else match devWrite w o v s with
    | .ok s => s
    | .error code => refuseWrite w code (devBase + o) s

/-! ### The commands -/

/-- GF_SETn: set the flags whose bits are 1 (09 R254, R256). -/
def execGfSetRegister (w : Writer) (n : Fin 16) (v : Word) (s : State) : Res := .next (writeDev w (0x80 + 8 * n.val) v s)

/-- GF_CLRn: clear the flags whose bits are 1 (09 R254, R256). -/
def execGfClrRegister (w : Writer) (n : Fin 16) (v : Word) (s : State) : Res := .next (writeDev w (0x100 + 8 * n.val) v s)

/-- SEM_WRITE(n) (09 R254, R256). -/
def execSemWrite (w : Writer) (n : Fin 256) (v : Word) (s : State) : Res := .next (writeDev w (0x1800 + 8 * n.val) v s)

/-- RC_CTL FLUSH of slice `r` (08 R217). -/
def execRcCtlFlush (w : Writer) (r : RegionId) (s : State) : Res := .next (writeDev w (0x1000030 + 0x1000 * r.val) 1 s)

/-- RC_CTL INVAL of slice `r` (08 R217). -/
def execRcCtlInval (w : Writer) (r : RegionId) (s : State) : Res := .next (writeDev w (0x1000030 + 0x1000 * r.val) 2 s)

/-- RC_CTL ZERO of slice `r` (08 R217). -/
def execRcCtlZero (w : Writer) (r : RegionId) (s : State) : Res := .next (writeDev w (0x1000030 + 0x1000 * r.val) 4 s)

/-- LK_RDNF: clear the writer's bit (12 R342). -/
def execLkRdnfClear (w : Writer) (v : Word) (s : State) : Res := .next (writeDev w 0x3080000 v s)

/-- RD_GO: post the command of partition `n` at port `p` (12 R333, R342). -/
def execRdGo (w : Writer) (p : PortId) (n : PartId) (v : Word) (s : State) : Res :=
  .next (writeDev w (0x3001020 + 0x10000 * p.val + 0x100 * n.val) v s)

/-- AP_DECL: request the latch of region `r`'s map (15 R412). -/
def execApDecl (w : Writer) (r : RegionId) (v : Word) (s : State) : Res := .next (writeDev w (0x5000010 + 0x1000 * r.val) v s)

end Sys2Proof.Machine
end

