-- ==== Sys2Proof/Machine/Sync.lean ====
section
/-!
DEFINITION. The C-format instructions but CSR (03 R72): tile flags, global flags, semaphores, barriers, FENCE.FULL,
contexts and BKPT; and how a Nib core ends a wait (09 R260–R262).
-/
namespace Sys2Proof.Machine

/-! ### Tile flags (03 R72, R96, R97; 14 R392) -/

/-- A TF instruction; `usesRd` says whether it writes rd, `writesFlag` whether it writes the flag. -/
def tfForm (usesRd writesFlag : Bool) (t c : Nat) (rd rs1 : BitVec 5) (obj : BitVec 12) (body : State → Eff)
    (s : State) : State :=
  issue t c { writes := [rd.toNat] } (legal (rs1 == 0#5 && (usesRd || rd == 0#5) && decide (obj.toNat ≤ 255)
    && !(writesFlag && obj.toNat == 255)) body) s

/-- TF.SET. -/
def execTfSet (t : TileId) (c : CtxId) (rd rs1 : BitVec 5) (obj : BitVec 12) (s : State) : Res :=
  .next (tfForm false true t c rd rs1 obj (fun s => .done (putFlag t obj.toNat true (marker t c obj.toNat s))) s)

/-- TF.CLR. -/
def execTfClr (t : TileId) (c : CtxId) (rd rs1 : BitVec 5) (obj : BitVec 12) (s : State) : Res :=
  .next (tfForm false true t c rd rs1 obj (fun s => .done (putFlag t obj.toNat false s)) s)

/-- TF.TST: rd holds the value. -/
def execTfTst (t : TileId) (c : CtxId) (rd rs1 : BitVec 5) (obj : BitVec 12) (s : State) : Res :=
  .next (tfForm true false t c rd rs1 obj (fun s => .done (setRv t c rd (boolWord ((s.tile t).flag obj.toNat)) s)) s)

/-- TF.TAS: rd holds the old value and the flag is set. -/
def execTfTas (t : TileId) (c : CtxId) (rd rs1 : BitVec 5) (obj : BitVec 12) (s : State) : Res :=
  .next (tfForm true true t c rd rs1 obj (fun s =>
    .done (setRv t c rd (boolWord ((s.tile t).flag obj.toNat)) (putFlag t obj.toNat true (marker t c obj.toNat s)))) s)

/-- A wait until a flag is set, or until it is clear. -/
def tfWait (want : Bool) (t c : Nat) (rd rs1 : BitVec 5) (obj : BitVec 12) (s : State) : State :=
  tfForm false false t c rd rs1 obj (fun s =>
    if (s.tile t).flag obj.toNat = want then .done s else .wait (.tf obj.toNat want)) s

/-- TF.WAIT. -/
def execTfWait (t : TileId) (c : CtxId) (rd rs1 : BitVec 5) (obj : BitVec 12) (s : State) : Res :=
  .next (tfWait true t c rd rs1 obj s)

/-- TF.WAITC. -/
def execTfWaitc (t : TileId) (c : CtxId) (rd rs1 : BitVec 5) (obj : BitVec 12) (s : State) : Res :=
  .next (tfWait false t c rd rs1 obj s)

/-! ### Global flags and semaphores (09 R239) -/

/-- Send an operation to the hub and hold the context until the answer. -/
def toHub (t c : Nat) (w : WaitFor) (o : HubOp) (s : State) : Eff :=
  .left ((s.onNet (fun n => { n with hubOps := n.hubOps ++ [o] })).onTile t (fun x => x.block c w))

/-- A GF instruction; a release waits for the context's earlier writes (08 R226). -/
def gfForm (kind : HubKind) (rel acq : Bool) (t c : Nat) (rd rs1 : BitVec 5) (obj : BitVec 12) (s : State) : State :=
  let usesRd := decide (kind = .gfTst) || decide (kind = .gfTas)
  let isWait := decide (kind = .gfWait) || decide (kind = .gfWaitc)
  issue t c { writes := [rd.toNat] } (legal (rs1 == 0#5 && (usesRd || rd == 0#5) && decide (obj.toNat ≤ 1023)) (fun s =>
    if rel && writesOut s t c then .wait (.fence false)
    else toHub t c (.gf obj.toNat isWait)
      { t := t, c := c, iaddr := (s.cx t c).pc, kind := kind, obj := obj.toNat, acq := acq, rd := rd.toNat } s)) s

/-- GF.SET. -/
def execGfSet (t : TileId) (c : CtxId) (rd rs1 : BitVec 5) (obj : BitVec 12) (s : State) : Res :=
  .next (gfForm .gfSet false false t c rd rs1 obj s)

/-- GF.SET.REL. -/
def execGfSetRel (t : TileId) (c : CtxId) (rd rs1 : BitVec 5) (obj : BitVec 12) (s : State) : Res :=
  .next (gfForm .gfSet true false t c rd rs1 obj s)

/-- GF.CLR. -/
def execGfClr (t : TileId) (c : CtxId) (rd rs1 : BitVec 5) (obj : BitVec 12) (s : State) : Res :=
  .next (gfForm .gfClr false false t c rd rs1 obj s)

/-- GF.CLR.REL. -/
def execGfClrRel (t : TileId) (c : CtxId) (rd rs1 : BitVec 5) (obj : BitVec 12) (s : State) : Res :=
  .next (gfForm .gfClr true false t c rd rs1 obj s)

/-- GF.TST. -/
def execGfTst (t : TileId) (c : CtxId) (rd rs1 : BitVec 5) (obj : BitVec 12) (s : State) : Res :=
  .next (gfForm .gfTst false false t c rd rs1 obj s)

/-- GF.TST.ACQ. -/
def execGfTstAcq (t : TileId) (c : CtxId) (rd rs1 : BitVec 5) (obj : BitVec 12) (s : State) : Res :=
  .next (gfForm .gfTst false true t c rd rs1 obj s)

/-- GF.TAS. -/
def execGfTas (t : TileId) (c : CtxId) (rd rs1 : BitVec 5) (obj : BitVec 12) (s : State) : Res :=
  .next (gfForm .gfTas false false t c rd rs1 obj s)

/-- GF.WAIT. -/
def execGfWait (t : TileId) (c : CtxId) (rd rs1 : BitVec 5) (obj : BitVec 12) (s : State) : Res :=
  .next (gfForm .gfWait false false t c rd rs1 obj s)

/-- GF.WAIT.ACQ. -/
def execGfWaitAcq (t : TileId) (c : CtxId) (rd rs1 : BitVec 5) (obj : BitVec 12) (s : State) : Res :=
  .next (gfForm .gfWait false true t c rd rs1 obj s)

/-- GF.WAITC. -/
def execGfWaitc (t : TileId) (c : CtxId) (rd rs1 : BitVec 5) (obj : BitVec 12) (s : State) : Res :=
  .next (gfForm .gfWaitc false false t c rd rs1 obj s)

/-- A SEM instruction; the count comes from rs1[15:0]. A wait for 0 completes at the tile (09 R243). -/
def semForm (kind : HubKind) (rel acq : Bool) (t c : Nat) (rd rs1 : BitVec 5) (obj : BitVec 12) (s : State) : State :=
  let read := decide (kind = .semRead)
  issue t c { reads := [rs1.toNat], writes := [rd.toNat] }
    (legal ((if read then rs1 == 0#5 else rd == 0#5) && decide (obj.toNat ≤ 255)) (fun s =>
      let n := (rv s t c rs1).setWidth 16
      if rel && writesOut s t c then .wait (.fence false)
      else if kind = .semWait ∧ n = 0 then .done (if acq then acquire t c s else s)
      else toHub t c (.sem obj.toNat (decide (kind = .semWait)) n.toNat)
        { t := t, c := c, iaddr := (s.cx t c).pc, kind := kind, obj := obj.toNat, n := n, acq := acq, rd := rd.toNat } s)) s

/-- SEM.SIGNAL. -/
def execSemSignal (t : TileId) (c : CtxId) (rd rs1 : BitVec 5) (obj : BitVec 12) (s : State) : Res :=
  .next (semForm .semSignal false false t c rd rs1 obj s)

/-- SEM.SIGNAL.REL. -/
def execSemSignalRel (t : TileId) (c : CtxId) (rd rs1 : BitVec 5) (obj : BitVec 12) (s : State) : Res :=
  .next (semForm .semSignal true false t c rd rs1 obj s)

/-- SEM.WAIT. -/
def execSemWait (t : TileId) (c : CtxId) (rd rs1 : BitVec 5) (obj : BitVec 12) (s : State) : Res :=
  .next (semForm .semWait false false t c rd rs1 obj s)

/-- SEM.WAIT.ACQ. -/
def execSemWaitAcq (t : TileId) (c : CtxId) (rd rs1 : BitVec 5) (obj : BitVec 12) (s : State) : Res :=
  .next (semForm .semWait false true t c rd rs1 obj s)

/-- SEM.READ. -/
def execSemRead (t : TileId) (c : CtxId) (rd rs1 : BitVec 5) (obj : BitVec 12) (s : State) : Res :=
  .next (semForm .semRead false false t c rd rs1 obj s)

/-! ### Barriers (09 R248, 10 R271, 01 R41) -/

/-- A BAR instruction on a barrier of the tile's partition. -/
def barForm (t c : Nat) (rd rs1 : BitVec 5) (obj : BitVec 12) (body : State → Eff) (s : State) : State :=
  issue t c {} (legal (rs1 == 0#5 && rd == 0#5 && decide (obj.toNat ≤ 31)) (fun s =>
    if !ownedBy s.hub.ownBar (partOf s t) obj.toNat then .fault 0x0A 0 else body s)) s

/-- BAR.ARRIVE. -/
def execBarArrive (t : TileId) (c : CtxId) (rd rs1 : BitVec 5) (obj : BitVec 12) (s : State) : Res :=
  .next (barForm t c rd rs1 obj (fun s =>
    if gateHolds (s.tile t) obj.toNat then .wait (.barHeld obj.toNat false) else .done (arrive t c obj.toNat s)) s)

/-- BAR.WAIT. -/
def execBarWait (t : TileId) (c : CtxId) (rd rs1 : BitVec 5) (obj : BitVec 12) (s : State) : Res :=
  .next (barForm t c rd rs1 obj (fun s =>
    if (s.tile t).barPending.getLsbD obj.toNat then .wait (.bar obj.toNat) else .done s) s)

/-- BAR.ARRIVE.WAIT. -/
def execBarArriveWait (t : TileId) (c : CtxId) (rd rs1 : BitVec 5) (obj : BitVec 12) (s : State) : Res :=
  .next (barForm t c rd rs1 obj (fun s =>
    if gateHolds (s.tile t) obj.toNat then .wait (.barHeld obj.toNat true)
    else .left ((arrive t c obj.toNat s).onTile t (fun x => x.block c (.bar obj.toNat)))) s)

/-! ### Fence, contexts, handler return, breakpoint -/

/-- FENCE.FULL: with nothing of the context outstanding, the remote line buffer and its fetch line are invalid
(08 R228). -/
def execFenceFull (t : TileId) (c : CtxId) (rd rs1 : BitVec 5) (obj : BitVec 12) (s : State) : Res :=
  .next (issue t c {} (legal (rs1 == 0#5 && rd == 0#5 && obj == 0#12) (fun s =>
    if anyOut s t c then .wait (.fence true)
    else .done ((invalidateRlb t s).onCx t c (fun k => { k with fetch := none })))) s)

/-- Put a context that was OFF at `pc`, in RUN or, where the tile is held, in HALT (03 R64, 18 R491). -/
def Tile.startCtx (x : Tile) (c : Nat) (pc : BitVec 32) : Tile :=
  x.onCx c (fun k => { k with pc := pc, fetch := none, wait := none, haltedInWait := false, stepGrant := false,
                              st := if x.dbg.hold then .halt else .run })

/-- CTX.START: the context obj[1:0] starts at rs1 (03 R64, 11 R302). -/
def execCtxStart (t : TileId) (c : CtxId) (rd rs1 : BitVec 5) (obj : BitVec 12) (s : State) : Res :=
  .next (issue t c { reads := [rs1.toNat] } (legal (rd == 0#5 && decide (obj.toNat ≤ 3)) (fun s =>
    if (s.cx t obj.toNat).st ≠ .off ∨ (s.tile t).mail.handler = some obj.toNat then .fault 0x0B 0
    else if !pcOk (rv s t c rs1) then .fault 0x02 0
    else .done (s.onTile t (fun x => x.startCtx obj.toNat ((rv s t c rs1).setWidth 32))))) s)

/-- CTX.STOP: the context is OFF; a handler context cannot stop itself (11 R302). -/
def execCtxStop (t : TileId) (c : CtxId) (rd rs1 : BitVec 5) (obj : BitVec 12) (s : State) : Res :=
  .next (issue t c {} (legal (rs1 == 0#5 && rd == 0#5 && obj == 0#12) (fun s =>
    if (s.tile t).mail.handler = some c.val then .fault 0x0B 0
    else .done (s.onCx t c (fun k => { k with st := .off, fetch := none })))) s)

/-- BKPT: the context enters HALT where a debugger is attached to its partition (03 R70, 18 R495). -/
def execBkpt (t : TileId) (c : CtxId) (rd rs1 : BitVec 5) (obj : BitVec 12) (s : State) : Res :=
  .next (issue t c {} (legal (rs1 == 0#5 && rd == 0#5 && obj == 0#12) (fun s =>
    let n := partOf s t
    if n < 6 ∧ s.dev.trace.attach.getLsbD n then .done (haltCtx t c s) else .fault 0x0B 0)) s)

/-! ### Wait timeouts (09 R260–R262) -/

/-- The timeout of a partition, in ns; none for no timeout. -/
def waitTimeout (s : State) (n : Nat) : Option Nat :=
  let v := match (s.part n).load.plate with | some p => p.timeout.toNat | none => 0
  if v = 0 then some 10000000
  else if v < 200 then some 200000
  else if v = 0xFFFFFFFF then none
  else some (v * 1000)

/-- Whether a context of partition `n` is in HALT: its timeouts are suspended (18 R493). -/
def anyHalted (s : State) (n : Nat) : Bool :=
  s.tiles.any (fun p => partOf s p.1 == n && p.2.ctx.any (fun k => decide (k.2.st = .halt)))

/-- The waits of region `r` that its Nib core times: all but those on TF255 while a declaration is under way
(14 R392). -/
def timedWaits (s : State) (r : Nat) : List (Nat × Nat × WaitFor) :=
  s.tiles.flatMap (fun p => if regionOf p.1 ≠ r then [] else p.2.ctx.filterMap (fun k =>
    match k.2.st, k.2.wait with
    | .wait, some w =>
      if (s.region r).nib.declaring && decide (w.kindObj = (1, 255)) then none else some (p.1, k.1, w)
    | _, _ => none))

/-- A wait's timer after `ns` more; a wait seen for the first time starts at 0. -/
def timerFor (old : List Timer) (ns : Nat) (x : Nat × Nat × WaitFor) : Timer :=
  let k := x.2.2.kindObj
  match old.find? (fun m => m.t == x.1 && m.c == x.2.1 && m.kind == k.1 && m.obj == k.2) with
  | some m => { m with ns := m.ns + ns }
  | none => { t := x.1, c := x.2.1, kind := k.1, obj := k.2, ns := 0 }

/-- TIMEOUT_SCAN: region `r`'s Nib core looks at its waiting contexts, `elapsed` ns after its last scan, and cancels
the waits whose time is over (09 R260, R261), once it has served its fault records (14 R375). -/
def execTimeoutScan (r : RegionId) (elapsed : Nat) (s : State) : Res :=
  .next (selfTimed s <|
    let n := partOfRegion s r
    if !(s.region r).nib.alive || anyHalted s n || faultDue s r then s
    else
      let ws := timedWaits s r
      let timers := ws.map (timerFor (s.region r).nib.timers elapsed)
      let above := match waitTimeout s n with
        | none => []
        | some lim => (List.zip ws timers).filterMap (fun (w, m) =>
            if lim ≤ m.ns ∧ s.net.cancels.all (fun k => !(k.t == w.1 && k.c == w.2.1)) then
              some ({ t := w.1, c := w.2.1, wait := w.2.2 } : Cancel) else none)
      (s.onRegion r (fun g => { g with nib := { g.nib with timers := timers } })).onNet
        (fun k => { k with cancels := k.cancels ++ above }))

/-- Data address of a fault 0x05 (09 R262). -/
def waitAddr (t : Nat) (w : WaitFor) : Nat :=
  match w with
  | .fe k _ _ => tileBase t + 8 * k
  | w => 0x7F0000000000 + w.kindObj.1 * 2 ^ 13 + w.kindObj.2

/-- Whether the hub has answered the context already. -/
def answered (s : State) (t c : Nat) : Bool := s.net.hubAns.any (fun a => a.op.t == t && a.op.c == c)

/-- WAIT_CANCEL: the `i`-th cancel reaches its object; a wait that still stands there faults (09 R261). -/
def execWaitCancel (i : Nat) (s : State) : Res :=
  .next (selfTimed s <| match s.net.cancels[i]? with
    | none => s
    | some k =>
      let s := s.onNet (fun n => { n with cancels := dropAt i n.cancels })
      if (s.tile k.t).waitsFor k.c k.wait && !answered s k.t k.c then
        tileFault k.t { code := 0x05, daddr := waitAddr k.t k.wait, ctx := k.c, iaddr := (s.cx k.t k.c).pc, back := true } s
      else s)

end Sys2Proof.Machine
end

