-- ==== Sys2Proof/Machine/Nib.lean ====
section
/-!
DEFINITION. The Nib cores: phase declarations and run-time tiling (14 R392–R403, 07 R201, R202), counter folds
(18 R497), the watchdog (16 R443) and the setpoint lowering for a waiting declaration (15 R414).
-/
namespace Sys2Proof.Machine

/-! ### A Nib core's own accesses (08 R212, R221) -/

/-- Note what an access of the host, or of the Nib core of a region, for partition `n` met at a home slice: a line that the
Bulk Store cannot give, and at a Nib core a poisoned line (08 R218, 16 R436; log 75). -/
def noteBulk (nib : Option Nat) (code a n : Nat) (s : State) : State :=
  if code = 0x0F then raiseRec (plainRec s 0x0F 0 2 n 13 0 a) s
  else match nib with
  | some r => raiseRec (plainRec s code 0 1 n 12 r a) s
  | none => s

/-- Cut a run of `len` bytes at `a` into aligned pieces of up to 64 B: offsets and lengths (19 R519). -/
def hostPieces (a len : Nat) : List (Nat × Nat) :=
  (List.range (if len = 0 then 0 else (a + len - 1) / 64 + 1 - a / 64)).map (fun i =>
    let lo := max a ((a / 64 + i) * 64)
    (lo, min (a + len) ((a / 64 + i + 1) * 64) - lo))

/-- Cut a run into pieces of up to 64 B, but keep a whole 128 B line whole (08 R218; log 75). -/
def linePieces (a len : Nat) : List (Nat × Nat) :=
  (List.range (if len = 0 then 0 else (a + len - 1) / 128 + 1 - a / 128)).flatMap (fun i =>
    let lo := max a ((a / 128 + i) * 128)
    let n := min (a + len) ((a / 128 + i + 1) * 128) - lo
    if n = 128 then [(lo, 128)] else hostPieces lo n)

/-- What comes after the read of a piece, whose bytes are free where a unit owns them as a result (03 R76). -/
def readThen (p : Nat × Nat) (r : Except Nat Bytes × State) (k : State → Except (Nat × Nat) Bytes × State) :
    Except (Nat × Nat) Bytes × State :=
  match r with
  | (.error c, s) => (.error (c, p.1), s)
  | (.ok d, s) =>
    let (d, s) := if ownedResult s p.1 p.2 then drawBytes p.2 s else (d, s)
    match k s with
    | (.ok e, s) => (.ok (d ++ e), s)
    | (.error c, s) => (.error c, s)

/-- A read of pieces without allocation; the first error ends it, with its piece's address. -/
def readPieces : List (Nat × Nat) → State → Except (Nat × Nat) Bytes × State
  | [], s => (.ok [], s)
  | p :: ps, s => readThen p (awaitRead p.1 p.2 s) (readPieces ps)

/-- What comes after the write of a piece. -/
def writeThen (p : Nat × Nat) (r : Except Nat Unit × State) (k : State → Except (Nat × Nat) Unit × State) :
    Except (Nat × Nat) Unit × State :=
  match r with
  | (.error c, s) => (.error (c, p.1), s)
  | (.ok _, s) => k s

/-- A write of pieces without allocation; the first error ends it. -/
def writePieces : List (Nat × Nat) → Bytes → State → Except (Nat × Nat) Unit × State
  | [], _, s => (.ok (), s)
  | p :: ps, d, s => writeThen p (awaitWrite p.1 (d.take p.2) (touchWrite p.1 p.2 s)) (writePieces ps (d.drop p.2))

/-- A Nib core's refused access: a record and a region stop (01 R25, 16 R436). -/
def nibFault (r code a : Nat) (s : State) : State :=
  stopRegion r code (raiseRec (plainRec s code 2 1 (partOfRegion s r) 12 r a) s)

/-! ### The Plate's tables (14 R396–R398) -/

/-- The fields that a run of bytes holds. -/
def fieldOf (bs : Bytes) (at' k lo w : Nat) : Nat := fld (leNat ((bs.drop at').take k)) lo w

/-- A phase record. -/
structure PhaseRec where
  nvar : Nat
  ts : Nat
  pr : Nat
  nops : Nat
  varoff : Nat
  tsBase : Nat
  tsLen : Nat
  prBase : Nat
  prLen : Nat
  ops : List Nat
  resv : Nat
  deriving DecidableEq, Repr

def phaseRec (sec : Bytes) (i : Nat) : PhaseRec :=
  let n := leNat ((sec.drop (64 * i)).take 64)
  { nvar := fld n 0 4, ts := fld n 4 3, pr := fld n 7 3, nops := fld n 16 4, varoff := fld n 32 32, tsBase := fld n 64 64,
    tsLen := fld n 128 64, prBase := fld n 192 64, prLen := fld n 256 64,
    ops := ((List.range 8).map (fun k => fld n (320 + 16 * k) 16)).take (fld n 16 4),
    resv := fld n 10 6 + fld n 20 12 + fld n 448 64 }

/-- A variant entry. -/
structure Variant where
  estimate : Nat
  spill : Nat
  ways : Nat
  map : Nat
  resv : Nat
  deriving DecidableEq, Repr

def variantsOf (sec : Bytes) (p : PhaseRec) : List Variant :=
  (List.range (min p.nvar 8)).map (fun v =>
    let n := leNat ((sec.drop (p.varoff + 16 * v)).take 16)
    { estimate := fld n 0 32, spill := fld n 32 32, ways := fld n 64 5, map := fld n 96 32, resv := fld n 69 27 })

/-- The number of phase records: they run up to the first variant entry or map that they name (log 24). -/
def phaseCount (sec : Bytes) : Nat → Nat → Nat → Nat
  | 0, n, _ => n
  | fuel + 1, n, lim =>
    if lim < 64 * (n + 1) then n
    else
      let p := phaseRec sec n
      phaseCount sec fuel (n + 1) ((variantsOf sec p).foldl (fun m v => min m v.map) (min lim p.varoff))

/-- The number of phase records of a PHASE section. -/
def phases (sec : Bytes) : Nat := phaseCount sec (sec.length / 64) 0 sec.length

/-- Reservations of the tiles of region `ri` of the partition by a variant's map (14 R397). -/
def regionMap (sec : Bytes) (v : Variant) (ri : Nat) : BitVec 1024 :=
  BitVec.ofNat 1024 (leNat ((sec.drop (v.map + 128 * ri)).take 128))

/-- A tiled-operation record (14 R398). -/
structure TiledOp where
  slot : Nat
  mx32 : Bool
  axisN : Bool
  mmax : Nat
  nmax : Nat
  shape : Nat
  units : Nat
  resv : Nat
  /-- GM, GN, TOFF and the reserved bits of each grid. -/
  grids : List (Nat × Nat × Nat × Nat)
  /-- U0, U1 and the reserved bits of each share. -/
  shares : List (Nat × Nat × Nat)
  deriving DecidableEq, Repr

def tiledOp (tiling : Bytes) (id : Nat) : Option TiledOp :=
  let bs := (tiling.drop (240 * id)).take 240
  if bs.length < 240 then none
  else
    let n := leNat (bs.take 32)
    some { slot := fld n 0 3, mx32 := nbit n 3, axisN := nbit n 4, mmax := fld n 32 32, nmax := fld n 64 32,
           shape := fld n 96 20, units := fld n 128 16, resv := fld n 5 27 + fld n 116 12 + fld n 144 112,
           grids := (List.range 8).map (fun g => let k := leNat ((bs.drop (32 + 8 * g)).take 8)
             (fld k 0 9, fld k 9 9, fld k 18 8, fld k 26 38)),
           shares := (List.range 18).map (fun r => let k := leNat ((bs.drop (96 + 8 * r)).take 8)
             (fld k 0 16, fld k 16 16, fld k 32 32)) }

/-- The shares tile 0 to UNITS in region order. -/
def sharesTile : Nat → List (Nat × Nat × Nat) → Nat → Bool
  | e, [], units => e == units
  | e, (u0, u1, z) :: l, units => u0 == e && decide (u0 ≤ u1) && z == 0 && sharesTile u1 l units

/-- Whether a tiled operation satisfies R398, with `nvar` variants over `nreg` regions. -/
def TiledOp.ok (o : TiledOp) (nvar nreg : Nat) : Bool :=
  o.resv == 0 && o.shape % 16 == 0 && o.units != 0
    && (o.grids.take nvar).all (fun (gm, gn, toff, z) =>
      z == 0 && decide (1 ≤ gm) && decide (gm ≤ 256) && decide (1 ≤ gn) && decide (gn ≤ 256) && decide (gm * gn + toff ≤ 256))
    && sharesTile 0 (o.shares.take nreg) o.units

/-- Whether a phase record and its variants are well formed (00 R15, log 24). -/
def PhaseRec.ok (p : PhaseRec) (sec : Bytes) : Bool :=
  p.resv == 0 && decide (1 ≤ p.nvar) && decide (p.nvar ≤ 8) && decide (p.nops ≤ 8) && p.varoff % 16 == 0
    && p.tsBase % 128 == 0 && p.tsLen % 128 == 0 && p.prBase % 128 == 0 && p.prLen % 128 == 0
    && (p.ts != 0 || p.tsLen == 0) && (p.pr != 0 || p.prLen == 0)
    && (variantsOf sec p).all (fun v => v.resv == 0 && v.map % 8 == 0 && decide (v.ways ≤ 16))

/-- Whether a phase's claims keep R201 and R202 beside `trace` ways. -/
def PhaseRec.claimsOk (p : PhaseRec) (trace : Nat) : Bool :=
  decide (p.ts ≤ 6) && decide (p.pr ≤ 4) && decide (p.ts + p.pr + trace ≤ 12)

/-- Whether every element of a list of numbers differs. -/
def distinct : List Nat → Bool
  | [] => true
  | x :: l => !l.contains x && distinct l

/-! ### Assignment records (14 R399, R400) -/

/-- A shape record. -/
structure Shape where
  m : Nat
  n : Nat
  k : Nat
  batch : Nat
  deriving DecidableEq, Repr

def shapeOf (n : Nat) : Shape := { m := fld n 0 32, n := fld n 32 32, k := fld n 64 16, batch := fld n 80 16 }

/-- Row and column units of region `ri`: first and end of each (14 R399). -/
def TiledOp.share (o : TiledOp) (ri : Nat) (h : Shape) : (Nat × Nat) × (Nat × Nat) :=
  let bm := cdiv h.m 16
  let bn := cdiv h.n (if o.mx32 then 32 else 16)
  let (u0, u1, _) := (o.shares[ri]?).getD (0, 0, 0)
  if o.axisN then ((0, bm), (u0 * bn / o.units, u1 * bn / o.units)) else ((u0 * bm / o.units, u1 * bm / o.units), (0, bn))

/-- The range that grid position `i` of `g` takes of units `lo` to `hi` of `w` elements, clipped at `lim`. -/
def gridRange (lo hi i g w lim : Nat) : Nat × Nat :=
  (min ((lo + i * (hi - lo) / g) * w) lim, min ((lo + (i + 1) * (hi - lo) / g) * w) lim)

/-- The assignment record of region tile `idx` (14 R400). -/
def assignment (o : TiledOp) (id v ri idx : Nat) (h : Shape) (step : Word) : Bytes :=
  let (gm, gn, toff, _) := (o.grids[v]?).getD (1, 1, 0, 0)
  let ((r0, r1), (c0, c1)) := o.share ri h
  let inside := decide (toff ≤ idx) && decide (idx < toff + gm * gn)
  let i := (idx - toff) / gn
  let j := (idx - toff) % gn
  let m := gridRange r0 r1 i gm 16 h.m
  let n := gridRange c0 c1 j gn (if o.mx32 then 32 else 16) h.n
  let act := inside && decide (m.1 < m.2) && decide (n.1 < n.2)
  let z := fun (x : Nat) => if inside then x else 0
  toBytes (id + v * 2 ^ 16 + b2n act * 2 ^ 19 + step.toNat % 2 ^ 32 * 2 ^ 32 + z m.1 * 2 ^ 64 + z m.2 * 2 ^ 96
    + z n.1 * 2 ^ 128 + z n.2 * 2 ^ 160 + h.k * 2 ^ 192 + h.batch * 2 ^ 208 + z (i % 256) * 2 ^ 224 + z (j % 256) * 2 ^ 232) 64

/-- Write the assignment records of an operation in every tile of region `r`. -/
def assign (r ri v at' : Nat) (o : TiledOp) (id : Nat) (h : Shape) (s : State) : State :=
  let step := (s.tile (256 * r)).phaseStep
  (List.range 256).foldl (fun s idx =>
    writeShared (tileBase (256 * r + idx) + at' + 64 * o.slot) (assignment o id v ri idx h step) s) s

/-! ### The order of the duties (14 R375) -/

/-- Whether partition `n`'s lead Nib core runs. -/
def leadAlive (s : State) (n : Nat) : Bool :=
  let g := (s.region (leadRegion s n)).nib
  g.alive && !g.stopped

/-- Whether region `r`'s Nib core has a commit to lead: its partition runs, and the hub signalled a release (13 R356). -/
def commitDue (s : State) (r : Nat) : Bool :=
  let n := partOfRegion s r
  let c := (s.part n).commit
  decide (n < 6) && decide (r = leadRegion s n) && decide ((s.part n).load.st = 2) && leadAlive s n && c.desc.isSome
    && (c.uSignal || c.cSignal)

/-! ### The declaration (14 R394, R401, R403; 15 R412, R414) -/

/-- What a declaration reads: the phase id, its record, and its operations with their shapes. -/
structure Declared where
  pid : Nat
  ph : PhaseRec
  ops : List (Nat × TiledOp × Shape)
  deriving DecidableEq, Repr

/-- Why a declaration cannot be made. -/
inductive BadDecl where
  /-- A table or a shape breaks R403. -/
  | invalid
  /-- A codeword of the control tile has a two-bit error. -/
  | uncorrectable (addr : Nat)
  deriving DecidableEq, Repr

/-- Read the operations of a phase with their shapes. -/
def readOps (s : State) (ctrl : Nat) (tiling : Bytes) : List Nat → Except BadDecl (List (Nat × TiledOp × Shape))
  | [] => .ok []
  | id :: ids =>
    match tiledOp tiling id with
    | none => .error .invalid
    | some o =>
      match s.badIn (tileBase ctrl + o.shape) 16 with
      | some w => .error (.uncorrectable w)
      | none => (readOps s ctrl tiling ids).map (fun l => (id, o, shapeOf (leNat (s.bytes (tileBase ctrl + o.shape) 16))) :: l)

/-- Read and check what region `r` declares (14 R394 steps 2 and 4). -/
def readDecl (s : State) (r : Nat) (p : PlateInfo) (loading : Bool) (nreg : Nat) : Except BadDecl Declared :=
  let ctrl := 256 * r
  let a := tileBase ctrl + p.pword
  match (if loading then none else s.badIn a 4) with
  | some w => .error (.uncorrectable w)
  | none =>
    let pid := if loading then p.phase0 else leNat (s.bytes a 2)
    if phases p.phases ≤ pid then .error .invalid
    else
      let ph := phaseRec p.phases pid
      match readOps s ctrl p.tiling ph.ops with
      | .error e => .error e
      | .ok ops =>
        if ph.ok p.phases && ph.claimsOk (s.region r).rc.trace && distinct (ops.map (fun o => o.2.1.slot))
            && ops.all (fun o => o.2.1.ok ph.nvar nreg && decide (o.2.2.m ≤ o.2.1.mmax) && decide (o.2.2.n ≤ o.2.1.nmax)) then
          .ok { pid := pid, ph := ph, ops := ops }
        else .error .invalid

/-- The fitting variant of lowest cost, the lowest-numbered on a tie (14 R401): its number and its map. -/
def chooseVariant (s : State) (r ri : Nat) (sec : Bytes) (ph : PhaseRec) : Option (Nat × BitVec 1024) :=
  let pool := (s.region r).pool
  let wt := 16 - ph.ts - ph.pr - (s.region r).rc.trace
  let cost := fun (v : Variant) => v.estimate + (if v.ways ≤ wt then 0 else v.spill)
  let cand := ((variantsOf sec ph).zipIdx).filterMap (fun (v, i) =>
    let m := regionMap sec v ri
    if mapSum m ≤ pool.published ∧ mapSum m ≤ pool.hwBound then some (cost v, i, m) else none)
  (cand.foldl (fun b x => match b with
    | none => some x
    | some y => if x.1 < y.1 then some x else some y) none).map (fun x => (x.2.1, x.2.2))

/-- Set the slice's claims for a phase; the claims of the phase before are released (07 R201, 14 R394). -/
def setClaims (r n : Nat) (ph : PhaseRec) (s : State) : State :=
  let line := fun (off : Nat) => (shareBase s n + off) / 128
  s.onRc r (fun c => { c with ts := ph.ts, pr := ph.pr, tsRange := (line ph.tsBase, line (ph.tsBase + ph.tsLen)),
                              prRange := (line ph.prBase, line (ph.prBase + ph.prLen)) })

/-- No variant fits: the declaration waits, and is counted once (15 R414, R415). -/
def waitPool (r : Nat) (s : State) : State :=
  onPool r (fun p => if p.waiting then p else { p with waiting := true, declWait := p.declWait + 1, waitedNs := 0 })
    (s.onPower (fun w => { w with calmNs := 0 }))

/-- The declaration that was read is made, or waits for the pool. -/
def declare (r n ri : Nat) (p : PlateInfo) (loading : Bool) (d : Declared) (s : State) : State :=
  match chooseVariant s r ri p.phases d.ph with
  | none => waitPool r s
  | some (v, m) =>
    let s := d.ops.foldl (fun s o => assign r ri v p.assign o.2.1 o.1 o.2.2 s) s
    let s := s.onRegion r (fun g => { g with nib := { g.nib with variant := v, declaring := false }, pool := { g.pool with map := m } })
    let s := setClaims r n d.ph (latch r d.pid s)
    if loading then s else (tilesOf r).foldl (fun s t => putFlag t 255 true s) s

/-- Whether the release of boundary barrier `b` has reached region `r`'s tiles, and its engines are idle (14 R394, R400). -/
def boundaryReached (s : State) (r b : Nat) : Bool := (tilesOf r).all (fun t => !releaseComing s t b) && regionIdle s r

/-- Whether region `r`'s Nib core has a declaration to make that does not wait for tokens or for its tiles. -/
def declareDue (s : State) (r : Nat) : Bool :=
  let g := s.region r
  let n := partOfRegion s r
  match (s.part n).load.plate with
  | none => false
  | some p => g.nib.alive && g.nib.declaring && !g.pool.waiting && ((s.part n).load.st == 1 || boundaryReached s r p.boundary)

/-- Whether region `r`'s Nib core has a duty to serve before a dump's capture (14 R375). -/
def dutyDue (s : State) (r : Nat) : Bool := faultDue s r || commitDue s r || declareDue s r

/-- Region `r` of a partition with a Plate declares its next phase, once the release has reached its tiles and its engines
are idle (14 R394, R400). With the window closed, its write of the map is refused (15 R412). -/
def declareRegion (r : Nat) (s : State) : State :=
  let n := partOfRegion s r
  match (s.part n).load.plate with
  | none => s
  | some p =>
    let loading := (s.part n).load.st == 1
    let released := loading || (tilesOf r).all (fun t => !releaseComing s t p.boundary)
    if !(s.region r).nib.alive || !(s.region r).nib.declaring || !released || !regionIdle s r then s
    else if !(s.region r).pool.window then nibFault r 0x02 (devBase + 0x5000100 + 0x1000 * r) s
    else
      match readDecl s r p loading (bandOf s n).length with
      | .error .invalid => nibFault r 0x09 0 s
      | .error (.uncorrectable w) => nibFault r 0x01 w s
      | .ok d => declare r n (r - leadRegion s n) p loading d s

/-- Step 9 of a load, once no region of the partition declares: c0 of every tile of a region that was not stopped starts
at ENTRY, and a verified digest joins the list (14 R386, R388, R389). The load's duration is not the model's. -/
def finishLoad (n : Nat) (s : State) : State :=
  match (s.part n).load.plate with
  | none => s
  | some p =>
    if (s.part n).load.st ≠ 1 ∨ (bandOf s n).any (fun r => (s.region r).nib.declaring) then s
    else
      let s := (bandOf s n).foldl (fun s r => (tilesOf r).foldl (fun s t =>
        s.onTile t (fun x => let x := { x with fenced := false }
          if (s.region r).nib.stopped then x else x.startCtx 0 p.entry)) s) s
      let (us, s) := drawFree 32 s
      let s := if (s.part n).load.verify then
          s.onSec (fun k => let l := k.digests.filter (· ≠ p.digest) ++ [p.digest]
            { k with digests := l.drop (l.length - 64) }) else s
      let s := s.onPart n (fun q => { q with load := { q.load with usecs := us } })
      setLoad n 2 s

/-! ### Lowering the setpoint for a declaration (15 R414) -/

/-- Whether the user cap alone bars every variant of the phase that region `r` waits to declare. -/
def capBars (s : State) (r : Nat) : Bool :=
  let n := partOfRegion s r
  match (s.part n).load.plate with
  | none => true
  | some p =>
    let pid := if (s.part n).load.st == 1 then p.phase0 else leNat (s.bytes (tileBase (256 * r) + p.pword) 2)
    (variantsOf p.phases (phaseRec p.phases pid)).all (fun v =>
      decide (s.dev.power.cap < mapSum (regionMap p.phases v (r - leadRegion s n))))

/-- SETPOINT_LOWERING, `elapsed` ns after the counter last moved (log 7): a region that has waited 1 ms above 750 mV makes
the Steward lower VDD_CORE by 10 mV, 100 µs after the last write at the earliest, but not where the cap alone makes it
wait. -/
def execSetpointLowering (elapsed : Nat) (s : State) : Res :=
  .next (selfTimed s <|
    let due := (List.range 18).any (fun r =>
      (s.region r).pool.waiting && decide (1000000 ≤ (s.region r).pool.waitedNs + elapsed) && !capBars s r)
    let w := s.dev.power
    if !due || decide (w.setpoint ≤ 750) || decide (elapsed < w.avsWait) then s
    else (sendSetpoint (max 750 (w.setpoint - 10)) s).onPower (fun x =>
      { x with avsWait := x.avsWait + elapsed, before := if w.lowered then w.before else w.setpoint, lowered := true }))

end Sys2Proof.Machine
end

