-- ==== Sys2Proof/Machine/Commit.lean ====
section
/-!
DEFINITION. Step commits and recovery (13 R352–R365): the shard header, the loss scale, the seed, the stamp and the
apply.
-/
namespace Sys2Proof.Machine

/-! ### A Nib core at its share -/

/-- What the lead Nib core of partition `n` reads at `a`; an uncorrectable read is recorded, and what it gives then is
free (16 R436). -/
def nibFetch (n a len : Nat) (s : State) : Bytes × State :=
  match readPieces (hostPieces a len) s with
  | (.ok d, s) => (d, s)
  | (.error c, s) => drawBytes len (noteBulk (some (leadRegion s n)) c.1 c.2 n s)

/-- What the lead Nib core of partition `n` writes at `a`. -/
def nibPut (n a : Nat) (d : Bytes) (s : State) : State :=
  match writePieces (linePieces a d.length) d s with
  | (.ok _, s) => s
  | (.error c, s) => noteBulk (some (leadRegion s n)) c.1 c.2 n s

/-- Change partition `n`'s commit records. -/
def onCommit (n : Nat) (f : CommitSt → CommitSt) (s : State) : State :=
  s.onPart n (fun p => { p with commit := f p.commit })

/-! ### Numbers of a step (13 R355, R360, R368) -/

/-- The seed in force for step `t` of job `j`. -/
def seedFor (j t : Word) : Word := j + t * 0xA7C15E933B6D0F27#64

/-- Load a seed into every Grain generator of partition `n`. -/
def loadSeeds (n : Nat) (v : Word) (s : State) : State :=
  (partTiles s n).foldl (fun s t => s.onTile t (fun x => x.onUn (fun u => { u with seed := v }))) s

/-- A loss scale as a number. -/
def lossNum (v : BitVec 32) : Num := fp32.decode v.toNat

/-- A number as FP32. -/
def fp32Of (x : Num) (d : Nat := 1) : BitVec 32 := BitVec.ofNat 32 (fp32.encode .rne x d)

/-- 1/S, exact for a power of two. -/
def invScale (v : BitVec 32) : BitVec 32 :=
  match lossNum v with
  | .fin s n e => if n = 0 then 0 else fp32Of (.fin s 1 (-e)) n
  | _ => 0

/-- Whether the rule uses C1 and C2: ADAMW and LAMB (13 R346). -/
def usesBias (rule : BitVec 3) : Bool := rule == 2 || rule == 4

/-- 1/(1 - β^t), rounded once; no value is stated where β^t is 1. -/
def biasFor (beta : BitVec 32) (t : Word) : Option (BitVec 32) :=
  match fp32.decode beta.toNat with
  | .fin _ n e =>
    let k := (-e).toNat * t.toNat
    let q := n ^ t.toNat * 2 ^ (e.toNat * t.toNat)
    if q < 2 ^ k then some (fp32Of (.fin false (2 ^ k) 0) (2 ^ k - q)) else none
  | _ => none

/-- C1 or C2 of a rule at step `t`; a value that the manual does not state is free. -/
def biasValue (rule : BitVec 3) (beta : BitVec 32) (t : Word) (s : State) : BitVec 32 × State :=
  if !usesBias rule then (0, s)
  else match biasFor beta t with
  | some v => (v, s)
  | none => drawFree 32 s

/-- The loss scale and the run counter after a written step (13 R360); past 16 bits the manual gives the counter no
value. -/
def growScale (d : Commit) (c : CommitSt) (s : State) : BitVec 32 × Nat × State :=
  let k := c.run + 1
  if d.grow ≠ 0 ∧ k = d.grow then (fp32Of (((lossNum c.lscale).mul (.ofInt 2)).minimum (lossNum d.smax)), 0, s)
  else if k < 65536 then (c.lscale, k, s)
  else let (v, s) := drawFree 16 s; (c.lscale, v.toNat, s)

/-- The loss scale after a skipped step. -/
def cutScale (d : Commit) (c : CommitSt) : BitVec 32 :=
  fp32Of (((lossNum c.lscale).mul (.pow2 (-1))).maximum (lossNum d.smin))

/-! ### The shard header (13 R353–R355) -/

/-- The address of the stamp of bank B, or of bank A. -/
def stampAt (d : Commit) (bankB : Bool) : Nat := d.shard + if bankB then 32 else 0

/-- The address of a bank's slice CRC table, and its length. -/
def tableAt (d : Commit) (bankB : Bool) : Nat := if bankB then d.bankB else d.bankA
def tableLen (d : Commit) : Nat := 128 * cdiv (4 * d.nown) 128

/-- A stamp's 32 bytes. -/
def stampBytes (step crc status epoch : Nat) : Bytes :=
  toBytes (step % 2 ^ 64 + crc % 2 ^ 32 * 2 ^ 64 + status % 2 ^ 8 * 2 ^ 96 + epoch % 2 ^ 32 * 2 ^ 128) 32

/-- The 64 bytes of a step record. -/
def stepRecord (next : Word) (active : Bool) (lscale ginv c1 c2 : BitVec 32) (seed : Word) : Bytes :=
  toBytes (next.toNat + b2n active * 2 ^ 64 + lscale.toNat * 2 ^ 96 + ginv.toNat * 2 ^ 128 + c1.toNat * 2 ^ 160
    + c2.toNat * 2 ^ 192 + seed.toNat * 2 ^ 224) 64

/-- Write the step record of partition `n` for its NEXT_STEP, with the records in force (13 R359 step 3). -/
def writeStep (n : Nat) (d : Commit) (s : State) : State :=
  let c := (s.part n).commit
  let (c1, s) := biasValue d.rule d.b1 c.next s
  let (c2, s) := biasValue d.rule d.b2 c.next s
  nibPut n (d.shard + 64) (stepRecord c.next c.active c.lscale (invScale c.lscale) c1 c2 c.seed) s

/-! ### Stamp and apply (13 R356, R358, R359) -/

/-- Step 5 of a commit: the inactive bank's stamp is written, and the commit tile's flag is set. -/
def stampStep (n : Nat) (d : Commit) (s : State) : State :=
  let c := (s.part n).commit
  let s := putGf d.stepFlag false s
  let e := ((s.hub.bar d.cbar).epoch + 1).toNat
  let s := if (s.part n).rdnf then nibPut n (stampAt d (!c.active)) (stampBytes c.next.toNat 0 2 e) s
    else
      let (tab, s) := nibFetch n (tableAt d (!c.active)) (tableLen d) s
      nibPut n (stampAt d (!c.active)) (stampBytes c.next.toNat (crc32 tab) 1 e) s
  let s := onCommit n (fun c => { c with st := 2, uSignal := false }) s
  putFlag d.tile d.flag true s

/-- The apply of step `t` with a stamp's status (13 R359). -/
def applyStep (n : Nat) (d : Commit) (t : Word) (written : Bool) (s : State) : State :=
  let c := (s.part n).commit
  let (ls, run, s) := if written then growScale d c s else (cutScale d c, 0, s)
  let next := t + 1
  let s := onCommit n (fun c =>
    { c with active := if written then !c.active else c.active, lscale := ls, run := run,
             skipped := if written then c.skipped else c.skipped + 1, committed := t, next := next,
             seed := seedFor d.j next, cEpoch := (s.hub.bar d.cbar).epoch, st := 1, cSignal := false }) s
  let s := writeStep n d s
  let s := s.onPart n (fun p => { p with rdnf := false })
  let s := loadSeeds n (seedFor d.j next) s
  causePart n 7 (putGf d.stepFlag true s)

/-- COMMIT_STAMP: after U's release, the lead Nib core of partition `n` stamps the step (13 R356 step 5). -/
def execCommitStamp (n : PartId) (s : State) : Res :=
  .next (selfTimed s <| match (s.part n).commit.desc with
    | some d =>
      if (s.part n).commit.uSignal ∧ (s.part n).load.st = 2 ∧ leadAlive s n ∧ ¬ faultDue s (leadRegion s n) then stampStep n d s
      else s
    | none => s)

/-- COMMIT_APPLY: after C's release, the lead Nib core applies the commit with the STATUS of the stamp it wrote
(13 R359). -/
def execCommitApply (n : PartId) (s : State) : Res :=
  .next (selfTimed s <| match (s.part n).commit.desc with
    | some d =>
      if (s.part n).commit.cSignal ∧ (s.part n).load.st = 2 ∧ leadAlive s n ∧ ¬ faultDue s (leadRegion s n) then
        let (st, s) := nibFetch n (stampAt d (!(s.part n).commit.active)) 32 s
        applyStep n d (s.part n).commit.next (decide (fieldOf st 0 32 96 8 = 1)) s
      else s
    | none => s)

/-! ### Recovery (13 R364, R365) -/

/-- The slices of a bank, first offset and length each, from offset `at'` on: each padded to a multiple of 128 B (13 R353). -/
def slicesFrom : List Nat → Nat → List (Nat × Nat)
  | [], _ => []
  | n :: l, at' => (at', n) :: slicesFrom l (at' + 128 * cdiv n 128)

/-- The slices of a commit description. Their lengths are free, but one Plate's are always the same (log 26). -/
def bankSlices (digest : BitVec 384) (d : Commit) (bankB : Bool) : List (Nat × Nat) :=
  slicesFrom ((List.range d.nown).map (fun k => (Config.sliceLength digest k).toNat)) (tableAt d bankB + tableLen d)

/-- Recompute the CRC of every slice against its entry of the table: whether all match, or where a line cannot be read. A
slice that leaves the share matches nothing. -/
def slicesMatch (n : Nat) (tab : Bytes) : Nat → List (Nat × Nat) → State → Except (Nat × Nat) Bool × State
  | _, [], s => (.ok true, s)
  | k, (a, len) :: l, s =>
    if len ≠ 0 ∧ (!inShare s n a ∨ !inShare s n (a + len - 1)) then (.ok false, s)
    else match readPieces (hostPieces a len) s with
    | (.error e, s) => (.error e, s)
    | (.ok d, s) =>
      match slicesMatch n tab (k + 1) l s with
      | (.ok ok, s) => (.ok (ok && crc32 d == fieldOf tab (4 * k) 4 0 32), s)
      | r => r

/-- FORWARD in partition `n`: the stamp of the inactive bank is checked and applied without a release; the result of
0x2E00:21 (13 R365). -/
def forward (n : Nat) (d : Commit) (s : State) : Nat × State :=
  let c := (s.part n).commit
  match readPieces (hostPieces (stampAt d (!c.active)) 32) s with
  | (.error e, s) => (4, noteBulk (some (leadRegion s n)) e.1 e.2 n s)
  | (.ok st, s) =>
    let t := BitVec.ofNat 64 (fieldOf st 0 8 0 64)
    let status := fieldOf st 0 32 96 8
    if (status ≠ 1 ∧ status ≠ 2) ∨ t.toInt ≤ c.committed.toInt then (2, s)
    else if status = 2 then (1, applyStep n d t false s)
    else match readPieces (hostPieces (tableAt d (!c.active)) (tableLen d)) s with
    | (.error e, s) => (4, noteBulk (some (leadRegion s n)) e.1 e.2 n s)
    | (.ok tab, s) =>
      let digest := match (s.part n).load.plate with | some p => p.digest | none => 0
      match slicesMatch n tab 0 (bankSlices digest d (!c.active)) s with
      | (.error e, s) => (4, noteBulk (some (leadRegion s n)) e.1 e.2 n s)
      | (.ok ok, s) =>
        if !ok || crc32 tab != fieldOf st 0 32 64 32 then (3, s) else (1, applyStep n d t true s)

/-- BACK in partition `n`: the step record is rewritten for COMMITTED_STEP + 1 and RDNF is cleared. -/
def back (n : Nat) (d : Commit) (s : State) : Nat × State :=
  let s := onCommit n (fun c => { c with next := c.committed + 1, seed := seedFor d.j (c.committed + 1), st := 1 }) s
  let s := writeStep n d s
  (1, s.onPart n (fun p => { p with rdnf := false }))

end Sys2Proof.Machine
end

