-- ==== Sys2Proof/Machine/Units.lean ====
section
/-!
DEFINITION. What the engines share: starting (03 R70, R73), the reservation (15 R406–R409, R417), acceptance (03 R74–R77)
and completion.
-/
namespace Sys2Proof.Machine

/-! ### Starting -/

/-- The unit of an operation (03 R73). -/
def OpKind.unit : OpKind → Nat
  | .mm => 0
  | .vop | .vtr | .cvt | .fill | .opt | .samp => 1
  | .lig => 2
  | .grn => 3
  | .movt | .xstart | .enl => 4

/-- SRC of a unit's records (16 R432). -/
def OpKind.src : OpKind → Nat
  | .mm => 1
  | .vop | .vtr | .cvt | .fill | .opt | .samp => 2
  | .lig => 3
  | .grn => 4
  | .xstart => 5
  | .movt | .enl => 6

/-- Put a request into its unit's start queue, or wait for an entry (03 R73). -/
def enqueueStart (t : Nat) (q : StartReq) (s : State) : Eff :=
  let u := q.kind.unit
  if 2 ≤ ((s.tile t).unit u).queue.length then .wait (.queue u)
  else .done (s.onUnit t u (fun x => { x with queue := x.queue ++ [q] }))

/-- A D-format start (03 R70): `ok` says that the opcode and sub are defined and the unused fields name d0 and g0. -/
def dForm (kind : OpKind) (sub : Nat) (ok : Bool) (t c : Nat) (dd da db : BitVec 3) (gp : BitVec 5) (tf : BitVec 8)
    (s : State) : State :=
  let q : StartReq := { kind := kind, sub := BitVec.ofNat 4 sub, ctx := c, iaddr := (s.cx t c).pc, dd := dd, da := da, db := db,
                        gp := gp, tf := tf }
  issue t c { reads := q.regs (s.cx t c), dreads := q.descs } (legal (ok && tf.toNat != 255) (enqueueStart t q)) s

/-! ### Reservation and draw -/

/-- A unit's draw: the class of its operation, the larger of two MMs' (15 R408). -/
def UnitSt.draw (u : UnitSt) : Nat := maxOf (u.ops.map (fun op => op.tokens))

/-- A tile's draw D: the classes of its active units (15 R408). -/
def Tile.draw (x : Tile) : Nat := sumOf ([0, 1, 2, 3].map (fun u => (x.unit u).draw))

/-- The turns that wait for tokens, oldest first. While the region is held the engines' wait for the hold's end, and the XP's
lines do not wait behind them (15 R417). -/
def turns (s : State) (t : Nat) : List Nat :=
  let l := (s.tile t).un.waiting
  if (s.region (regionOf t)).pool.hold then l.filter (fun k => decide (4 ≤ k)) else l

/-- Take turn `id`'s cost against the reservation. It must fit, and no older turn may wait; otherwise it waits in the
order in which it began to (15 R408, R409). -/
def takeTurn (t id cost : Nat) (s : State) : Bool × State :=
  let x := s.tile t
  let first := match turns s t with | [] => true | k :: _ => k == id
  if first && decide (x.draw + cost ≤ x.un.resv.toNat) then
    (true, s.onTile t (fun x => x.onUn (fun n => { n with waiting := n.waiting.filter (· ≠ id) })))
  else if x.un.waiting.contains id then (false, s)
  else (false, s.onTile t (fun x => x.onUn (fun n => { n with waiting := n.waiting ++ [id] })))

/-- Take a turn out of the order of waiting. -/
def unwait (t id : Nat) (s : State) : State :=
  s.onTile t (fun x => x.onUn (fun n => { n with waiting := n.waiting.filter (· ≠ id) }))

/-! ### Acceptance -/

/-- Why a request is not accepted: the code and the data address. -/
abbrev Denial := Nat × Nat

/-- The operation that a request would be, with what the unit reads at acceptance (03 R75). -/
def baseOp (s : State) (t : Nat) (q : StartReq) : RunOp :=
  let k := s.cx t q.ctx
  { req := q, dC := k.desc q.dd.toNat, dA := k.desc q.da.toNat, dB := k.desc q.db.toNat,
    dX := k.desc ((q.db.toNat + 1) % 8), param := k.reg q.gp.toNat, idx := k.reg ((q.gp.toNat + 1) % 32) }

/-- A check with fault 0x09. -/
def need (ok : Bool) (r : Except Denial α) : Except Denial α := if ok then r else .error (0x09, 0)

/-- Clear the flag of a tile that a request names (03 R74). -/
def clearFlag (t : Nat) (tf : BitVec 8) (s : State) : State := putFlag t tf.toNat false s

/-- Let the contexts that wait for an entry of unit `u`'s queue issue again (03 R73). -/
def wakeQueue (t u : Nat) (s : State) : State :=
  [0, 1, 2, 3].foldl (fun s c => if (s.tile t).waitsFor c (.queue u) then s.onTile t (fun x => x.wake c) else s) s

/-- Take the head request out of unit `u`'s queue. -/
def popQueue (t u : Nat) (s : State) : State :=
  wakeQueue t u (s.onUnit t u (fun x => { x with queue := x.queue.drop 1 }))

/-- The results of a new operation of tile `t` touch what others use, and it is touched itself where its memory is unspecified to
it (03 R76, 11 R302). An operation of a running handler leaves that handler's own entry as it is, and no other tile's. -/
def touchOps (t : Nat) (op : RunOp) (s : State) : Bool × State :=
  ((op.opnd ++ op.res).any (fun r => op.req.unsure s r.1 r.2),
    op.res.foldl (fun s r => touchWrite r.1 r.2 s (runsHandler s t op.req.ctx && decide (r.1 / 0x100000 = t))) s)

/-- Trace START (18 R502). -/
def traceStart (t : Nat) (q : StartReq) (tokens : Nat) (s : State) : State :=
  traceTile t 2 q.ctx q.iaddr.toNat (toBytes q.kind.src 1 ++ toBytes q.sub.toNat 1 ++ toBytes q.tf.toNat 1
    ++ toBytes tokens 1 ++ toBytes (s.tile t).un.resv.toNat 1) s

/-- Trace DONE (18 R502). -/
def traceDone (t : Nat) (q : StartReq) (beats progress : Nat) (s : State) : State :=
  traceTile t 3 q.ctx q.iaddr.toNat (toBytes q.kind.src 1 ++ zeros 3 ++ toBytes (min beats 0xFFFFFFFF) 4
    ++ toBytes (min progress 0xFFFFFFFF) 4) s

/-- Accept an operation of unit `u`: its flag clears, and it runs (03 R74), beside the tail of the one before it where the ME
overlaps two (05 R153). -/
def startOp (t u : Nat) (op : RunOp) (s : State) : State :=
  let s := clearFlag t op.req.tf (popQueue t u s)
  let before := ((s.tile t).unit u).running
  let (mine, s) := touchOps t op (s.onUnit t u (fun x => { x with running := none }))
  let s := s.onUnit t u (fun x => { x with running := some { op with tainted := op.tainted || mine },
                                           tail := before.map (fun o => { o with past := true }) })
  traceStart t op.req op.tokens s

/-- Refuse the head request of unit `u` (03 R77, R105). -/
def refuseStart (t : Nat) (q : StartReq) (d : Denial) (s : State) : State :=
  tileFault t { code := BitVec.ofNat 8 d.1, daddr := d.2, src := BitVec.ofNat 5 q.kind.src, ctx := q.ctx, iaddr := q.iaddr,
                back := true } s

/-! ### Completion -/

/-- How an operation ended: the state with its results, the beats it took, its progress, a fault's code and data address,
and the lowest index of a non-finite result. -/
structure OpEnd where
  s : State
  beats : Nat
  progress : Nat := 0
  fault : Option (Nat × Nat) := none
  nf : Option Nat := none

/-- The event that counts a unit's busy beats (18 R496). -/
def busyEvent (u : Nat) : Nat := match u with | 0 => 0x10 | 1 => 0x14 | 2 => 0x15 | _ => 0x16

/-- End unit `u`'s operation: its flag is set, or it stopped with a fault (03 R74, R105; 16 R438). -/
def endOp (t u : Nat) (op : RunOp) (e : OpEnd) : State :=
  let q := op.req
  let s := e.s.onUnit t u UnitSt.drop
  let s := match e.nf with
    | some i => s.onTile t (fun x => { x with nf := x.nf.set (u == 1) i })
    | none => s
  let s := if u < 4 then s.onTile t (fun x => x.count (busyEvent u) e.beats) else s
  settleTokens (regionOf t) <| match e.fault with
  | some (code, daddr) =>
    tileFault t { code := BitVec.ofNat 8 code, daddr := daddr, src := BitVec.ofNat 5 q.kind.src, ctx := q.ctx,
                  iaddr := q.iaddr, progress := e.progress } s
  | none => traceDone t q e.beats e.progress (putFlag t q.tf.toNat true s)

/-- The completion event of unit `u`, whose older operation `run` carries out. -/
def complete (t u : Nat) (run : RunOp → State → OpEnd) (s : State) : State :=
  selfTimed s <| match ((s.tile t).unit u).oldest with
  | some op => endOp t u op (run op s)
  | none => s

end Sys2Proof.Machine
end

