-- ==== Sys2Proof/Machine/Exchange.lean ====
section
/-!
DEFINITION. Compiled exchange (10 R265–R279): XSTART, the list engine, segments and their replies.
-/
namespace Sys2Proof.Machine

/-! ### XSTART (10 R268) -/

/-- Requests of the tile that no completed list answers, XSTARTs of a given gate. -/
def gateBusy (x : Tile) (g : Nat) : Bool := gateHolds x g || (match x.un.list with | some l => l.gate == some g | none => false)

/-- Whether an address lies in tile `t`'s own window, with `n` bytes of it (03 R86). -/
def inOwnWindow (s : State) (t : Nat) (w : Word) (n : Nat) : Bool := decide (spanOf s w.toNat n = some (.tile t))

/-- XSTART (10 R268): the gate is read at issue. -/
def execXstart (t : TileId) (c : CtxId) (ra rb rc : BitVec 5) (xfn : BitVec 11) (s : State) : Res :=
  .next (issue t c { reads := [ra.toNat] }
    (legal (rb == 0#5 && rc == 0#5 && fld xfn.toNat 8 3 == 0 && fld xfn.toNat 0 8 != 255) (fun s =>
      let a := rv s t c ra
      let loc := fld a.toNat 0 47
      if !inOwnWindow s t a 16 || decide (loc % 16 ≠ 0) then .fault 0x02 loc
      else match s.badIn loc 4 with
      | some k => .fault 0x01 k
      | none =>
        let (h, s) := readShared loc 4 s
        let g := fld (leNat h) 16 6
        if g ≠ 63 ∧ gateBusy (s.tile t) g then .fault 0x09 0
        else enqueueStart t { kind := .xstart, sub := 0, ctx := c, iaddr := (s.cx t c).pc, tf := xfn.setWidth 8, a := a,
                              gate := if g = 63 then none else some g, tainted := ownedResult s loc 16 } s)) s)

/-! ### Acceptance (10 R269–R271) -/

/-- The fields of a list header (10 R266). -/
structure ListHead where
  nslots : Nat
  gate : Nat
  bitmap : Nat
  resv : Nat
  deriving DecidableEq, Repr

def listHeadOf (n : Nat) : ListHead :=
  { nslots := fld n 0 16, gate := fld n 16 6, bitmap := fld n 32 20, resv := fld n 22 10 + fld n 52 76 }

/-- The footprint and number checks of R269: fault 0x02. -/
def listBounds (s : State) (o : Nat) (h : ListHead) (ks : List Slot) : Bool :=
  decide (o + 16 + 16 * h.nslots ≤ 0x100000) && decide (h.bitmap + bitmapBytes h.nslots ≤ 0x100000)
    && ks.all (fun k => decide (k.loc + k.len ≤ 0x100000) && decide (k.stage + k.len ≤ 0x100000)
      && decide (k.dev < systemSize s) && decide (k.peer < 4608))

/-- Whether one slot's fields are legal (10 R267, R269). -/
def Slot.ok (k : Slot) : Bool :=
  k.kind != 3 && k.acct != 3 && (k.kind == 2 || (k.acct == 0 && !k.nostage && k.group == 0))
    && (k.stages || k.stage == 0) && k.resv == 0 && (k.remote || k.dev == 0) && (k.kind != 0 || k.seq == 0)
    && k.loc % 64 == 0 && k.stage % 64 == 0 && k.len % 8 == 0

/-- The device that a slot names. -/
def Slot.peerDev (s : State) (k : Slot) : Nat := if k.remote then k.dev else s.dev.link.self

/-- Whether every element of a list is different. -/
def allDiffer {α : Type} [DecidableEq α] : List α → Bool
  | [] => true
  | x :: l => !l.contains x && allDiffer l

/-- NOSTAGE stands only on the first RECV.ACC of a group (10 R269). -/
def nostageOk : List Nat → List Slot → Bool
  | _, [] => true
  | gs, k :: l => if k.kind = 2 then !(k.nostage && gs.contains k.group) && nostageOk (k.group :: gs) l else nostageOk gs l

/-- The remaining checks of R269 with fault 0x09. -/
def listShape (s : State) (t : Nat) (h : ListHead) (ks : List Slot) : Bool :=
  let recvs := ks.filter Slot.receives
  decide (h.nslots ≤ 4096) && h.resv == 0 && (decide (h.gate < 32) || h.gate == 63) && h.bitmap % 64 == 0 && ks.all Slot.ok
    && decide (recvs.length ≤ 1024) && nostageOk [] ks && allDiffer (recvs.map (fun k => (k.peerDev s, k.peer, k.seq)))
    && (!ks.any (fun k => k.remote) || (decide (h.gate < 32) && (s.hub.bar h.gate).scope))
    && (h.gate == 63 || !(s.tile t).barPending.getLsbD h.gate)

/-- The partition checks of R269: fault 0x0A. -/
def listReach (s : State) (t : Nat) (h : ListHead) (ks : List Slot) : Bool :=
  let n := partOf s t
  decide (n < 6) && (h.gate == 63 || ownedBy s.hub.ownBar n h.gate)
    && ks.all (fun k => decide (k.peerDev s ≠ s.dev.link.self) || decide (partOf s k.peer = n))

/-- The header and the slots of a handed XSTART's list: free values where they are unspecified to it (03 R76, 10 R268). -/
def readList (q : StartReq) (s : State) : (Bytes × Bytes) × State :=
  let a := fld q.a.toNat 0 47
  let (h, s) := if q.tainted then drawBytes 16 s else readFor q a 16 s
  let (vs, s) := readFor q (a + 16) (16 * (listHeadOf (leNat h)).nslots) s
  ((h, vs), s)

/-- The list that a handed XSTART names, with the header and the slots as read, or the fault that refuses it. -/
def acceptList (s : State) (t : Nat) (q : StartReq) (read : Bytes × Bytes) : Except Denial RunList :=
  let a := fld q.a.toNat 0 47
  let o := a % 0x100000
  match s.badIn a 16 with
  | some k => .error (0x01, k)
  | none =>
    let h := listHeadOf (leNat read.1)
    if 0x100000 < o + 16 + 16 * h.nslots then .error (0x02, a)
    else match s.badIn (a + 16) (16 * h.nslots) with
    | some k => .error (0x01, k)
    | none =>
      let vs := (pieces 16 h.nslots read.2).map (fun b => BitVec.ofNat 128 (leNat b))
      let ks := vs.map slotOf
      if !listBounds s o h ks then .error (0x02, a)
      else if !listShape s t h ks then .error (0x09, a)
      else if !listReach s t h ks then .error (0x0A, a)
      else if (s.tile t).un.resv.toNat < 1 then .error (0x03, 0)
      else .ok { req := q, base := o, nslots := h.nslots, gate := if h.gate = 63 then none else some h.gate,
                 bitmap := h.bitmap, slots := vs, epoch := if h.gate = 63 then 0 else Map.get 0 (s.tile t).epochs h.gate }

/-- Change the running list of tile `t`. -/
def onList (t : Nat) (f : RunList → RunList) (s : State) : State :=
  s.onTile t (fun x => x.onUn (fun u => { u with list := u.list.map f }))

/-- Trace DONE of an operation whose beats nothing fixes (18 R502, log 8). -/
def traceDoneFree (t : Nat) (q : StartReq) (progress : Nat) (s : State) : State :=
  let (b, s) := drawFree 32 s
  traceDone t q b.toNat progress s

/-- The list is complete: its flag is set (10 R274). -/
def finishList (t : Nat) (l : RunList) (s : State) : State :=
  let s := s.onTile t (fun x => x.onUn (fun u => { u with list := none }))
  traceDoneFree t l.req l.done.length (putFlag t l.req.tf.toNat true s)

/-- Accept a list: its flag and bitmap clear and its slots are posted (10 R270, R271). -/
def startList (t : Nat) (q : StartReq) (l : RunList) (s : State) : State :=
  let s := s.onTile t (fun x => x.onUn (fun u => { u with handed := none }))
  let s := clearFlag t q.tf s
  let hit := (l.all.zipIdx.filter (fun p => (p.1.uses t).any (fun r => q.unsure s r.1 r.2))).map (fun p => p.2)
  let s := (l.res t).foldl (fun s r => touchWrite r.1 r.2 s) s
  let s := s.poke (tileBase t + l.bitmap) (zeros (bitmapBytes l.nslots))
  let s := s.onTile t (fun x => x.onUn (fun u => { u with list := some { l with tainted := hit } }))
  let s := traceStart t q 1 s
  let s := match l.gate with | some g => releaseHeld t g s | none => s
  if l.nslots = 0 then finishList t l s else s

/-- LIST_ACCEPTANCE: the list engine takes the XSTART handed to it (10 R269, R270). -/
def execListAcceptance (t : TileId) (s : State) : Res :=
  .next (selfTimed s <| match (s.tile t).un.handed, (s.tile t).un.list with
    | some q, none =>
      let (read, s) := readList q s
      (match acceptList s t q read with
      | .ok l => startList t q l s
      | .error d => refuseStart t q d s)
    | _, _ => s)

/-! ### Slots that complete (10 R274, R289) -/

/-- The list engine stops with a fault; the bitmap keeps the slots completed (10 R289). -/
def stopList (t : Nat) (l : RunList) (code daddr : Nat) (s : State) : State :=
  tileFault t { code := BitVec.ofNat 8 code, daddr := daddr, src := 5, ctx := l.req.ctx, iaddr := l.req.iaddr,
                progress := l.done.length } (onList t (fun l => { l with stopped := true }) s)

/-- Slot `j` completes: its bit is set, and after the last one the flag. -/
def slotDone (t j : Nat) (s : State) : State :=
  match (s.tile t).un.list with
  | none => s
  | some l =>
    if l.done.contains j then s
    else
      let k := l.slot j
      let a := tileBase t + l.bitmap + j / 8
      match mergeBad s a 1 with
      | some w => stopList t l 0x01 w s
      | none =>
        let b := leNat (s.bytes a 1)
        let s := s.poke a [BitVec.ofNat 8 (b ||| 2 ^ (j % 8))]
        let l := { l with done := l.done ++ [j] }
        let s := onList t (fun _ => l) s
        let s := traceTile t 4 l.req.ctx l.req.iaddr.toNat
          (toBytes j 2 ++ toBytes k.peer 2 ++ toBytes k.len 4 ++ toBytes k.dev 2) s
        if l.done.length = l.nslots then finishList t l s else s

/-! ### Sending (10 R272) -/

/-- The own header of a segment packet: slot index, step tag and length (10 R272, log 18). -/
def segHdr (g : Segment) : BitVec 128 := BitVec.ofNat 128 (g.srcIdx + g.tag.toNat * 2 ^ 16 + g.len * 2 ^ 32)

/-- The packets of a segment (12 R323): 63 data lines each. -/
def segPackets (dst : Nat) (g : Segment) : List Packet :=
  let mk := fun (d : Bytes) => ({ dst := dst, src := g.srcDev, dstTile := g.dstTile, srcTile := g.srcTile, part := g.part,
                                  kind := 0, hdr := segHdr g, data := padTo (64 * cdiv d.length 64) d } : Packet)
  if g.data = [] then [mk []] else (pieces 4032 g.data.length g.data).map mk

/-- Send packets to another device in order; the port that bars the first where it cannot leave. -/
def sendAll : List Packet → State → Except Nat State
  | [], s => .ok s
  | q :: l, s =>
    match originate q s with
    | .ok s => sendAll l s
    | .error p => .error p

/-- Lines of a slot (10 R272). -/
def lineCount (len : Nat) : Nat := max 1 (cdiv len 64)

/-- Whether the gate of a list has released (10 R270). -/
def gateOpen (x : Tile) (l : RunList) : Bool :=
  match l.gate with
  | some g => decide (Map.get 0 x.epochs g ≠ l.epoch)
  | none => true

/-- The next SEND slot of a list. -/
def RunList.nextSend (l : RunList) : Option Nat :=
  ((l.all.zipIdx).find? (fun p => decide (l.next ≤ p.2) && p.1.kind == 0)).map (fun p => p.2)

/-- The list engine sends slot `j`. -/
def sendSlotNow (t j : Nat) (l : RunList) (s : State) : State :=
  let k := l.slot j
  let a := tileBase t + k.loc
  match s.badIn a k.len with
  | some w => stopList t l 0x01 w s
  | none =>
    let (data, s) := if l.tainted.contains j then drawBytes k.len s else (s.bytes a k.len, s)
    let g : Segment := { srcDev := s.dev.link.self, srcTile := t, srcIdx := j, dstTile := k.peer,
                         tag := (s.tile t).phaseStep.setWidth 16, part := partOf s t, len := k.len, data := data }
    let sent := fun (s : State) => (onList t (fun l => { l with next := j + 1, outstanding := l.outstanding ++ [j] }) s).onTile t
      (fun x => x.count 0x20 (lineCount k.len))
    if k.peerDev s = s.dev.link.self then sent (onMesh (some (.tile t, .tile k.peer)) (fun x n => { n with segs := n.segs ++ [{ g with sent := x }] }) s)
    else match sendAll (segPackets k.dev g) s with
    | .ok s => sent s
    | .error p => stopList t l 0x0E (unreachAddr k.dev p) s

/-- SEND_SLOT: the list engine sends its next SEND slot, once the gate is open, fewer than 16 are unacknowledged and the
reservation admits a line (10 R272, 15 R408). -/
def execSendSlot (t : TileId) (s : State) : Res :=
  .next (selfTimed s <| match (s.tile t).un.list with
    | none => s
    | some l =>
      match l.nextSend with
      | none => s
      | some j =>
        if l.stopped || !gateOpen (s.tile t) l || decide (16 ≤ l.outstanding.length) then s
        else match takeTurn t 5 1 s with
          | (true, s) => sendSlotNow t j l s
          | (false, s) => s)

/-! ### Receiving (10 R273–R276) -/

/-- The receive slot that a segment matches (10 R273). -/
def matchSlot (s : State) (g : Segment) : Option Nat :=
  match (s.tile g.dstTile).un.list with
  | none => none
  | some l =>
    if l.stopped || decide ((s.tile g.dstTile).phaseStep.setWidth 16 ≠ g.tag) then none
    else ((l.all.zipIdx).find? (fun p => p.1.receives && decide (p.1.peerDev s = g.srcDev) && p.1.peer == g.srcTile
      && p.1.seq == g.srcIdx && p.1.len == g.len && !l.filled.contains p.2)).map (fun p => p.2)

/-- Answer a segment's sender. -/
def replySeg (g : Segment) (ok : Bool) (s : State) : State :=
  let r : SegReply := { dstDev := g.srcDev, srcTile := g.srcTile, srcIdx := g.srcIdx }
  if g.srcDev = s.dev.link.self then
    onMesh (some (.tile g.dstTile, .tile g.srcTile)) (fun x n =>
      if ok then { n with segAcks := n.segAcks ++ [{ r with sent := x }] } else { n with segRefs := n.segRefs ++ [{ r with sent := x }] }) s
  else
    match originate { dst := g.srcDev, src := 0, dstTile := g.srcTile, srcTile := g.dstTile, part := g.part, kind := 1,
                      hdr := BitVec.ofNat 128 (g.srcIdx + b2n (!ok) * 2 ^ 16) } s with
    | .ok s => s
    | .error p => tileFault g.dstTile { code := 0x0E, daddr := unreachAddr g.srcDev p, src := 5, ctx := 0,
                                        iaddr := 0xFFFFFFFF#32 } s

/-- Whether two receive slots of a list overlap, one of them at least a RECV (10 R276). -/
def recvOverlap : List Slot → Bool
  | [] => false
  | k :: l => (k.receives && l.any (fun j => j.receives && (k.kind == 1 || j.kind == 1) && meets j.loc j.len k.loc k.len))
      || recvOverlap l

/-- Whether it is the turn of RECV.ACC slot `j`: every earlier one of its group is complete (10 R275). -/
def hasTurn (l : RunList) (j : Nat) : Bool :=
  (l.all.zipIdx).all (fun p => !(decide (p.2 < j) && p.1.kind == 2 && p.1.group == (l.slot j).group) || l.done.contains p.2)

/-- The bytes of slot `j`'s destination that another receive slot shares, one of the two a RECV (10 R276). -/
def overlaps (l : RunList) (j : Nat) : List (Nat × Nat) :=
  let k := l.slot j
  (l.all.zipIdx).filterMap (fun p =>
    if p.2 ≠ j && p.1.receives && (p.1.kind == 1 || k.kind == 1) && meets p.1.loc p.1.len k.loc k.len then
      let lo := max p.1.loc k.loc
      some (lo, min (p.1.loc + p.1.len) (k.loc + k.len) - lo)
    else none)

/-- Leave shared bytes unspecified. -/
def blurOverlaps (t : Nat) (l : RunList) (j : Nat) (s : State) : State :=
  (overlaps l j).foldl (fun s r =>
    let (bs, s) := drawBytes r.2 s
    s.poke (tileBase t + r.1) bs) s

/-- Land the data of RECV slot `j`. -/
def landRecv (t j : Nat) (l : RunList) (data : Bytes) (s : State) : State :=
  let k := l.slot j
  let (data, s) := if l.tainted.contains j then drawBytes k.len s else (data, s)
  slotDone t j (blurOverlaps t l j (s.poke (tileBase t + k.loc) data))

/-- The line at which a run's first two-bit error lies, with the codeword. -/
def badLine (s : State) (a n : Nat) : Option (Nat × Nat) := (s.badIn a n).map (fun w => ((w - a) / 64, w))

/-- The first line of RECV.ACC slot `j` that cannot be added: one of the data, `src`, or one of the destination. -/
def addStop (s : State) (t j : Nat) (l : RunList) (src : Option (Nat × Nat)) : Option (Nat × Nat) :=
  match src, badLine s (tileBase t + (l.slot j).loc) (l.slot j).len with
  | some p, some q => some (if q.1 < p.1 then q else p)
  | some p, none => some p
  | none, q => q

/-- The bytes of slot `j` before its line `m`. -/
def lineBytes (l : RunList) (j m : Nat) : Nat := min (l.slot j).len (64 * m)

/-- Add the first `n` bytes of data to the destination of RECV.ACC slot `j` (10 R275, 03 R88). -/
def addPrefix (t j : Nat) (l : RunList) (data : Bytes) (n : Nat) (s : State) : State :=
  let k := l.slot j
  let a := tileBase t + k.loc
  let free := l.tainted.contains j || ownedByOp s a k.len
  let (old, s) := if free then drawBytes n s else (s.bytes a n, s)
  let r := accBytes (BitVec.ofNat 2 k.acct) old (data.take n)
  (s.onTile t (fun x => { x with nf := { x.nf with aw := x.nf.aw || r.2 } })).poke a r.1

/-- Add data to the destination of RECV.ACC slot `j`, line by line. `src` is a line of the data that cannot be read. A line that
cannot be added stops the list; the lines before it are added (16 R445). -/
def addRecv (t j : Nat) (l : RunList) (data : Bytes) (src : Option (Nat × Nat)) (s : State) : State :=
  let stop := addStop s t j l src
  let n := match stop with | some p => lineBytes l j p.1 | none => (l.slot j).len
  let s := addPrefix t j l data n s
  match stop with
  | some p => stopList t l 0x01 p.2 s
  | none => slotDone t j (blurOverlaps t l j s)

/-- A whole segment reaches its receiver (10 R273). A fenced tile refuses it (01 R39, 14 R387). -/
def receiveSeg (g : Segment) (s : State) : State :=
  let t := g.dstTile
  if (s.tile t).fenced then replySeg g false s
  else
  let s := s.onTile t (fun x => x.count 0x21 (lineCount g.len))
  match (s.tile t).un.list, matchSlot s g with
  | some l, some j =>
    let k := l.slot j
    let l := { l with filled := l.filled ++ [j] }
    let s := onList t (fun _ => l) s
    if k.kind = 1 then replySeg g true (landRecv t j l g.data s)
    else if hasTurn l j then replySeg g true (addRecv t j l g.data none s)
    else
      let s := onList t (fun l => { l with staged := l.staged ++ [j] }) s
      replySeg g true (s.poke (tileBase t + k.stage) g.data)
  | l, _ =>
    let daddr := 0x7E0000000000 + g.srcTile * 2 ^ 16 + g.srcIdx
    let fi : FaultInfo := match l with
      | some l => { code := 0x06, daddr := daddr, src := 5, ctx := l.req.ctx, iaddr := l.req.iaddr, progress := l.done.length }
      | none => { code := 0x06, daddr := daddr, src := 5, ctx := 0, iaddr := 0xFFFFFFFF#32 }
    replySeg g false (tileFault t fi s)

/-- Whether every line of a segment has come. -/
def Segment.whole (g : Segment) : Bool := decide (g.len ≤ g.data.length)

/-- Whether no earlier segment in flight goes the same way (10 R278). -/
def firstSeg (l : List Segment) (i : Nat) (g : Segment) : Bool :=
  (l.take i).all (fun h => !(h.srcDev == g.srcDev && h.srcTile == g.srcTile && h.dstTile == g.dstTile))

/-- SEGMENT_ARRIVAL: the `i`-th segment in flight reaches its receiver (10 R273–R275). -/
def execSegmentArrival (i : Nat) (s : State) : Res :=
  .next (selfTimed s <| match s.net.segs[i]? with
    | some g =>
      if g.whole && firstSeg s.net.segs i g && arrives s g.sent then receiveSeg g (s.onNet (fun n => { n with segs := dropAt i n.segs })) else s
    | none => s)

/-- A reply takes its slot out of the unacknowledged ones. -/
def dropOutstanding (r : SegReply) (s : State) : State :=
  onList r.srcTile (fun l => { l with outstanding := l.outstanding.filter (· ≠ r.srcIdx) }) s

/-- Whether the running list of a tile waits for the reply of a slot. -/
def awaits (s : State) (r : SegReply) : Bool :=
  match (s.tile r.srcTile).un.list with
  | some l => l.outstanding.contains r.srcIdx
  | none => false

/-- SEGMENT_ACKNOWLEDGEMENT: the `i`-th acknowledgement completes its SEND slot (10 R274). A stopped list completes
nothing. -/
def execSegmentAcknowledgement (i : Nat) (s : State) : Res :=
  .next (selfTimed s <| match s.net.segAcks[i]? with
    | some r =>
      if !arrives s r.sent then s else
      let go := awaits s r
      let s := dropOutstanding r (s.onNet (fun n => { n with segAcks := dropAt i n.segAcks }))
      let stopped := match (s.tile r.srcTile).un.list with | some l => l.stopped | none => true
      if go && !stopped then slotDone r.srcTile r.srcIdx s else s
    | none => s)

/-- SEGMENT_REFUSAL: the `i`-th refusal takes its slot out of the 16; it stays incomplete (10 R273). -/
def execSegmentRefusal (i : Nat) (s : State) : Res :=
  .next (selfTimed s <| match s.net.segRefs[i]? with
    | some r => if arrives s r.sent then dropOutstanding r (s.onNet (fun n => { n with segRefs := dropAt i n.segRefs })) else s
    | none => s)

/-- What lies in the staging range of RECV.ACC slot `j`. -/
def stagedData (t j : Nat) (l : RunList) (s : State) : Bytes × State :=
  let k := l.slot j
  let a := tileBase t + k.stage
  if l.tainted.contains j || ownedByOp s a k.len then drawBytes k.len s else (s.bytes a k.len, s)

/-- The first line of slot `j`'s staging range that cannot be read. -/
def stagedBad (s : State) (t j : Nat) (l : RunList) : Option (Nat × Nat) :=
  badLine s (tileBase t + (l.slot j).stage) (l.slot j).len

/-- The lines of RECV.ACC slot `j` are being added and stop at a line boundary: how many were added is unknown (18 R492, 16
R445). -/
def tearSlot (t : Nat) (l : RunList) (s : State) (j : Nat) : State :=
  let stop := addStop s t j l (stagedBad s t j l)
  let (data, s) := stagedData t j l s
  let (v, s) := drawFree 16 s
  let lines := match stop with | some p => p.1 | none => cdiv (l.slot j).len 64
  blurOverlaps t l j (addPrefix t j l data (lineBytes l j (v.toNat % (lines + 1))) s)

/-- RECV_ACC_TURN: the turn of a staged RECV.ACC slot comes and its lines are added (10 R275). -/
def execRecvAccTurn (t : TileId) (slot : Nat) (s : State) : Res :=
  .next (selfTimed s <| match (s.tile t).un.list with
    | none => s
    | some l =>
      if l.stopped || !l.staged.contains slot || !hasTurn l slot then s
      else
        let l := { l with staged := l.staged.filter (· ≠ slot) }
        let bad := stagedBad s t slot l
        let (data, s) := stagedData t slot l s
        addRecv t slot l data bad (onList t (fun _ => l) s))

end Sys2Proof.Machine
end

