-- ==== Sys2Proof/Machine/Remote.lean ====
section
/-!
DEFINITION. Accesses in flight: at another tile's SRAM or register block, at a device register, at a home slice, in the
host window, and their answers (08 R207–R225, R548; 03 R83–R100; 12 R323; 19 R516–R519).
-/
namespace Sys2Proof.Machine

/-! ### At a tile or a register -/

/-- Whether two accesses come from the same agent of a tile. -/
def sameSource (a b : Issuer) : Bool :=
  match a, b with
  | .ctx t _ _, .ctx k _ _ => t == k
  | .xfer t, .xfer k => t == k
  | .far d t _ _, .far e k _ _ => d == e && t == k
  | .nib r, .nib k => r == k
  | _, _ => false

/-- Whether no earlier access in flight of the same source goes to the same tile or line (08 R224, 10 R278). -/
def firstReq (l : List MemReq) (i : Nat) (r : MemReq) : Bool :=
  (l.take i).all (fun q => !(sameSource q.iss r.iss && (q.addr / 64 == r.addr / 64
    || (decide (q.addr < 0x120000000) && q.addr / 0x100000 == r.addr / 0x100000))))

/-- An access takes effect in the SRAM of tile `t` (03 R83, R87–R95). -/
def atSram (r : MemReq) (t o : Nat) (s : State) : MemRes × State :=
  let code := fun (c a : Nat) => MemRes.fault (BitVec.ofNat 8 c) a
  match r.op with
  | .load _ _ _ _ | .loadDesc _ =>
    let (a, n) := r.op.span r.addr
    match s.badIn a n with
    | some k => (code 0x01 k, s)
    | none => let (d, s) := readShared a n s; (.data d, s)
  | .store d =>
    match mergeBad s r.addr d.length with
    | some k => (code 0x01 k, s)
    | none => (.ack, writeShared r.addr d s)
  | .acc ty d =>
    match accumulate t r.addr ty d s with
    | .ok s => (.ack, s)
    | .error k => (code 0x01 k, s)
  | .fillStore d =>
    match feWord o with
    | none => (code 0x0C r.addr, s)
    | some w => match fillStore t w d s with
      | .ok s => (.ack, s)
      | .error c => (code c r.addr, s)

/-- The agent that an access acts for as a register's reader or writer. -/
def issuerWriter : Issuer → Option Writer
  | .ctx t _ _ | .xfer t | .far _ t _ _ => if h : t < 4608 then some (.tile ⟨t, h⟩) else none
  | .nib r => if h : r < 18 then some (.nib ⟨r, h⟩) else none

/-- Whether an agent may read the register block of tile `t`: a Nib core reads its own region's only (01 R25). -/
def readsBlock (w : Writer) (t : Nat) : Bool :=
  match w with
  | .nib r => regionOf t == r.val
  | _ => true

/-- An access takes effect in the register block of tile `t` (03 R101, R102; 01 R25). -/
def atBlock (r : MemReq) (t o : Nat) (s : State) : MemRes × State :=
  match issuerWriter r.iss, r.op with
  | none, _ => (.fault 0x02#8 r.addr, s)
  | some w, .load _ _ _ _ | some w, .loadDesc _ =>
    if readsBlock w t then (.data (toBytes (blockWord s t o).toNat 8), s) else (.fault 0x0A#8 r.addr, s)
  | some w, .store d | some w, .acc _ d | some w, .fillStore d =>
    let v := BitVec.ofNat 64 (leNat d)
    match blockWriteFault s w t o v with
    | some c => (.fault (BitVec.ofNat 8 c) r.addr, s)
    | none => (.ack, putBlock t o v (match r.iss with | .ctx k c _ => markWrite k c o v s | _ => s))

/-- An access takes effect at a device register (08 R207). -/
def atDevice (r : MemReq) (o : Nat) (s : State) : MemRes × State :=
  match issuerWriter r.iss, r.op with
  | none, _ => (.fault 0x02#8 r.addr, s)
  | some w, .load _ _ _ _ | some w, .loadDesc _ =>
    match devReadAt w o s with
    | (.ok v, s) => (.data (toBytes v 8), s)
    | (.error c, s) => (.fault (BitVec.ofNat 8 c) r.addr, s)
  | some w, .store d | some w, .acc _ d | some w, .fillStore d =>
    match devWrite w o (BitVec.ofNat 64 (leNat d)) s with
    | .ok s => (.ack, s)
    | .error c => (.fault (BitVec.ofNat 8 c) r.addr, s)

/-- An access reaches its target. A fenced tile, one in its clearing pass, and one outside the access's partition refuse
it (01 R39, 03 R85, 08 R209); a Nib core reaches the tiles of its own region, and no others (01 R25). -/
def arriveAt (r : MemReq) (s : State) : MemRes × State :=
  let barred := fun (t : Nat) => (s.tile t).fenced || (s.tile t).clearing || (match r.iss with
    | .nib k => decide (regionOf t ≠ k)
    | _ => decide (6 ≤ r.part) || decide (partOf s t ≠ r.part))
  match s.place r.addr with
  | .sram t o => if barred t then (.fault 0x0A#8 r.addr, s) else atSram r t o s
  | .block t o => if barred t then (.fault 0x0A#8 r.addr, s) else atBlock r t o s
  | .devreg o => atDevice r o s
  | _ => (.fault 0x02#8 r.addr, s)

/-- Record at the receiving device that a far access met a foreign tag (01 R40). -/
def noteForeign (r : MemReq) (v : MemRes) (s : State) : State :=
  match r.iss, v with
  | .far _ _ _ p, .fault code a => if code = 0x0A#8 then raiseRec (plainRec s 0x0A 0 3 r.part 11 p a) s else s
  | _, _ => s

/-- REMOTE_ACCESS_ARRIVAL: the `i`-th access in flight reaches its tile or register (08 R225). -/
def execRemoteAccessArrival (i : Nat) (s : State) : Res :=
  .next (selfTimed s <| match s.net.reqs[i]? with
    | some r =>
      if !firstReq s.net.reqs i r || !arrives s r.sent then s
      else
        let (v, s) := arriveAt r (countLine 0x21 (some (nodeAt s r.addr)) (s.onNet (fun n => { n with reqs := dropAt i n.reqs })))
        answer r v (noteForeign r v s)
    | none => s)

/-! ### At a home slice (08 R211–R218) -/

/-- Add an access to the ones that wait for a line's fill. -/
def joinFill (r : MemReq) (s : State) : State :=
  s.onNet (fun n => { n with fills := n.fills.map (fun f => if f.line = r.addr / 128 then { f with waiting := f.waiting ++ [r] } else f) })

/-- An access of a tile at a Bulk Store line's home: served, or waiting for the line's one fill (08 R212). -/
def sliceRequest (r : MemReq) (s : State) : State :=
  let n := shareOwner s r.addr
  if !inShare s r.part r.addr then
    let v := MemRes.fault 0x0A#8 r.addr
    answer r v (noteForeign r v s)
  else if fillOf s (r.addr / 128) then joinFill r s
  else if held s n r.addr then
    let (v, s) := atBulk true r s
    answer r v s
  else s.onNet (fun k => { k with fills := k.fills ++ [{ line := r.addr / 128, waiting := [r] }] })

/-! ### Host window (08 R219, R220; 19 R516, R522) -/

/-- The function through which partition `n` reaches the host; none where its virtual function is not enabled. -/
def hostFn (s : State) (n : Nat) : Option Nat :=
  if 6 ≤ n then none else if s.dev.pcie.vfEnable then some (n + 1) else if n = 0 then some 0 else none

/-- The host bus address of a window offset for partition `n`. -/
def translate (s : State) (n o size : Nat) (write : Bool) : Option Nat :=
  let e := (Map.get 0 (s.part n).trans (o / 2 ^ 36)).toNat
  let w := o % 2 ^ 36
  if nbit e 0 && nbit e (if write then 2 else 1) && decide (w + size ≤ fld e 64 25 * 4096) then
    some ((fld e 12 52 * 4096 + w) % 2 ^ 64) else none

/-- An access to the host window is passed to the PCIe controller in order: a write is accepted into the posted queue
and acknowledged, a read waits for its completion. -/
def hostRequest (r : MemReq) (o : Nat) (s : State) : State :=
  let (a, k) := r.op.span o
  match hostFn s r.part, translate s r.part a k r.op.isWrite with
  | some f, some bus =>
    if !s.dev.pcie.linkUp then answer r (.fault 0x02#8 r.addr) s
    else if r.op.isWrite then
      answer r .ack (s.onNet (fun n => { n with posted := n.posted ++ [{ fn := f, bus := bus, data := r.op.data }] }))
    else s.onNet (fun n => { n with hostq := n.hostq ++ [{ req := r, fn := f, bus := bus, behind := n.posted.length }] })
  | _, _ => answer r (.fault 0x02#8 r.addr) s

/-- The `i`-th access in flight to home slices takes effect there. -/
def flightRequest (i : Nat) (s : State) : State :=
  match s.net.slice[i]? with
  | none => s
  | some r =>
    let go := fun (s : State) => s.onNet (fun n => { n with slice := dropAt i n.slice })
    if !firstReq s.net.slice i r || !arrives s r.sent then s
    else match s.place r.addr with
    | .bulk => if sliceBusy s (shareOwner s r.addr) r.addr then s else sliceRequest r (go s)
    | .host o => if sliceBusy s r.part r.addr then s else hostRequest r o (go s)
    | _ => answer r (.fault 0x02#8 r.addr) (go s)

/-! ### The host and the Nib cores at a home slice (08 R212, 19 R518, R519) -/

/-- The Bulk Store address of BAR2 offset `o` of function `f`, where the function serves it (19 R518). -/
def bar2Addr (s : State) (f o : Nat) : Option Nat :=
  if f = 0 then
    let a := bulkBase + o
    let g := o / gib
    let pend := (List.range 6).any (fun n => (s.part n).tn.next != 0 && decide ((s.part n).pend.1 ≤ g)
      && decide (g < (s.part n).pend.1 + (s.part n).pend.2))
    if pend || (!s.dev.pcie.vfEnable && inShare s 0 a) then some a else none
  else
    let n := f - 1
    if o < (s.part n).share.2 * gib then some (shareBase s n + o) else none

/-- Whether function `f` exists and can be reached through configuration requests. -/
def fnExists (s : State) (f : Nat) : Bool :=
  s.dev.boot.pwronN && !s.dev.boot.trip && s.dev.pcie.linkUp && (f == 0 || s.dev.pcie.vfEnable)

/-- A host write at BAR0 offset `o` that the device refuses, where it reaches the device at all (19 R517, R524). -/
def refuseBar0 (f : FnId) (o : Nat) (s : State) : State :=
  if fnExists s f.val && !(s.fn f.val).d3 then refuseHost { fn := f.val, write := true, bar := 0, off := o, len := 8 } s
  else s

/-- Whether every piece of a host request is of lines that the function serves. -/
def bar2Served (s : State) (f o len : Nat) : Bool :=
  (hostPieces o len).all (fun p => (bar2Addr s f p.1).isSome) && decide (o + len ≤ 0x4000000000)

/-- Whether an access to a run of lines waits: a slice that serves one is BUSY, or a fill is under way for one (08 R212,
R217). -/
def runBusy (s : State) (a len : Nat) : Bool :=
  (hostPieces a len).any (fun p => sliceBusy s (shareOwner s p.1) p.1 || fillOf s (p.1 / 128))

/-- A host read at BAR2. -/
def hostRead (f o len : Nat) (s : State) : State :=
  if !hostServed s f || !bar2Served s f o len then refuseHost { fn := f, write := false, bar := 2, off := o, len := len } s
  else
    let a := (bar2Addr s f o).getD 0
    match readPieces (hostPieces a len) s with
    | (.ok d, s) => hostAnswer true d s
    | (.error c, s) => hostAnswer false [] (noteBulk none c.1 c.2 (fnPart s f) s)

/-- A posted host write at BAR2. -/
def hostWrite (f o : Nat) (d : Bytes) (s : State) : State :=
  if !hostServed s f || !bar2Served s f o d.length then refuseHost { fn := f, write := true, bar := 2, off := o, len := d.length } s
  else
    let a := (bar2Addr s f o).getD 0
    match writePieces (linePieces a d.length) d s with
    | (.ok _, s) => s
    | (.error c, s) => refuseHost { fn := f, write := true, bar := 2, off := o, len := d.length } (noteBulk none c.1 c.2 (fnPart s f) s)

/-- A Nib core's access to tile SRAM, a register block or a device register is served or refused as any agent's; a codeword
that cannot be read stops nothing (08 R221, 01 R25, 16 R436; log 75). -/
def nibNear (r : Nat) (q : MemReq) (s : State) : State :=
  let size := (q.op.span q.addr).2
  let misfit := match s.place q.addr with
    | .sram _ o => decide (0x100000 < o + size)
    | .block _ o | .devreg o => !regShape size o
    | _ => false
  if misfit then nibFault r 0x02 q.addr s
  else match arriveAt q s with
  | (.fault c x, s) => if c = 0x01#8 then noteBulk (some r) 0x01 x q.part s else nibFault r c.toNat x s
  | (_, s) => s

/-- A Nib core's access by the local offset that it names (08 R221). `body` is what it does in the Bulk Store. -/
def nibAccess (r a : Nat) (op : MemOp) (body : State → State) (s : State) : State :=
  let n := partOfRegion s r
  let size := (op.span a).2
  let q : MemReq := { iss := .nib r, part := n, addr := a, op := op }
  match s.place a with
  | .bulk =>
    if !(inShare s n a && inShare s n (a + size - 1)) then nibFault r 0x0A a s
    else body s
  | .host o => hostRequest q o s
  | _ => nibNear r q s

/-- A Nib core's read: from the Bulk Store it is served without allocation, and what it reads no other agent sees. -/
def nibRead (r a len : Nat) (s : State) : State :=
  nibAccess r a (.load 0 len false false) (fun s => match readPieces (hostPieces a len) s with
    | (.ok _, s) => s
    | (.error c, s) => noteBulk (some r) c.1 c.2 (partOfRegion s r) s) s

/-- A Nib core's write. -/
def nibWrite (r a : Nat) (d : Bytes) (s : State) : State :=
  nibAccess r a (.store d) (fun s => match writePieces (linePieces a d.length) d s with
    | (.ok _, s) => s
    | (.error c, s) => noteBulk (some r) c.1 c.2 (partOfRegion s r) s) s

/-- Whether a Nib core's access finds its slice BUSY or its line's fill under way. -/
def nibBusy (s : State) (r a size : Nat) : Bool :=
  match s.place a with
  | .bulk => inShare s (partOfRegion s r) a && runBusy s a size
  | .host _ => sliceBusy s (partOfRegion s r) a
  | _ => false

/-- Whether a request of the host or of a Nib core waits at a home slice: its slice is BUSY or its line's fill is under way. -/
def slicesBusy (s : State) (q : SliceReq) : Bool :=
  let host := fun (f o len : Nat) => hostServed s f && bar2Served s f o len && runBusy s ((bar2Addr s f o).getD 0) len
  match q with
  | .flight _ => false
  | .hostRead f o n => host f.val o n
  | .hostWrite f o d => host f.val o d.length
  | .nibRead r a n => nibBusy s r.val a n
  | .nibWrite r a d => nibBusy s r.val a d.length

/-- Whether two requests come from the same function or the same Nib core. -/
def sameAgent (p q : SliceReq) : Bool :=
  let who := fun (r : SliceReq) => match r with
    | .flight _ => none
    | .hostRead f _ _ | .hostWrite f _ _ => some (f.val, 0)
    | .nibRead r _ _ | .nibWrite r _ _ => some (r.val, 1)
  (who p).isSome && who p == who q

/-- Carry out a request at its home slice. -/
def serveSlice (q : SliceReq) (s : State) : State :=
  match q with
  | .flight i => flightRequest i s
  | .hostRead f o n => hostRead f.val o n s
  | .hostWrite f o d => hostWrite f.val o d s
  | .nibRead r a n => nibRead r.val a n s
  | .nibWrite r a d => nibWrite r.val a d s

/-- A request is served, or held behind a BUSY slice, a fill, or an earlier request of its agent, whose order it keeps (08 R212,
R217; 19 R519). -/
def offerSlice (q : SliceReq) (s : State) : State :=
  if slicesBusy s q || s.net.held.any (fun p => sameAgent p q) then s.onNet (fun n => { n with held := n.held ++ [q] })
  else serveSlice q s

/-- A slice takes requests again: the held ones that need wait no longer are served in order, and the hubs' trace records go on
(18 R499). -/
def drainHeld (s : State) : State :=
  drainTraces (s.net.held.foldl (fun s q => offerSlice q s) (s.onNet (fun n => { n with held := [] })))

/-- HOME_SLICE_REQUEST: a request takes effect at its home slice, or waits there (08 R211–R220). -/
def execHomeSliceRequest (q : SliceReq) (u : Upset) (s : State) : Res :=
  .next (selfTimed s <| withUpset u 0 (offerSlice q) s)

/-- BULK_STORE_FILL: the `i`-th fill's data returns, the line is allocated and what waited is served (08 R212, R218). -/
def execBulkStoreFill (i : Nat) (s : State) : Res :=
  .next (selfTimed s (drainHeld (endFill i s)))

/-- RC_CTL_BUSY_END: the running operation's full effect stands and BUSY returns to 0, and the requests that waited are served (08 R217). -/
def execRcCtlBusyEnd (r : RegionId) (s : State) : Res := .next (selfTimed s (drainHeld (scanEnd r s)))

/-- Non-posted requests that the controller has outstanding at most: the others wait for their turn (19 R507). -/
def maxNonPosted : Nat := 256

/-- HOST_COMPLETION: the `i`-th host-window read, one of those outstanding, completes; the writes accepted before it have left,
as the controller issued them first (08 R219, R220; 19 R507). -/
def execHostCompletion (i : Nat) (ok : Bool) (data : Bytes) (s : State) : Res :=
  .next (selfTimed s <| if maxNonPosted ≤ i then s else match s.net.hostq[i]? with
    | none => s
    | some h =>
      let s := (leavePosted h.behind s).onNet (fun n => { n with hostq := dropAt i n.hostq })
      answer h.req (if ok then .data (padTo (h.req.op.span h.req.addr).2 data) else .fault 0x02#8 h.req.addr) s)

/-! ### Answers -/

/-- The header of an answer packet: transaction, bytes of data, and the fault's code and data address where it failed
(log 18). -/
def ansHdr (txn len code daddr : Nat) : BitVec 128 := BitVec.ofNat 128 (code + daddr * 2 ^ 8 + txn * 2 ^ 64 + len * 2 ^ 80)

/-- Answer an access of another device (12 R323). -/
def answerFar (dev tile txn : Nat) (a : MemAns) (s : State) : State :=
  let here := if a.req.addr < 0x120000000 then a.req.addr / 0x100000 else 0
  let kind := if a.req.op.isWrite then 7 else 5
  let (code, daddr, d) := match a.res with
    | .data d => (0, 0, d)
    | .ack => (0, 0, [])
    | .fault c x => (c.toNat, x, [])
  match originate { dst := dev, src := 0, dstTile := tile, srcTile := here, part := a.req.part, kind := kind,
                    hdr := ansHdr txn d.length code daddr, data := padTo (64 * cdiv d.length 64) d } s with
  | .ok s => s
  | .error p => tileFault here { code := 0x0E, daddr := unreachAddr dev p, src := 11, ctx := 0, iaddr := 0xFFFFFFFF#32 } s

/-- A load's data reaches its context: registers, the line that it fills, and the acquire's effect (03 R98–R100; 08
R227). -/
def takeData (t c : Nat) (r : MemReq) (d : Bytes) (s : State) : State :=
  match r.op with
  | .load rt size acq fill =>
    let s := if fill then s.onTile t (fun x => x.fillLine (lineKey r.dev r.addr) d) else s
    let v := if d.length ≤ size then d else (d.drop (r.addr % 64)).take size
    let s := s.onCx t c (fun k => k.loadRegs rt v)
    if acq then acquire t c s else s
  | .loadDesc i => s.onCx t c (fun k => k.setDesc i (BitVec.ofNat 256 (leNat d)))
  | _ => s

/-- The transfer unit of tile `t` gets the answer to one of its accesses (10 R280, 16 R439). -/
def takeXfer (t : Nat) (a : MemAns) (s : State) : State :=
  s.onUnit t 4 (fun u => { u with running := u.running.map (fun op => match a.res with
    | .data d => { op with buf := op.buf ++ [(a.req.addr, d)] }
    | .ack => op
    | .fault code x => if op.err.isSome then op else { op with err := some (code.toNat, x) }) })

/-- REMOTE_ANSWER: the `i`-th answer reaches its issuer (08 R225, 03 R105). -/
def execRemoteAnswer (i : Nat) (s : State) : Res :=
  .next (selfTimed s <| match s.net.answers[i]? with
    | none => s
    | some a =>
      if !arrives s a.sent then s else
      let s := countLine 0x21 a.req.iss.node (s.onNet (fun n => { n with answers := dropAt i n.answers }))
      match a.req.iss with
      | .far dev tile txn _ => answerFar dev tile txn.toNat a s
      | .xfer t => takeXfer t a s
      | .nib r => (match a.res with | .fault code x => nibFault r code.toNat x s | _ => s)
      | .ctx t c iaddr => wakeFences t (match a.res with
        | .data d => takeData t c a.req d s
        | .ack => s
        | .fault code x => tileFault t { code := code, daddr := x, ctx := c, iaddr := iaddr } s))

/-! ### Bulk Store banks (01 R547) -/

/-- ROW_CLOSE: the open row of a bank of site Ss is closed (log 75). -/
def execRowClose (site : SiteId) (bank : Fin 16) (s : State) : Res :=
  .next (s.onBulk (fun b => { b with openRows := Map.set none b.openRows (site.val * 16 + bank.val) none }))

/-- BANK_REFRESH: a refresh of a bank of site Ss closes its row (log 75). -/
def execBankRefresh (site : SiteId) (bank : Fin 16) (s : State) : Res :=
  .next (s.onBulk (fun b => { b with openRows := Map.set none b.openRows (site.val * 16 + bank.val) none }))

end Sys2Proof.Machine
end

