-- ==== Sys2Proof/Machine/Matrix.lean ====
section
/-!
DEFINITION. The Matrix Engine (05) with its sparse path (07 R181–R193).
-/
namespace Sys2Proof.Machine

/-! ### Metadata (07 R181–R186) -/

/-- The entries of row `r` of an index list. -/
def metaEntries (s : State) (d : Desc) (r : Nat) : List Nat :=
  let h := d.hdr s
  let p := metaSpan s d h (if h.nrows = 1 then 0 else r)
  (List.range (p.2 - p.1)).map (fun i => leNat (s.bytes (d.metaLoc + 20 + 4 * h.nrows + 2 * (p.1 + i)) 2))

/-- The marked K indices of K-row `r`, as a bit mask; every index without metadata (07 R182, R183, R186). -/
def maskRow (s : State) (d : Desc) (r : Nat) : Nat :=
  let k := d.kExt
  let m := d.metaLoc
  if d.mta = 0 then 2 ^ k - 1
  else if d.mta = 1 then
    let w := 4 * cdiv k 32
    leNat (s.bytes (m + r * w) w) % 2 ^ k
  else (metaEntries s d r).foldl (fun a i => a ||| 2 ^ i) 0 % 2 ^ k

/-- The masks of every K-row. -/
def maskRows (s : State) (d : Desc) : List Nat := (List.range d.kRows).map (maskRow s d)

/-- The elements of K-row (i, n) as the ME multiplies them: with block scales, without a per-tensor one (05 R143). -/
def kRowValues (s : State) (d : Desc) (i n : Nat) : List Num :=
  if d.kdim = 0 then ((d.rawRow s i n).zipIdx).map (fun p => d.blockValue s p.1 p.2 i n)
  else (List.range d.ext1).map (fun k =>
    let w := fmtWidth d.fmt
    let lo := i * w / 8
    let raw := fld (leNat (s.bytes (d.row k n + lo) 5)) (i * w % 8) w
    d.blockValue s raw i k n)

/-- Every K-row, in the order of R181. -/
def kRowsOf (s : State) (d : Desc) : List (List Num) :=
  (List.range d.ext2).flatMap (fun n => (List.range d.nExt).map (fun i => kRowValues s d i n))

/-- Whether metadata marks every finite, non-zero element (07 R186). -/
def metaCorrect (s : State) (d : Desc) : Bool :=
  d.mta == 0 || (List.zip (kRowsOf s d) (maskRows s d)).all (fun p =>
    (p.1.zipIdx).all (fun x => x.1.isZero || !x.1.isFinite || nbit p.2 x.2))

/-! ### Acceptance (05 R136–R140) -/

/-- Rank of a format among operands, widest highest (05, "Rates, counts and aperture"). -/
def meRank (code : Nat) : Nat :=
  match code with
  | 0 => 4 | 1 => 3 | 2 => 3 | 3 => 2 | 4 => 2 | 8 => 2 | 5 => 1 | 6 => 1 | _ => 0

/-- Format of the wider operand. -/
def widerFmt (a b : Nat) : Nat := if meRank b ≤ meRank a then a else b

/-- P / K (05 R152). -/
def meRate (code : Nat) : Nat :=
  match meRank code with | 4 => 32 | 3 => 4 | 2 => 2 | _ => 1

/-- Tokens of the ME class (15 R406). -/
def meTokens (code : Nat) : Nat :=
  match code with
  | 0 => 3 | 1 => 4 | 2 => 4 | 8 => 4 | 3 => 5 | 4 => 5 | _ => 6

/-- The default sparse threshold (07 R189). -/
def defaultTheta (code : Nat) : Nat :=
  match meRank code with | 4 => 32 | 3 => 13 | 2 => 5 | _ => 1

/-- The header checks of an operand's list (07 R184, R185). -/
def metaHdrOk (s : State) (d : Desc) : Bool :=
  d.mta != 2 || (let h := d.hdr s; h.ok && (h.nrows == 1 || h.nrows == d.kRows) && h.range == d.kExt)

/-- Acceptance of an MM. -/
def acceptMm (s : State) (t : Nat) (q : StartReq) : Except Denial RunOp :=
  let op := baseOp s t q
  let a := descOf op.dA
  let b := descOf op.dB
  let c := descOf op.dC
  let spill := q.sub.toNat = 2 ∨ q.sub.toNat = 3
  let acc := q.sub.toNat = 1 ∨ q.sub.toNat = 3
  let batch := fun (d : Desc) => d.ext2 == c.ext2 || (d.ext2 == 1 && d.bc2)
  match checkDescs s (some t) [op.dA, op.dB, op.dC] with
  | .error e => .error e
  | .ok () =>
    need (a.format.isInt == b.format.isInt) (
    need (metaHdrOk s a && metaHdrOk s b) (
    need (a.kExt == b.kExt && a.nExt == c.ext1 && b.nExt == c.ext0 && batch a && batch b
      && c.kdim == 0 && c.mta == 0 && !c.bc1 && !(c.bc2 && decide (1 < c.ext2))
      && decide (fld op.param.toNat 0 6 ≤ 32) && decide (op.param.toNat < 64)
      && (!spill || (c.fmt == 0 && c.scl == 0 && !a.format.isInt))
      && (!(a.format.isInt && q.sub == 1#4) || c.format.isInt)
      && !footsMeet (c.foot s) (a.foot s) && !footsMeet (c.foot s) (b.foot s)) (
    let w := widerFmt a.fmt b.fmt
    let res := footRange (c.foot s)
    .ok { op with tokens := meTokens w + (if a.mta ≠ 0 ∨ b.mta ≠ 0 then 2 else 0),
                  opnd := footRange (a.foot s) ++ footRange (b.foot s) ++ (if acc then res else []), res := res })))

/-! ### Accumulation (05 R143–R146, 04 R131) -/

/-- Fraction bits of the aligned block method; none for exact sums (04 R131). -/
def alignBits (fa fb : Nat) : Option Nat :=
  if fa = 0 ∨ fb = 0 then some 60
  else if fa = 2 ∨ fb = 2 then some 37
  else if fa = 1 ∨ fb = 1 then some 31
  else none

/-- The sum of a special block (05 R145). -/
def specialSum (xs : List Num) : Num :=
  xs.foldl (fun a x => if x.isFinite then a else if a.isFinite then x else a.add x) .zero

/-- Truncate toward zero to a multiple of 2^q: the value and whether a bit was discarded. -/
def truncAt (q : Int) (x : Num) : Num × Bool :=
  match x with
  | .fin s n e =>
    if q ≤ e then (x, false)
    else
      let m := n / 2 ^ (q - e).toNat
      (.fin s m q, decide (m * 2 ^ (q - e).toNat ≠ n))
  | x => (x, false)

/-- The largest exponent among finite non-zero values. -/
def topExp (xs : List Num) : Option Int :=
  xs.foldl (fun b x => match x with
    | .fin _ n e => if n = 0 then b else
        let k := floorLog2 n 1 e
        match b with | some j => some (max j k) | none => some k
    | _ => b) none

/-- The sum of a work block's products with its sticky bit (05 R143 step 3). -/
def blockSum (f : Option Nat) (xs : List Num) : Num × Bool :=
  if xs.any (fun x => !x.isFinite) then (specialSum xs, false)
  else match f, topExp xs with
  | some b, some e =>
    let ys := xs.map (truncAt (e - b))
    let sum := Num.sum (ys.map (fun y => y.1))
    (sum, !sum.isZero && ys.any (fun y => y.2))
  | _, _ => (Num.sum xs, false)

/-- Round to odd into A80 with a pending sticky bit (04 R118, 05 R143). Over an exact zero the bit sets the least significant
bit of +0 (R120; log 68). -/
def toA80s (x : Num) (sticky : Bool) : Num :=
  match x with
  | .fin s n e =>
    if !sticky then toA80 x
    else if n = 0 then .fin false 1 (-16445)
    else toA80 (.fin s (n * 2 ^ 66 + 1) (e - 66))
  | x => x

/-- One element's dot product over work blocks in ascending order (05 R143). -/
def dotFloat (f : Option Nat) (α : Option Num) (c0 : Num) (a b : List Num) : Num :=
  let ps := (List.zip a b).map (fun p => p.1.mul p.2)
  (pieces 32 ps.length ps).foldl (fun acc blk =>
    let (t, st) := blockSum f blk
    match α with
    | some k => toA80 (acc.add (toA80s (t.mul k) st))
    | none => toA80s (acc.add t) st) c0

/-- An integer value. -/
def numInt (x : Num) : Int :=
  match x with
  | .fin s n e => let k : Int := ((n * 2 ^ e.toNat : Nat) : Int); if s then -k else k
  | _ => 0

/-- An integer dot product, wrapped to 64 bits (05 R144). -/
def dotInt (c0 : Int) (a b : List Num) : Num :=
  let sum := (List.zip a b).foldl (fun k p => k + numInt p.1 * numInt p.2) c0
  .ofInt (signed 64 (toBits 64 sum))

/-! ### Work items (07 R188–R191) -/

/-- The counts of a work item: matched T, units U, expanded entries X and its K count. -/
structure WorkItem where
  t : Nat
  u : Nat
  x : Nat
  k : Nat

/-- The entries of K-row `r`'s list in segment `j`, repeated ones and ones not below K included (07 R191). -/
def segEntries (s : State) (d : Desc) (j r : Nat) : Nat :=
  ((metaEntries s d r).filter (fun e => decide (e / 32 = j))).length

/-- The work items of an MM in order. -/
def workItems (s : State) (a b c : Desc) : List WorkItem :=
  let (bm, bn, bs) := blockGrid c
  let ma := maskRows s a
  let mb := maskRows s b
  let kk := a.kExt
  (List.range bs).flatMap (fun blk =>
    let n := blk / (bm * bn)
    let p := blk / bn % bm
    let q := blk % bn
    let ri := (List.range (min (16 * p + 16) c.ext1 - 16 * p)).map (fun i => 16 * p + i + a.nExt * batchOf a c n)
    let ci := (List.range (min (16 * q + 16) c.ext0 - 16 * q)).map (fun i => 16 * q + i + b.nExt * batchOf b c n)
    let rows := ri.map (fun i => (ma[i]?).getD 0)
    let cols := ci.map (fun i => (mb[i]?).getD 0)
    let pairs := (pieces 2 16 cols).map (fun l => l.foldl (· ||| ·) 0)
    (List.range (cdiv kk 32)).map (fun j =>
      let bits := fun (m : Nat) => popCount (fld m (32 * j) 32) 32
      { t := sumOf (rows.flatMap (fun r => pairs.map (fun m => bits (r &&& m)))), u := rows.length * pairs.length,
        x := (if a.mta = 2 then sumOf (ri.map (segEntries s a j)) else 0)
          + (if b.mta = 2 then sumOf (ci.map (segEntries s b j)) else 0),
        k := min 32 (kk - 32 * j) }))

/-- Whether a work item runs on the sparse lane (07 R189). -/
def runsSparse (θ : Nat) (w : WorkItem) : Bool := decide (w.t ≤ θ * w.u)

/-- The beats of a work item's run (07 R191). -/
def itemBeats (θ rate : Nat) (w : WorkItem) : Nat := if runsSparse θ w then 24 + cdiv w.t 16 else rate * w.k

/-- The beats of a work item's evaluation. -/
def evalBeats (w : WorkItem) : Nat := cdiv w.u 8 + cdiv w.x 8

/-- Σ max(C(w), Ev(w + 1)). -/
def sumItems (θ rate : Nat) : List WorkItem → Nat
  | [] => 0
  | [w] => itemBeats θ rate w
  | w :: v :: l => max (itemBeats θ rate w) (evalBeats v) + sumItems θ rate (v :: l)

/-- The beats of an MM with K ≥ 1 (05 R152, 07 R191). -/
def mmBeats (a b c : Desc) (θ : Nat) (items : List WorkItem) : Nat :=
  let rate := meRate (widerFmt a.fmt b.fmt)
  if a.mta = 0 ∧ b.mta = 0 then (blockGrid c).2.2 * rate * a.kExt + 24
  else (match items with | [] => 0 | w :: _ => evalBeats w) + sumItems θ rate items + 24

/-! ### Completion (05 R147–R155) -/

/-- The values of C's rows in row-major order. -/
def mmRows (s : State) (op : RunOp) : List (List Num) :=
  let a := descOf op.dA
  let b := descOf op.dB
  let c := descOf op.dC
  let acc := op.req.sub.toNat % 2 = 1
  let ar := kRowsOf s a
  let br := kRowsOf s b
  let c0 := if acc then rowsOf c.ext0 (c.elems s) else []
  let f := alignBits a.fmt b.fmt
  let α := if a.scl = 2 ∨ b.scl = 2 then some (a.alpha.mul b.alpha) else none
  (List.range (c.ext1 * c.ext2)).map (fun r =>
    let i := r % c.ext1
    let n := r / c.ext1
    let row := (ar[i + a.nExt * batchOf a c n]?).getD []
    let base := (c0[r]?).getD []
    (List.range c.ext0).map (fun j =>
      let col := (br[j + b.nExt * batchOf b c n]?).getD []
      let z := (base[j]?).getD .zero
      if a.format.isInt then dotInt (numInt z) row col else dotFloat f α z row col))

/-- Write the elements of C of its first `lim` blocks, block by block in their order (05 R141, R147). -/
def mmWrite (c : Desc) (tainted : Bool) (how : RMode) (rows : List (List Num)) (lim : Nat) (s : State) : Written :=
  (List.range lim).foldl (fun w k =>
    let x := blockAt c k
    match writesFrom c k with
    | none => w
    | some lo => (List.range (x.row1 - x.row0)).foldl (fun w i =>
        let row := (rows[x.row0 + i + c.ext1 * x.n]?).getD []
        c.put tainted (fun _ => how) lo (x.row0 + i) x.n ((row.drop lo).take (x.col1 - lo)) w) w) { s := s }

/-- The bits of an A80 accumulator: sign, 15-bit exponent, 64-bit significand (04 R108). An infinity has its explicit leading bit
set, as R110 gives it to the NaN, and its fraction 0 (DEDUCED, log 73). -/
def a80Bits (x : Num) : BitVec 80 :=
  let mk := fun (s : Bool) (e m : Nat) => BitVec.ofNat 80 (b2n s * 2 ^ 79 + e * 2 ^ 64 + m)
  match x with
  | .nan => mk false 0x7FFF (3 * 2 ^ 62)
  | .inf s => mk s 0x7FFF (2 ^ 63)
  | .fin s n e =>
    let k := max (floorLog2 n 1 e) (-16382)
    if n = 0 then mk s 0 0
    else
      let m := (scaledInt false n e (min e (k - 63))).toNat / 2 ^ (k - 63 - min e (k - 63)).toNat
      mk s (if m < 2 ^ 63 then 0 else (k + 16383).toNat) m

/-- The accumulator file after `done` blocks of an MM whose first one takes half `h`: the last two of them stand in it, element
(i, j) of a block in its accumulator 16i + j (05 R142; DESIGN CHOICE, log 73). -/
def accumAfter (c : Desc) (ints : Bool) (rows : List (List Num)) (done h : Nat) (m : SMap (BitVec 80)) : SMap (BitVec 80) :=
  ((List.range done).drop (done - 2)).foldl (fun m k =>
    let x := blockAt c k
    (List.range 256).foldl (fun m e =>
      let i := x.row0 + e / 16
      let j := x.col0 + e % 16
      if i < x.row1 ∧ j < x.col1 then
        let v := (((rows[i + c.ext1 * x.n]?).getD [])[j]?).getD .zero
        Map.set 0#80 m (256 * ((h + k) % 2) + e) (if ints then BitVec.ofNat 80 (toBits 64 (numInt v)) else a80Bits v)
      else m) m) m

/-- The accumulator file and the half that the next block fills, after `done` blocks of an MM. -/
def Units.fill (u : Units) (c : Desc) (ints : Bool) (rows : List (List Num)) (done : Nat) : Units :=
  { u with accum := accumAfter c ints rows done u.half u.accum, half := (u.half + done) % 2 }

/-- Carry out an MM: all its blocks, those before a two-bit error in its operands, or those that a parity error left it
(05 R155). -/
def runMm (t : Nat) (op : RunOp) (s : State) : OpEnd :=
  let a := descOf op.dA
  let b := descOf op.dB
  let c := descOf op.dC
  let sub := op.req.sub.toNat
  let bs := mmBlocks op
  let how : RMode := if 2 ≤ sub then .odd else .rne
  if bs = 0 then { s := s, beats := 2 }
  else if a.kExt = 0 then
    let lim := op.stopAt.getD bs
    let zero := List.replicate (c.ext1 * c.ext2) (List.replicate c.ext0 Num.zero)
    { s := (mmWrite c op.tainted how zero lim s).s, beats := 24 + 4 * bs, progress := lim }
  else
    let bad := if op.stopAt.isSome then none else badBlock s op
    let done := match op.stopAt, bad with | some k, _ => k | none, some (k, _) => k | none, none => bs
    let lim := match op.stopAt, bad with | some k, _ => k | none, some (k, _) => blocksKept c k | none, none => bs
    let tainted := op.tainted || !metaCorrect s a || !metaCorrect s b
    let θ := if fld op.param.toNat 0 6 = 0 then defaultTheta (widerFmt a.fmt b.fmt) else fld op.param.toNat 0 6
    let sparse := a.mta ≠ 0 ∨ b.mta ≠ 0
    let items := if sparse then workItems s a b c else []
    let nSparse := (items.filter (runsSparse θ)).length
    let nAll := if sparse then items.length else bs * cdiv a.kExt 32
    let rows := mmRows s op
    let w := mmWrite c tainted how rows lim s
    let s := w.s.onTile t (fun x => ((x.count 0x12 nSparse).count 0x13 (nAll - nSparse)).onUn (fun n =>
      n.fill c a.format.isInt rows done))
    { s := s, beats := mmBeats a b c θ items, progress := lim, fault := bad.map (fun p => (0x01, p.2)),
      nf := if a.format.isInt then none else w.nf }

/-! ### The commands -/

/-- MM.SET (05 R135). -/
def execMmSet (t : TileId) (c : CtxId) (dd da db : BitVec 3) (gp : BitVec 5) (tf : BitVec 8) (s : State) : Res :=
  .next (dForm .mm 0 true t c dd da db gp tf s)

/-- MM.ACC. -/
def execMmAcc (t : TileId) (c : CtxId) (dd da db : BitVec 3) (gp : BitVec 5) (tf : BitVec 8) (s : State) : Res :=
  .next (dForm .mm 1 true t c dd da db gp tf s)

/-- MM.SPILL. -/
def execMmSpill (t : TileId) (c : CtxId) (dd da db : BitVec 3) (gp : BitVec 5) (tf : BitVec 8) (s : State) : Res :=
  .next (dForm .mm 2 true t c dd da db gp tf s)

/-- MM.SPILLACC. -/
def execMmSpillacc (t : TileId) (c : CtxId) (dd da db : BitVec 3) (gp : BitVec 5) (tf : BitVec 8) (s : State) : Res :=
  .next (dForm .mm 3 true t c dd da db gp tf s)

/-- Whether the running MM owns the Ligature: until its last work item starts (07 R193). -/
def mmOwnsLig (x : Tile) : Bool :=
  match (x.unit 0).running with
  | some op =>
    !op.ligFree &&
    let a := descOf op.dA
    let b := descOf op.dB
    let c := descOf op.dC
    (a.mta != 0 || b.mta != 0) && a.kExt != 0 && c.count != 0
  | none => false

/-- The end of an MM that a parity error stopped: its blocks are written, its flag stays clear and its fault stands
(05 R155). -/
def endStopped (t : Nat) (op : RunOp) (s : State) : State :=
  let e := runMm t op s
  settleTokens (regionOf t) ((e.s.onUnit t 0 UnitSt.drop).onTile t (fun x =>
    (match e.nf with | some i => { x with nf := x.nf.set false i } | none => x).count (busyEvent 0) e.beats))

/-- MM_COMPLETION: the older running MM writes its results and sets its flag, or stops at a block boundary (05 R147–R155). One
with metadata waits for a LIG operation that ran before its first evaluation (07 R193). -/
def execMmCompletion (t : TileId) (s : State) : Res :=
  let u := (s.tile t).unit 0
  .next (match u.oldest with
    | some op =>
      if op.stopAt.isSome then selfTimed s (endStopped t op s)
      else if u.tail.isNone && mmOwnsLig (s.tile t) && (((s.tile t).unit 2).running).isSome then s
      else complete t 0 (runMm t) s
    | none => s)

end Sys2Proof.Machine
end

