-- ==== Sys2Proof/Machine/Sparse.lean ====
section
/-!
DEFINITION. The Ligature unit on its own: LIG ISECT, UNION, BUILD, CHECK and SELECT (07 R194–R199).
-/
namespace Sys2Proof.Machine

/-! ### Lists (07 R183) -/

/-- The pointer of row `r`, not past TOTAL: no byte outside the list is read (07 R185). -/
def listPtr (s : State) (loc : Nat) (h : ListHdr) (r : Nat) : Nat := min (leNat (s.bytes (loc + 16 + 4 * r) 4)) h.total

/-- Entry `i` of a list. -/
def listEntry (s : State) (loc : Nat) (h : ListHdr) (i : Nat) : Nat := leNat (s.bytes (loc + 20 + 4 * h.nrows + 2 * i) 2)

/-- The entries of row `r`. -/
def listRow (s : State) (loc : Nat) (h : ListHdr) (r : Nat) : List Nat :=
  let lo := listPtr s loc h r
  (List.range (listPtr s loc h (r + 1) - lo)).map (fun i => listEntry s loc h (lo + i))

/-- Numbers as a bit mask. -/
def maskOf (l : List Nat) : Nat := l.foldl (fun a i => a ||| 2 ^ i) 0

/-- The numbers below `n` that a mask holds, rising. -/
def indicesOf (n mask : Nat) : List Nat := (List.range n).filter (fun i => nbit mask i)

/-- The running sums of row lengths. -/
def rowEnds : Nat → List (List Nat) → List Nat
  | _, [] => []
  | k, r :: l => (k + r.length) :: rowEnds (k + r.length) l

/-- The header of a list. -/
def listHead (nrows total range : Nat) (ovf : Bool) : Bytes :=
  toBytes (nrows + total * 2 ^ 32 + range * 2 ^ 64 + b2n ovf * 2 ^ 80) 16

/-- A well-formed list of the rows given, or where it does not fit the capacity, the empty one with OVF (07 R197). -/
def listBytes (cap range : Nat) (rows : List (List Nat)) : Bytes :=
  let n := rows.length
  let total := sumOf (rows.map List.length)
  if 20 + 4 * n + 2 * total ≤ cap then
    listHead n total range false ++ zeros 4 ++ (rowEnds 0 rows).flatMap (fun p => toBytes p 4)
      ++ rows.flatten.flatMap (fun i => toBytes i 2)
  else listHead n 0 range true ++ zeros (4 * (n + 1))

/-- The bytes of a list descriptor with its form (07 R196). -/
def Desc.isList (d : Desc) : Bool :=
  d.fmt == 8 && !d.sgn && d.scl == 0 && d.mta == 0 && d.ext1 == 1 && d.ext2 == 1 && d.bc1 && d.bc2

/-- The header of a list that a descriptor names. -/
def Desc.list (s : State) (d : Desc) : ListHdr := listHdrOf (peekRun s d.base.toNat 16)

/-- The checks of a list at a global address, which must lie where `inside` says: its header `h` and its footprint
(07 R185). -/
def checkListAt (s : State) (inside : Option Span → Bool) (h : ListHdr) (base : Nat) (more : ListHdr → Bool) : Except Denial Unit :=
  if !inside (spanOf s base 16) then .error (0x02, fld base 0 47)
  else match badRun s base 16 with
  | some k => .error (0x01, k)
  | none =>
    if !(h.ok && more h) then .error (0x09, 0)
    else if !inside (spanOf s base h.size) then .error (0x02, fld (base + h.size - 1) 0 47)
    else .ok ()

/-- The checks of a list in tile `t`. -/
def checkList (s : State) (t : Nat) (base : Nat) (more : ListHdr → Bool) : Except Denial Unit :=
  checkListAt s (· == some (.tile t)) (listHdrOf (peekRun s base 16)) base more

/-! ### Acceptance (07 R193, R195, R196) -/

/-- A descriptor without its metadata. -/
def withoutMeta (v : BitVec 256) : BitVec 256 := setFld (setFld v 119 2 0) 224 32 0

/-- Rows of SELECT's result: one for each K-row (07 R181, R195). -/
def selectRows (mode : Bool) (a : Desc) : Nat := if mode then 1 else a.kRows

/-- Bytes of the bitmap that BUILD writes (07 R182). -/
def bitmapSize (a : Desc) : Nat := 4 * a.kRows * cdiv a.kExt 32

/-- The parameter word of LIG (07 R195): MODE and TAU are 0 but for SELECT, whose τ is finite and not negative. The reserved
bits [31:1] are ignored (00 R14). -/
def ligParamOk (sub : Nat) (p : Word) : Bool :=
  let τ := fp32.decode (fld p.toNat 32 32)
  if sub = 4 then τ.isFinite && (!τ.isNeg || τ.isZero) else !p.getLsbD 0 && fld p.toNat 32 32 == 0

/-- Acceptance of a LIG. R196 says of BUILD's dd only that it describes the bytes that receive the metadata: the model asks for
the form of a list descriptor, with room for the whole bitmap where da's metadata is one (DESIGN CHOICE, log 81). -/
def acceptLig (s : State) (t : Nat) (q : StartReq) : Except Denial RunOp :=
  let op := baseOp s t q
  let a := descOf op.dA
  let b := descOf op.dB
  let d := descOf op.dC
  let sub := q.sub.toNat
  let two := decide (sub < 2)
  let seen := (if sub = 2 then withoutMeta op.dA else op.dA) :: (if two then [op.dB] else []) ++ [op.dC]
  match checkDescs s (some t) seen with
  | .error e => .error e
  | .ok () =>
    need (ligParamOk sub op.param && (if sub = 3 then d.fmt == 8 && !d.sgn && d.ext0 == 16 && d.ext1 == 1 && d.ext2 == 1
        && d.bc1 && d.bc2 else d.isList)) (
    need (match sub with
      | 2 => (a.mta == 1 || a.mta == 2) && (a.mta != 1 || decide (bitmapSize a ≤ d.ext0))
          && (a.mta != 2 || decide (20 + 4 * a.kRows ≤ d.ext0))
      | 3 => a.mta != 0 && metaHdrOk s a
      | 4 => decide (a.fmt ≤ 7) && decide (a.scl ≤ 1)
          && decide (20 + 4 * selectRows (op.param.getLsbD 0) a ≤ d.ext0)
      | _ => a.isList && b.isList) (
    match (if two then checkList s t a.base.toNat (fun _ => true) else .ok ()) with
    | .error e => .error e
    | .ok () =>
      match (if two then checkList s t b.base.toNat (fun h =>
          let g := a.list s
          (h.nrows == g.nrows || h.nrows == 1 || g.nrows == 1) && decide (20 + 4 * max h.nrows g.nrows ≤ d.ext0))
        else .ok ()) with
      | .error e => .error e
      | .ok () =>
        let res := footRange (d.foot s)
        let lists := if two then [(a.loc, (a.list s).size), (b.loc, (b.list s).size)] else []
        let src := if sub = 2 then descOf (withoutMeta op.dA) else a
        .ok { op with tokens := 2, res := res, opnd := if two then lists else footRange (src.foot s) }))

/-! ### Results (07 R194, R197, R198) -/

/-- The raw bits of K-row (i, n)'s elements, each with its scale byte. -/
def kRowRaw (s : State) (d : Desc) (i n : Nat) : List (Nat × Nat) :=
  (List.range d.kExt).map (fun k =>
    let i0 := if d.kdim = 0 then k else i
    let i1 := if d.kdim = 0 then i else k
    let w := fmtWidth d.fmt
    (fld (leNat (s.bytes (d.row i1 n + i0 * w / 8) 5)) (i0 * w % 8) w,
     if d.scl = 1 then d.scaleByte s i0 i1 n else 0))

/-- The mask of BUILD for one K-row: finite non-zero elements, and of the others those that the unit marks (07 R186). -/
def buildMask (d : Desc) (vals : List Num) (raws : List (Nat × Nat)) : Nat :=
  maskOf (((List.zip vals raws).zipIdx.filter (fun p =>
    if p.1.1.isFinite then !p.1.1.isZero else Config.marksNonFinite d.fmt p.1.2.1 p.1.2.2)).map (fun p => p.2))

/-- The masks of BUILD, one for each K-row. -/
def buildMasks (s : State) (d : Desc) : List Nat :=
  (List.range d.kRows).map (fun r =>
    let i := r % d.nExt
    let n := r / d.nExt
    buildMask d (kRowValues s d i n) (kRowRaw s d i n))

/-- What BUILD writes. -/
def buildBytes (s : State) (a : Desc) (cap : Nat) : Bytes :=
  let ms := buildMasks s a
  if a.mta = 1 then ms.flatMap (fun m => toBytes m (4 * cdiv a.kExt 32))
  else listBytes cap a.kExt (ms.map (indicesOf a.kExt))

/-- The row of a source list for result row `r` (07 R196). -/
def sourceRow (s : State) (loc : Nat) (h : ListHdr) (r : Nat) : Nat := maskOf (listRow s loc h (if h.nrows = 1 then 0 else r))

/-- What ISECT and UNION write. -/
def mergeBytes (s : State) (union : Bool) (a b : Desc) (cap : Nat) : Bytes :=
  let ha := a.list s
  let hb := b.list s
  let range := max ha.range hb.range
  listBytes cap range ((List.range (max ha.nrows hb.nrows)).map (fun r =>
    let x := sourceRow s a.loc ha r
    let y := sourceRow s b.loc hb r
    indicesOf range (if union then x ||| y else x &&& y)))

/-- Whether SELECT takes an element (07 R194, R197). -/
def selects (τ x : Num) : Bool := !x.isFinite || τ.lt x.abs

/-- The dim0 indices of K-row `r` that SELECT takes. With K along dim1 a K-row has one dim0 index (DEDUCED, log 81). -/
def selectRow (s : State) (τ : Num) (a : Desc) (r : Nat) : List Nat :=
  let i := r % a.nExt
  let row := kRowValues s a i (r / a.nExt)
  if a.kdim = 0 then ((row.zipIdx).filter (fun p => selects τ p.1)).map (fun p => p.2)
  else if row.any (selects τ) then [i] else []

/-- What SELECT writes. -/
def selectBytes (s : State) (mode : Bool) (τ : Num) (a : Desc) (cap : Nat) : Bytes :=
  let picks := (List.range a.kRows).map (selectRow s τ a)
  let rows := if mode then [indicesOf a.ext0 (maskOf picks.flatten)] else picks
  listBytes cap a.ext0 rows

/-- Neighbours of a list that `f` counts as a defect. -/
def pairDefects (f : Nat → Nat → Bool) : List Nat → Nat
  | x :: y :: l => b2n (f x y) + pairDefects f (y :: l)
  | _ => 0

/-- STRUCT: pointers that decrease or pass TOTAL, entries that do not rise, entries outside RANGE (07 R198). -/
def structDefects (s : State) (loc : Nat) (h : ListHdr) : Nat :=
  let ptrs := (List.range (h.nrows + 1)).map (fun i => leNat (s.bytes (loc + 16 + 4 * i) 4))
  let rows := (List.range h.nrows).map (listRow s loc h)
  pairDefects (fun x y => decide (y < x)) ptrs + (ptrs.filter (fun p => decide (h.total < p))).length
    + sumOf (rows.map (pairDefects (fun x y => decide (y ≤ x))))
    + sumOf (rows.map (fun r => (r.filter (fun e => decide (h.range ≤ e))).length))

/-- The check record (07 R198). -/
def checkBytes (s : State) (a : Desc) : Bytes :=
  let rows := List.zip (kRowsOf s a) (maskRows s a)
  let per := fun (f : Num → Bool → Bool) => rows.map (fun p => ((p.1.zipIdx).filter (fun x => f x.1 (nbit p.2 x.2))).length)
  let missed := per (fun x m => x.isFinite && !x.isZero && !m)
  let extra := per (fun x m => x.isZero && m)
  toBytes (sumOf missed) 4 ++ toBytes ((missed.findIdx? (fun k => k ≠ 0)).getD 0xFFFFFFFF) 4
    ++ toBytes (if a.mta = 2 then structDefects s a.metaLoc (a.hdr s) else 0) 4 ++ toBytes (sumOf extra) 4

/-- 64 B lines that a tensor's data touches. -/
def dataLines (d : Desc) : Nat :=
  ((List.range (d.ext1 * d.ext2)).flatMap (fun r =>
    let lo := d.row (r % d.ext1) (r / d.ext1)
    (List.range ((lo + d.rowBytes - 1) / 64 + 1 - lo / 64)).map (lo / 64 + ·))).eraseDups.length

/-- 64 B lines of a run. -/
def runLines (lo n : Nat) : Nat := if n = 0 then 0 else (lo + n - 1) / 64 + 1 - lo / 64

/-- The bytes of a tensor's rows and scales, as ranges. -/
def dataRanges (d : Desc) : List (Nat × Nat) := (List.range d.ext2).flatMap (rectRanges d 0 d.ext1 0 d.ext0)

/-- What a LIG reads, gaps between its operands' parts left out (07 R194, R203). -/
def ligReads (s : State) (op : RunOp) : List (Nat × Nat) :=
  let a := descOf op.dA
  let m := if a.mta = 1 then bitmapSize a else if a.mta = 2 then (a.hdr s).size else 0
  match op.req.sub.toNat with
  | 0 | 1 => op.opnd
  | 3 => dataRanges a ++ [(a.metaLoc, m)]
  | _ => dataRanges a

/-- Carry out a LIG: its result is a function of its input bits and τ (07 R197), and a fault leaves dd unspecified
(16 R439). -/
def runLig (op : RunOp) (s : State) : OpEnd :=
  let a := descOf op.dA
  let b := descOf op.dB
  let d := descOf op.dC
  let sub := op.req.sub.toNat
  let τ := fp32.decode (fld op.param.toNat 32 32)
  if a.count = 0 ∨ (sub < 2 ∧ b.count = 0) then { s := s, beats := 2 }
  else match badInRanges s (ligReads s op) with
  | some k =>
    let (bs, s) := drawBytes d.ext0 s
    { s := s.poke d.loc bs, beats := 0, fault := some (0x01, k) }
  | none =>
    let out := match sub with
      | 0 => mergeBytes s false a b d.ext0
      | 1 => mergeBytes s true a b d.ext0
      | 2 => buildBytes s a d.ext0
      | 3 => checkBytes s a
      | _ => selectBytes s (op.param.getLsbD 0) τ a d.ext0
    let size := cdiv out.length 64
    let msize := if a.mta = 1 then bitmapSize a else if a.mta = 2 then (a.hdr s).size else 0
    let beats := match sub with
      | 0 => 8 + cdiv ((a.list s).total + (b.list s).total) 8 + size
      | 1 => 8 + cdiv ((a.list s).total + (b.list s).total) 8 + size
      | 2 => 8 + dataLines a + size
      | 3 => 8 + dataLines a + runLines a.metaLoc msize
      | _ => 8 + cdiv a.count 16 + size
    if op.tainted then
      let (bs, s) := drawBytes d.ext0 s
      { s := s.poke d.loc bs, beats := beats }
    else { s := s.poke d.loc out, beats := beats }

/-! ### The commands -/

/-- LIG ISECT (07 R194). -/
def execLigIsect (t : TileId) (c : CtxId) (dd da db : BitVec 3) (gp : BitVec 5) (tf : BitVec 8) (s : State) : Res :=
  .next (dForm .lig 0 true t c dd da db gp tf s)

/-- LIG UNION. -/
def execLigUnion (t : TileId) (c : CtxId) (dd da db : BitVec 3) (gp : BitVec 5) (tf : BitVec 8) (s : State) : Res :=
  .next (dForm .lig 1 true t c dd da db gp tf s)

/-- LIG BUILD: the unused db names d0 (07 R196). -/
def execLigBuild (t : TileId) (c : CtxId) (dd da db : BitVec 3) (gp : BitVec 5) (tf : BitVec 8) (s : State) : Res :=
  .next (dForm .lig 2 (db == 0#3) t c dd da db gp tf s)

/-- LIG CHECK. -/
def execLigCheck (t : TileId) (c : CtxId) (dd da db : BitVec 3) (gp : BitVec 5) (tf : BitVec 8) (s : State) : Res :=
  .next (dForm .lig 3 (db == 0#3) t c dd da db gp tf s)

/-- LIG SELECT. -/
def execLigSelect (t : TileId) (c : CtxId) (dd da db : BitVec 3) (gp : BitVec 5) (tf : BitVec 8) (s : State) : Res :=
  .next (dForm .lig 4 (db == 0#3) t c dd da db gp tf s)

/-- LIG_COMPLETION: the running LIG writes its result and sets its flag, or stops with a fault (07 R197–R199, R203). -/
def execLigCompletion (t : TileId) (s : State) : Res := .next (complete t 2 runLig s)

end Sys2Proof.Machine
end

