-- ==== Sys2Proof/Machine/Movt.lean ====
section
/-!
DEFINITION. The transfer unit: MOVT (10 R280, R281, R288; 07 R200; 16 R439) and the Enlarger (10 R282–R287).
-/
namespace Sys2Proof.Machine

/-! ### MOVT: acceptance -/

/-- Whether tile `t` may reach a run of addresses with MOVT (10 R280, 08 R208): the record's data address where not. -/
def outOfReach (s : State) (t : Nat) (f : Option (Int × Nat)) : Option Nat :=
  match f with
  | none => none
  | some (lo, n) =>
    let a := fld lo.toNat 0 47
    match spanOf s lo n with
    | some (.tile k) => if k = t ∨ (partOf s t < 6 ∧ partOf s k = partOf s t) then none else some a
    | some .bulk => if inShare s (partOf s t) a && inShare s (partOf s t) (a + n - 1) then none else some a
    | some .host => none
    | some (.far _) => none
    | none => some a

/-- The descriptors of a MOVT agree (10 R280, 04 R121). -/
def sameForm (a d : Desc) : Bool := a.fmt == d.fmt && a.sgn == d.sgn && a.scl == d.scl

/-! ### MOVT: what it moves -/

/-- A run of bytes that MOVT moves: its destination, its source (none where a list's entry names no row), its length, the 64 B
lines that it counts for PROGRESS, and where the list's entry stands that it comes from. -/
structure Piece where
  dst : Nat
  src : Option Nat
  len : Nat
  lines : Nat
  entry : Option Nat := none
  deriving DecidableEq, Repr

/-- Cut a run at multiples of `k` of its destination; `fuel` bounds the pieces. -/
def cutRun (k : Nat) (data : Bool) : Nat → Nat → Option Nat → Nat → List Piece
  | 0, _, _, _ => []
  | fuel + 1, dst, src, len =>
    if len = 0 then []
    else
      let n := min len (k - dst % k)
      { dst := dst, src := src, len := n, lines := if data then (dst % 64 + n + 63) / 64 else 0 }
        :: cutRun k data fuel (dst + n) (src.map (· + n)) (len - n)

/-- Join index pairs whose both numbers rise by one into runs. -/
def joinRuns : List (Nat × Nat) → List (Nat × Nat × Nat)
  | [] => []
  | (a, b) :: l =>
    match joinRuns l with
    | (c, d, n) :: rest => if c = a + 1 ∧ d = b + 1 then (a, b, n + 1) :: rest else (a, b, 1) :: (c, d, n) :: rest
    | [] => [(a, b, 1)]

/-- Keep each pair once where equal ones follow one another. -/
def dedupe : List (Nat × Nat) → List (Nat × Nat)
  | [] => []
  | x :: l => match dedupe l with
    | y :: m => if x = y then y :: m else x :: y :: m
    | [] => [x]

/-- The global address of row (i1, i2). -/
def Desc.rowAt (s : State) (d : Desc) (i1 i2 : Nat) : Nat := (d.at0 s).toNat + d.s1 * i1 + d.s2 * i2

/-- The pieces of one row: its data, then its scale bytes. `si` is the source row; none for one that is not there. -/
def rowPieces (s : State) (k : Nat) (a d : Desc) (di i2 : Nat) (si : Option Nat) : List Piece :=
  let data := cutRun k true (d.rowBytes / k + 2) (d.rowAt s di i2) (si.map (fun i => a.rowAt s i i2)) d.rowBytes
  if d.scl ≠ 1 then data
  else
    let idx := dedupe ((List.range d.ext0).map (fun i0 => (d.scaleIdx i0 di i2, a.scaleIdx i0 (si.getD 0) i2)))
    let dl := (d.at0 s + signed 32 d.aux0).toNat
    let al := (a.at0 s + signed 32 a.aux0).toNat
    data ++ (joinRuns idx).flatMap (fun r => cutRun k false (r.2.2 / k + 2) (dl + r.1) (si.map (fun _ => al + r.2.1)) r.2.2)

/-- Entry `i` of a one-row list from its bytes. -/
def entryOf (bs : Bytes) (i : Nat) : Nat := leNat ((bs.drop (24 + 2 * i)).take 2)

/-- The pieces of a MOVT in the order in which it writes them (16 R439). Pieces for the Bulk Store are whole lines of it
(08 R212). -/
def movtPieces (s : State) (op : RunOp) : List Piece :=
  let a := descOf op.dA
  let d := descOf op.dC
  let k := match spanOf s (d.at0 s) 1 with | some .bulk => 128 | _ => 64
  if op.req.sub = 0#4 then
    (List.range d.ext2).flatMap (fun i2 => (List.range d.ext1).flatMap (fun i1 => rowPieces s k a d i1 i2 (some i1)))
  else
    let base := match routeOf s op.param with | .here x => x | _ => op.param.toNat
    (List.range (min (listHdrOf op.list).total d.ext1)).flatMap (fun i =>
      let r := entryOf op.list i
      (rowPieces s k a d i 0 (if r < a.ext1 then some r else none)).map (fun p => { p with entry := some (base + 24 + 2 * i) }))

/-- Whether a piece writes what stands there: its row is its own source, and no other piece writes that. -/
def Piece.still (ps : List Piece) (p : Piece) : Bool :=
  p.src == some p.dst && ps.all (fun q => q == p || !meets q.dst q.len p.dst p.len)

/-- Whether the pieces of a MOVT change any of the `n` bytes at `a` while it runs. -/
def stirred (ps : List Piece) (a n : Nat) : Bool := ps.any (fun p => meets p.dst p.len a n && !p.still ps)

/-- Whether a piece's bytes are free values: its MOVT was touched (03 R76), or a GATHER writes the bytes that it copies, or the
entry that names its row (log 74). -/
def Piece.free (op : RunOp) (ps : List Piece) (p : Piece) : Bool :=
  op.tainted || (match p.entry with
    | none => false
    | some e => stirred ps e 2 || (match p.src with | some a => stirred ps a p.len | none => false))

/-! ### MOVT: acceptance of a request -/

/-- Read pieces of the Bulk Store through their home slices, with allocation; the first error ends it. -/
def allocPieces : List (Nat × Nat) → State → Except (Nat × Nat) Bytes × State
  | [], s => (.ok [], s)
  | p :: ps, s =>
    match homeRead (shareOwner s p.1) p.1 p.2 true s with
    | (.error c, s) => (.error (c, p.1), s)
    | (.ok d, s) => match allocPieces ps s with
      | (.ok e, s) => (.ok (d ++ e), s)
      | (.error c, s) => (.error c, s)

/-- A run of the Bulk Store read for a start request: none while it waits at a home slice (08 R212, R217). -/
def bulkFor (q : StartReq) (a n : Nat) (s : State) : Except Denial (Option Bytes) × State :=
  if runBusy s a n then (.ok none, s)
  else match allocPieces (hostPieces a n) s with
  | (.error c, s) => (.error c, s)
  | (.ok d, s) => if q.unsure s a n then (let (d, s) := drawBytes n s; (.ok (some d), s)) else (.ok (some d), s)

/-- The bytes of a GATHER's list (07 R185, R200): it may lie in a tile window, in the Bulk Store, where it is read through the
Reuse Cache, or in a window that this device does not hold, of which the bytes are free (log 74). None while it waits there.
A list that the tile may not reach is not read: acceptance refuses it. -/
def gatherList (t : Nat) (q : StartReq) (s : State) : Except Denial (Option Bytes) × State :=
  let base := (s.cx t q.ctx).reg q.gp.toNat
  let a := fld base.toNat 0 47
  let rest := fun (h : Bytes) => min (listHdrOf h).size 131094 - 16
  let mine := fun (x n : Nat) => inShare s (partOf s t) x && inShare s (partOf s t) (x + n - 1)
  if q.kind ≠ .movt ∨ q.sub = 0#4 then (.ok (some []), s)
  else match spanOf s base.toNat 16 with
  | some (.tile _) =>
    let (h, s) := readFor q a 16 s
    let (l, s) := readFor q (a + 16) (rest h) s
    (.ok (some (h ++ l)), s)
  | some .bulk =>
    if !mine a 16 then (.ok (some (peekRun s base.toNat 16)), s)
    else match bulkFor q a 16 s with
    | (.ok (some h), s) =>
      if !mine a (16 + rest h) then (.ok (some h), s)
      else (match bulkFor q (a + 16) (rest h) s with
        | (.ok (some l), s) => (.ok (some (h ++ l)), s)
        | r => r)
    | r => r
  | some _ =>
    let (h, s) := drawBytes 16 s
    let (l, s) := drawBytes (rest h) s
    (.ok (some (h ++ l)), s)
  | none => (.ok (some []), s)

/-- Acceptance of a MOVT with the list that it reads (10 R280, 07 R200). -/
def acceptMovt (s : State) (t : Nat) (q : StartReq) (list : Bytes) : Except Denial RunOp :=
  let op := { baseOp s t q with list := list }
  let a := descOf op.dA
  let d := descOf op.dC
  let local' := fun (f : Option (Int × Nat)) => match f with
    | some (lo, n) => (match spanOf s lo n with | some (.tile _) | some .bulk => [(fld lo.toNat 0 47, n)] | _ => [])
    | none => []
  let finishOk := fun (lf : Option (Int × Nat)) =>
    match outOfReach s t (a.foot s), outOfReach s t (d.foot s), outOfReach s t lf with
    | some x, _, _ => Except.error (0x0A, x)
    | none, some x, _ => .error (0x0A, x)
    | none, none, some x => .error (0x0A, x)
    | none, none, none =>
      .ok { op with tokens := 1, res := local' (d.foot s), opnd := local' (a.foot s) ++ local' lf }
  match checkDescs s none [op.dA, op.dC] with
  | .error e => .error e
  | .ok () =>
    if q.sub = 0#4 then
      need (a.mta == 0 && d.mta == 0 && a.ext0 == d.ext0 && a.ext1 == d.ext1 && a.ext2 == d.ext2 && sameForm a d
        && !footsMeet (a.foot s) (d.foot s)) (finishOk none)
    else
      let base := op.param.toNat
      let h := listHdrOf list
      match checkListAt s Option.isSome h base (fun h => h.nrows == 1 && h.range == a.ext1 && decide (h.total ≤ d.ext1)) with
      | .error e => .error e
      | .ok () =>
        need (a.ext2 == 1 && d.ext2 == 1 && a.ext0 == d.ext0 && sameForm a d)
          (finishOk (some (match routeOf s op.param with | .here x => (x : Int) | _ => (base : Int), h.size)))

/-! ### MOVT: moving -/

/-- Bytes of a tile's SRAM that MOVT reads or writes: it answers for a fenced one as for any access (01 R39). -/
def shut (s : State) (t k : Nat) : Bool := k != t && ((s.tile k).fenced || (s.tile k).clearing)

/-- Count the lines of an access of the transfer unit of tile `t` on this device: one for each 64 B line's request and one for its
answer, none within the tile (18 R496; DEDUCED, log 8). -/
def countXfer (t a n : Nat) (s : State) : State :=
  let k := (hostPieces a n).length
  match s.place a with
  | .sram j _ =>
    if j = t then s else (s.onTile t (fun x => (x.count 0x20 k).count 0x21 k)).onTile j (fun x => (x.count 0x21 k).count 0x20 k)
  | _ => s.onTile t (fun x => ((x.count 0x27 k).count 0x20 k).count 0x21 k)

/-- Read bytes on this device for the transfer unit of tile `t`; an error is a code and a data address. -/
def xferRead (t a n : Nat) (s : State) : Except (Nat × Nat) Bytes × State :=
  let s := countXfer t a n s
  match s.place a with
  | .sram k _ =>
    if shut s t k then (.error (0x0A, a), s)
    else match s.badIn a n with
    | some w => (.error (0x01, w), s)
    | none => (.ok (s.bytes a n), s)
  | _ =>
    let cut := (a / 128 + 1) * 128 - a
    match homeRead (shareOwner s a) a (min n cut) true s with
    | (.error c, s) => (.error (c, a), s)
    | (.ok d, s) =>
      if n ≤ cut then (.ok d, s)
      else match homeRead (shareOwner s (a + cut)) (a + cut) (n - cut) true s with
        | (.error c, s) => (.error (c, a + cut), s)
        | (.ok e, s) => (.ok (d ++ e), s)

/-- Write bytes of one line on this device. -/
def xferWrite (t a : Nat) (bs : Bytes) (s : State) : Except (Nat × Nat) Unit × State :=
  let s := countXfer t a bs.length s
  match s.place a with
  | .sram k _ =>
    if shut s t k then (.error (0x0A, a), s)
    else match mergeBad s a bs.length with
    | some w => (.error (0x01, w), s)
    | none => (.ok (), s.poke a bs)
  | _ => match homeWrite (shareOwner s a) a bs true s with
    | (.error c, s) => (.error (c, a), s)
    | (.ok _, s) => (.ok (), s)

/-- Whether a run on this device waits at a home slice: it is BUSY, or a fill is under way for a line (08 R212, R217). -/
def xferWaits (s : State) (a n : Nat) : Bool :=
  match s.place a with
  | .bulk => runBusy s a n
  | _ => false

/-- The bytes that a piece of `ps` carries: free ones where they are unspecified, or where its row is not there. -/
def pieceData (t : Nat) (op : RunOp) (ps : List Piece) (p : Piece) (s : State) : Except (Nat × Nat) Bytes × State :=
  match p.src with
  | none => let (d, s) := drawBytes p.len s; (.ok d, s)
  | some a =>
    match xferRead t a p.len s with
    | (.error e, s) => (.error e, s)
    | (.ok d, s) => if p.free op ps then let (d, s) := drawBytes p.len s; (.ok d, s) else (.ok d, s)

/-- Move pieces of `all` on this device until one fails; the lines written. -/
def movePieces (t : Nat) (op : RunOp) (all : List Piece) : List Piece → Nat → State → Nat × Option (Nat × Nat) × State
  | [], n, s => (n, none, s)
  | p :: ps, n, s =>
    match pieceData t op all p s with
    | (.error e, s) => (n, some e, s)
    | (.ok d, s) =>
      match xferWrite t p.dst d s with
      | (.error e, s) => (n, some e, s)
      | (.ok _, s) => movePieces t op all ps (n + p.lines) s

/-- A MOVT ends with `lines` written. -/
def endMovt (t : Nat) (op : RunOp) (lines : Nat) (err : Option (Nat × Nat)) (s : State) : State :=
  let (b, s) := drawFree 32 s
  endOp t 4 op { s := unwait t 4 s, beats := b.toNat, progress := lines, fault := err }

/-- Where a run of addresses lies for the transfer unit: here, in the host window, or on another device. -/
inductive XferAt where
  | here (a : Nat)
  | host (a : Nat)
  | far (dev a : Nat)
  deriving DecidableEq, Repr

def xferAt (s : State) (a : Nat) : XferAt :=
  match routeOf s (BitVec.ofNat 64 a) with
  | .far d x => .far d x
  | .here x => (match s.place x with | .host _ => .host x | _ => .here x)
  | .bounds => .here a

/-- Whether a piece waits at a home slice. -/
def pieceWaits (s : State) (p : Piece) : Bool :=
  let waits := fun (a : Nat) => match xferAt s a with | .here x => xferWaits s x p.len | _ => false
  waits p.dst || (match p.src with | some a => waits a | none => false)

/-- Send an access of the transfer unit on its way. -/
def xferSend (t : Nat) (w : XferAt) (op : MemOp) (s : State) : Except (Nat × Nat) State :=
  let mk := fun (dev : Option Nat) (a : Nat) => ({ iss := .xfer t, part := partOf s t, dev := dev, addr := a, op := op } : MemReq)
  let sent := fun (far : Bool) (s : State) => s.onTile t (fun x => (if far then x.count 0x27 1 else x).count 0x20 1)
  match w with
  | .far d a => (match sendFar t d (mk (some d) a) s with
    | .ok s => .ok (sent (decide (bulkBase ≤ a)) s)
    | .error p => .error (0x0E, unreachAddr d p))
  | .host a | .here a => .ok (sent true <| onMesh (some (.tile t, nodeAt s a)) (fun k n => { n with slice := n.slice ++ [{ mk none a with sent := k }] }) s)

/-- The loads that bring a piece's source, each within one 64 B line. -/
def sendLoads (t : Nat) (a n : Nat) (s : State) : Except (Nat × Nat) State :=
  (hostPieces a n).foldl (fun r p => match r with
    | .error e => .error e
    | .ok s => xferSend t (xferAt s p.1) (.load 0 p.2 false false) s) (.ok s)

/-- The source bytes that have come, in address order. -/
def gathered (op : RunOp) : Bytes := (sortBy (fun p => p.1) op.buf).flatMap (fun p => p.2)

/-- Change the running MOVT of tile `t`. -/
def onMovt (t : Nat) (f : RunOp → RunOp) (s : State) : State :=
  s.onUnit t 4 (fun u => { u with running := u.running.map f })

/-- The mark in `buf` that a piece's store is on its way. -/
def storing : List (Nat × Bytes) := [(0, [])]

/-- One step of a MOVT with an end on the host or on another device: it fetches a piece's source, sends the piece, and
goes on to the next when that is acknowledged (log 22). -/
def pump (t : Nat) (op : RunOp) (s : State) : State :=
  let ps := movtPieces s op
  let done := sumOf ((ps.take op.pos).map (fun p => p.lines))
  let stop := fun (e : Nat × Nat) (s : State) => endMovt t op done (some e) s
  if (inFlight s).any (fun r => decide (r.iss = .xfer t)) then s
  else match op.err, ps[op.pos]? with
  | some e, _ => stop e s
  | none, none => endMovt t op done none s
  | none, some p =>
    if op.buf = storing then onMovt t (fun op => { op with pos := op.pos + 1, buf := [] }) s
    else if op.buf = [] then
      match p.src with
      | none => let (d, s) := drawBytes p.len s; onMovt t (fun op => { op with buf := [(0, d)] }) s
      | some a =>
        match xferAt s a with
        | .here x =>
          (match pieceData t op ps { p with src := some x } s with
          | (.error e, s) => stop e s
          | (.ok d, s) => onMovt t (fun op => { op with buf := [(a, d)] }) s)
        | _ => (match sendLoads t a p.len s with
          | .error e => stop e s
          | .ok s => s)
    else
      let (d, s) := if p.free op ps then drawBytes p.len s else (gathered op, s)
      match xferAt s p.dst with
      | .here x =>
        (match xferWrite t x d s with
        | (.error e, s) => stop e s
        | (.ok _, s) => onMovt t (fun op => { op with buf := storing }) s)
      | w => (match xferSend t w (.store d) s with
        | .error e => stop e s
        | .ok s => onMovt t (fun op => { op with buf := storing }) s)

/-- Whether both ends of a MOVT are on this device, outside the host window. -/
def movtHere (s : State) (op : RunOp) : Bool :=
  let near := fun (d : Desc) => match d.foot s with
    | some (lo, n) => (match spanOf s lo n with | some (.tile _) | some .bulk => true | _ => false)
    | none => true
  near (descOf op.dA) && near (descOf op.dC)

/-- The list of a GATHER holds a codeword that cannot be read. -/
def listBad (s : State) (op : RunOp) : Option Nat :=
  if op.req.sub = 0#4 then none else badRun s op.param.toNat (listHdrOf op.list).size

/-- Whether a run lies outside tile `t`, so that its lines are injected into the mesh. -/
def leaves (s : State) (t a : Nat) : Bool :=
  match xferAt s a with
  | .here x => (match s.place x with | .sram k _ => k != t | _ => true)
  | _ => true

/-- Whether the next step of a MOVT injects a line: only then does it need a token (15 R408). -/
def injects (s : State) (t : Nat) (op : RunOp) : Bool :=
  let ps := movtPieces s op
  let out := fun (p : Piece) => leaves s t p.dst || (match p.src with | some a => leaves s t a | none => false)
  if movtHere s op then ps.any out
  else if op.err.isSome || (inFlight s).any (fun r => decide (r.iss = .xfer t)) || op.buf == storing then false
  else match ps[op.pos]? with
  | none => false
  | some p => if op.buf = [] then (match p.src with | some a => leaves s t a | none => false) else leaves s t p.dst

/-- Whether lines sent earlier between tile `t` and an end of a piece on this device are still in flight: a MOVT's do not pass
them (10 R278). -/
def behindLines (s : State) (t : Nat) (ps : List Piece) : Bool :=
  let nodes := fun (a : Nat) => match xferAt s a with
    | .here x => if leaves s t x then [nodeAt s x] else []
    | _ => []
  let ends := ps.flatMap (fun p => nodes p.dst ++ (match p.src with | some a => nodes a | none => []))
  s.net.sents.any (fun y => match y.leg with
    | some (a, b) => (decide (a = .tile t) && ends.contains b) || (decide (b = .tile t) && ends.contains a)
    | none => false)

/-- MOVT_COMPLETION: the running MOVT moves its lines and its flag is set, or it moves its next piece where an end is far
away (10 R280, 16 R439). A line needs a token of the tile (15 R408), and it waits for a BUSY slice, for fills (08 R212, R217) and
behind lines sent before it (10 R278). -/
def execMovtCompletion (t : TileId) (s : State) : Res :=
  .next (selfTimed s <| match ((s.tile t).unit 4).running with
    | none => s
    | some op =>
      let ps := movtPieces s op
      let next := if movtHere s op then ps else (ps.drop op.pos).take 1
      if next.any (pieceWaits s) || behindLines s t next then s
      else match (if injects s t op then takeTurn t 4 1 s else (true, s)) with
      | (false, s) => s
      | (true, s) =>
        match listBad s op with
        | some w => endMovt t op 0 (some (0x01, w)) s
        | none =>
          if movtHere s op then
            let (n, err, s) := movePieces t op ps ps 0 s
            endMovt t op n err s
          else pump t op s)

/-- MOVT COPY (10 R280): gp and db name g0 and d0. -/
def execMovtCopy (t : TileId) (c : CtxId) (dd da db : BitVec 3) (gp : BitVec 5) (tf : BitVec 8) (s : State) : Res :=
  .next (dForm .movt 0 (gp == 0#5 && db == 0#3) t c dd da db gp tf s)

/-- MOVT GATHER (07 R200): db names d0. -/
def execMovtGather (t : TileId) (c : CtxId) (dd da db : BitVec 3) (gp : BitVec 5) (tf : BitVec 8) (s : State) : Res :=
  .next (dForm .movt 1 (db == 0#3) t c dd da db gp tf s)

/-! ### The Enlarger (10 R282–R286) -/

/-- ENL (10 R282): its operands are read at issue. -/
def execEnl (t : TileId) (c : CtxId) (ra rb rc : BitVec 5) (xfn : BitVec 11) (s : State) : Res :=
  .next (issue t c { reads := [ra.toNat, rb.toNat, rc.toNat] }
    (legal (fld xfn.toNat 8 2 == 0 && fld xfn.toNat 0 8 != 255) (fun s =>
      enqueueStart t { kind := .enl, sub := 0, ctx := c, iaddr := (s.cx t c).pc, tf := xfn.setWidth 8, a := rv s t c ra,
                       b := rv s t c rb, n := rv s t c rc, chip := xfn.getLsbD 10 } s)) s)

/-- Whether tile `k` is a target of a request of tile `t` (10 R282). -/
def enlTarget (s : State) (t : Nat) (chip : Bool) (k : Nat) : Bool :=
  if chip then decide (partOf s t < 6) && partOf s k == partOf s t else regionOf k == regionOf t

/-- The operand checks of R283. -/
def enlCheck (s : State) (t : Nat) (q : StartReq) : Except Denial Unit :=
  let len := 128 * q.n.toNat
  let a := fld q.a.toNat 0 47
  if 8192 < q.n.toNat ∨ q.b.toNat % 128 ≠ 0 ∨ 0x100000 < q.b.toNat + len ∨ q.a.toNat % 128 ≠ 0 then .error (0x02, a)
  else match spanOf s q.a.toNat (max 1 len) with
  | some (.tile k) => if enlTarget s t q.chip k then .ok ()
      else if partOf s k ≠ partOf s t then .error (0x0A, a) else .error (0x02, a)
  | some .bulk => if inShare s (partOf s t) a && inShare s (partOf s t) (a + max 1 len - 1) then .ok () else .error (0x0A, a)
  | _ => .error (0x02, a)

/-- The target tiles of a request. -/
def enlTargets (s : State) (q : EnlReq) : List Nat := if q.chip then partTiles s (partOf s q.t) else tilesOf (regionOf q.t)

/-- Accept an ENL: its flag clears, its destination belongs to the transfer, and the request joins the branch's or the
root's queue; with no lines it is complete (10 R282–R284). -/
def startEnl (t : Nat) (q : StartReq) (s : State) : State :=
  let s := traceStart t q 1 (clearFlag t q.tf (popQueue t 4 s))
  if q.n = 0 then traceDone t q 2 0 (putFlag t q.tf.toNat true s)
  else
    let len := 128 * q.n.toNat
    let a := fld q.a.toNat 0 47
    let r : EnlReq := { t := t, ctx := q.ctx, iaddr := q.iaddr, src := q.a, dst := q.b.toNat, lines := q.n.toNat, tf := q.tf,
                        chip := q.chip, tainted := q.unsure s a len }
    let s := (enlTargets s r).foldl (fun s k => touchWrite (tileBase k + r.dst) len s) s
    let r := { r with tainted := r.tainted || (enlTargets s r).any (fun k => meets a len (tileBase k + r.dst) len) }
    if q.chip then s.onDev (fun d => { d with root := { d.root with queue := d.root.queue ++ [r] } })
    else s.onRegion (regionOf t) (fun g => { g with enl := { g.enl with queue := g.enl.queue ++ [r] } })

/-- The transfer unit takes an ENL at its queue's head, or holds it while the branch's or the root's queue is full (10
R284). -/
def takeEnl (t : Nat) (q : StartReq) (s : State) : State :=
  match enlCheck s t q with
  | .error d => refuseStart t q d s
  | .ok () =>
    let full := if q.chip then decide (32 ≤ s.dev.root.queue.length) else decide (8 ≤ (s.region (regionOf t)).enl.queue.length)
    if (s.tile t).un.resv = 0 then refuseStart t q (0x03, 0) s
    else if full && q.n != 0 then s
    else startEnl t q s

/-- Change a branch, or the root. -/
def onBranch (b : Option RegionId) (f : EnlBranch → EnlBranch) (s : State) : State :=
  match b with
  | some r => s.onRegion r (fun g => { g with enl := f g.enl })
  | none => s.onDev (fun d => { d with root := f d.root })

/-- A branch, or the root. -/
def branchOf (s : State) (b : Option RegionId) : EnlBranch :=
  match b with
  | some r => (s.region r).enl
  | none => s.dev.root

/-- Whether a chip-wide transfer of the region's partition is ready or in progress (10 R284). -/
def chipWaits (s : State) (r : Nat) : Bool :=
  let mine := fun (q : EnlReq) => partOf s q.t == partOfRegion s r
  (match s.dev.root.cur with | some (q, _) => mine q | none => false)
    || (match s.dev.root.queue with | q :: _ => mine q | [] => false)

/-- ENL_TRANSFER_START: a branch begins its next transfer, unless a chip-wide one of its partition goes first; the root
begins its next one when every branch of its partition is free (10 R284). -/
def execEnlTransferStart (branch : Option RegionId) (s : State) : Res :=
  .next (selfTimed s <|
    let e := branchOf s branch
    match e.cur, e.queue with
    | none, q :: _ =>
      let free := match branch with
        | some r => !chipWaits s r
        | none => (bandOf s (partOf s q.t)).all (fun r => (s.region r).enl.cur.isNone)
      if free then onBranch branch (fun e => { e with cur := some (q, 0), queue := e.queue.drop 1 }) s else s
    | _, _ => s)

/-- The next line of a transfer. -/
def enlLine (q : EnlReq) (k : Nat) (s : State) : Except (Nat × Nat) Bytes × State :=
  let a := fld q.src.toNat 0 47 + 128 * k
  match s.place a with
  | .sram _ _ =>
    match s.badIn a 128 with
    | some w => (.error (0x01, w), s)
    | none => if q.tainted then let (d, s) := drawBytes 128 s; (.ok d, s) else (.ok (s.bytes a 128), s)
  | _ =>
    match homeRead (shareOwner s a) a 128 true s with
    | (.error c, s) => (.error (c, a), s)
    | (.ok d, s) => (.ok d, s)

/-- Land one line in a target: the first clears its flag, the last sets it (10 R282). -/
def landLine (q : EnlReq) (k : Nat) (d : Bytes) (t : Nat) (s : State) : State :=
  if (s.tile t).clearing then s
  else
    let s := s.poke (tileBase t + q.dst + 128 * k) d
    let s := if k = 0 ∧ t ≠ q.t then putFlag t q.tf.toNat false s else s
    if k + 1 = q.lines then putFlag t q.tf.toNat true s else s

/-- Count a line at every branch that delivers it (10 R287). -/
def countLines (q : EnlReq) (s : State) : State :=
  (if q.chip then bandOf s (partOf s q.t) else [regionOf q.t]).foldl (fun s r =>
    s.onRegion r (fun g => { g with enl := { g.enl with lines := g.enl.lines + 1 } })) s

/-- The start request that an Enlarger request came from, for its trace record. -/
def EnlReq.req (q : EnlReq) : StartReq := { kind := .enl, sub := 0, ctx := q.ctx, iaddr := q.iaddr, tf := q.tf }

/-- Whether the tile that a transfer reads from lets the line go: a tile source injects it against its reservation
(15 R406, R408). -/
def enlAdmit (q : EnlReq) (s : State) : Bool × State :=
  let a := fld q.src.toNat 0 47
  if a < 0x120000000 then
    match takeTurn (a / 0x100000) 7 1 s with
    | (true, s) => (true, s.onTile (a / 0x100000) (fun x => x.count 0x20 2))
    | (false, s) => (false, s)
  else (true, s)

/-- ENL_LINE_LANDING: the next line of the transfer in progress lands in every target (10 R282, 16 R439). -/
def execEnlLineLanding (branch : Option RegionId) (s : State) : Res :=
  .next (selfTimed s <|
    match (branchOf s branch).cur with
    | none => s
    | some (q, k) =>
      if xferWaits s (fld q.src.toNat 0 47 + 128 * k) 128 then s
      else match enlAdmit q s with
      | (false, s) => s
      | (true, s) =>
        match enlLine q k s with
        | (.error e, s) =>
          tileFault q.t { code := BitVec.ofNat 8 e.1, daddr := e.2, src := 6, ctx := q.ctx, iaddr := q.iaddr, progress := k }
            (onBranch branch (fun b => { b with cur := none }) s)
        | (.ok d, s) =>
          let s := countLines q ((enlTargets s q).foldl (fun s t => landLine q k d t s) s)
          if k + 1 < q.lines then onBranch branch (fun b => { b with cur := some (q, k + 1) }) s
          else traceDoneFree q.t q.req q.lines (onBranch branch (fun b => { b with cur := none }) s))

end Sys2Proof.Machine
end

