-- ==== Sys2Proof/Machine/Vector.lean ====
section
/-!
DEFINITION. The Vector Engine (06): element-wise operations, functions, reductions, softmax, normalisation and the token
sampler; and the Grain generator's fills (13 R372).
-/
namespace Sys2Proof.Machine

/-! ### The parameter word (06 R159, R160) -/

structure VeParam where
  rnd : Bool
  gain : Bool
  topk : Nat
  resv : Nat
  stream : Nat
  scalar : Num
  deriving DecidableEq, Repr

def veParam (w : Word) : VeParam :=
  let n := w.toNat
  { rnd := nbit n 0, gain := nbit n 1, topk := fld n 2 7, resv := fld n 9 7, stream := fld n 16 16,
    scalar := fp32.decode (fld n 32 32) }

/-- What an operation does with its operands. -/
inductive VeClass where
  /-- Element by element from `n` sources, `acc` reading dd too. -/
  | elem (n : Nat) (acc : Bool)
  | vtr
  | reduce
  | softmax
  | norm
  | samp
  deriving DecidableEq, Repr

/-- The class of a VE request (06 R158). -/
def veClass (q : StartReq) : VeClass :=
  match q.kind with
  | .cvt => .elem 1 false
  | .fill => .elem 0 false
  | .vtr => .vtr
  | .samp => .samp
  | _ => match q.sub.toNat with
    | 3 => .elem 2 true
    | 6 => .elem 1 false
    | 7 => .elem 1 false
    | 8 => .reduce
    | 9 => .reduce
    | 10 => .reduce
    | 11 => .softmax
    | 12 => .norm
    | 13 => .norm
    | _ => .elem 2 false

/-- Whether the operation reads SCALAR (06 R159). -/
def readsScalar (q : StartReq) : Bool :=
  match q.kind with
  | .fill => true
  | .samp => true
  | .vop => q.sub == 6#4 || q.sub == 7#4 || q.sub == 11#4 || q.sub == 12#4 || q.sub == 13#4
  | _ => false

/-- The sources, in the order da, db. -/
def veSources (q : StartReq) (p : VeParam) (op : RunOp) : List (BitVec 256) :=
  match veClass q with
  | .elem 0 _ => []
  | .elem 1 _ => [op.dA]
  | .elem _ _ => [op.dA, op.dB]
  | .norm => if p.gain then [op.dA, op.dB] else [op.dA]
  | _ => [op.dA]

/-- Equal extents. -/
def sameExt (a b : Desc) : Bool := a.ext0 == b.ext0 && a.ext1 == b.ext1 && a.ext2 == b.ext2

/-- Exact coincidence (06 R164). -/
def coincide (a b : Desc) : Bool :=
  a.base == b.base && sameExt a b && a.s1 == b.s1 && a.s2 == b.s2 && fmtWidth a.fmt == fmtWidth b.fmt && a.scl == b.scl

/-- A negative value other than -0. -/
def isNegative (x : Num) : Bool := x.isNeg && !x.isZero

/-- The checks of the parameter word (06 R159–R161). Its reserved bits [15:9] are no value of a field, but R161 faults a reserved
value in the word while 00 R14 has reserved bits ignored: the model faults where they are not 0 (DESIGN CHOICE, log 71). -/
def veParamOk (q : StartReq) (p : VeParam) : Bool :=
  let k := veClass q
  let draws := if k = .samp then !p.scalar.isZero else p.rnd
  let gpOk := q.gp.toNat % 2 == 0 && q.gp.toNat != 0
  p.resv == 0 && (!p.gain || decide (k = .norm)) && (if k = .samp then decide (p.topk ≤ 64) else p.topk == 0)
    && (!draws || gpOk) && (!readsScalar q || p.scalar.isFinite)
    && !(decide (k = .norm) && isNegative p.scalar) && !(decide (k = .samp) && isNegative p.scalar)
    && !(decide (k = .softmax) && !p.scalar.isZero && (p.scalar.isNeg || p.scalar.lt (.pow2 (-126))))

/-- Acceptance of a VE operation but OPT (06 R161–R165, R173). -/
def acceptVe (s : State) (t : Nat) (q : StartReq) : Except Denial RunOp :=
  let op := baseOp s t q
  let p := veParam op.param
  let k := veClass q
  let srcs := veSources q p op
  let d := descOf op.dC
  let a := descOf op.dA
  let b := descOf op.dB
  match checkDescs s (some t) (srcs ++ [op.dC]) with
  | .error e => .error e
  | .ok () =>
    need (veParamOk q p) (
    need (match k with
      | .reduce => d.ext0 == 1 && d.ext1 == a.ext1 && d.ext2 == a.ext2
      | .samp => d.fmt == 0 && d.scl == 0 && d.mta == 0 && d.ext0 == 2 && d.ext1 == a.ext1 && d.ext2 == a.ext2
      | .norm => sameExt a d && (!p.gain || (b.ext0 == a.ext0 && b.bc1 && b.bc2))
      | .elem _ _ => srcs.all (fun v => sameExt (descOf v) d)
      | _ => sameExt a d) (
    need (d.scl != 1 || d.kdim == 0) (
    need (srcs.all (fun v => (coincide (descOf v) d && decide (k ≠ .samp)) || !footsMeet ((descOf v).foot s) (d.foot s))) (
    let res := footRange (d.foot s)
    .ok { op with tokens := 1, res := res,
                  opnd := srcs.flatMap (fun v => footRange ((descOf v).foot s))
                    ++ (if k = .elem 2 true then res else []) }))))

/-! ### Values -/

/-- One element of an element-wise operation (06 R166). -/
def elemOp (q : StartReq) (p : VeParam) (a b c : Num) : Num :=
  match q.kind with
  | .cvt => a
  | .fill => p.scalar
  | _ => match q.sub.toNat with
    | 0 => a.add b
    | 1 => a.add b.neg
    | 2 => a.mul b
    | 3 => (a.mul b).add c
    | 4 => a.minimum b
    | 5 => a.maximum b
    | 6 => a.mul p.scalar
    | _ => a.add p.scalar

/-- The sum of a row under R168: exact block sums aligned to 60 bits, added into A80. The A80 starts at +0, as R143's does,
so a row of -0 sums to +0 (DEDUCED, log 71). -/
def rowSum (xs : List Num) : Num :=
  (pieces 32 xs.length xs).foldl (fun acc blk => let (t, st) := blockSum (some 60) blk; toA80s (acc.add t) st) .zero

/-- A row's reduction (06 R168, R169). -/
def rowReduce (sub : Nat) (ints : Bool) (xs : List Num) : Num :=
  match sub with
  | 8 => if ints then .ofInt (signed 64 (toBits 64 (xs.foldl (fun k x => k + numInt x) 0))) else rowSum xs
  | 9 => match xs with
    | [] => .zero
    | x :: l => l.foldl Num.maximum x
  | _ => xs.foldl (fun m x => m.maximum x.abs) .zero

/-- β x log2 e in A80, rounded to odd (06 R170). -/
def softArg (β x : Num) : Num :=
  match β.mul x with
  | .fin s n e => if n = 0 then .fin s 0 0 else toA80 (.fin s (n * log2eFix256 * 4 + 1) (e - 258))
  | y => y

/-- ⌈x⌉ of a finite value. -/
def numCeil (x : Num) : Int :=
  match x with
  | .fin s n e =>
    if 0 ≤ e then scaledInt s n e 0
    else
      let d := 2 ^ (-e).toNat
      if s then -((n / d : Nat) : Int) else ((cdiv n d : Nat) : Int)
  | _ => 0

/-- The first pass over a row's chunks of 16: running maximum and partial sum (06 R170). -/
def softPass (st : Option Int × Num) (us : List Num) : Option Int × Num :=
  let m1 := us.foldl (fun (b : Option Int) u => if u.isFinite then
      (match b with | some j => some (max j (numCeil u)) | none => some (numCeil u)) else b) st.1
  match m1 with
  | none => st
  | some m =>
    let s := match st.1 with | some m0 => st.2.scale (m0 - m) | none => st.2
    (some m, us.foldl (fun s u => toA80 (s.add (fnExp2 (u.add (.ofInt (-m)))))) s)

/-- exp(-x) of an exact x ≥ 0: from 0 to 2^-360 where x is 256 or more. -/
def enclDecay (x : Num) : Encl :=
  match x with
  | .fin _ n e => if n = 0 then (.pow2 0, .pow2 0)
      else if 8 ≤ floorLog2 n 1 e then (.zero, .pow2 (-360)) else enclExpNeg n e
  | _ => (.zero, .zero)

/-- The quotient of two positive enclosures. -/
def enclRatio (a b : Encl) : Encl :=
  let q := fun (up : Bool) (x y : Num) => match x, y with
    | .fin _ n e, .fin _ d f => if n = 0 then Num.zero else if up then (enclDiv n e d f).2 else (enclDiv n e d f).1
    | _, _ => .zero
  (q false a.1 b.2, q true a.2 b.1)

/-- The exact softmax of a row's values βx, none where a value is -∞ (06 R171). -/
def softExact (ys : List Num) : List (Option Encl) :=
  let top := ys.foldl (fun (b : Num) y => if b.lt y then y else b) (.inf true)
  let es := ys.map (fun y => if y.isFinite then some (enclDecay (top.add y.neg)) else none)
  let sum := es.foldl (fun (a : Encl) e => match e with | some e => (a.1.add e.1, a.2.add e.2) | none => a) (.zero, .zero)
  es.map (fun e => e.map (fun e => enclRatio e sum))

/-- SOFTMAX of a row (06 R170). Each output is within 4 ulp of the exact softmax (R171). -/
def softmaxRow (β : Num) (xs : List Num) : List Num :=
  if xs.any (fun x => !x.isFinite && x ≠ .inf true) then xs.map (fun _ => .nan)
  else
    let us := xs.map (softArg β)
    let r := (pieces 16 us.length us).foldl softPass (none, .zero)
    match r.1 with
    | none => xs.map (fun _ => .zero)
    | some m =>
      let rec' := fnRecip r.2
      (List.zip us (softExact (xs.map β.mul))).map (fun p => match p.2 with
        | some z => within 4 z (BitVec.ofNat 32 (fp32.encode .rne ((fnExp2 (p.1.add (.ofInt (-m)))).mul rec')))
        | none => .zero)

/-- A finite value as a signed integer of units 2^u. -/
def atUnit (u : Int) (x : Num) : Int := match x with | .fin s n e => scaledInt s n e u | _ => 0

/-- Exponent of a value; 0 for one that is not finite. -/
def numExp (x : Num) : Int := match x with | .fin _ _ e => e | _ => 0

/-- A value as mantissa and exponent. -/
def keyOf (x : Num) : Int × Int := match x with | .fin s n e => (scaledInt s n e e, e) | _ => (0, 0)

/-- The normalisation of a row of finite values (06 R172): within 4 ulp of the exact value, also where the argument's FP32
value would be 0 or ∞ (DEDUCED, log 71). The argument is (Σ d²) / k^w * 2^(2u) + ε with d the values, or k times their
distances from the mean. -/
def normFinite (layer : Bool) (ε : Num) (xs gs : List Num) : List Num :=
  let k : Int := (xs.length : Nat)
  let u : Int := xs.foldl (fun (u : Int) x => min u (numExp x)) 0
  let ns : List Int := xs.map (atUnit u)
  let total : Int := ns.foldl (· + ·) 0
  let ds : List Int := if layer then ns.map (fun n => k * n - total) else ns
  let sq : Nat := ds.foldl (fun (a : Nat) (d : Int) => a + (d * d).natAbs) 0
  let den := if layer then xs.length ^ 3 else xs.length
  let lo := min (2 * u) (numExp ε)
  let argN := sq * 2 ^ (2 * u - lo).toNat + (atUnit lo ε).natAbs * den
  (List.zip ds (List.zip xs gs)).zipIdx.map (fun (p : (Int × Num × Num) × Nat) =>
    let d : Int := p.1.1
    let g := p.1.2.2
    let neg := if layer then decide (d < 0) else p.1.2.1.isNeg
    if argN = 0 then .nan
    else if d = 0 then (Num.fin neg 0 0).mul g
    else match g with
    | .fin sg ng eg =>
      if ng = 0 then .fin (neg != sg) 0 0
      else
        let cand := Config.normalised layer (xs.map keyOf) (gs.map keyOf) (keyOf ε) p.2
        let top := d.natAbs * d.natAbs * ng * ng * den
        let bot := argN * (if layer then xs.length * xs.length else 1)
        let z := enclSqrt top bot (2 * u + 2 * eg - lo)
        within 4 (if neg != sg then (z.2.neg, z.1.neg) else z) cand
    | g => (Num.fin neg 1 0).mul g)

/-- The normalisation of a row; one with an infinity or NaN follows the formula in IEEE 754 (06 R172, R168). -/
def normRow (layer : Bool) (ε : Num) (xs gs : List Num) : List Num :=
  if xs.all Num.isFinite then normFinite layer ε xs gs
  else if layer ∨ xs.any (fun x => x = .nan) then xs.map (fun _ => .nan)
  else (List.zip xs gs).map (fun p => (p.1.mul .zero).mul p.2)

/-! ### The sampler (06 R173–R175) -/

/-- Keep the better of two candidates: the larger value, the earlier on a tie. -/
def better (b : Option (Nat × Num)) (i : Nat) (x : Num) : Option (Nat × Num) :=
  match b with
  | none => some (i, x)
  | some (_, y) => if y.lt x then some (i, x) else b

/-- The indices of the candidates of a row: the `k` largest, or all, but never -∞. -/
def sampCands (k : Nat) (xs : List Num) : List Nat :=
  let all := xs.zipIdx.filter (fun p => p.1 ≠ .inf true)
  if k = 0 ∨ xs.length ≤ k then all.map (fun p => p.2)
  else
    let ahead := fun (p q : Num × Nat) => p.1.lt q.1 || (!(q.1.lt p.1) && decide (q.2 < p.2))
    (all.filter (fun p => decide ((all.filter (fun q => ahead p q)).length < k))).map (fun p => p.2)

/-- x / T rounded to FP32. -/
def divT (x t : Num) : Num :=
  match t with
  | .fin _ n e => toFp32 .rne (x.scale (-e)) n
  | _ => x

/-- g of a draw (06 R174): the candidate where it lies within 2^-20 of -ln(-ln u), otherwise that value rounded to nearest.
The bound is the model's; R175 needs one of this size (DESIGN CHOICE, log 72). -/
def gumbelOf (r : BitVec 32) : Num := closeTo (.pow2 (-20)) (enclGumbel r.toNat) (Config.gumbel r)

/-- The two words of a row: the token and the scaled logit (06 R174). -/
def sampRow (topk : Nat) (temp : Num) (draw : Nat → BitVec 32) (xs : List Num) : Nat × Num :=
  if xs.any (fun x => x = .nan) then (0xFFFFFFFF, .nan)
  else match xs.findIdx? (fun x => x = .inf false) with
  | some i => (i, .inf false)
  | none =>
    let cs := sampCands topk xs
    let x := fun (i : Nat) => (xs[i]?).getD .zero
    if temp.isZero then
      match cs.foldl (fun b i => better b i (x i)) none with
      | some (i, v) => (i, toFp32 .rne v)
      | none => (0xFFFFFFFF, .zero)
    else
      match cs.foldl (fun b i => better b i (toFp32 .rne ((divT (x i) temp).add (gumbelOf (draw i))))) none with
      | some (i, _) => (i, divT (x i) temp)
      | none => (0xFFFFFFFF, .zero)

/-! ### Prefixes (06 R180) -/

/-- 64 B vectors of one row of dd. Where a whole vector begins is not stated: the model counts them from the start of each dim0
row, with a short one at its end (DESIGN CHOICE, log 80). -/
def vecsPerRow (d : Desc) : Nat := cdiv d.rowBytes 64

/-- How many elements of a row lie in its first `v` vectors; whole scale blocks under SCL = 01. -/
def elemsInVecs (d : Desc) (v : Nat) : Nat :=
  let n := min d.ext0 (512 * v / fmtWidth d.fmt)
  if d.scl = 1 ∧ n < d.ext0 then n / 32 * 32 else n

/-- The tile ranges that element i of a source is read from. -/
def elemRanges (d : Desc) (i : Nat) : List (Nat × Nat) :=
  let i0 := i % d.ext0
  let i1 := i / d.ext0 % d.ext1
  let i2 := i / d.ext0 / d.ext1
  let w := fmtWidth d.fmt
  let lo := i0 * w / 8
  (d.row i1 i2 + lo, ((i0 + 1) * w + 7) / 8 - lo) ::
    (if d.scl = 1 then [(d.scaleLoc + d.scaleIdx i0 i1 i2, 1)] else [])

/-- The first element of some sources that meets a two-bit error, with the codeword: the lowest one where the reads of one element
meet several (DESIGN CHOICE, log 80). -/
def firstBadElem (s : State) (opnd : List (Nat × Nat)) (srcs : List Desc) : Option (Nat × Nat) :=
  if (badInRanges s opnd).isNone then none
  else (List.range (maxOf (srcs.map Desc.count))).findSome? (fun i =>
    (badInRanges s (srcs.flatMap (fun d => if i < d.count then elemRanges d i else []))).map (fun k => (i, k)))

/-- Write the first `lim` elements, counted row-major, of dd's values. -/
def putFirst (d : Desc) (tainted : Bool) (how : Nat → RMode) (vals : List Num) (lim : Nat) (s : State) : Written :=
  ((rowsOf d.ext0 vals).zipIdx).foldl (fun w p =>
    d.put tainted how 0 (p.2 % d.ext1) (p.2 / d.ext1) (p.1.take (lim - p.2 * d.ext0)) w) { s := s }

/-! ### Counts (06 R177) -/

/-- Whether the operation runs in 32 lanes (06 R157). -/
def wideLanes (q : StartReq) (ds : List Desc) : Bool :=
  (match q.kind with
    | .cvt => true
    | .fill => true
    | .vop => decide (q.sub.toNat ≤ 7) && q.sub != 3#4
    | _ => false) && ds.all (fun d => decide (fmtWidth d.fmt ≤ 16))

/-- The beats of a VE operation but OPT. -/
def veBeats (q : StartReq) (p : VeParam) (d a : Desc) (srcs : List Desc) : Nat :=
  let e := d.count
  let n := a.ext0
  let r := a.ext1 * a.ext2
  let lanes := if p.rnd then 8 else if wideLanes q (d :: srcs) then 32 else 16
  let w := if p.rnd then 8 else 16
  match veClass q with
  | .elem _ _ => 5 + cdiv e lanes
  | .vtr => 9 + cdiv e w
  | .reduce => 8 + r * cdiv n 16
  | .softmax => 8 + r * (cdiv n 16 + cdiv n w + 12)
  | .norm => 8 + r * ((if q.sub = 13#4 then 2 else 1) * cdiv n 16 + cdiv n w + 14)
  | .samp =>
    if p.scalar.isZero then 8 + r * (cdiv n 16 + 4)
    else if p.topk = 0 then 8 + r * (cdiv n 8 + 60)
    else 8 + r * (cdiv n 16 + min p.topk n + 60)

/-! ### Completion -/

/-- The seed in force of tile `t`'s Grain generator (13 R368). -/
def seedOf (s : State) (t : Nat) : Nat := (s.tile t).un.seed.toNat

/-- Carry out SAMP. -/
def runSamp (t : Nat) (op : RunOp) (p : VeParam) (s : State) : OpEnd :=
  let d := descOf op.dC
  let a := descOf op.dA
  let n := a.ext0
  let draw := fun (i : Nat) => grainDraw (seedOf s t) p.stream (op.idx.toNat + i)
  let bad := firstBadElem s op.opnd [a]
  let lim := match bad with | some (i, _) => i / n | none => d.ext1 * d.ext2
  let rows := if n = 0 then List.replicate (a.ext1 * a.ext2) [] else rowsOf n (a.elems s)
  let w := ((rows.take lim).zipIdx).foldl (fun (w : Written) x =>
    let r := x.2
    if op.tainted then
      let (v, s) := drawFree 64 w.s
      ({ w with s := d.putRaw 0 (r % d.ext1) (r / d.ext1) [fld v.toNat 0 32, fld v.toNat 32 32] s }).mark (2 * r + 1)
        (!(fp32.decode (fld v.toNat 32 32)).isFinite)
    else
      let (k, z) := sampRow p.topk p.scalar (fun i => draw (r * n + i)) x.1
      ({ w with s := d.putRaw 0 (r % d.ext1) (r / d.ext1) [k, fp32.encode .rne z] w.s }).mark (2 * r + 1) (!z.isFinite))
    { s := s }
  { s := w.s, beats := veBeats op.req p d a [a], progress := lim, fault := bad.map (fun b => (0x01, b.2)), nf := w.nf }

/-- Carry out a VE operation but SAMP and OPT. A two-bit error in the gains of a normalisation stops it before its first row, as no
rule says when a gain is read (DESIGN CHOICE, log 80). -/
def runVe (t : Nat) (op : RunOp) (s : State) : OpEnd :=
  let q := op.req
  let p := veParam op.param
  let d := descOf op.dC
  let a := descOf op.dA
  let srcs := (veSources q p op).map descOf
  let k := veClass q
  if d.count = 0 then { s := s, beats := 2 }
  else if k = .samp then runSamp t op p s
  else
    let reads := if k = .elem 2 true then srcs ++ [d] else srcs
    let bad := firstBadElem s op.opnd reads
    let byElem := match k with | .elem _ _ => true | .vtr => true | _ => false
    let all := d.ext1 * d.ext2 * d.ext0
    let lim := match bad with
      | none => all
      | some (i, _) =>
        if byElem then i / d.ext0 * d.ext0 + elemsInVecs d (i % d.ext0 * fmtWidth d.fmt / 512)
        else if k = .norm ∧ p.gain ∧ (badInRanges s (elemRanges a i)).isNone then 0
        else i / a.ext0 * d.ext0
    let vals := match k with
      | .elem n acc =>
        let xs := if n = 0 then [] else a.elems s
        let ys := if n = 2 then (descOf op.dB).elems s else []
        let zs := if acc then d.elems s else []
        (List.range d.count).map (fun i =>
          elemOp q p ((xs[i]?).getD .zero) ((ys[i]?).getD .zero) ((zs[i]?).getD .zero))
      | .vtr => (a.elems s).map (vtrFn q.sub.toNat)
      | .reduce => (if a.ext0 = 0 then List.replicate d.count [] else rowsOf a.ext0 (a.elems s)).map
          (rowReduce q.sub.toNat a.format.isInt)
      | .softmax => (rowsOf a.ext0 (a.elems s)).flatMap (softmaxRow (if p.scalar.isZero then .pow2 0 else p.scalar))
      | .norm =>
        let gs := if p.gain then ({ (descOf op.dB) with ext1 := 1, ext2 := 1 } : Desc).elems s
          else List.replicate a.ext0 (.pow2 0)
        (rowsOf a.ext0 (a.elems s)).flatMap (fun xs => normRow (q.sub == 13#4) p.scalar xs gs)
      | .samp => []
    let how := fun (i : Nat) => if p.rnd then
      RMode.sr (grainDraw (seedOf s t) p.stream (op.idx.toNat + i)) else .rne
    let w := putFirst d op.tainted how vals lim s
    { s := w.s, beats := veBeats q p d a srcs,
      progress := lim / d.ext0 * vecsPerRow d + lim % d.ext0 * fmtWidth d.fmt / 512,
      fault := bad.map (fun b => (0x01, b.2)), nf := w.nf }

/-! ### The Grain generator (13 R372) -/

/-- Acceptance of a GRN. -/
def acceptGrn (s : State) (t : Nat) (q : StartReq) : Except Denial RunOp :=
  let op := baseOp s t q
  let d := descOf op.dC
  match checkDescs s (some t) [op.dC] with
  | .error e => .error e
  | .ok () =>
    need (q.gp.toNat % 2 == 0 && q.gp.toNat != 0 && fld op.param.toNat 0 16 == 0
      && (q.sub == 2#4 || fld op.param.toNat 32 32 == 0)
      && (if q.sub = 0#4 then d.fmt == 0 else decide (d.fmt ≤ 2) && d.scl == 0 && d.mta == 0)) (
    .ok { op with tokens := 1, res := footRange (d.foot s) })

/-- K of MASK: 1 / (1 - Q * 2^-32) in FP32 (13 R372). -/
def maskK (q : Nat) : Num := toFp32 .rne (.fin false (2 ^ 32) 0) (2 ^ 32 - q)

/-- Carry out a GRN. -/
def runGrn (t : Nat) (op : RunOp) (s : State) : OpEnd :=
  let d := descOf op.dC
  let q := fld op.param.toNat 32 32
  let stream := fld op.param.toNat 16 16
  if d.count = 0 then { s := s, beats := 2 }
  else
    let draws := (List.range d.count).map (fun i => grainDraw (seedOf s t) stream (op.idx.toNat + i))
    let beats := 52 + cdiv d.count 8
    let progress := d.ext1 * d.ext2 * vecsPerRow d
    if op.req.sub = 0#4 then
      let s := ((rowsOf d.ext0 draws).zipIdx).foldl (fun s p =>
        d.putRaw 0 (p.2 % d.ext1) (p.2 / d.ext1) (p.1.map (fun r => r.toNat)) s) s
      { s := s, beats := beats, progress := progress }
    else
      let val := fun (r : BitVec 32) => if op.req.sub = 1#4 then Num.fin false (r.toNat / 256) (-24)
        else if r.toNat < q then .zero else maskK q
      let w := putFirst d false (fun _ => .rne) (draws.map val) d.count s
      { s := w.s, beats := beats, progress := progress }

/-! ### The commands -/

/-- VOP (06 R158): the unused db names d0. -/
def execVop (t : TileId) (c : CtxId) (dd da db : BitVec 3) (gp : BitVec 5) (tf : BitVec 8) (sub : BitVec 4) (s : State) :
    Res :=
  .next (dForm .vop sub.toNat (decide (sub.toNat ≤ 13) && (db == 0#3 || !(decide (6 ≤ sub.toNat) && decide (sub.toNat ≤ 11))))
    t c dd da db gp tf s)

/-- VTR (06 R158, R167). -/
def execVtr (t : TileId) (c : CtxId) (dd da db : BitVec 3) (gp : BitVec 5) (tf : BitVec 8) (sub : BitVec 4) (s : State) :
    Res :=
  .next (dForm .vtr sub.toNat (decide (sub.toNat ≤ 5) && db == 0#3) t c dd da db gp tf s)

/-- CVT (04 R125, 06 R167). -/
def execCvt (t : TileId) (c : CtxId) (dd da db : BitVec 3) (gp : BitVec 5) (tf : BitVec 8) (sub : BitVec 4) (s : State) :
    Res :=
  .next (dForm .cvt sub.toNat (sub == 0#4 && db == 0#3) t c dd da db gp tf s)

/-- FILL (06 R158). -/
def execFill (t : TileId) (c : CtxId) (dd da db : BitVec 3) (gp : BitVec 5) (tf : BitVec 8) (sub : BitVec 4) (s : State) :
    Res :=
  .next (dForm .fill sub.toNat (sub == 0#4 && da == 0#3 && db == 0#3) t c dd da db gp tf s)

/-- SAMP (06 R173). -/
def execSamp (t : TileId) (c : CtxId) (dd da db : BitVec 3) (gp : BitVec 5) (tf : BitVec 8) (sub : BitVec 4) (s : State) :
    Res :=
  .next (dForm .samp sub.toNat (sub == 0#4 && db == 0#3) t c dd da db gp tf s)

/-- GRN BITS (13 R372). -/
def execGrnBits (t : TileId) (c : CtxId) (dd da db : BitVec 3) (gp : BitVec 5) (tf : BitVec 8) (s : State) : Res :=
  .next (dForm .grn 0 (da == 0#3 && db == 0#3) t c dd da db gp tf s)

/-- GRN UNIFORM. -/
def execGrnUniform (t : TileId) (c : CtxId) (dd da db : BitVec 3) (gp : BitVec 5) (tf : BitVec 8) (s : State) : Res :=
  .next (dForm .grn 1 (da == 0#3 && db == 0#3) t c dd da db gp tf s)

/-- GRN MASK. -/
def execGrnMask (t : TileId) (c : CtxId) (dd da db : BitVec 3) (gp : BitVec 5) (tf : BitVec 8) (s : State) : Res :=
  .next (dForm .grn 2 (da == 0#3 && db == 0#3) t c dd da db gp tf s)

/-- GRN_COMPLETION: the running fill is written and its flag set (13 R372). -/
def execGrnCompletion (t : TileId) (s : State) : Res := .next (complete t 3 (runGrn t) s)

end Sys2Proof.Machine
end

