-- ==== Sys2Proof/Machine/Optim.lean ====
section
/-!
DEFINITION. Optimiser updates: OPT (13 R345–R350, 06 R176, R180).
-/
namespace Sys2Proof.Machine

/-! ### The hyperparameter record (13 R347) -/

structure Hyper where
  lr : Num
  b1 : Num
  b2 : Num
  eps : Num
  wd : Num
  gscale : Num
  c1 : Num
  c2 : Num
  phi : Num
  stream : Nat
  crcen : Bool
  idxBase : Nat
  resv : Bool
  deriving DecidableEq, Repr

/-- Read the 64 bytes of a record. -/
def hyperOf (bs : Bytes) : Hyper :=
  let n := leNat bs
  let f := fun (lo : Nat) => fp32.decode (fld n lo 32)
  { lr := f 0, b1 := f 32, b2 := f 64, eps := f 96, wd := f 128, gscale := f 160, c1 := f 192, c2 := f 224, phi := f 256,
    stream := fld n 288 16, crcen := nbit n 304, idxBase := fld n 384 64,
    resv := fld n 305 15 == 0 && fld n 352 32 == 0 && fld n 448 64 == 0 }

/-- 0 ≤ β < 1. -/
def betaOk (x : Num) : Bool := x.isFinite && (!x.isNeg || x.isZero) && x.lt (.pow2 0)

/-- The checks of the fields that a rule reads (13 R347, R348). -/
def Hyper.ok (h : Hyper) (sub : Nat) : Bool :=
  let adam := sub == 2 || sub == 4
  h.resv && h.lr.isFinite && h.wd.isFinite && h.gscale.isFinite
    && (sub == 3 || betaOk h.b1) && (decide (sub < 2) || betaOk h.b2)
    && (!(adam || sub == 3) || (h.eps.isFinite && (!h.eps.isNeg || h.eps.isZero)))
    && (!adam || (h.c1.isFinite && h.c2.isFinite))
    && (sub != 4 || (h.phi.isFinite && !h.phi.isNeg && !h.phi.isZero))

/-- The state tensors of an operation. -/
def optTensors (op : RunOp) : List (BitVec 256) := if optStates op.req.sub.toNat = 2 then [op.dB, op.dX] else [op.dB]

/-- Dense (13 R346). -/
def denseOk (d : Desc) (w : Nat) : Bool :=
  d.scl == 0 && d.mta == 0 && d.stride1 == w * d.ext0 && (d.bc2 || d.stride2 == d.stride1 * d.ext1)

/-- The checks of the tensors of OPT (13 R346). -/
def optShapes (sub : Nat) (d a b x : Desc) : Bool :=
  let moment := fun (m : Desc) => decide (m.fmt ≤ 1) && sameExt m d && denseOk m (if m.fmt = 0 then 4 else 2)
  let factor := fun (f : Desc) (n : Nat) => f.fmt == 0 && f.ext0 == n && f.ext1 == 1 && f.ext2 == 1 && f.bc1 && f.bc2
  d.fmt == 0 && denseOk d 4 && decide (a.fmt ≤ 2) && a.scl == 0 && a.mta == 0 && sameExt a d
    && (if sub = 3 then factor b d.ext1 && factor x d.ext0 && d.ext2 == 1
        else moment b && (optStates sub == 1 || moment x))

/-- Every two footprints of a list are apart. -/
def apart : List (Option (Int × Nat)) → Bool
  | [] => true
  | f :: l => l.all (fun g => !footsMeet f g) && apart l

/-- Acceptance of an OPT (13 R345–R347). -/
def acceptOpt (s : State) (t : Nat) (q : StartReq) : Except Denial RunOp :=
  let op := baseOp s t q
  let sub := q.sub.toNat
  let st := optTensors op
  let base := op.param.toNat
  let loc := fld base 0 47
  need (decide (q.db.toNat + optStates sub ≤ 8)) (
  match checkDescs s (some t) ([op.dA] ++ st ++ [op.dC]) with
  | .error e => .error e
  | .ok () =>
    if base % 64 ≠ 0 ∨ spanOf s base 64 ≠ some (.tile t) then .error (0x02, loc)
    else match s.badIn loc 64 with
    | some k => .error (0x01, k)
    | none =>
      let h := hyperOf (s.bytes loc 64)
      let d := descOf op.dC
      let a := descOf op.dA
      let feet := (d.foot s) :: (a.foot s) :: st.map (fun v => (descOf v).foot s)
      need (optShapes sub d a (descOf op.dB) (descOf op.dX) && apart (some ((loc : Int), 64) :: feet) && h.ok sub) (
      let stFeet := st.flatMap (fun v => footRange ((descOf v).foot s))
      let own := footRange (d.foot s) ++ stFeet
      .ok { op with tokens := 1, idx := (if h.crcen then 1#64 else 0#64),
                    opnd := own ++ footRange (a.foot s) ++ [(loc, 64)],
                    res := own ++ (if h.crcen then [(loc + 40, 4)] else []) }))

/-! ### Rules (13 R348, R349) -/

/-- A rounded product. -/
def fmul (x y : Num) : Num := toFp32 .rne (x.mul y)

/-- A rounded sum. -/
def fadd (x y : Num) : Num := toFp32 .rne (x.add y)

/-- A rounded difference. -/
def fsub (x y : Num) : Num := toFp32 .rne (x.add y.neg)

/-- a / b. -/
def fdiv (x y : Num) : Num := fmul x (fnRecip y)

/-- √x. -/
def fsqrt (x : Num) : Num := if x = .fin false 0 0 ∨ (x.isZero && !x.isNeg) then .zero else fmul x (fnRsqrt x)

/-- sign(x). -/
def fsign (x : Num) : Num :=
  match x with
  | .nan => .nan
  | .inf s => .fin s 1 0
  | .fin s n _ => if n = 0 then .zero else .fin s 1 0

/-- β x + (1 - β) y. -/
def blend (β x y : Num) : Num := fadd (fmul β x) (fmul (fsub (.pow2 0) β) y)

/-- The mean of a run under R168. -/
def fmean (xs : List Num) : Num := fmul (toFp32 .rne (rowSum xs)) (fnRecip (.ofInt (xs.length : Nat)))

/-- The norm of a run: the root of the sum of squares, which R349 has multiplied by the reciprocal of the count as a mean's
sum is (DEDUCED, log 71). -/
def fnorm (xs : List Num) : Num := fsqrt (fmean (xs.map (fun x => fmul x x)))

/-- w - η y. -/
def stepBy (η w y : Num) : Num := fsub w (fmul η y)

/-- The direction u of ADAMW and LAMB: C1 m / (√(C2 v) + ε) + λ w. -/
def adamDir (h : Hyper) (w m v : Num) : Num :=
  fadd (fdiv (fmul h.c1 m) (fadd (fsqrt (fmul h.c2 v)) h.eps)) (fmul h.wd w)

/-- New weight and moments of one parameter, for every rule but ADAFACTOR; τ is LAMB's ratio. -/
def optElem (sub : Nat) (h : Hyper) (τ w g m v : Num) : Num × Num × Num :=
  match sub with
  | 0 =>
    let m := fadd (fmul h.b1 m) g
    (stepBy h.lr w (fadd m (fmul h.wd w)), m, v)
  | 1 =>
    let m := fadd (fmul h.b1 m) g
    (stepBy h.lr w (fadd (fadd g (fmul h.b1 m)) (fmul h.wd w)), m, v)
  | 5 =>
    (stepBy h.lr w (fadd (fsign (blend h.b1 m g)) (fmul h.wd w)), blend h.b2 m g, v)
  | _ =>
    let m := blend h.b1 m g
    let v := blend h.b2 v (fmul g g)
    let u := adamDir h w m v
    (if sub = 2 then stepBy h.lr w u else fsub w (fmul (fmul h.lr τ) u), m, v)

/-- LAMB's trust ratio. -/
def lambRatio (h : Hyper) (es : List (Num × Num × Num × Num)) : Num :=
  let us := es.map (fun e => let m := blend h.b1 e.2.2.1 e.2.1
    adamDir h e.1 m (blend h.b2 e.2.2.2 (fmul e.2.1 e.2.1)))
  let nw := fnorm (es.map (fun e => e.1))
  let nu := fnorm us
  if nw.isZero || nu.isZero then .pow2 0 else (fdiv nw nu).minimum h.phi

/-- Element `i` of a list of values. -/
def at' (l : List Num) (i : Nat) : Num := (l[i]?).getD .zero

/-- New weights, row factors and column factors of ADAFACTOR, for `n` columns. -/
def adafactor (h : Hyper) (n : Nat) (ws gs rs cs : List Num) : List Num × List Num × List Num :=
  let sq := gs.map (fun g => fadd (fmul g g) h.eps)
  let rows := rowsOf n sq
  let r := (rows.zipIdx).map (fun p => blend h.b2 (at' rs p.2) (fmean p.1))
  let c := (List.range n).map (fun j => blend h.b2 (at' cs j) (fmean (rows.map (fun row => at' row j))))
  let q := fmean r
  let w := ((List.zip ws gs).zipIdx).map (fun p =>
    let k := fnRsqrt (fdiv (fmul (at' r (p.2 / n)) (at' c (p.2 % n))) q)
    stepBy h.lr p.1.1 (fadd (fmul p.1.2 k) (fmul h.wd p.1.1)))
  (w, r, c)

/-! ### Completion -/

/-- The beats of OPT (06 R176). -/
def optBeats (sub p : Nat) : Nat :=
  let b := match sub with | 2 => 4 | 3 => 6 | 4 => 6 | _ => 2
  8 + 12 * (if sub = 3 ∨ sub = 4 then 2 else 1) + cdiv p 16 * b

/-- The lower of two indices. -/
def lowest (a b : Option Nat) : Option Nat :=
  match a, b with
  | some x, some y => some (min x y)
  | some x, none => some x
  | none, y => y

/-- The bytes that OPT's CRC covers (13 R350). -/
def optData (op : RunOp) (s : State) : Bytes :=
  (op.dC :: optTensors op).flatMap (fun v => let d := descOf v
    s.bytes d.loc (d.s1 * (d.ext1 - 1) + d.s2 * (d.ext2 - 1) + d.rowBytes))

/-- Write the first `lim` values of the tensors of an OPT: weights `w`, states `m` and `v`. A factor of ADAFACTOR lies outside
dd: NF_INDEX of row factor i is that of dd's element i x EXT0, and of column factor j that of element j (DESIGN CHOICE,
log 72). -/
def optWrite (t : Nat) (op : RunOp) (h : Hyper) (w m v : List Num) (lim limR limC : Nat) (s : State) : Written :=
  let d := descOf op.dC
  let b := descOf op.dB
  let x := descOf op.dX
  let two := optStates op.req.sub.toNat = 2
  let halfs := b2n (b.fmt != 0) + (if two then b2n (x.fmt != 0) else 0)
  let how := fun (e : Desc) (k i : Nat) => if e.fmt = 0 then RMode.rne
    else .sr (grainDraw (seedOf s t) h.stream (h.idxBase + halfs * i + k))
  let ada := op.req.sub.toNat = 3
  let ww := putFirst d op.tainted (how d 0) w lim s
  let wm := putFirst b op.tainted (how b 0) m limR ww.s
  let wv := if two then putFirst x op.tainted (how x (b2n (b.fmt != 0))) v limC wm.s else { s := wm.s }
  { s := wv.s, nf := lowest ww.nf (lowest (if ada then wm.nf.map (· * d.ext0) else wm.nf) wv.nf) }

/-- Carry out an OPT. A fault leaves whole groups of 16 parameters written; with two passes it leaves what the first pass
reads unwritten. ADAFACTOR's row and column factors are as before where it stops in the first group and unknown where it stops
later, as no rule says when they are written (DESIGN CHOICE, log 80). -/
def runOpt (t : Nat) (op : RunOp) (s : State) : OpEnd :=
  let d := descOf op.dC
  let a := descOf op.dA
  let sub := op.req.sub.toNat
  let h := hyperOf (s.bytes (fld op.param.toNat 0 47) 64)
  let p := d.count
  if p = 0 then { s := s, beats := 2 }
  else
    let st := (optTensors op).map descOf
    let bad := if sub = 3 then
        (match badInRanges s ((a :: st).flatMap (fun e => footRange (e.foot s))) with
          | some k => some (0, k)
          | none => firstBadElem s op.opnd [d])
      else firstBadElem s op.opnd (d :: a :: st)
    let lim := match bad with
      | none => p
      | some (i, _) => if sub = 4 then 0 else i / 16 * 16
    let ws := d.elems s
    let gs := (a.elems s).map (fmul h.gscale)
    let xs := ((st[0]?).map (fun e => e.elems s)).getD []
    let ys := ((st[1]?).map (fun e => e.elems s)).getD []
    let es := (List.range p).map (fun i => (at' ws i, at' gs i, at' xs i, at' ys i))
    let τ := if sub = 4 then lambRatio h es else .zero
    let out := if sub = 3 then adafactor h d.ext0 ws gs xs ys
      else
        let rs := es.map (fun e => optElem sub h τ e.1 e.2.1 e.2.2.1 e.2.2.2)
        (rs.map (fun r => r.1), rs.map (fun r => r.2.1), rs.map (fun r => r.2.2))
    let limS := if sub = 3 then (if bad.isNone then p else 0) else lim
    let w := optWrite t op h out.1 out.2.1 out.2.2 lim limS limS s
    let s := w.s
    let s := match bad with
      | some _ => if sub = 3 ∧ lim ≠ 0 then st.foldl (fun s e =>
          let (bs, s) := drawBytes (4 * e.ext0) s
          s.poke e.loc bs) s else s
      | none =>
        if op.idx.getLsbD 0 then
          if op.tainted then
            let (bs, s) := drawBytes 4 s
            s.poke (fld op.param.toNat 0 47 + 40) bs
          else s.poke (fld op.param.toNat 0 47 + 40) (toBytes (crc32 (optData op s)) 4)
        else s
    { s := s, beats := optBeats sub p, progress := cdiv lim 16, fault := bad.map (fun b => (0x01, b.2)), nf := w.nf }

/-! ### The command -/

/-- OPT (03 R70, 06 R158): sub 0 to 5. -/
def execOpt (t : TileId) (c : CtxId) (dd da db : BitVec 3) (gp : BitVec 5) (tf : BitVec 8) (sub : BitVec 4) (s : State) :
    Res :=
  .next (dForm .opt sub.toNat (decide (sub.toNat ≤ 5)) t c dd da db gp tf s)

end Sys2Proof.Machine
end

