-- ==== Sys2Proof/Machine/Engines.lean ====
section
/-!
DEFINITION. The start queues: acceptance of the request at a queue's head (03 R73–R77, 15 R406–R409, R417) and the VE's
completion.
-/
namespace Sys2Proof.Machine

/-- The acceptance checks of an engine's operation. -/
def acceptOp (s : State) (t : Nat) (q : StartReq) : Except Denial RunOp :=
  match q.kind with
  | .mm => acceptMm s t q
  | .vop | .vtr | .cvt | .fill | .samp => acceptVe s t q
  | .opt => acceptOpt s t q
  | .lig => acceptLig s t q
  | .grn => acceptGrn s t q
  | .movt | .xstart | .enl => .error (0x0B, 0)

/-- What the acceptance checks read in memory: headers of lists that are metadata, of the lists that ISECT and UNION take, and
OPT's record. -/
def acceptReads (s : State) (t : Nat) (q : StartReq) : List (Nat × Nat) :=
  let op := baseOp s t q
  let at' := fun (lo : Int) (n : Nat) => match spanOf s lo n with | some (.tile _) => [(fld lo.toNat 0 47, n)] | _ => []
  [op.dC, op.dA, op.dB, op.dX].flatMap (fun v => let d := descOf v; if d.mta = 2 then at' d.metaAt 16 else [])
    ++ (if q.kind = .lig ∧ q.sub.toNat < 2 then at' (descOf op.dA).base.toNat 16 ++ at' (descOf op.dB).base.toNat 16 else [])
    ++ (if q.kind = .opt then at' op.param.toNat 64 else [])

/-- The state as the acceptance checks of a request see it: what is unspecified to it reads as free values (03 R76). -/
def acceptView (s : State) (t : Nat) (q : StartReq) : State := viewFor q (acceptReads s t q) s

/-- Whether the ME takes the next MM while `op` runs: `op` has its operands whole, and the next one's A and B do not meet its C
(05 R153). -/
def overlapsNext (s : State) (t : Nat) (op : RunOp) (q : StartReq) : Bool :=
  let v := acceptView s t q
  let next := baseOp s t q
  let c := descOf op.dC
  op.stopAt.isNone && (badBlock s op).isNone
    && !footsMeet ((descOf next.dA).foot v) (c.foot s) && !footsMeet ((descOf next.dB).foot v) (c.foot s)

/-- Whether unit `u` could take a request now: it is idle, or it is the ME and runs one MM that the next overlaps (05 R153). -/
def couldTake (s : State) (t u : Nat) (q : StartReq) : Bool :=
  match ((s.tile t).unit u).running with
  | none => !(u == 2 && mmOwnsLig (s.tile t))
  | some op => u == 0 && ((s.tile t).unit 0).tail.isNone && overlapsNext s t op q

/-- Whether the head request of unit `u` begins to wait for tokens or for the end of a hold: it is valid and covered, its unit
could take it, and it may not be accepted yet (15 R408, R409, R417). -/
def beginsToWait (s : State) (t u : Nat) : Bool :=
  let x := s.tile t
  match (x.unit u).queue with
  | q :: _ =>
    !x.un.waiting.contains u && couldTake s t u q && (match acceptOp (acceptView s t q) t q with
      | .ok op => decide (op.tokens ≤ x.un.resv.toNat) && ((s.region (regionOf t)).pool.hold || !x.un.waiting.isEmpty
          || decide (x.un.resv.toNat < x.draw + (op.tokens - (x.unit u).draw)))
      | .error _ => false)
  | [] => false

/-- The engines' requests that begin to wait now do so in the order ME, Ligature unit, Grain generator, VE (15 R409). -/
def beginWaits (t : Nat) (s : State) : State :=
  [0, 2, 3, 1].foldl (fun s u => if beginsToWait s t u then
    s.onTile t (fun x => x.onUn (fun n => { n with waiting := n.waiting ++ [u] })) else s) s

/-- Accept an engine's request: the validation checks, then the reservation, then its turn (03 R77, 15 R407–R409). The ME's cost
beside an MM's tail is what its class adds to the draw. -/
def acceptEngine (t u : Nat) (q : StartReq) (s : State) : State :=
  let v := acceptView s t q
  let s := { s with free := v.free }
  match acceptOp v t q with
  | .error d => refuseStart t q d s
  | .ok op =>
    if (s.tile t).un.resv.toNat < op.tokens then refuseStart t q (0x03, 0) s
    else
      let cost := op.tokens - ((s.tile t).unit u).draw
      match takeTurn t u cost s with
      | (true, s) => startOp t u op s
      | (false, _) => (takeTurn t u cost (beginWaits t s)).2

/-- The Ligature unit's head request while an MM owns the unit: it is accepted where the MM's last work item has started, which
is a free value (07 R193, log 73). -/
def acceptLigBehind (t : Nat) (q : StartReq) (s : State) : State :=
  let (v, s) := drawFree 1 s
  if v = 0#1 then s
  else acceptEngine t 2 q (s.onUnit t 0 (fun u => { u with running := u.running.map (fun op => { op with ligFree := true }) }))

/-- Accept a MOVT: its lines are held against the reservation one by one (15 R407, R408). One whose list's line is on its way
waits (08 R212, R217). -/
def acceptXfer (t : Nat) (q : StartReq) (s : State) : State :=
  match gatherList t q s with
  | (.ok none, s) => s
  | (.error d, s) => refuseStart t q d s
  | (.ok (some list), s) => match acceptMovt s t q list with
    | .error d => refuseStart t q d s
    | .ok op => if (s.tile t).un.resv = 0 then refuseStart t q (0x03, 0) s else startOp t 4 op s

/-- Hand an XSTART to the list engine; it stays at the queue's head while a list runs (10 R268). -/
def handXstart (t : Nat) (q : StartReq) (s : State) : State :=
  if (s.tile t).un.handed.isSome || (s.tile t).un.list.isSome then s
  else (popQueue t 4 s).onTile t (fun x => x.onUn (fun n => { n with handed := some q }))

/-- Unit `u` of tile `t` takes the request at its queue's head, where it is free. -/
def takeHead (t u : Nat) (s : State) : State :=
  let x := s.tile t
  match (x.unit u).queue, (x.unit u).running with
  | q :: _, none =>
    if u = 4 then
      match q.kind with
      | .xstart => handXstart t q s
      | .enl => takeEnl t q s
      | _ => acceptXfer t q s
    else if (s.region (regionOf t)).pool.hold then beginWaits t s
    else if u = 2 && mmOwnsLig x then acceptLigBehind t q s
    else acceptEngine t u q s
  | q :: _, some op =>
    if u = 0 && (x.unit 0).tail.isNone && overlapsNext s t op q then
      (if (s.region (regionOf t)).pool.hold then beginWaits t s else acceptEngine t 0 q s)
    else s
  | _, _ => s

/-- START_QUEUE_ACCEPTANCE: a unit accepts the request at the head of its start queue, or refuses it (03 R74–R77). The
upset strikes as the unit reads its list or descriptor. -/
def execStartQueueAcceptance (t : TileId) (unit : Fin 5) (u : Upset) (s : State) : Res :=
  .next (selfTimed s <| withUpset u t (takeHead t unit) s)

/-- Carry out the VE's running operation. -/
def runVector (t : Nat) (op : RunOp) (s : State) : OpEnd :=
  match op.req.kind with
  | .opt => runOpt t op s
  | _ => runVe t op s

/-- VE_COMPLETION: the running operation writes its results and sets its flag, or stops (06 R180, 13 R347). -/
def execVeCompletion (t : TileId) (s : State) : Res := .next (complete t 1 (runVector t) s)

end Sys2Proof.Machine
end

