-- ==== Sys2Proof/Machine/Message.lean ====
section
/-!
DEFINITION. Active messages (11 R290–R308): the send unit, the receiving XP, handler dispatch and HRET.
-/
namespace Sys2Proof.Machine

/-! ### Headers and records (11 R293, R295) -/

/-- A message header. -/
def msgHdr (m : SendSlot) (dev tile part : Nat) : BitVec 128 :=
  BitVec.ofNat 128 (m.dstTile + b2n m.q * 2 ^ 13 + m.handler.toNat * 2 ^ 14 + m.len * 2 ^ 20 + dev * 2 ^ 32 + tile * 2 ^ 48
    + m.ctx * 2 ^ 61 + m.seq.toNat * 2 ^ 64 + part * 2 ^ 80)

/-- The fields of a header that the receiver reads. -/
structure MsgHead where
  dst : Nat
  q : Bool
  handler : Nat
  len : Nat
  dev : Nat
  src : Nat
  ctx : Nat
  seq : Nat
  part : Nat
  deriving DecidableEq, Repr

def msgHeadOf (h : BitVec 128) : MsgHead :=
  let n := h.toNat
  { dst := fld n 0 13, q := nbit n 13, handler := fld n 14 6, len := fld n 20 11, dev := fld n 32 16, src := fld n 48 13,
    ctx := fld n 61 2, seq := fld n 64 16, part := fld n 80 3 }

/-- Handler entry `h`: PC, ACCT and KIND. -/
def handlerEntry (r : BitVec 2176) (h : Nat) : Nat × Nat × Nat :=
  let n := fld r.toNat (128 + 32 * h) 32
  (fld n 0 20, fld n 28 2, fld n 30 2)

/-- The largest payload of a queue. -/
def payloadMax (lines : Nat) : Nat := min (64 * lines - 16) 1024

/-- Lines of a message (11 R293). -/
def msgLines (len : Nat) : Nat := cdiv (16 + len) 64

/-! ### Sending -/

/-- The contents of send slot `k`. -/
def Mail.slot (m : Mail) (k : Nat) : Option SendSlot := Map.get none m.sends k

/-- Change a send slot. -/
def onSend (t k : Nat) (v : Option SendSlot) (s : State) : State :=
  s.onMail t (fun m => { m with sends := Map.set none m.sends k v })

/-- A free send slot. -/
def freeSend (m : Mail) : Option Nat := (List.range 8).find? (fun k => (m.slot k).isNone)

/-- The operand checks of R290 and the reach of R39: the fault and its data address. -/
def msgCheck (s : State) (t : Nat) (a b n : Word) : Option (Nat × Nat) :=
  let tile := fld a.toNat 0 13
  let dev := fld a.toNat 13 16
  let far := nbit a.toNat 29
  let other := far && dev != s.dev.link.self
  if 4608 ≤ tile ∨ (!far ∧ dev ≠ 0) ∨ (far ∧ systemSize s ≤ dev) ∨ fld a.toNat 30 34 ≠ 0 then some (0x02, 0)
  else if 1024 < n.toNat ∨ n.toNat % 8 ≠ 0 then some (0x09, 0)
  else if b.toNat % 8 ≠ 0 ∨ !inOwnWindow s t b (max 1 n.toNat) then some (0x02, fld b.toNat 0 47)
  else if 6 ≤ partOf s t ∨ (!other ∧ partOf s tile ≠ partOf s t) then some (0x0A, 0)
  else if (s.tile t).un.resv = 0 then some (0x03, 0)
  else match (if other then barredBy s dev else none) with
    | some p => some (0x0E, unreachAddr dev p)
    | none => none

/-- MSG (11 R290–R294): the message is placed in a free send slot, or the context waits for one. -/
def execMsg (t : TileId) (c : CtxId) (ra rb rc : BitVec 5) (xfn : BitVec 11) (s : State) : Res :=
  .next (issue t c { reads := [ra.toNat, rb.toNat, rc.toNat] } (legal (fld xfn.toNat 0 4 != 15) (fun s =>
    let a := rv s t c ra
    let b := rv s t c rb
    let n := rv s t c rc
    match msgCheck s t a b n with
    | some (code, daddr) => .fault code daddr
    | none =>
      match freeSend (s.tile t).mail with
      | none => .wait .sendSlot
      | some k =>
        let m := (s.tile t).mail
        let far := nbit a.toNat 29
        let o := fld b.toNat 0 20
        let slot : SendSlot :=
          { dstTile := fld a.toNat 0 13, dstDev := if far then fld a.toNat 13 16 else s.dev.link.self, remote := far,
            q := nbit xfn.toNat 10, handler := BitVec.ofNat 6 (fld xfn.toNat 4 6), len := n.toNat, payload := o,
            flag := 240 + fld xfn.toNat 0 4, ctx := c, iaddr := (s.cx t c).pc, seq := m.seq,
            tainted := ownedResult s (tileBase t + o) n.toNat, order := m.order }
        let s := putFlag t slot.flag false s
        .done ((onSend t k (some slot) s).onMail t (fun m => { m with seq := m.seq + 1, order := m.order + 1 })))) s)

/-- A message's key: destination device and tile, and queue (11 R291). -/
def SendSlot.key (m : SendSlot) : Nat × Nat × Bool := (m.dstDev, m.dstTile, m.q)

/-- Whether a slot's message may go: it waits, and no other of its key is in flight, backing off or older. -/
def mayInject (mail : Mail) (m : SendSlot) : Bool :=
  decide (m.st = .waiting) && mail.sends.all (fun p => match p.2 with
    | some o => decide (o.key ≠ m.key) || decide (o.order = m.order) || (decide (o.st = .waiting) && decide (m.order < o.order))
    | none => true)

/-- Put a message on its way: within the device, or in one packet (12 R323). -/
def sendMsg (t : Nat) (m : SendSlot) (k : Nat) (data : Bytes) (s : State) : Except Nat State :=
  let h := msgHdr m s.dev.link.self t (partOf s t)
  if m.dstDev = s.dev.link.self then
    .ok (onMesh (some (.tile t, .tile m.dstTile)) (fun x n =>
      { n with msgs := n.msgs ++ [{ hdr := h, dstDev := m.dstDev, payload := data, slot := k, sent := x }] }) s)
  else originate { dst := m.dstDev, src := 0, dstTile := m.dstTile, srcTile := t, part := partOf s t, kind := 2, hdr := h,
                   data := padTo (64 * cdiv data.length 64) data } s

/-- A fault of the send unit against a message (11 R296). -/
def sendFault (t : Nat) (m : SendSlot) (code : Nat) (daddr : Nat) (s : State) : State :=
  tileFault t { code := BitVec.ofNat 8 code, daddr := daddr, src := 7, ctx := m.ctx, iaddr := m.iaddr } s

/-- Data address of a message's fault (16 R434). -/
def msgAddr (m : SendSlot) : Nat := 0x7D0000000000 + m.dstTile * 2 ^ 16 + m.seq.toNat

/-- Let the contexts that wait for a send slot issue again (11 R291). -/
def wakeSend (t : Nat) (s : State) : State :=
  [0, 1, 2, 3].foldl (fun s c => if (s.tile t).waitsFor c .sendSlot then s.onTile t (fun x => x.wake c) else s) s

/-- Free a send slot (11 R291, R292). -/
def freeSlot (t k : Nat) (s : State) : State := wakeFences t (wakeSend t (onSend t k none s))

/-- Inject the message of slot `k`: the payload is read again (11 R292). -/
def injectSlot (t k : Nat) (m : SendSlot) (s : State) : State :=
  let a := tileBase t + m.payload
  match s.badIn a m.len with
  | some w => sendFault t m 0x01 w (freeSlot t k s)
  | none =>
    let (data, s) := if m.tainted then drawBytes m.len s else (s.bytes a m.len, s)
    match sendMsg t m k data s with
    | .ok s => (onSend t k (some { m with st := .inFlight }) s).onTile t (fun x => x.count 0x20 (msgLines m.len))
    | .error p => sendFault t m 0x0E (unreachAddr m.dstDev p) (freeSlot t k s)

/-- Inject a slot's message where its key and the reservation let it (11 R291, 15 R408). -/
def tryInject (t k : Nat) (s : State) : State :=
  match (s.tile t).mail.slot k with
  | some m => if mayInject (s.tile t).mail m then
      match takeTurn t 6 1 s with
      | (true, s) => injectSlot t k m s
      | (false, s) => s
    else s
  | none => s

/-- MSG_INJECTION (11 R291). -/
def execMsgInjection (t : TileId) (slot : Fin 8) (s : State) : Res := .next (selfTimed s (tryInject t slot s))

/-- RETRY: a message's back-off expires and it is sent again (11 R298). -/
def execRetry (t : TileId) (slot : Fin 8) (s : State) : Res :=
  .next (selfTimed s <| match (s.tile t).mail.slot slot with
    | some m => if m.st = .backingOff then tryInject t slot (onSend t slot (some { m with st := .waiting }) s) else s
    | none => s)

/-! ### The receiving XP (11 R296, R297, R300) -/

/-- The answer to a message. -/
inductive MsgOut where
  | accept
  | nack
  | reject (code : Nat)
  deriving DecidableEq, Repr

/-- The own header of a reply packet: SEQ, outcome and code (log 18). -/
def replyHdr (seq : Nat) (o : MsgOut) : BitVec 128 :=
  BitVec.ofNat 128 (seq + (match o with | .accept => 0 | .nack => 2 ^ 16 | .reject c => 2 * 2 ^ 16 + c * 2 ^ 24))

/-- Put a reply on the list of its kind. -/
def putReply (r : MsgReply) (o : MsgOut) (n : Net) : Net :=
  match o with
  | .accept => { n with msgAcks := n.msgAcks ++ [r] }
  | .nack => { n with msgNacks := n.msgNacks ++ [r] }
  | .reject c => { n with msgRejs := n.msgRejs ++ [{ r with code := BitVec.ofNat 8 c }] }

/-- Answer a message's sender. -/
def replyMsg (g : Message) (o : MsgOut) (s : State) : State :=
  let h := msgHeadOf g.hdr
  if h.dev = s.dev.link.self then
    onMesh (some (.tile h.dst, .tile h.src)) (fun x => putReply { hdr := g.hdr, slot := g.slot, sent := x } o) s
  else
    match originate { dst := h.dev, src := 0, dstTile := h.src, srcTile := h.dst, part := h.part, kind := 3,
                      hdr := replyHdr h.seq o } s with
    | .ok s => s
    | .error p => tileFault h.dst { code := 0x0E, daddr := unreachAddr h.dev p, src := 7, ctx := 0, iaddr := 0xFFFFFFFF#32 } s

/-- Change a receive queue. -/
def onQueue (t : Nat) (q1 : Bool) (f : RecvQ → RecvQ) (s : State) : State :=
  s.onMail t (fun m => if q1 then { m with q1 := f m.q1 } else { m with q0 := f m.q0 })

/-- A receive queue. -/
def Mail.queue (m : Mail) (q1 : Bool) : RecvQ := if q1 then m.q1 else m.q0

/-- Whether a payload breaks the accumulate rules of R300: the code. -/
def accBreach (p : Bytes) : Option Nat :=
  let w := leNat (p.take 8)
  if p.length < 8 ∨ fld w 20 44 ≠ 0 ∨ w % 8 ≠ 0 then some 0x09
  else if 0x100000 < w + (p.length - 8) then some 0x02
  else none

/-- The outcome for a message, by the checks of R296 in their order. -/
def judge (s : State) (g : Message) : MsgOut :=
  let h := msgHeadOf g.hdr
  let x := s.tile h.dst
  if x.clearing ∨ x.fenced then .reject 0x0A
  else match x.mail.record with
  | none => .reject 0x07
  | some r =>
    let (cap, lines, _) := queueGeom r h.q
    match (handlerEntry r h.handler).2.2 with
    | 1 => if payloadMax lines < h.len then .reject 0x09
        else if cap ≤ (x.mail.queue h.q).entries.length then .nack else .accept
    | 2 => (match accBreach g.payload with
      | some c => .reject c
      | none => .accept)
    | _ => .reject 0x07

/-- Add a run of bytes line by line; a line that cannot be read ends it (11 R300). -/
def accumulateLines (t : Nat) (ty : BitVec 2) : Nat → Bytes → List Nat → State → State
  | _, [], _, s => s
  | _, _, [], s => s
  | a, d, n :: ns, s =>
    if n = 0 ∨ d = [] then s
    else match accumulate t a ty (d.take n) s with
    | .ok s => accumulateLines t ty (a + n) (d.drop n) ns s
    | .error w => tileFault t { code := 0x01, daddr := w, src := 7, ctx := 0, iaddr := 0xFFFFFFFF#32 } s

/-- The lowest free entry of a queue (11 R297). -/
def freeEntry (q : RecvQ) (cap : Nat) : Nat := ((List.range cap).find? (fun i => q.entries.all (fun e => e.idx ≠ i))).getD 0

/-- Write an accepted message into its entry; it is whole and pending (11 R297). An entry that a unit is writing holds
unspecified values (11 R302). -/
def landMsg (g : Message) (r : BitVec 2176) (s : State) : State :=
  let h := msgHeadOf g.hdr
  let (cap, _, _) := queueGeom r h.q
  let q := (s.tile h.dst).mail.queue h.q
  let i := freeEntry q cap
  let (a, _) := entryRange h.dst r h.q i
  let bs := toBytes g.hdr.toNat 16 ++ g.payload.take h.len
  let mixed := ownedByOp s a bs.length
  let s := writeShared a bs s
  onQueue h.dst h.q (fun q => { q with entries := q.entries ++
    [{ idx := i, hdr := g.hdr, order := maxOf (q.entries.map (fun e => e.order)) + 1, tainted := mixed }] }) s

/-- A message reaches the receiving XP. -/
def receiveMsg (g : Message) (s : State) : State :=
  let h := msgHeadOf g.hdr
  let t := h.dst
  let o := judge s g
  let s := s.onTile t (fun x => x.count 0x21 (msgLines h.len))
  match o with
  | .reject _ => replyMsg g o (onQueue t h.q (fun q => { q with rejects := q.rejects + 1 }) s)
  | .nack => replyMsg g o (onQueue t h.q (fun q => { q with nacks := q.nacks + 1 }) s)
  | .accept =>
    let s := (onQueue t h.q (fun q => { q with accepted := q.accepted + 1 }) s).onTile t (fun x => x.count 0x2A 1)
    match (s.tile t).mail.record with
    | none => s
    | some r =>
      let e := handlerEntry r h.handler
      if e.2.2 = 2 then
        let a := tileBase t + leNat (g.payload.take 8)
        replyMsg g .accept (accumulateLines t (BitVec.ofNat 2 e.2.1) a (g.payload.drop 8) (40 :: List.replicate 16 64) s)
      else replyMsg g .accept (landMsg g r s)

/-- MESSAGE_HEADER_ARRIVAL: the `i`-th message in flight reaches its receiver with its lines (11 R296, R297, R300). -/
def execMessageHeaderArrival (i : Nat) (s : State) : Res :=
  .next (selfTimed s <| match s.net.msgs[i]? with
    | some g => if arrives s g.sent then receiveMsg g (s.onNet (fun n => { n with msgs := dropAt i n.msgs })) else s
    | none => s)

/-! ### Replies at the sender -/

/-- The slot in flight that a reply answers: the sender and the slot. -/
def answeredSlot (s : State) (r : MsgReply) : Option (Nat × Nat × SendSlot) :=
  let h := msgHeadOf r.hdr
  let m := (s.tile h.src).mail
  ((List.range 8).findSome? (fun k => match m.slot k with
    | some x => if x.st = .inFlight ∧ x.seq.toNat = h.seq ∧ x.dstTile = h.dst then some (k, x) else none
    | none => none)).map (fun p => (h.src, p.1, p.2))

/-- Trace MESSAGE (18 R502). -/
def traceMsg (t : Nat) (m : SendSlot) (out : Nat) (s : State) : State :=
  traceTile t 6 m.ctx m.iaddr.toNat (toBytes m.dstTile 2 ++ toBytes (b2n m.q) 1 ++ toBytes m.handler.toNat 1
    ++ toBytes m.seq.toNat 2 ++ toBytes out 1) s

/-- MESSAGE_ACCEPTANCE: the slot frees and the flag is set (11 R291, R292). -/
def execMessageAcceptance (i : Nat) (s : State) : Res :=
  .next (selfTimed s <| match s.net.msgAcks[i]? with
    | none => s
    | some r =>
      if !arrives s r.sent then s else
      let s := s.onNet (fun n => { n with msgAcks := dropAt i n.msgAcks })
      match answeredSlot s r with
      | some (t, k, m) => freeSlot t k (traceMsg t m 0 (putFlag t m.flag true s))
      | none => s)

/-- Discard the messages that wait behind a key (11 R298). -/
def dropKey (t : Nat) (m : SendSlot) (s : State) : State :=
  s.onMail t (fun x => { x with sends := x.sends.filter (fun p => match p.2 with
    | some o => decide (o.key ≠ m.key)
    | none => false) })

/-- Fault 0x08: messages with other keys continue (11 R298), where another fault of the tile drops them (R305; log 76). -/
def exhausted (t : Nat) (m : SendSlot) (s : State) : State :=
  let sends := (s.tile t).mail.sends
  (sendFault t m 0x08 (msgAddr m) s).onMail t (fun x => { x with sends := sends, goesOn := true })

/-- NACK: the refusal count rises, and at 64 the sender faults; a sender that faulted otherwise discards the message (11 R298,
R305). -/
def execNack (i : Nat) (s : State) : Res :=
  .next (selfTimed s <| match s.net.msgNacks[i]? with
    | none => s
    | some r =>
      if !arrives s r.sent then s else
      let s := s.onNet (fun n => { n with msgNacks := dropAt i n.msgNacks })
      match answeredSlot s r with
      | none => s
      | some (t, k, m) =>
        let s := traceMsg t m 1 (s.onTile t (fun x => x.count 0x29 1))
        if (s.tile t).faulted && !(s.tile t).mail.goesOn then freeSlot t k s
        else if 64 ≤ m.refusals + 1 then exhausted t m (wakeFences t (dropKey t m s))
        else onSend t k (some { m with refusals := m.refusals + 1, st := .backingOff }) s)

/-- REJECT: the message is discarded and the sender raises the fault named; none for a foreign tag (11 R296). -/
def execReject (i : Nat) (s : State) : Res :=
  .next (selfTimed s <| match s.net.msgRejs[i]? with
    | none => s
    | some r =>
      if !arrives s r.sent then s else
      let s := s.onNet (fun n => { n with msgRejs := dropAt i n.msgRejs })
      match answeredSlot s r with
      | none => s
      | some (t, k, m) =>
        let s := freeSlot t k (traceMsg t m 2 s)
        if r.code = 0 then s else sendFault t m r.code.toNat (msgAddr m) s)

/-! ### Dispatch (11 R301) -/

/-- The oldest pending message of a queue. -/
def oldest (q : RecvQ) : Option QEntry :=
  q.entries.foldl (fun b e => match b with
    | none => some e
    | some x => if e.order < x.order then some e else some x) none

/-- Start the handler of a message in context `c` of tile `t`. -/
def startHandler (t c : Nat) (r : BitVec 2176) (q1 : Bool) (e : QEntry) (s : State) : State :=
  let h := msgHeadOf e.hdr
  let (_, lines, base) := queueGeom r q1
  let pc := BitVec.ofNat 32 (handlerEntry r h.handler).1
  let s := invalidateRlb t s
  let s := s.onMail t (fun m => { m with running := some (q1, e.idx) })
  s.onTile t (fun x => (x.startCtx c pc).onCx c (fun k =>
    { ((((k.setReg 1 (BitVec.ofNat 64 (base + 64 * lines * e.idx + 16))).setReg 2 (BitVec.ofNat 64 h.len)).setReg 3
        (BitVec.ofNat 64 (h.dev + h.src * 2 ^ 16 + h.ctx * 2 ^ 29))).setReg 4
        (BitVec.ofNat 64 (h.handler + b2n q1 * 2 ^ 6 + h.seq * 2 ^ 16 + e.idx * 2 ^ 32))) with bypass := true }))

/-- HANDLER_DISPATCH: the XP starts the handler of the oldest pending message, Q1 before Q0, in the OFF handler context
(11 R301, R303); none in a faulted tile (11 R305). Its writes of g1 to g4 interlock as an instruction's do (02 R46; DEDUCED,
log 76). -/
def execHandlerDispatch (t : TileId) (s : State) : Res :=
  .next (selfTimed s <|
    let m := (s.tile t).mail
    match m.record, m.handler with
    | some r, some c =>
      if (s.cx t c).st ≠ .off ∨ m.running.isSome ∨ (s.tile t).clearing ∨ (s.tile t).fenced ∨ (s.tile t).faulted
          ∨ interlocked s t c { writes := [1, 2, 3, 4] } then s
      else match oldest m.q1, oldest m.q0 with
        | some e, _ => startHandler t c r true e s
        | none, some e => startHandler t c r false e s
        | none, none => s
    | _, _ => s)

/-! ### The handler's return (11 R302) -/

/-- Retire the running message: its entry is free. -/
def Mail.retire (m : Mail) : Mail :=
  match m.running with
  | some (q1, i) =>
    let rm := fun (q : RecvQ) => { q with entries := q.entries.filter (fun e => e.idx ≠ i) }
    if q1 then { m with q1 := rm m.q1, running := none } else { m with q0 := rm m.q0, running := none }
  | none => m

/-- The requests of context `c` that no unit has accepted meet unspecified bytes in a range. -/
def loseRange (t c : Nat) (r : Nat × Nat) (s : State) : State :=
  let lose := fun (q : StartReq) => if q.ctx = c then { q with lost := r :: q.lost } else q
  let s := [0, 1, 2, 3, 4].foldl (fun s u => if ((s.tile t).unit u).queue = [] then s
    else s.onUnit t u (fun x => { x with queue := x.queue.map lose })) s
  s.onTile t (fun x => x.onUn (fun n => { n with handed := n.handed.map lose }))

/-- The entry that the running handler of tile `t` owns goes back to its queue: what still is to use it meets unspecified
values. -/
def releaseEntry (t c : Nat) (s : State) : State :=
  let m := (s.tile t).mail
  match m.record, m.running with
  | some r, some (q1, i) =>
    let e := entryRange t r q1 i
    touchWrite e.1 e.2 (loseRange t c e s)
  | _, _ => s

/-- HRET. -/
def execHret (t : TileId) (c : CtxId) (rd rs1 : BitVec 5) (obj : BitVec 12) (s : State) : Res :=
  .next (issue t c {} (legal (rs1 == 0#5 && rd == 0#5 && obj == 0#12) (fun s =>
    let m := (s.tile t).mail
    if m.handler ≠ some c.val ∨ m.running = none then .fault 0x0B 0
    else .done (((releaseEntry t c s).onMail t Mail.retire).onCx t c (fun k => { k with st := .off, fetch := none })))) s)

end Sys2Proof.Machine
end

