-- ==== Sys2Proof/Machine/Load.lean ====
section
/-!
DEFINITION. Loading a Plate (14 R377–R391): the image, relocation, installation, the checks and refusals. A LOAD command
takes steps 1 to 7 at once; the phase declarations of step 8 are events (log 25).
-/
namespace Sys2Proof.Machine

/-! ### The image (14 R377, R379) -/

/-- The fields of a Plate header. -/
structure PlateHdr where
  magic : Nat
  ver : Nat
  nsect : Nat
  length : Nat
  nreg : Nat
  boundary : Nat
  timeout : Nat
  entry : Nat
  assign : Nat
  pword : Nat
  phase0 : Nat
  crc : Nat
  /-- The reserved fields, each with its byte offset. -/
  resv : List (Nat × Nat)
  deriving DecidableEq, Repr

def plateHdr (bs : Bytes) : PlateHdr :=
  let n := leNat (bs.take 128)
  { magic := fld n 0 32, ver := fld n 32 16, nsect := fld n 48 16, length := fld n 64 64, nreg := fld n 128 5,
    boundary := fld n 144 6, timeout := fld n 160 32, entry := fld n 192 20, assign := fld n 224 20, pword := fld n 256 20,
    phase0 := fld n 288 16, crc := fld n 320 32,
    resv := [(fld n 133 11, 16), (fld n 150 10, 18), (fld n 212 12, 26), (fld n 244 12, 30), (fld n 276 12, 34),
      (fld n 304 16, 38), (fld n 352 32, 44), (fld n 768 256, 96)] }

/-- A section entry. -/
structure Sect where
  type : Nat
  prog : Bool
  bcast : Bool
  tile : Nat
  tile2 : Nat
  size : Nat
  off : Nat
  dest : Nat
  resv : Nat
  deriving DecidableEq, Repr

def sectOf (bs : Bytes) : Sect :=
  let n := leNat (bs.take 32)
  { type := fld n 0 8, prog := nbit n 8, bcast := nbit n 9, tile := fld n 16 13, tile2 := fld n 32 13, size := fld n 64 32,
    off := 128 * fld n 96 32, dest := fld n 128 64, resv := fld n 10 6 + fld n 29 3 + fld n 45 19 + fld n 192 64 }

/-- Why a load is refused: the reason of R390, the section (all ones for the header) and the byte offset in it. -/
structure Refuse where
  reason : Nat
  sect : Nat := 0xFFFFFFFF
  off : Nat := 0
  deriving DecidableEq, Repr

/-- A step of a load: the state it leaves, or the refusal with the state it leaves. -/
abbrev LoadRes := Except (Refuse × State) State

/-- A check. -/
def require (ok : Bool) (r : Refuse) (s : State) : LoadRes := if ok then .ok s else .error (r, s)

/-- What a load works on. -/
structure Plate where
  part : Nat
  verify : Bool
  off : Nat
  hdr : PlateHdr
  sects : List Sect
  /-- The whole image. -/
  bytes : Bytes
  deriving DecidableEq, Repr

/-- The contents of a section. -/
def Plate.body (p : Plate) (e : Sect) : Bytes := (p.bytes.drop e.off).take e.size

/-- The contents of the one section of a type; empty where there is none. -/
def Plate.section' (p : Plate) (type : Nat) : Bytes :=
  match p.sects.find? (fun e => e.type == type) with
  | some e => p.body e
  | none => []

/-- The sections with their numbers. -/
def Plate.numbered (p : Plate) : List (Nat × Sect) := p.sects.zipIdx.map (fun x => (x.2, x.1))

/-! ### Relative names (14 R378) -/

/-- The `k`-th lowest-numbered object below `lim`, from `lo` on, that partition `n` owns. -/
def kthOwned (m : SMap Nat) (n lo lim k : Nat) : Option Nat :=
  (((List.range (lim - lo)).map (lo + ·)).filter (fun o => ownedBy m n o))[k]?

def relFlag (s : State) (n k : Nat) : Option Nat := kthOwned s.hub.ownGf n 0 1024 k
def relSem (s : State) (n k : Nat) : Option Nat := kthOwned s.hub.ownSem n 0 256 k
def relBar (s : State) (n k : Nat) : Option Nat :=
  if k < 28 then kthOwned s.hub.ownBar n 0 28 k else if k < 32 then kthOwned s.hub.ownBar n 28 32 (k - 28) else none

/-- The number F of R378. -/
def firstTile (s : State) (n : Nat) : Nat := 256 * leadRegion s n

/-! ### Step 1: header and entries -/

/-- The checks of a header, with the place that each names. A partition below service level 2, or with a region that left
service, has no band to load (14 R390, 16 R451, 17 R468; log 25). -/
def headerChecks (s : State) (n off : Nat) (h : PlateHdr) : List (Bool × Nat) :=
  [(h.magic == 0x314C504B, 0), (h.ver == 1, 4), (decide (1 ≤ h.nsect) && decide (h.nsect ≤ 1024), 6),
    (h.length % 128 == 0 && decide (128 + 32 * h.nsect ≤ h.length) && decide (off + h.length ≤ (s.part n).share.2 * gib), 8),
    (h.nreg == (bandOf s n).length && h.nreg != 0 && (bandOf s n).all (fun r => (s.region r).inService) && decide (2 ≤ s.dev.boot.level), 16),
    (decide (h.boundary < 32), 18), (h.entry % 4 == 0, 24), (h.assign % 64 == 0 && decide (h.assign + 512 ≤ 0x100000), 28),
    (h.pword % 8 == 0, 32)] ++ h.resv.map (fun f => (f.1 == 0, f.2))

/-- The first failing check of a list. -/
def firstFailing (r : Nat) (sect : Nat) : List (Bool × Nat) → Option Refuse
  | [] => none
  | (ok, at') :: l => if ok then firstFailing r sect l else some { reason := r, sect := sect, off := at' }

/-- The checks of section `i`'s entry (14 R379–R381). -/
def sectCheck (s : State) (n off : Nat) (h : PlateHdr) (i : Nat) (e : Sect) : Option Refuse :=
  let size := (s.part n).share.2 * gib
  if e.resv ≠ 0 ∨ e.type < 1 ∨ 10 < e.type ∨ (e.type ≠ 1 ∧ e.bcast) ∨ (2 < e.type ∧ (e.dest ≠ 0 ∨ !e.prog))
      ∨ (!e.bcast ∧ e.tile2 ≠ e.tile) then some { reason := 5, sect := i }
  else if h.length < e.off + e.size then some { reason := 4, sect := i }
  else if e.type = 1 ∧ (e.tile2 < e.tile ∨ 256 * h.nreg ≤ e.tile2 ∨ 0x100000 ≤ e.dest ∨ 0x100000 < e.dest + e.size) then
    some { reason := 4, sect := i }
  else if e.type = 2 ∧ (size < e.dest + e.size ∨ (e.size ≠ 0 ∧ e.dest < off + h.length ∧ off < e.dest + e.size)) then
    some { reason := 4, sect := i }
  else none

/-- The number of sections of a type. -/
def countType (l : List Sect) (type : Nat) : Nat := (l.filter (fun e => e.type == type)).length

/-- The first refusal of a list of checks. -/
def firstSome {α : Type} : List (Option α) → Option α
  | [] => none
  | some x :: _ => some x
  | none :: l => firstSome l

/-- The second section of a type. -/
def secondOf (l : List Sect) (type : Nat) : Option Refuse :=
  (((l.zipIdx.filter (fun x => x.1.type == type)).drop 1).head?).map (fun x => { reason := 5, sect := x.2 })

/-- Every check of the entries, in order. A duplicate section names the later one, a missing PHASE section the header's
NSECT. -/
def plateChecks (s : State) (n off : Nat) (h : PlateHdr) (es : List Sect) : Option Refuse :=
  firstSome [firstSome (es.zipIdx.map (fun x => sectCheck s n off h x.2 x.1)),
    secondOf es 5, secondOf es 7, secondOf es 8, secondOf es 9,
    if countType es 7 = 0 then some { reason := 5, off := 6 } else none]

/-- Read at a share of partition `n` for its loader: reason 12 where a line cannot be read. `place` says where in the Plate
byte `k` of what it reads stands. -/
def loadRead (n a len : Nat) (place : Nat → Nat × Nat) (s : State) : Except (Refuse × State) (Bytes × State) :=
  match readPieces (hostPieces a len) s with
  | (.ok d, s) => .ok (d, s)
  | (.error c, s) =>
    let p := place (c.2 - a)
    .error ({ reason := 12, sect := p.1, off := p.2 }, noteBulk (some (leadRegion s n)) c.1 c.2 n s)

/-- Write at the share of partition `n` for its loader. -/
def loadWrite (n a : Nat) (d : Bytes) (place : Nat → Nat × Nat) (s : State) : LoadRes :=
  match writePieces (linePieces a d.length) d s with
  | (.ok _, s) => .ok s
  | (.error c, s) =>
    let p := place (c.2 - a)
    .error ({ reason := 12, sect := p.1, off := p.2 }, noteBulk (some (leadRegion s n)) c.1 c.2 n s)

/-- The section that holds byte `o` of a Plate, with the offset in it; else the header, which the entries follow. -/
def platePlace (es : List Sect) (o : Nat) : Nat × Nat :=
  match es.zipIdx.find? (fun x => decide (x.1.off ≤ o) && decide (o < x.1.off + x.1.size)) with
  | some x => (x.2, o - x.1.off)
  | none => (0xFFFFFFFF, o)

/-- Step 1: read and check the header and the entries. -/
def readHeader (n off : Nat) (s : State) : Except (Refuse × State) (PlateHdr × List Sect × State) :=
  if (s.part n).share.2 * gib < off + 128 then .error ({ reason := 2, off := 8 }, s)
  else
    (loadRead n (shareBase s n + off) 128 (fun k => (0xFFFFFFFF, k)) s) >>= fun (hb, s) =>
    let h := plateHdr hb
    match firstFailing 2 0xFFFFFFFF (headerChecks s n off h) with
    | some r => .error (r, s)
    | none =>
      (loadRead n (shareBase s n + off + 128) (32 * h.nsect) (fun k => (0xFFFFFFFF, 128 + k)) s) >>= fun (eb, s) =>
      let es := (pieces 32 h.nsect eb).map sectOf
      match plateChecks s n off h es with
      | some r => .error (r, s)
      | none => .ok (h, es, s)

/-! ### Step 2: the clearing pass (03 R85, 14 R386, R387) -/

/-- Whether a tile is of partition `n`. -/
def tileIn (s : State) (n t : Nat) : Bool := decide (t < 4608) && inBand s n (regionOf t)

/-- Whether an access was issued on this device for partition `n`. -/
def MemReq.mine (r : MemReq) (n : Nat) : Bool :=
  match r.iss with
  | .far _ _ _ _ => false
  | _ => r.part == n

/-- The flag and semaphore operations of partition `n` in flight are applied, and so are its writes on their way to home
slices; what else its tiles have in flight is dropped (log 25). -/
def quiesce (n : Nat) (s : State) : State :=
  let ops := s.net.hubOps.filter (fun o => tileIn s n o.t)
  let s := s.onNet (fun k => { k with hubOps := k.hubOps.filter (fun o => !tileIn s n o.t) })
  let s := ops.foldl (fun s o => applyHub o s) s
  let writes := s.net.slice.filter (fun r => r.mine n && r.op.isWrite)
  let s := writes.foldl (fun s r => match s.place r.addr with
    | .bulk => if inShare s r.part r.addr then (atBulk true r (awaitLine r.addr s)).2 else s
    | _ => s) s
  let mine := fun (r : MemReq) => r.mine n
  let self := s.dev.link.self
  s.onNet (fun k =>
    { k with reqs := k.reqs.filter (fun r => !mine r), slice := k.slice.filter (fun r => !mine r),
             fills := k.fills.map (fun f => { f with waiting := f.waiting.filter (fun r => !mine r) }),
             hostq := k.hostq.filter (fun h => !mine h.req), answers := k.answers.filter (fun a => !mine a.req),
             far := k.far.filter (fun f => !mine f.2), hubAns := k.hubAns.filter (fun a => !tileIn s n a.op.t),
             rowArr := k.rowArr.filter (fun a => !tileIn s n a.t), hubRows := k.hubRows.filter (fun r => !inBand s n (r.2 / 4)),
             segs := k.segs.filter (fun g => !(g.srcDev == self && tileIn s n g.srcTile)),
             segAcks := k.segAcks.filter (fun g => !(g.dstDev == self && tileIn s n g.srcTile)),
             segRefs := k.segRefs.filter (fun g => !(g.dstDev == self && tileIn s n g.srcTile)),
             msgs := k.msgs.filter (fun m => let h := msgHeadOf m.hdr; !(h.dev == self && tileIn s n h.src)),
             msgAcks := k.msgAcks.filter (fun m => let h := msgHeadOf m.hdr; !(h.dev == self && tileIn s n h.src)),
             msgNacks := k.msgNacks.filter (fun m => let h := msgHeadOf m.hdr; !(h.dev == self && tileIn s n h.src)),
             msgRejs := k.msgRejs.filter (fun m => let h := msgHeadOf m.hdr; !(h.dev == self && tileIn s n h.src)),
             cancels := k.cancels.filter (fun c => !tileIn s n c.t) })

/-- A tile after a clearing pass (03 R62, R85, R91, R96, R101; 09 R247; 11 R294; 18 R491, R497). `epochs` are the hub's. -/
def clearedTile (epochs : SMap (BitVec 32)) (x : Tile) : Tile :=
  { epochs := epochs, fenced := true, cnt := { evsel := x.cnt.evsel, eccCe := x.cnt.eccCe },
    dbg := { x.dbg with waiting := false } }

/-- The epochs of every barrier. -/
def hubEpochs (s : State) : SMap (BitVec 32) := (List.range 32).foldl (fun m b => Map.set 0 m b (s.hub.bar b).epoch) []

/-- The memory of partition `n`'s tiles is zero, with good check bits. -/
def clearBand (n : Nat) (s : State) : State :=
  let inside := fun (a : Nat) => tileIn s n (a / 0x100000)
  { s with mem := Map.erase inside s.mem, bad := s.bad.filter (fun a => !inside a) }

/-- Drop the Enlarger requests of partition `n`. -/
def EnlBranch.without (s : State) (n : Nat) (e : EnlBranch) : EnlBranch :=
  { e with cur := match e.cur with | some p => if tileIn s n p.1.t then none else some p | none => none,
           queue := e.queue.filter (fun q => !tileIn s n q.t) }

/-- Every tile of partition `n` runs its clearing pass and stays fenced; its regions hold no tokens (15 R413). -/
def clearTiles (n : Nat) (s : State) : State :=
  let s := quiesce n s
  let s := settleBars ((List.range 32).filter (fun b => ownedBy s.hub.ownBar n b)) s
  let ep := hubEpochs s
  let s := clearBand n s
  let s := (partTiles s n).foldl (fun s t => s.onTile t (clearedTile ep)) s
  let s := (bandOf s n).foldl (fun s r => s.onRegion r (fun g =>
    { g with enl := g.enl.without s n, nib := { g.nib with timers := [], declaring := false },
             pool := { g.pool with reserved := 0, dropping := false, waiting := false, waitedNs := 0 } })) s
  s.onDev (fun d => { d with root := d.root.without s n })

/-- The fence of partition `n`'s tiles. -/
def fence (n : Nat) (b : Bool) (s : State) : State := (partTiles s n).foldl (fun s t => s.onTile t (fun x => { x with fenced := b })) s

/-! ### Steps 3 and 4: images, CRC and digest (14 R377, R381) -/

/-- The Plate with CRC and DIGEST read as 0. -/
def unsigned (bs : Bytes) : Bytes := splice (splice bs 40 (zeros 4)) 48 (zeros 48)

/-- The program part. -/
def programPart (p : Plate) : Bytes :=
  (unsigned p.bytes).take 128 ++ p.numbered.flatMap (fun (i, e) =>
    if e.prog then (p.bytes.drop (128 + 32 * i)).take 32 ++ p.body e else [])

/-- The digest of a Plate. -/
def Plate.digest (p : Plate) : BitVec 384 := BitVec.ofNat 384 (leNat (sha384 (programPart p)))

/-- Copy the image of one section. -/
def copyImage (p : Plate) (x : Nat × Sect) (s : State) : LoadRes :=
  let (i, e) := x
  let d := p.body e
  if e.type = 1 then
    .ok ((List.range (e.tile2 + 1 - e.tile)).foldl (fun s k => s.poke (tileBase (firstTile s p.part + e.tile + k) + e.dest) d) s)
  else if e.type = 2 then loadWrite p.part (shareBase s p.part + e.dest) d (fun k => (i, k)) s
  else .ok s

/-- Run a step for each element in order; the first refusal ends it. -/
def eachStep {α : Type} (f : α → State → LoadRes) : List α → State → LoadRes
  | [], s => .ok s
  | x :: l, s => f x s >>= eachStep f l

/-- Steps 3 and 4. -/
def images (p : Plate) (s : State) : LoadRes :=
  eachStep (copyImage p) p.numbered s >>= fun s =>
  require (crc32 (unsigned p.bytes) == p.hdr.crc) { reason := 3, off := 40 } s >>= fun s =>
  require (p.digest == BitVec.ofNat 384 (leNat ((p.bytes.drop 48).take 48))) { reason := 3, off := 48 } s >>= fun s =>
  require (p.verify || s.dev.sec.digests.contains p.digest) { reason := 8, off := 48 } s

/-! ### Step 5: relocation (14 R382–R384) -/

/-- A relocation record. -/
structure Reloc where
  type : Nat
  bulk : Bool
  bitpos : Nat
  width : Nat
  loc : Nat
  arg : Nat
  resv : Nat
  deriving DecidableEq, Repr

def relocOf (bs : Bytes) : Reloc :=
  let n := leNat (bs.take 16)
  { type := fld n 0 8, bulk := nbit n 8, bitpos := fld n 9 6, width := fld n 15 7, loc := fld n 32 48, arg := fld n 96 32,
    resv := fld n 22 10 + fld n 80 16 }

/-- Whether `k` bytes at a place lie whole within the contents of one TILE or BULK section of the program part. -/
def inProgram (p : Plate) (bulk : Bool) (loc k : Nat) : Bool :=
  p.sects.any (fun e => e.prog && (if bulk then e.type == 2 && decide (e.dest ≤ loc) && decide (loc + k ≤ e.dest + e.size)
    else e.type == 1 && decide (e.tile ≤ loc / 0x100000) && decide (loc / 0x100000 ≤ e.tile2)
      && decide (e.dest ≤ loc % 0x100000) && decide (loc % 0x100000 + k ≤ e.dest + e.size)))

/-- The device at this device's coordinates plus the signed bytes of ARG, each modulo its dimension (14 R383). -/
def deviceRel (s : State) (arg : Nat) : Nat :=
  let ds := dims s
  deviceAt ds ((selfCoords s).zipIdx.map (fun (x, k) => ((x + signed 8 (fld arg (8 * k) 8)) % ((ds[k]?).getD 1 : Nat)).toNat))

/-- The addend of types 1 to 4. -/
def addend (s : State) (n type : Nat) : Nat :=
  match type with
  | 1 => firstTile s n * 0x100000
  | 2 => firstTile s n * 0x1000
  | 3 => (s.part n).share.1 * gib
  | _ => firstTile s n

/-- The new value of a field, or the reason that refuses it. -/
def relocValue (s : State) (n : Nat) (r : Reloc) (v : Nat) : Except Nat Nat :=
  match r.type with
  | 5 =>
    match (match r.arg % 4 with
      | 0 => some (relFlag s n v)
      | 1 => some (relSem s n v)
      | 2 => some (relBar s n v)
      | _ => none) with
    | none => .error 6
    | some none => .error 7
    | some (some o) => .ok o
  | 6 => .ok (deviceRel s r.arg)
  | 7 => if 2 ^ 47 ≤ v then .error 6 else .ok (v + deviceRel s r.arg * 2 ^ 47 + 2 ^ 63)
  | t => .ok (v + addend s n t)

/-- The 64-bit constant of the four instructions of INS64, and the instructions with another constant. -/
def insConst (bs : Bytes) : Nat :=
  (List.range 4).foldl (fun a k => a * 65536 + leNat ((bs.drop (4 * k)).take 2)) 0
def insPut (bs : Bytes) (v : Nat) : Bytes :=
  (List.range 4).flatMap (fun k => toBytes (v / 2 ^ (48 - 16 * k)) 2 ++ (bs.drop (4 * k + 2)).take 2)

/-- Read and write the word of the relocation record at byte `off` of section `i`. -/
def relocRead (p : Plate) (i off : Nat) (r : Reloc) (k : Nat) (s : State) : Except (Refuse × State) (Bytes × State) :=
  if r.bulk then loadRead p.part (shareBase s p.part + r.loc) k (fun _ => (i, off)) s
  else
    let a := tileBase (firstTile s p.part) + r.loc
    if (s.badIn a k).isSome then .error ({ reason := 12, sect := i, off := off }, s) else .ok (s.bytes a k, s)
def relocWrite (p : Plate) (i off : Nat) (r : Reloc) (d : Bytes) (s : State) : LoadRes :=
  if r.bulk then loadWrite p.part (shareBase s p.part + r.loc) d (fun _ => (i, off)) s
  else .ok (s.poke (tileBase (firstTile s p.part) + r.loc) d)

/-- Whether a record breaks R382 or lies outside the program part. -/
def Reloc.bad (p : Plate) (r : Reloc) : Bool :=
  let ins := r.type == 8
  r.resv != 0 || decide (r.type < 1) || decide (8 < r.type) || decide (r.width < 1) || decide (64 < r.bitpos + r.width)
    || r.loc % (if ins then 4 else 8) != 0
    || (ins && (r.bitpos != 0 || r.width != 64 || decide (r.arg < 1) || decide (3 < r.arg)))
    || !inProgram p r.bulk r.loc (if ins then 16 else 8)

/-- Apply one relocation record, the one at byte `off` of section `i`. -/
def relocate (p : Plate) (x : Nat × Nat × Reloc) (s : State) : LoadRes :=
  let (i, off, r) := x
  let no := fun (reason : Nat) (s : State) => show LoadRes from .error ({ reason := reason, sect := i, off := off }, s)
  if r.bad p then no 6 s
  else relocRead p i off r (if r.type = 8 then 16 else 8) s >>= fun (d, s) =>
    if r.type = 8 then
      let v := insConst d + addend s p.part r.arg
      if 2 ^ 64 ≤ v then no 6 s else relocWrite p i off r (insPut d v) s
    else
      match relocValue s p.part r (fld (leNat d) r.bitpos r.width) with
      | .error e => no e s
      | .ok v => if 2 ^ r.width ≤ v then no 6 s
          else relocWrite p i off r (toBytes (setFld (BitVec.ofNat 64 (leNat d)) r.bitpos r.width v).toNat 8) s

/-- The records of the sections of a type, cut to `k` bytes, with section number and byte offset. -/
def recordsOf (p : Plate) (type k : Nat) : List (Nat × Nat × Bytes) :=
  p.numbered.flatMap (fun (i, e) => if e.type = type then
    (pieces k e.size (p.body e)).zipIdx.map (fun (d, j) => (i, k * j, d)) else [])

/-- Whether the sections of a type are of a whole number of records: the first that is not. -/
def unevenSect (p : Plate) (type k : Nat) : Option Nat :=
  (p.numbered.find? (fun (_, e) => e.type == type && e.size % k != 0)).map (·.1)

/-- Step 5. -/
def relocations (p : Plate) (s : State) : LoadRes :=
  match unevenSect p 3 16 with
  | some i => .error ({ reason := 6, sect := i }, s)
  | none => eachStep (relocate p) ((recordsOf p 3 16).map (fun (i, j, d) => (i, j, relocOf d))) s

/-! ### Step 6: FEMARK, SYNC, MSG, INDEX and COMMIT (14 R380, R381; 11 R295; 13 R352) -/

/-- Whether a message record keeps R295. -/
def msgRecordOk (r : BitVec 2176) : Bool :=
  let n := r.toNat
  let q0 := queueGeom r false
  let q1 := queueGeom r true
  let qOk := fun (q : Nat × Nat × Nat) => decide (1 ≤ q.1) && decide (q.1 ≤ 64) && decide (1 ≤ q.2.1) && decide (q.2.1 ≤ 17)
    && q.2.2 % 64 == 0 && decide (q.2.2 + 64 * q.2.1 * q.1 ≤ 0x100000)
  let resv := fld n 2 6 + fld n 15 1 + fld n 21 3 + fld n 31 1 + fld n 37 27 + fld n 84 12 + fld n 116 12
  resv == 0 && fld n 0 2 != 0 && qOk q0 && qOk q1 && !meets q0.2.2 (64 * q0.2.1 * q0.1) q1.2.2 (64 * q1.2.1 * q1.1)
    && (List.range 64).all (fun h =>
      let (pc, acct, kind) := handlerEntry r h
      fld n (128 + 32 * h + 20) 8 == 0 && pc % 4 == 0 && decide (kind ≤ 2) && (kind == 1 || pc == 0)
        && decide (acct ≤ 2) && (kind == 2 || acct == 0))

/-- The SYNC section, filled with zeros to its full length. -/
def syncBytes (p : Plate) : Bytes := padTo 19080 (p.section' 5)

/-- The section number of the one section of a type. -/
def sectNumber (p : Plate) (type : Nat) : Nat :=
  match p.numbered.find? (fun (_, e) => e.type == type) with
  | some (i, _) => i
  | none => 0xFFFFFFFF

/-- Mask of relative row `j` of relative barrier `k`. -/
def syncMask (y : Bytes) (k j : Nat) : Nat := fieldOf y (648 + 576 * k + 8 * j) 8 0 64

/-- The checks of SYNC, with the place that each names (14 R380, 09 R246, 10 R265). -/
def syncChecks (s : State) (p : Plate) : List (Bool × Nat) :=
  let y := syncBytes p
  let n := p.part
  let used := fun (k : Nat) => nbit (fieldOf y 640 4 0 32) k
  let masks := fun (k : Nat) => (List.range 72).map (syncMask y k)
  (decide ((p.section' 5).length ≤ 19080), 0)
    :: (List.range 1024).map (fun k => ((relFlag s n k).isSome || !nbit (fieldOf y (k / 8) 1 0 8) (k % 8), k / 8))
    ++ (List.range 256).map (fun k => ((relSem s n k).isSome || fieldOf y (128 + 2 * k) 2 0 16 == 0, 128 + 2 * k))
    ++ [(fieldOf y 644 4 0 32 == 0, 644)]
    ++ (List.range 32).map (fun k =>
      (((masks k).drop (4 * p.hdr.nreg)).all (· == 0) && (if used k then (relBar s n k).isSome && (masks k).any (· != 0)
        else (masks k).all (· == 0)), 648 + 576 * k))
    ++ [(used p.hdr.boundary && ((masks p.hdr.boundary).take (4 * p.hdr.nreg)).all (· == 2 ^ 64 - 1),
          648 + 576 * p.hdr.boundary)]

/-- Install SYNC: flag values, semaphore counts, masks, and cleared arrival state; epochs, scopes and SAT stay (14 R386,
09 R255, R256). -/
def installSync (p : Plate) (s : State) : State :=
  let y := syncBytes p
  let n := p.part
  let s := (List.range 1024).foldl (fun s k => match relFlag s n k with
    | some o => s.onHub (fun h => { h with gf := setBit h.gf o (nbit (fieldOf y (k / 8) 1 0 8) (k % 8)),
                                           gfTorn := setBit h.gfTorn o false, gfWait := h.gfWait.filter (fun w => w.obj ≠ o) })
    | none => s) s
  let s := (List.range 256).foldl (fun s k => match relSem s n k with
    | some o => s.onSem o (fun m => { count := BitVec.ofNat 16 (fieldOf y (128 + 2 * k) 2 0 16), sat := m.sat })
    | none => s) s
  let r0 := 4 * leadRegion s n
  let rows := (List.range (4 * p.hdr.nreg)).map (r0 + ·)
  (List.range 32).foldl (fun s k => match relBar s n k with
    | some b => s.onBar b (fun m =>
        { epoch := m.epoch, scope := m.scope,
          masks := rows.foldl (fun a row => Map.set 0 a row (BitVec.ofNat 64 (syncMask y k (row - r0)))) [],
          comb := rows.foldl (fun a row => Map.set {} a row { arrived := 0, epoch := m.epoch }) [] })
    | none => s) s

/-- The fields of a COMMIT section, with offsets as the image gives them. -/
def commitOf (bs : Bytes) : Commit × Nat :=
  let n := leNat (bs.take 64)
  ({ shard := fld n 0 64, bankA := fld n 64 64, bankB := fld n 128 64, nown := fld n 192 13, u := fld n 208 5,
     cbar := 28 + fld n 213 2, tile := fld n 216 13, flag := fld n 229 8, stepFlag := fld n 240 10,
     rule := BitVec.ofNat 3 (fld n 250 3), b1 := BitVec.ofNat 32 (fld n 256 32), b2 := BitVec.ofNat 32 (fld n 288 32),
     s0 := BitVec.ofNat 32 (fld n 320 32), smin := BitVec.ofNat 32 (fld n 352 32), smax := BitVec.ofNat 32 (fld n 384 32),
     grow := fld n 416 16, j := BitVec.ofNat 64 (fld n 448 64) },
    fld n 205 3 + fld n 215 1 + fld n 237 3 + fld n 253 3 + fld n 432 16)

/-- Whether an FP32 value is a positive power of two. -/
def powerOfTwo (v : BitVec 32) : Bool :=
  match fp32.decode v.toNat with
  | .fin false n _ => n != 0 && 2 ^ Nat.log2 n == n
  | _ => false

/-- Whether a commit description keeps R352, but for the objects it names. -/
def commitOk (s : State) (p : Plate) (c : Commit) (resv : Nat) : Bool :=
  let size := (s.part p.part).share.2 * gib
  let base := fun (o k : Nat) => o % 128 == 0 && decide (o + k ≤ size)
  let y := syncBytes p
  let used := fun (k : Nat) => nbit (fieldOf y 640 4 0 32) k
  let bar := fun (k : Nat) => s.hub.bar ((relBar s p.part k).getD 0)
  let maskIs := fun (k : Nat) (f : Nat → Nat) => (List.range (4 * p.hdr.nreg)).all (fun j => syncMask y k j == f j)
  resv == 0 && (p.section' 9).length == 64 && base c.shard 128 && base c.bankA (tableLen c) && base c.bankB (tableLen c)
    && decide (1 ≤ c.nown) && decide (c.nown ≤ 4608)
    && used c.u && !(bar c.u).scope && maskIs c.u (fun _ => 2 ^ 64 - 1)
    && used c.cbar && (bar c.cbar).scope && maskIs c.cbar (fun j => if j = c.tile / 64 then 2 ^ (c.tile % 64) else 0)
    && decide (c.tile < 256) && decide (c.flag ≤ 254) && decide (c.rule.toNat ≤ 5)
    && betaOk (fp32.decode c.b1.toNat) && betaOk (fp32.decode c.b2.toNat)
    && powerOfTwo c.s0 && powerOfTwo c.smin && powerOfTwo c.smax
    && (lossNum c.smin).le (lossNum c.s0) && (lossNum c.s0).le (lossNum c.smax)

/-- A commit description with the partition's addresses and numbers; none where it names an object the partition does not
own. -/
def commitHere (s : State) (n : Nat) (c : Commit) : Option Commit :=
  match relBar s n c.u, relBar s n c.cbar, relFlag s n c.stepFlag with
  | some u, some b, some f =>
    some { c with shard := shareBase s n + c.shard, bankA := shareBase s n + c.bankA, bankB := shareBase s n + c.bankB,
                  u := u, cbar := b, stepFlag := f, tile := firstTile s n + c.tile }
  | _, _, _ => none

/-- Install the commit description and take the state from the step record (13 R355); without one, the job seed is a free
value (13 R368, log 26). -/
def installCommit (p : Plate) (s : State) : LoadRes :=
  let n := p.part
  if countType p.sects 9 = 0 then
    let (j, s) := drawFree 64 s
    .ok (loadSeeds n j (onCommit n (fun c => { c with desc := none, st := 0, seed := j, uSignal := false, cSignal := false }) s))
  else
    let i := sectNumber p 9
    let (c, resv) := commitOf (p.section' 9)
    match commitHere s n c with
    | none => .error ({ reason := 7, sect := i }, s)
    | some d =>
      require (commitOk s p c resv) { reason := 9, sect := i } s >>= fun s =>
      loadRead n (d.shard + 64) 64 (fun _ => (i, 0)) s >>= fun (rb, s) =>
      let r := leNat rb
      let next := BitVec.ofNat 64 (fld r 0 64)
      let seed := seedFor d.j next
      .ok (loadSeeds n seed (onCommit n (fun k =>
        { desc := some d, committed := next - 1, active := nbit r 64, cEpoch := k.cEpoch, st := 1,
          lscale := BitVec.ofNat 32 (fld r 96 32), next := next, seed := seed, root := k.root, rootOk := k.rootOk, cmd := k.cmd, result := k.result }) s))

/-- Whether a FEMARK entry, an MSG entry or an INDEX entry may stand. -/
def femarkOk (p : Plate) (d : Bytes) : Bool :=
  let n := leNat d
  decide (n < 2 ^ 26) && decide (fld n 0 13 < 256 * p.hdr.nreg)
def msgEntryOk (p : Plate) (d : Bytes) : Bool :=
  decide (leNat (d.take 2) < 256 * p.hdr.nreg) && leNat ((d.drop 2).take 14) == 0
    && msgRecordOk (BitVec.ofNat 2176 (leNat ((d.drop 16).take 272)))

/-- An INDEX entry: kind, relative tile, tile offset and reserved bits. -/
def indexOf (d : Bytes) : Nat × Nat × Nat × Nat :=
  let n := leNat d
  (fld n 0 4, fld n 16 13, fld n 32 20, fld n 4 12 + fld n 29 3 + fld n 52 12)

/-- Bytes of the object that an INDEX entry names. -/
def indexSize (s : State) (t kind o : Nat) : Nat :=
  match kind with
  | 1 => 32
  | 2 => 16 + 16 * leNat (s.bytes (tileBase t + o) 2)
  | 4 => 64
  | _ => 16

/-- Whether an INDEX object lies in the program part; an entry that names no object is judged in step 7. -/
def indexPlaced (s : State) (p : Plate) (d : Bytes) : Bool :=
  let (kind, k, o, _) := indexOf d
  if kind < 1 ∨ 4 < kind ∨ 256 * p.hdr.nreg ≤ k then true
  else inProgram p false (k * 0x100000 + o) (indexSize s (firstTile s p.part + k) kind o)

/-- The first record that fails a check, as a refusal. -/
def failing (reason : Nat) (ok : Bytes → Bool) (l : List (Nat × Nat × Bytes)) : Option Refuse :=
  (l.find? (fun x => !ok x.2.2)).map (fun x => { reason := reason, sect := x.1, off := x.2.1 })

/-- The first MSG entry of a tile that has one already. -/
def msgTwice : List Nat → List (Nat × Nat × Bytes) → Option Refuse
  | _, [] => none
  | ts, (i, j, d) :: l =>
    let t := leNat (d.take 2)
    if ts.contains t then some { reason := 9, sect := i, off := j } else msgTwice (t :: ts) l

/-- A section of records that is of no whole number of them. -/
def uneven (p : Plate) (reason type k : Nat) : Option Refuse :=
  (unevenSect p type k).map (fun i => { reason := reason, sect := i })

/-- The refusals of step 6, in order. -/
def installChecks (s : State) (p : Plate) : Option Refuse :=
  firstSome [if (relBar s p.part p.hdr.boundary).isSome then none else some { reason := 7, off := 18 },
    uneven p 9 4 4, failing 9 (femarkOk p) (recordsOf p 4 4), uneven p 9 6 288, failing 9 (msgEntryOk p) (recordsOf p 6 288),
    msgTwice [] (recordsOf p 6 288), uneven p 5 10 8, failing 5 (indexPlaced s p) (recordsOf p 10 8),
    firstFailing 9 (sectNumber p 5) (syncChecks s p)]

/-- The tables that the Nib cores keep. -/
def plateInfo (s : State) (p : Plate) : PlateInfo :=
  { boundary := (relBar s p.part p.hdr.boundary).getD 0, timeout := BitVec.ofNat 32 p.hdr.timeout,
    entry := BitVec.ofNat 32 p.hdr.entry, assign := p.hdr.assign, pword := p.hdr.pword, phase0 := p.hdr.phase0,
    phases := p.section' 7, tiling := p.section' 8, digest := p.digest }

/-- Step 6. A refusal here leaves what SYNC installs (14 R387). -/
def install (p : Plate) (s : State) : LoadRes :=
  match installChecks s p with
  | some r => .error (r, installSync p s)
  | none =>
    let f := firstTile s p.part
    let s := (recordsOf p 4 4).foldl (fun s x => setFull (f + fld (leNat x.2.2) 0 13) (fld (leNat x.2.2) 13 13) true s) s
    let s := (recordsOf p 6 288).foldl (fun s x => s.onMail (f + leNat (x.2.2.take 2))
      (fun m => { m with record := some (BitVec.ofNat 2176 (leNat ((x.2.2.drop 16).take 272))) })) s
    installCommit p (installSync p s)

/-! ### Step 7: verify mode (14 R388) -/

/-- Whether an INDEX object passes its unit's acceptance checks. -/
def indexOk (s : State) (t kind o : Nat) : Bool :=
  let a := tileBase t + o
  match kind with
  | 1 => match checkDesc s none (BitVec.ofNat 256 (leNat (s.bytes a 32))) with | .ok _ => true | .error _ => false
  | 2 =>
    let h := listHeadOf (leNat (s.bytes a 16))
    let ks := (List.range h.nslots).map (fun i => slotOf (BitVec.ofNat 128 (leNat (s.bytes (a + 16 + 16 * i) 16))))
    o % 16 == 0 && listBounds s o h ks && listShape s t h ks && listReach s t h ks && !recvOverlap ks
  | 3 =>
    let h := listHdrOf (s.bytes a 16)
    h.ok && decide (o + h.size ≤ 0x100000)
  | 4 => o % 64 == 0 && (List.range 6).all (fun sub => (hyperOf (s.bytes a 64)).ok sub)
  | _ => false

/-- An INDEX entry's check. -/
def indexEntryOk (s : State) (p : Plate) (d : Bytes) : Bool :=
  let (kind, k, o, resv) := indexOf d
  resv == 0 && decide (1 ≤ kind) && decide (kind ≤ 4) && decide (k < 256 * p.hdr.nreg) && indexOk s (firstTile s p.part + k) kind o

/-- The checks of phase record `i` with the operations that it names. -/
def phaseOk (phs tiling : Bytes) (nreg i : Nat) : Bool :=
  let ph := phaseRec phs i
  let ops := ph.ops.map (tiledOp tiling)
  ph.ok phs && ph.claimsOk 2 && ops.all (fun o => match o with | some o => o.ok ph.nvar nreg | none => false)
    && distinct (ops.map (fun o => match o with | some o => o.slot | none => 0))
    && (variantsOf phs ph).any (fun v => (List.range nreg).all (fun ri => decide (mapSum (regionMap phs v ri) ≤ 512)))

/-- The check of tiled-operation record `i` by itself: a phase that names it checks the grids of its variants (log 24). -/
def tiledOk (tiling : Bytes) (nreg i : Nat) : Bool :=
  match tiledOp tiling i with
  | some o => o.ok 0 nreg
  | none => false

/-- The first failing record of the phase and tiled-operation tables, by its section and its byte offset. -/
def tablesBad (p : Plate) : Option Refuse :=
  let phs := p.section' 7
  let til := p.section' 8
  let bad := fun (type w : Nat) (ok : Nat → Bool) (k : Nat) =>
    ((List.range k).find? (fun i => !ok i)).map (fun i => ({ reason := 11, sect := sectNumber p type, off := w * i } : Refuse))
  firstSome [bad 8 240 (tiledOk til p.hdr.nreg) (cdiv til.length 240),
    bad 7 64 (fun i => decide (i < phases phs) && phaseOk phs til p.hdr.nreg i) (max 1 (phases phs))]

/-- Step 7. -/
def verifyPlate (p : Plate) (s : State) : LoadRes :=
  if !p.verify then .ok s
  else match failing 10 (indexEntryOk s p) (recordsOf p 10 8) with
  | some r => .error (r, s)
  | none => match tablesBad p with
    | some r => .error (r, s)
    | none => .ok s

/-! ### The command (14 R385–R391) -/

/-- Step 8 begins: every region of the partition is to declare PHASE0. -/
def beginDeclarations (p : Plate) (s : State) : State :=
  let info := plateInfo s p
  let s := s.onPart p.part (fun q => { q with load := { q.load with plate := some info } })
  (bandOf s p.part).foldl (fun s r => s.onRegion r (fun g =>
    { g with pool := { g.pool with window := true }, nib := { g.nib with declaring := true, stopped := false }, rc := g.rc.unclaimed })) s

/-- A refused load, whatever the reason: its record, a clearing pass of every tile, and load state 4 (14 R387, R390, R391). -/
def refuseLoad (n : Nat) (verify : Bool) (r : Refuse) (s : State) : State :=
  let code := if r.reason = 9 ∧ !verify then 0x09 else 0x10
  let loc := r.sect * 2 ^ 32 + r.off
  let lead := leadRegion s n
  let s := raiseRec (plainRec s code 3 1 n 15 lead (r.sect % 2 ^ 15 * 2 ^ 32 + r.off)) s
  let s := s.onPart n (fun q => { q with load := { q.load with reason := BitVec.ofNat 8 r.reason, loc := BitVec.ofNat 64 loc } })
  setLoad n 4 ((fence n false (clearTiles n s)).onPart n (fun q => { q with load := { q.load with plate := none } }))

/-- Whether fault 0x01 ends the load of partition `n` at region `r`'s declaration: a tile of the partition faulted since its
clearing pass, or the Nib core met an uncorrectable codeword (14 R390 reason 12, R405). -/
def loadFaulted (n r : Nat) (s : State) : Bool :=
  (partTiles s n).any (fun t => (s.tile t).faulted) ||
    (match (s.part n).load.plate with
      | some p => (s.region r).nib.alive && (s.region r).nib.declaring && regionIdle s r &&
          (match readDecl s r p true (bandOf s n).length with
            | .error (.uncorrectable _) => true
            | _ => false)
      | none => false)

/-- The load under way of partition `n` ends with reason 12. -/
def endLoad (n : Nat) (s : State) : State := refuseLoad n (s.part n).load.verify { reason := 12 } s

/-- PHASE_DECLARATION: region `r`'s Nib core makes the declaration that is due (14 R394), once no duty that comes before it is
(14 R375); the last of a load starts the partition. -/
def execPhaseDeclaration (r : RegionId) (s : State) : Res :=
  .next (selfTimed s (
    let n := partOfRegion s r
    if faultDue s r ∨ commitDue s r then s
    else if (s.part n).load.st = 1 ∧ loadFaulted n r s = true then endLoad n s else finishLoad n (declareRegion r s)))

/-- Steps 1 to 7 of a LOAD of partition `n`, which ends the fence of a KILL (17 R482). What it answers is whether the load goes
on. -/
def load (n : Nat) (verify : Bool) (s : State) : Bool × State :=
  let st := (s.part n).load.st
  if ¬ (st = 0 ∨ st = 3 ∨ st = 4) then (false, refuseLoad n verify { reason := 1 } s)
  else
    let s := setLoad n 1 (s.onPart n (fun q => { q with load := { q.load with verify := verify }, tn := { q.tn with killed := false } }))
    let off := (s.part n).load.offset.toNat
    match readHeader n off s with
    | .error (r, s) => (false, refuseLoad n verify r s)
    | .ok (h, es, s) =>
      let s := clearTiles n s
      let go := loadRead n (shareBase s n + off) h.length (platePlace es) s >>= fun (bs, s) =>
        let p : Plate := { part := n, verify := verify, off := off, hdr := h, sects := es, bytes := bs }
        images p s >>= relocations p >>= install p >>= verifyPlate p >>= fun s => .ok (beginDeclarations p s)
      match go with
      | .error (r, s) => (false, refuseLoad n verify r s)
      | .ok s => (true, s)

end Sys2Proof.Machine
end

