-- ==== Sys2Proof/Machine/Faults.lean ====
section
/-!
DEFINITION. The Blotter (16 R440–R444), the suspect list (16 R448) and what the Steward does with a record.
-/
namespace Sys2Proof.Machine

/-- The physical position that logical tile `x` of row `y` occupies (01 R19, R22). -/
def positionOf (s : State) (x y : Nat) : Nat :=
  let at' := fun (k : Nat) => (((s.dev.boot.repair[k]?).getD 0).toNat) % 128
  (((List.range 66).filter (fun p => p ≠ at' (2 * y) ∧ p ≠ at' (2 * y + 1)))[x]?).getD 0

/-- Whether a record makes its tile's position a suspect (16 R448). -/
def suspectRec (s : State) (r : Rec) : Bool :=
  decide (r.code = 0x01 ∧ r.scope = 0 ∧ r.tile.toNat < 4608)
    && (isTileStructure (r.daddr.toNat - parityAddr 0) && decide (parityAddr 0 ≤ r.daddr.toNat)
      || (match s.place r.daddr.toNat with | .sram _ _ => true | _ => false))

/-- Put a position on the suspect list, which holds 64 (16 R448). -/
def noteSuspect (r : Rec) (s : State) : State :=
  if !suspectRec s r then s
  else
    let p := (tileY r.tile.toNat, positionOf s (tileX r.tile.toNat) (tileY r.tile.toNat))
    s.onBoot (fun b => if b.suspects.contains p ∨ 64 ≤ b.suspects.length then b else { b with suspects := b.suspects ++ [p] })

/-- Store a record: in the pinned area until it holds 64, then in the ring (16 R442). -/
def storeRec (r : Rec) (s : State) : State :=
  s.onBlot (fun b =>
    if b.pinned.length < 64 then { b with pinned := b.pinned ++ [r], stored := b.stored + 1 }
    else
      let i := if b.newest < 64 ∨ 1023 ≤ b.newest then 64 else b.newest + 1
      { b with ring := Map.set none b.ring i (some r), newest := i, stored := b.stored + 1 })

/-- Whether partition `n`'s fault policy is STOP (16 R441, R444). -/
def policyStops (s : State) (n : Nat) : Bool := decide (n < 6) && s.dev.blot.policy.getLsbD n

/-- The region among whose records a record stands in order, whoever raises it (16 R442). -/
def orderOf (r : Rec) : Option Nat :=
  if r.scope = 0 then some (regionOf r.tile.toNat) else if r.scope = 1 then some r.aux.toNat else none

/-- The FAULT trace record of a record of the traced partition (18 R502); one that names no region passes the partition's lowest
region's hub (DESIGN CHOICE, log 51). -/
def traceFault (r : Rec) (s : State) : State :=
  let t := r.tile.toNat
  let lo := fld s.dev.trace.tiles.toNat 0 13
  let hi := fld s.dev.trace.tiles.toNat 16 13
  if kindOn s 8 && decide (r.part.toNat = s.dev.trace.part) && (t == 0x1FFF || (decide (lo ≤ t) && decide (t ≤ hi))) then
    pushTrace ((orderOf r).getD (leadRegion s s.dev.trace.part))
      (traceBytes s 8 r.ctx.toNat t r.step.toNat r.iaddr.toNat (zeros 12 ++ recBytes r)) s
  else s

/-- The Steward receives a record (16 R440–R442, R448, R449; 18 R502; 19 R512). One of the device or of a link takes its time
now (16 R435). A tile's fault during a load ends the load (14 R405). -/
def receiveRec (r : Rec) (s : State) : State :=
  let n := r.part.toNat
  let r := if r.scope = 2 ∨ r.scope = 3 then stamp s r else r
  let s := noteSuspect r (storeRec r s)
  let s := if n < 6 then causePart n 4 s else s
  let s := traceFault r s
  let s := if decide (r.severity = 1) && (s.part n).load.st == 1 then endLoad n s
    else if (r.severity = 1 ∨ r.severity = 2) && policyStops s n then stopPartition n r.code.toNat s else s
  if r.severity = 4 ∨ r.severity = 5 then updateLevel s else s

/-- Whether the `i`-th record on its way may be the next that the Steward receives: within one region records keep their
order, and after a thermal trip no Nib core forwards any (16 R442, 15 R418). -/
def recReady (s : State) (i : Nat) (r : Rec) : Bool :=
  let stuck := fun (q : Rec) => s.dev.boot.trip && (hubOf q).isSome
  !stuck r && ((orderOf r).isNone || (s.net.recs.take i).all (fun q => stuck q || orderOf q != orderOf r))

/-- FAULT_RECORD: the Steward receives the `i`-th record on its way. -/
def execFaultRecord (i : Nat) (s : State) : Res :=
  .next (match s.net.recs[i]? with
    | some r => if recReady s i r then receiveRec r (s.onNet (fun n => { n with recs := dropAt i n.recs })) else s
    | none => s)

/-- The Nib cores of partition `n` serve their fault records, which come before a load (14 R375). -/
def serveFaults (n : Nat) (s : State) : State :=
  let mine := fun (r : Rec) => match orderOf r with | some g => inBand s n g | none => false
  if s.dev.boot.trip then s
  else (s.net.recs.filter mine).foldl (fun s r => receiveRec r s)
    (s.onNet (fun k => { k with recs := k.recs.filter (fun r => !mine r) }))

/-- Clear the Blotter: both areas empty, then one BLOTTER_CLEARED record (16 R442). -/
def clearBlotter (s : State) : State :=
  storeRec (plainRec s 0x84 0 2 7 14 0) (s.onBlot (fun b => { b with stored := 0, pinned := [], ring := [], newest := 0 }))

/-- Record `i` of the Blotter. -/
def blotterAt (s : State) (i : Nat) : Option Rec :=
  if i < 64 then s.dev.blot.pinned[i]? else Map.get none s.dev.blot.ring i

/-- Record `i` as a path sees it: a mirror of partition `m` sees only its own records (16 R444). -/
def blotterView (s : State) (m : Option Nat) (i : Nat) : Bytes :=
  match blotterAt s i with
  | none => zeros 32
  | some r => match m with
    | some n => if r.part.toNat = n then recBytes r else zeros 32
    | none => recBytes r

end Sys2Proof.Machine
end

