-- ==== Sys2Proof/Machine/Debug.lean ====
section
/-!
DEFINITION. Debug: halting, the debug address space and its two paths, PC samples, and the trace ways (18 R487–R502).
-/
namespace Sys2Proof.Machine

/-! ### Scopes (17 R484) -/

/-- Whether a path reaches what belongs to partition `n`: JTAG everything that is open, the operator's window device scope,
a partition's window its own (18 R487; 19 R509). -/
def pathReaches (s : State) (p : DbgPath) (n : Nat) : Bool :=
  unlockedPart s n && (match p with
    | .jtag => true
    | .window f => if f.val = 0 then !(decide (n < 6) && (s.part n).tn.cur != 0) || fnPart s 0 == n else fnPart s f.val == n)

/-- Whether a writer may halt and step the tiles of partition `n`: only a debugger that has it open (18 R489). -/
def mayDebug (s : State) (w : Writer) (n : Nat) : Bool := w == .debugger && unlockedPart s n

/-! ### Locked sequences (18 R492) -/

/-- The operation of context `c` at the hub that a halt waits for: a TAS, SIGNAL or READ until its answer returns, and a
wait that the hub has answered. -/
def lockedOp (s : State) (t c : Nat) : Bool :=
  let mine := fun (o : HubOp) => o.t == t && o.c == c
  let locked := fun (o : HubOp) => decide (o.kind = .gfTas ∨ o.kind = .semSignal ∨ o.kind = .semRead)
  let waits := fun (o : HubOp) => decide (o.kind = .gfWait ∨ o.kind = .gfWaitc ∨ o.kind = .semWait)
  decide ((s.cx t c).st = .wait) && (s.net.hubOps.any (fun o => mine o && locked o)
    || s.net.hubAns.any (fun a => mine a.op && (locked a.op || waits a.op)))

/-- The operation of context `c` whose answer a forced halt discards: any that no wait at the hub holds. -/
def outstandingOp (s : State) (t c : Nat) : Option HubOp :=
  let mine := fun (o : HubOp) => o.t == t && o.c == c && !o.drop
  let waits := fun (o : HubOp) => decide (o.kind = .gfWait ∨ o.kind = .gfWaitc ∨ o.kind = .semWait)
  if (s.cx t c).st ≠ .wait then none
  else match s.net.hubAns.find? (fun a => mine a.op) with
    | some a => some a.op
    | none => s.net.hubOps.find? (fun o => mine o && !waits o)

/-- The slot whose commit is under way: staged lines whose turn has come (10 R275). -/
def committing (s : State) (t : Nat) : Option (RunList × Nat) :=
  match (s.tile t).un.list with
  | some l => if l.stopped then none else (l.staged.find? (fun j => hasTurn l j)).map (fun j => (l, j))
  | none => none

/-- Whether a halt of tile `t` has to wait. -/
def haltWaits (s : State) (t : Nat) : Bool := [0, 1, 2, 3].any (lockedOp s t) || (committing s t).isSome

/-! ### Halting (18 R491, R492) -/

/-- A context in RUN or WAIT halts; its wait stays registered. -/
def Ctx.halted (k : Ctx) : Ctx :=
  match k.st with
  | .run | .wait => { k with st := .halt, haltedInWait := k.wait.isSome, stepGrant := false }
  | _ => k

/-- Offset of the register that names a torn object (09 R254). -/
def tornOffset (o : HubOp) : Nat := if o.kind.isFlag then 0x180 + 8 * (o.obj / 64) else 0x1000 + 8 * o.obj

/-- Record a torn lock (16 R436). -/
def tornRec (t src c : Nat) (iaddr : BitVec 32) (daddr progress : Nat) (s : State) : State :=
  if (s.tile t).faulted then s
  else raiseRec (tileRec s t 0 { code := 0x0D, daddr := daddr, src := BitVec.ofNat 5 src, ctx := c, iaddr := iaddr, progress := progress }) s

/-- A forced halt takes context `c` past its operation at the hub; the object is torn. -/
def tearOp (t c : Nat) (s : State) : State :=
  match outstandingOp s t c with
  | none => s
  | some o =>
    let drop := fun (q : HubOp) => if q.t == t && q.c == c then { q with drop := true } else q
    let s := s.onNet (fun n => { n with hubOps := n.hubOps.map drop, hubAns := n.hubAns.map (fun a => { a with op := drop a.op }) })
    let s := if o.kind.isFlag then s.onHub (fun h => { h with gfTorn := setBit h.gfTorn o.obj true })
      else s.onSem o.obj (fun m => { m with torn := true })
    tornRec t 0 c o.iaddr (devBase + tornOffset o) 0 (s.onTile t (fun x => x.endWait c))

/-- A forced halt stops the list engine within a commit: every slot whose turn it is is partly added, the list's gate is torn. -/
def tearCommit (t : Nat) (s : State) : State :=
  match committing s t with
  | none => s
  | some (l, _) =>
    let s := (l.staged.filter (hasTurn l)).foldl (tearSlot t l) s
    let s := s.onTile t (fun x => x.onUn (fun n => { n with list := n.list.map (fun l => { l with stopped := true }) }))
    let s := match l.gate with | some b => s.onBar b (fun m => { m with torn := true }) | none => s
    tornRec t 5 l.req.ctx l.req.iaddr (match l.gate with | some b => devBase + 0x2000 + 0x40 * b | none => 0) l.done.length s

/-- Every context of tile `t` that is in RUN or WAIT halts. -/
def haltAll (t : Nat) (s : State) : State :=
  (s.onTile t (fun x => [0, 1, 2, 3].foldl (fun x c => x.onCx c Ctx.halted) x)).onTile t
    (fun x => { x with dbg := { x.dbg with waiting := false } })

/-- A halt request at tile `t`. -/
def haltTile (force : Bool) (t : Nat) (s : State) : State :=
  let s := s.onTile t (fun x => { x with dbg := { x.dbg with hold := true, forced := force } })
  if force then haltAll t (tearCommit t ([0, 1, 2, 3].foldl (fun s c => tearOp t c s) s))
  else if haltWaits s t then
    let s := [0, 1, 2, 3].foldl (fun s c => if lockedOp s t c then s else s.onCx t c Ctx.halted) s
    s.onTile t (fun x => { x with dbg := { x.dbg with waiting := true } })
  else haltAll t s

/-- A context leaves HALT: to WAIT while its wait stands, else to RUN. One that waits in LDF looks at its word again
(20 R541). -/
def Ctx.resumed (k : Ctx) : Ctx :=
  match k.st, k.wait with
  | .halt, some (.fe _ _ _) => { k with st := .run, wait := none, haltedInWait := false }
  | .halt, some _ => { k with st := .wait, haltedInWait := false }
  | .halt, none => { k with st := .run, haltedInWait := false }
  | _, _ => k

/-- A resume of tile `t`. -/
def resumeTile (t : Nat) (s : State) : State :=
  s.onTile t (fun x => { [0, 1, 2, 3].foldl (fun x c => x.onCx c Ctx.resumed) x with dbg := { x.dbg with hold := false, waiting := false } })

/-- One halted context is to issue one instruction (18 R494). -/
def stepCtx (t c : Nat) (s : State) : State :=
  s.onCx t c (fun k => if k.st = .halt then { k.resumed with stepGrant := true } else k)

/-- DBG_HALT: HALT of tile `t`, plain or with FORCE. -/
def execDbgHalt (w : Writer) (t : TileId) (force : Bool) (s : State) : Res :=
  .next (selfTimed s (if mayDebug s w (partOf s t) then haltTile force t s else s))

/-- HALT_TAKES_EFFECT: the locked sequences of tile `t` have ended. -/
def execHaltTakesEffect (t : TileId) (s : State) : Res :=
  .next (selfTimed s (if (s.tile t).dbg.waiting && !haltWaits s t then haltAll t s else s))

/-- DBG_RESUME: RESUME of tile `t`. -/
def execDbgResume (w : Writer) (t : TileId) (s : State) : Res :=
  .next (selfTimed s (if mayDebug s w (partOf s t) then resumeTile t s else s))

/-- DBG_STEP: STEP of context `c` of tile `t`. -/
def execDbgStep (w : Writer) (t : TileId) (c : CtxId) (s : State) : Res :=
  .next (selfTimed s (if mayDebug s w (partOf s t) then stepCtx t c s else s))

/-- The partitions that a mask names. -/
def maskParts (m : BitVec 6) : List Nat := (List.range 6).filter (fun n => m.getLsbD n)

/-- Halt every tile of partition `n`. -/
def haltPart (force : Bool) (n : Nat) (s : State) : State := (partTiles s n).foldl (fun s t => haltTile force t s) s

/-- Resume every tile of partition `n`. -/
def resumePart (n : Nat) (s : State) : State := (partTiles s n).foldl (fun s t => resumeTile t s) s

/-- PARTITION_HALT: DBG_PHALT, halt bits (18 R495). -/
def execPartitionHalt (w : Writer) (parts : BitVec 6) (force : Bool) (s : State) : Res :=
  .next (selfTimed s (if (maskParts parts).all (mayDebug s w) then (maskParts parts).foldl (fun s n => haltPart force n s) s else s))

/-- PARTITION_RESUME: DBG_PHALT, resume bits. -/
def execPartitionResume (w : Writer) (parts : BitVec 6) (s : State) : Res :=
  .next (selfTimed s (if (maskParts parts).all (mayDebug s w) then (maskParts parts).foldl (fun s n => resumePart n s) s else s))

/-! ### The debug address space (18 R489) -/

/-- The partitions that a local offset belongs to. -/
def localScope (s : State) (a : Nat) : List Nat :=
  match s.place a with
  | .sram t _ | .block t _ => [partOf s t]
  | .devreg o => devScope s o
  | .bulk => [shareOwner s a]
  | _ => []

/-- Whether a path reaches every partition of a list, or device scope where the list is empty. -/
def reachesAll (s : State) (p : DbgPath) (l : List Nat) : Bool := if l.isEmpty then pathReaches s p 7 else l.all (pathReaches s p)

/-- An 8 B access of the debugger. -/
def dbgReq (a : Nat) (op : MemOp) : MemReq := { iss := .nib 0, part := 7, addr := a, op := op }

/-- The outcome of a debug access: ERR, or the data read. -/
abbrev DbgRes := Option Word × State

/-- An ordinary access that was served or faulted. -/
def dbgDone (r : MemRes × State) (old : State) : DbgRes :=
  match r with
  | (.data d, s) => (some (BitVec.ofNat 64 (leNat d)), s)
  | (.ack, s) => (some 0, s)
  | (.fault _ _, _) => (none, old)

/-- An access to the Bulk Store outside every share, which has no home slice (08 R211). -/
def dbgBulk (a : Nat) (v : Option Word) (s : State) : DbgRes :=
  match v with
  | some v => (match bulkWrite a (toBytes v.toNat 8) s with | (.ok _, s) => (some 0, s) | (.error _, _) => (none, s))
  | none => (match bulkReadLine (a / 128) s with
    | (.ok d, s) => (some (BitVec.ofNat 64 (leNat ((d.drop (a % 128)).take 8))), s)
    | (.error _, _) => (none, s))

/-- An ordinary access by the debugger agent at a local offset. -/
def dbgLocal (a : Nat) (v : Option Word) (s : State) : DbgRes :=
  let op := match v with | some v => MemOp.store (toBytes v.toNat 8) | none => .load 0 8 false false
  match s.place a with
  | .sram t o => if answersDebug s t then dbgDone (atSram (dbgReq a op) t o s) s else (none, s)
  | .block t o =>
    if !answersDebug s t then (none, s)
    else (match v with
      | some v => (some 0, putBlock t o v s)
      | none => (some (blockWord s t o), s))
  | .devreg o => (match v with
      | some v => (match devWrite .debugger o v s with | .ok s => (some 0, s) | .error _ => (none, s))
      | none => (match devReadAt .debugger o s with | (.ok k, s) => (some (BitVec.ofNat 64 k), s) | (.error _, s) => (none, s)))
  | .bulk =>
    let s := awaitLine a s
    if shareOwner s a < 6 then dbgDone (atBulk false (dbgReq a op) s) s else dbgBulk a v s
  | _ => (none, s)

/-- Whether a unit owns any of the 8 B at `a`, as operand or as result (03 R76). -/
def ownedAny (s : State) (a : Nat) : Bool :=
  ownedResult s a 8 || s.tiles.any (fun p => p.2.un.units.any (fun u => u.2.ops.any (fun op => meetsAny a 8 op.opnd)) || (match p.2.un.list with
    | some l => !l.stopped && l.all.any (fun k => meetsAny a 8 (k.uses p.1))
    | none => false))

/-- A read through the side-effect-free view (18 R490). A codeword with a two-bit error reads as unknown bits. -/
def dbgView (a : Nat) (s : State) : DbgRes :=
  let free := fun (s : State) => let (v, s) := drawFree 64 s; ((some v, s) : DbgRes)
  match s.place a with
  | .sram t _ =>
    if !answersDebug s t then (none, s)
    else if ownedAny s a || (s.badIn a 8).isSome then free s else (some (BitVec.ofNat 64 (leNat (s.bytes a 8))), s)
  | .block t o => if answersDebug s t then (some (blockWord s t o), s) else (none, s)
  | .devreg o => (match devRead s .debugger o with | .ok k => (some (BitVec.ofNat 64 k), s) | .error _ => (none, s))
  | .bulk =>
    if ownedAny s a then free s
    else if !isScrubbed s (granuleOf a) && !held s (shareOwner s a) a then (some 0, s)
    else if !held s (shareOwner s a) a && bulkLineBad s (a / 128) then free s
    else (some (BitVec.ofNat 64 (leNat (viewBulk s a 8))), s)
  | _ => (none, s)

/-- DBG_STATUS (18 R494). -/
def dbgStatus (x : Tile) : Nat :=
  sumOf ([0, 1, 2, 3].map (fun c => b2n (decide ((x.cx c).st = .halt)) * 2 ^ c)) + b2n x.dbg.hold * 2 ^ 4
    + b2n x.dbg.waiting * 2 ^ 5 + b2n x.dbg.forced * 2 ^ 6

/-- Bits of DBG_BKPT that are not reserved. -/
def bkptMask : Word := 0x1FFFFFFFFC#64

/-- A register of the tile debug block that belongs to a context: the context, and which (18 R494). -/
inductive CtxReg where
  | pc
  | g (i : Nat)
  | d (j : Nat)
  deriving DecidableEq, Repr

/-- Decode an offset of the tile debug block's context registers. -/
def ctxReg (o : Nat) : Option (Nat × CtxReg) :=
  if 0x20 ≤ o ∧ o < 0x40 then some ((o - 0x20) / 8, .pc)
  else if 0x100 ≤ o ∧ o < 0x500 then
    let i := o % 0x100 / 8
    if 1 ≤ i ∧ i < 32 then some ((o - 0x100) / 0x100, .g i) else none
  else if 0x500 ≤ o ∧ o < 0x900 then
    let j := o % 0x100 / 8
    if j < 32 then some ((o - 0x500) / 0x100, .d j) else none
  else none

/-- Read the tile debug block. -/
def readTileDbg (s : State) (t o : Nat) : Option Word :=
  let x := s.tile t
  match o with
  | 0x000 => some 0
  | 0x008 => some (BitVec.ofNat 64 (dbgStatus x))
  | 0x010 => some x.dbg.bkpt0
  | 0x018 => some x.dbg.bkpt1
  | _ => match ctxReg o with
    | some (c, .pc) => some ((x.cx c).pc.setWidth 64)
    | some (c, .g i) => some ((x.cx c).reg i)
    | some (c, .d j) => some (BitVec.ofNat 64 (fld ((x.cx c).desc (j / 4)).toNat (64 * (j % 4)) 64))
    | none => none

/-- DBG_CTL. -/
def dbgCtl (t : Nat) (v : Word) (s : State) : State :=
  let s := if v.getLsbD 0 then haltTile (v.getLsbD 3) t s else s
  let s := if v.getLsbD 1 then resumeTile t s else s
  if v.getLsbD 2 then stepCtx t (fld v.toNat 4 2) s else s

/-- Write a context's register; only a halted context's. -/
def writeCtxReg (t c : Nat) (r : CtxReg) (v : Word) (s : State) : Option State :=
  if (s.cx t c).st ≠ .halt then none
  else match r with
    | .pc => if fld v.toNat 0 2 = 0 ∧ fld v.toNat 20 12 = 0 then some (s.onCx t c (fun k => { k with pc := v.setWidth 32 })) else none
    | .g i => some (s.onCx t c (fun k => k.setReg i v))
    | .d j => some (s.onCx t c (fun k => k.setDesc (j / 4) (setFld (k.desc (j / 4)) (64 * (j % 4)) 64 v.toNat)))

/-- Write the tile debug block. -/
def writeTileDbg (t o : Nat) (v : Word) (s : State) : Option State :=
  match o with
  | 0x000 => some (dbgCtl t v s)
  | 0x008 => some s
  | 0x010 => some (s.onTile t (fun x => { x with dbg := { x.dbg with bkpt0 := v &&& bkptMask } }))
  | 0x018 => some (s.onTile t (fun x => { x with dbg := { x.dbg with bkpt1 := v &&& bkptMask } }))
  | _ => match ctxReg o with
    | some (c, r) => writeCtxReg t c r v s
    | none => none

/-- Whether every context of partition `n` is in HALT, OFF or FAULT. -/
def partHalted (s : State) (n : Nat) : Bool :=
  (s.part n).band.isSome && (partTiles s n).all (fun t => [0, 1, 2, 3].all (fun c =>
    decide ((s.cx t c).st = .halt ∨ (s.cx t c).st = .off ∨ (s.cx t c).st = .fault)))

/-- DBG_PSTATUS (18 R495). -/
def phaltStatus (s : State) : Nat :=
  sumOf ((List.range 6).map (fun n => b2n (partHalted s n) * 2 ^ n
    + b2n ((partTiles s n).any (fun t => (s.tile t).dbg.waiting)) * 2 ^ (8 + n)))

/-- The partitions that a word's bits from `lo` on name. -/
def wordParts (v lo : Nat) : List Nat := (List.range 6).filter (fun n => nbit v (lo + n))

/-- An access to the device debug block. A bit needs its partition's scope. -/
def deviceDbg (p : DbgPath) (o : Nat) (v : Option Word) (s : State) : DbgRes :=
  let any := (List.range 8).any (fun n => pathReaches s p n)
  if !any then (none, s)
  else match o, v with
    | 0x000, none => (some (s.dev.trace.attach.setWidth 64), s)
    | 0x000, some v =>
      if (wordParts ((v.setWidth 6 ^^^ s.dev.trace.attach).toNat) 0).all (pathReaches s p) then
        (some 0, s.onTrace (fun t => { t with attach := v.setWidth 6 }))
      else (none, s)
    | 0x008, none => (some 0, s)
    | 0x008, some v =>
      let h := wordParts v.toNat 0
      let r := wordParts v.toNat 8
      if (h ++ r).all (pathReaches s p) then
        (some 0, r.foldl (fun s n => resumePart n s) (h.foldl (fun s n => haltPart (v.getLsbD 16) n s) s))
      else (none, s)
    | 0x010, none => (some (BitVec.ofNat 64 (phaltStatus s)), s)
    | 0x010, some _ => (some 0, s)
    | _, _ => (none, s)

/-- A debug access of 8 B; `v` is the data of a write. -/
def dbgAccess (p : DbgPath) (a : Nat) (v : Option Word) (s : State) : DbgRes :=
  if a % 8 ≠ 0 ∨ s.dev.boot.trip then (none, s)
  else if a < 0x400000000000 then (if reachesAll s p (localScope s a) then dbgLocal a v s else (none, s))
  else if a < 0x600000000000 then
    (match v with
    | some _ => (none, s)
    | none => if reachesAll s p (localScope s (a - 0x400000000000)) then dbgView (a - 0x400000000000) s else (none, s))
  else if a < 0x600000000000 + 4608 * 0x1000 then
    let t := (a - 0x600000000000) / 0x1000
    if !pathReaches s p (partOf s t) then (none, s)
    else (match v with
      | some v => (match writeTileDbg t (a % 0x1000) v s with | some s => (some 0, s) | none => (none, s))
      | none => (match readTileDbg s t (a % 0x1000) with | some k => (some k, s) | none => (none, s)))
  else if 0x600100000000 ≤ a ∧ a < 0x600100001000 then deviceDbg p (a - 0x600100000000) v s
  else (none, s)

/-! ### The paths (18 R487, R488) -/

/-- Number of a path: 0 JTAG, 1 + k function k's window. -/
def dbgNum : DbgPath → Nat
  | .jtag => 0
  | .window f => f.val + 1

/-- Whether a path is open: JTAG after any unlock, a window while its function serves it (18 R487; 19 R520, R524). -/
def pathOpen (s : State) (p : DbgPath) : Bool :=
  s.dev.boot.pwronN && (match p with
    | .jtag => s.dev.sec.unlock != 0
    | .window f => fnExists s f && !(s.fn f).d3 && (f.val == 0 || computeReady s))

/-- Run an access of a path and keep its status; a read that ends with ERR returns unknown data. -/
def runDbg (p : DbgPath) (a : Nat) (v : Option Word) (s : State) : State :=
  match dbgAccess p a v s with
  | (some d, s) => s.onTrace (fun t => { t with dbgErr := Map.set false t.dbgErr (dbgNum p) false,
                                                dbgData := if v.isNone then Map.set 0 t.dbgData (dbgNum p) d else t.dbgData })
  | (none, s) =>
    let (x, s) := drawFree 64 s
    s.onTrace (fun t => { t with dbgErr := Map.set false t.dbgErr (dbgNum p) true,
                                 dbgData := if v.isNone then Map.set 0 t.dbgData (dbgNum p) x else t.dbgData })

/-- The answer that a read of DBGW_DATA gives the host. -/
def windowAnswer (p : DbgPath) (s : State) : State :=
  match p with
  | .jtag => s
  | .window _ => hostAnswer true (toBytes (Map.get 0 s.dev.trace.dbgData (dbgNum p)).toNat 8) s

/-- An access at a path that is not open: JTAG offers none without an unlock; a window refuses the write of DBGW_ADDR, and then
the read or write of DBGW_DATA, as any other request that it does not serve (18 R487; 19 R517, R520). -/
def closedAccess (path : DbgPath) (op : BitVec 2) (s : State) : State :=
  match path with
  | .jtag => s
  | .window f =>
    let s := refuseBar0 f 0x10000 s
    if op = 1 then
      (if fnExists s f && !(s.fn f).d3 then refuseHost { fn := f.val, write := false, bar := 0, off := 0x10008, len := 8 } s else s)
    else if op = 2 then refuseBar0 f 0x10008 s
    else s

/-- DEBUG_ACCESS: OP 1 reads and OP 2 writes the debug address; OP 0 is none and OP 3 reserved (18 R488). -/
def execDebugAccess (path : DbgPath) (op : BitVec 2) (addr data : Word) (s : State) : Res :=
  .next (
    if op == 0 then s
    else if !pathOpen s path then closedAccess path op s
    else
      let s := match path with
        | .jtag => s
        | .window f => s.onTrace (fun t => { t with dbgwAddr := Map.set 0 t.dbgwAddr f.val addr })
      if op = 1 then windowAnswer path (runDbg path addr.toNat none s)
      else if op = 2 then runDbg path addr.toNat (some data) s
      else s.onTrace (fun t => { t with dbgErr := Map.set false t.dbgErr (dbgNum path) true }))

/-! ### PC samples (18 R502) -/

/-- PCSAMPLE: a tile's sample is due. -/
def execPcsample (t : TileId) (s : State) : Res :=
  .next (selfTimed s (
    let x := s.tile t
    if s.dev.trace.sample = 0 then s
    else traceTile t 1 0 0xFFFFFFFF ([0, 1, 2, 3].flatMap (fun c => toBytes (x.cx c).pc.toNat 4)
      ++ [0, 1, 2, 3].map (fun c => BitVec.ofNat 8 ((x.cx c).st.code + (x.cx c).waitInfo.1 * 8))) s))

/-! ### Trace on and off (18 R498, R500, R506) -/

/-- Whether the Contact Sheet lies in the traced partition's share. -/
def sheetFits (s : State) : Bool :=
  decide (s.dev.trace.base.toNat + s.dev.trace.size.toNat ≤ (s.part s.dev.trace.part).share.2 * gib)

/-- Every slice gives its trace ways back. -/
def releaseTraceWays (s : State) : State :=
  (List.range 18).foldl (fun s r =>
    (emptyWays r (fun w => ((s.region r).rc.ways .trace).contains w) s).onRc r (fun c => { c with trace := 0 })) s

/-- Every slice reserves its two highest ways, emptied. -/
def reserveTraceWays (s : State) : State :=
  (List.range 18).foldl (fun s r => (emptyWays r (fun w => 14 ≤ w) s).onRc r (fun c => { c with trace := 2 })) s

/-- No record waits in a hub's queue. -/
def emptyTraceQs (s : State) : State :=
  (List.range 18).foldl (fun s r => s.onRegion r (fun g => { g with traceQ := [], traceLost := 0 })) s

/-- Switch trace off: what the hubs still hold is gone. -/
def traceOff (s : State) : State :=
  (releaseTraceWays (emptyTraceQs (drainTraces s))).onTrace (fun t => { t with on := 0, st := 0, left := none })

/-- Switch trace on; nothing where the Contact Sheet leaves the share. A size of 0 records nothing. -/
def traceOn (s : State) : Option State :=
  if !sheetFits s then none
  else
    let s := emptyTraceQs s
    let s := if s.dev.trace.size = 0 then releaseTraceWays s else reserveTraceWays (releaseTraceWays s)
    some (s.onTrace (fun t => { t with on := 1, written := 0, left := none,
                                       st := if t.size = 0 then 0 else if t.mode.getLsbD 1 then 1 else 2 }))

end Sys2Proof.Machine
end

