-- ==== Sys2Proof/Machine/Dump.lean ====
section
/-!
DEFINITION. The synchronisation dump (09 R257–R259, 11 R306): the hub's objects at one point, then the waiter list and the
tiles' state, region by region (log 28); and the counters' fold (18 R497), which comes after it (14 R375).
-/
namespace Sys2Proof.Machine

/-- The contexts of region `r` in WAIT, in ascending tile and context. -/
def waitingCtxs (r : Nat) (s : State) : List (Nat × Nat × WaitFor) :=
  (s.tiles.filter (fun p => regionOf p.1 = r)).flatMap (fun p => [0, 1, 2, 3].filterMap (fun c =>
    match (p.2.cx c).st, (p.2.cx c).wait with
    | .wait, some w => some (p.1, c, w)
    | _, _ => none))

/-- A waiter record (09 R259). -/
def waiterRec (s : State) (x : Nat × Nat × WaitFor) : Word :=
  let (t, c, w) := x
  let (kind, obj) := w.kindObj
  let (n, pos) := match w with
    | .sem o true n =>
      (n, ((s.hub.sem o).queue.findIdx? (fun q => q.t == t && q.c == c)).getD 0)
    | _ => (0, 0)
  BitVec.ofNat 64 (t + c * 2 ^ 13 + kind * 2 ^ 15 + obj % 2 ^ 13 * 2 ^ 18 + n % 2 ^ 16 * 2 ^ 32 + pos % 2 ^ 16 * 2 ^ 48)

/-- A barrier record (09 R259) but for its count of waiting contexts, which is no object of the hub. -/
def barrierRec (s : State) (b : Nat) : Bytes :=
  let m := s.hub.bar b
  toBytes m.epoch.toNat 4 ++ toBytes (participants m) 2 ++ toBytes (arrivedNow m) 2 ++ toBytes (missingWord m 0 72) 9
    ++ toBytes (b2n m.scope + b2n (barIdle s b) * 2 + b2n m.torn * 4 + b2n m.sysWait * 8) 1
    ++ toBytes (ownByte s.hub.ownBar b) 1 ++ zeros 13

/-- The barrier records with the contexts that wait in BAR.WAIT on each counted in. -/
def countWaits (ws : List (Nat × Nat × WaitFor)) (bars : Bytes) : Bytes :=
  (List.range 32).foldl (fun bs b =>
    let old := leNat ((bs.drop (32 * b + 20)).take 2)
    splice bs (32 * b + 20) (toBytes (old + (ws.filter (fun x => decide (x.2.2 = .bar b))).length) 2)) bars

/-- The 1,160 B tile record (09 R257). -/
def tileSync (x : Tile) : Bytes :=
  toBytes x.fe.toNat 1024 ++ (Map.range 0 x.epochs 0 32).flatMap (fun e => toBytes e.toNat 4) ++ toBytes x.barPending.toNat 4
    ++ toBytes x.phaseStep.toNat 4

/-- A queue record (11 R306); a tile without a message record has capacity 0 and no entries. -/
def queueRec (m : Mail) (q1 : Bool) : Bytes :=
  let (cap, lines, _) := match m.record with | some r => queueGeom r q1 | none => (0, 0, 0)
  let q := m.queue q1
  let run := match m.running with | some (k, i) => if k == q1 then 1 + i * 2 else 0 | none => 0
  toBytes cap 1 ++ toBytes q.entries.length 1 ++ toBytes lines 1 ++ toBytes run 1 ++ toBytes q.accepted.toNat 4
    ++ toBytes q.nacks.toNat 4 ++ toBytes q.rejects.toNat 4

/-- A send-slot record (11 R306). -/
def sendRec (m : Mail) (k : Nat) : Bytes :=
  match m.slot k with
  | none => zeros 8
  | some x =>
    let st := match x.st with | .waiting => 0 | .inFlight => 1 | .backingOff => 2
    toBytes (x.dstTile % 2 ^ 13 + b2n x.q * 2 ^ 13 + 2 ^ 14 + b2n x.remote * 2 ^ 15 + x.dstDev % 2 ^ 16 * 2 ^ 16
      + x.seq.toNat * 2 ^ 32 + min x.refusals 63 * 2 ^ 48 + st * 2 ^ 54) 8

/-- The 96 B record of a tile's messages (11 R306). -/
def tileMail (x : Tile) : Bytes := queueRec x.mail false ++ queueRec x.mail true ++ (List.range 8).flatMap (sendRec x.mail)

/-- A capture begins: the hub's objects at this point of its serial order (09 R258). One that is under way goes on. -/
def startDump (s : State) : State :=
  let d := s.hub.dump
  if d.st = 1 then s
  else
    let dump : Dump := { st := 1, todo := BitVec.allOnes 18, seq := d.seq + 1, time := BitVec.ofNat 64 (timeNow s),
                         bars := (List.range 32).flatMap (barrierRec s),
                         flags := toBytes s.hub.gf.toNat 128 ++ toBytes s.hub.gfTorn.toNat 128,
                         sems := (List.range 256).flatMap (fun n => toBytes (semStateWord (s.hub.sem n)) 8), sel := d.sel }
    s.onHub (fun h => { h with dump := dump })

/-- Region `r`'s Nib core takes the waiters and the state of its tiles; one that hangs takes nothing, and a tile out of service
yields zeros (09 R258, log 28). -/
def captureRegion (r : Nat) (s : State) : State :=
  let on := (s.region r).inService && (s.region r).nib.alive
  let ws := if on then waitingCtxs r s else []
  let xs := if on then s.tiles.filter (fun p => regionOf p.1 = r) else []
  let mine := fun (w : Word) => regionOf (fld w.toNat 0 13)
  s.onHub (fun h => { h with dump := { h.dump with
    todo := setBit h.dump.todo r false, bars := countWaits ws h.dump.bars,
    waiters := h.dump.waiters.filter (fun w => mine w < r) ++ ws.map (waiterRec s) ++ h.dump.waiters.filter (fun w => r < mine w),
    tiles := xs.foldl (fun m p => Map.set ([], []) m p.1 (tileSync p.2, tileMail p.2)) h.dump.tiles } })

/-- A capture that every region has served is ready. -/
def dumpReady (s : State) : State :=
  if s.hub.dump.st = 1 ∧ s.hub.dump.todo = 0 then s.onHub (fun h => { h with dump := { h.dump with st := 2 } }) else s

/-- Region `r`'s Nib core serves a capture under way, before it folds counters and after its other duties (14 R375). -/
def serveDump (r : Nat) (s : State) : State :=
  if s.hub.dump.st = 1 && s.hub.dump.todo.getLsbD r && !dutyDue s r then dumpReady (captureRegion r s) else s

/-- A capture's bound of 10 ms has come: the regions that have not served it do, as far as no duty before it is due (09 R257). -/
def endDump (s : State) : State := if s.dev.boot.trip then s else (List.range 18).foldl (fun s r => serveDump r s) s

/-! ### Counter folds (18 R497) -/

/-- Fold the eight counters of a tile into its totals. -/
def Counters.fold (x : Counters) : Counters :=
  let f := fun (m : SMap Word) (n : Nat) =>
    let cur := Map.get 0 x.evcnt n
    let old := Map.get 0 x.folded n
    if fld x.evsel.toNat (8 * n) 8 = fld x.foldedSel.toNat (8 * n) 8 then
      Map.set 0 m n (Map.get 0 m n + (cur - old).setWidth 64)
    else Map.set 0 m n (cur.setWidth 64)
  { x with totals := (List.range 8).foldl f x.totals, folded := x.evcnt, foldedSel := x.evsel }

/-- Fold tile `t`. -/
def foldTile (t : Nat) (s : State) : State := s.onTile t (fun x => { x with cnt := x.cnt.fold })

/-- COUNTER_FOLD: region `r`'s Nib core folds its tiles' counters, once no other duty is due; a capture under way comes before
(14 R375). -/
def execCounterFold (r : RegionId) (s : State) : Res :=
  .next (selfTimed s (
    if (s.region r).nib.alive && !dutyDue s r then (tilesOf r).foldl (fun s t => foldTile t s) (serveDump r s) else s))

/-! ### Reading it (09 R257) -/

/-- Keep the objects of partition `m`, where a mirror reads; other bytes read 0. `k` bytes stand for each object. -/
def ownRecords (own : SMap Nat) (m : Option Nat) (k : Nat) (bs : Bytes) : Bytes :=
  match m with
  | none => bs
  | some n => ((pieces k bs.length bs).zipIdx.map (fun x => if ownByte own x.2 = n then x.1 else zeros x.1.length)).flatten

/-- A mask of 1,024 flags as a mirror sees it. -/
def ownFlags (s : State) (m : Option Nat) (bs : Bytes) : Bytes :=
  match m with
  | none => bs
  | some n => bs.zipIdx.map (fun x => BitVec.ofNat 8 ((List.range 8).foldl (fun a j =>
      a + b2n (x.1.getLsbD j && ownByte s.hub.ownGf (8 * x.2 + j) == n) * 2 ^ j) 0))

/-- Whether a mirror may see tile `t`. -/
def seesTile (s : State) (m : Option Nat) (t : Nat) : Bool := match m with | none => true | some n => partOf s t == n

/-- Entry 0x2A00:`sub` as the original or partition `m`'s mirror reads it. -/
def dumpEntry (s : State) (m : Option Nat) (sub : Nat) : Option Bytes :=
  let d := s.hub.dump
  let sel := d.sel.toNat
  let t := if seesTile s m sel then Map.get ([], []) d.tiles sel else ([], [])
  match sub with
  | 2 => some (toBytes (d.st.toNat + d.seq.toNat * 2 ^ 8) 4)
  | 3 => some (toBytes d.time.toNat 8)
  | 4 => some (padTo 1024 (ownRecords s.hub.ownBar m 32 d.bars))
  | 5 => some (padTo 256 (ownFlags s m (d.flags.take 128) ++ ownFlags s m (d.flags.drop 128)))
  | 6 => some (padTo 2048 (ownRecords s.hub.ownSem m 8 d.sems))
  | 7 => some (toBytes d.waiters.length 4 ++ d.waiters.flatMap (fun w =>
      if seesTile s m (fld w.toNat 0 13) then toBytes w.toNat 8 else zeros 8))
  | 8 => some (toBytes sel 2)
  | 9 => some (padTo 1160 t.1)
  | 10 => some (padTo 96 t.2)
  | _ => none

end Sys2Proof.Machine
end

