-- ==== Sys2Proof/Machine/Link.lean ====
section
/-!
DEFINITION. Device-link ports: training, flits with their acknowledgements and credits, whole packets and where they go,
stalls, retraining and detours (12 R309–R331), and a region that leaves service with its ports (16 R443, R451; 01 R33).
-/
namespace Sys2Proof.Machine

/-! ### Flits (12 R315, R316) -/

/-- The header of a flit. -/
structure FlitHead where
  ftype : Nat
  cls : Nat
  lines : Nat
  seq : BitVec 12
  ack : BitVec 12
  ackv : Bool
  nak : Bool
  cc : Nat
  deriving DecidableEq, Repr

def flitHead (b : Bytes) : FlitHead :=
  let n := leNat (b.take 16)
  { ftype := fld n 0 2, cls := fld n 2 3, lines := fld n 5 3, seq := BitVec.ofNat 12 (fld n 8 12),
    ack := BitVec.ofNat 12 (fld n 20 12), ackv := nbit n 32, nak := nbit n 33, cc := fld n 36 60 }

/-- Whether a flit's CRC holds. -/
def flitCrcOk (b : Bytes) : Bool := b.length == 272 && crc32 (b.take 12 ++ b.drop 16) == leNat ((b.drop 12).take 4)

/-- Line `i` of a flit. -/
def flitLine (b : Bytes) (i : Nat) : Bytes := (b.drop (16 + 64 * i)).take 64

/-- An acknowledgement frees the packets whose last flit it covers (12 R318). -/
def takeAck (ack : BitVec 12) (x : PortSt) : PortSt :=
  { x with acked := ack, replay := x.replay.filter (fun r => seqAhead r.lastSeq ack) }

/-- Count in a port's counters, which saturate (12 R343). -/
def countPort (f : LinkCnt → LinkCnt) (x : PortSt) : PortSt := { x with cnt := f x.cnt }

/-- Every unacknowledged flit is sent again, where there is one; the replay is counted (12 R317). -/
def replayAll (x : PortSt) : PortSt :=
  if x.replay = [] then x else resend (countPort (fun k => { k with replays := satAdd 32 k.replays 1 }) x)

/-- A header that is heard: acknowledgement, replay request and credits (12 R317, R320). -/
def hearHeader (h : FlitHead) (x : PortSt) : PortSt :=
  let x := if h.ackv then takeAck h.ack x else x
  let x := if h.nak then replayAll x else x
  { x with ccIn := (List.range 6).foldl (fun m k => Map.set 0 m k (BitVec.ofNat 10 (fld h.cc (10 * k) 10))) x.ccIn }

/-- A flit that is discarded: the NAK goes out, and stands until the expected flit comes (12 R316, R317). -/
def discardFlit (fecOk : Bool) (x : PortSt) : PortSt :=
  let x := countPort (fun k => if fecOk then { k with crcFail := satAdd 32 k.crcFail 1 }
    else { k with uncorr := satAdd 32 k.uncorr 1 }) x
  sendIdle { x with nak := true, naks := x.naks + 1 }

/-! ### Packets (12 R323) -/

/-- The packet that lines spell: its route line, then its data lines. -/
def parsePacket (b : Bytes) : Packet :=
  let n := leNat (b.take 16)
  { dst := fld n 0 16, src := fld n 16 16, dstTile := fld n 32 13, srcTile := fld n 45 13, part := fld n 58 3,
    kind := fld n 61 4, dl := nbit n 72, dup := nbit n 73, origPort := fld n 74 3, origSeq := BitVec.ofNat 12 (fld n 77 12),
    dstep := fld n 90 2, dfail := fld n 92 3, dleg := fld n 95 3, hdr := BitVec.ofNat 128 (leNat ((b.drop 16).take 16)),
    data := (b.drop 64).take (64 * fld n 65 7) }

/-- Whether the lines of a class are a whole packet. -/
def packetWhole (b : Bytes) : Bool := decide (64 ≤ b.length) && decide (64 * (1 + fld (leNat (b.take 16)) 65 7) ≤ b.length)

/-! ### What cannot be delivered (12 R330) -/

/-- The answer of an access to another device by its transaction, put among the answers; it enters the mesh at the port that it
came over. -/
def settleFar (port : Option Nat) (txn : Nat) (v : MemReq → MemRes) (s : State) : State :=
  match s.net.far.find? (fun f => f.1 = txn) with
  | some f =>
    let leg := match port, f.2.iss.node with | some p, some d => some (Node.port p, d) | _, _ => none
    onMesh leg (fun x n => { n with far := n.far.filter (fun g => g.1 ≠ txn),
                                    answers := n.answers ++ [{ req := f.2, res := v f.2, sent := x }] }) s
  | none => s

/-- Fault 0x0E at the source tile of a packet that found port `port` down: at what it belongs to, where that is known. A reduction
whose segment is never acknowledged does not complete: it stops with ERR (12 R338, 16 R439; DEDUCED, log 20). -/
def unreachAt (t dst port kind tag : Nat) (s : State) : State :=
  let a := unreachAddr dst port
  let plain := fun (src ctx : Nat) (iaddr : BitVec 32) (s : State) =>
    tileFault t { code := 0x0E, daddr := a, src := BitVec.ofNat 5 src, ctx := ctx, iaddr := iaddr } s
  match kind with
  | 0 => (match (s.tile t).un.list with
    | some l => if l.stopped then s else stopList t l 0x0E a s
    | none => plain 5 0 0xFFFFFFFF#32 s)
  | 2 =>
    let m := (s.tile t).mail
    (match (List.range 8).findSome? (fun k => match m.slot k with
        | some x => if x.st = .inFlight ∧ x.seq.toNat = tag ∧ x.dstDev = dst then some (k, x) else none
        | none => none) with
      | some (k, x) => sendFault t x 0x0E a (freeSlot t k s)
      | none => plain 7 0 0xFFFFFFFF#32 s)
  | 4 => settleFar none tag (fun _ => .fault 0x0E#8 a) s
  | 6 => settleFar none tag (fun _ => .fault 0x0E#8 a) s
  | 8 =>
    let k := ringOf s (oppositePort port) (partOf s t)
    if ringRuns s k then ringFault k (t - k.tfirst) 0x0E a s else plain 11 0 0xFFFFFFFF#32 s
  | 9 => plain 9 0 0xFFFFFFFF#32 s
  | 10 => plain 9 0 0xFFFFFFFF#32 s
  | _ => plain 11 0 0xFFFFFFFF#32 s

/-- The source hears that a packet cannot be delivered: here, or by a report. A report is lost. -/
def undeliverable (port : Nat) (q : Packet) (s : State) : State :=
  if q.kind = 11 then s
  else if q.src = s.dev.link.self then unreachAt q.srcTile q.dst port q.kind (fld q.hdr.toNat 64 16) s
  else match originate (reportFor q port) s with
    | .ok s => s
    | .error _ => s

/-! ### A packet at its destination device -/

/-- A foreign tag: a record with scope link, and the traffic is discarded (01 R40). -/
def foreign (p : Nat) (q : Packet) (s : State) : State := raiseRec (plainRec s 0x0A 0 3 q.part 11 p) s

/-- Add a segment packet to the segment it belongs to (12 R323). -/
def landSegment (p : Nat) (q : Packet) (s : State) : State :=
  let n := q.hdr.toNat
  let len := fld n 32 24
  let mine := fun (g : Segment) => !g.whole && g.srcDev == q.src && g.srcTile == q.srcTile && g.dstTile == q.dstTile
    && g.srcIdx == fld n 0 16
  onMesh (some (.port p, .tile q.dstTile)) (fun x k =>
    if k.segs.any mine then
      { k with segs := k.segs.map (fun g => if mine g then { g with data := (g.data ++ q.data).take g.len, sent := x } else g) }
    else
      { k with segs := k.segs ++ [{ srcDev := q.src, srcTile := q.srcTile, srcIdx := fld n 0 16, dstTile := q.dstTile,
                                    tag := BitVec.ofNat 16 (fld n 16 16), part := q.part, len := len, data := q.data.take len,
                                    sent := x }] }) s

/-- The request that a read or write packet from port `p` carries (12 R323, log 18). -/
def farRequest (p : Nat) (q : Packet) : MemReq :=
  let n := q.hdr.toNat
  let size := fld n 48 8
  let d := q.data.take size
  { iss := .far q.src q.srcTile (BitVec.ofNat 16 (fld n 64 16)) p, part := q.part, addr := fld n 0 47,
    op := if q.kind = 4 then .load 0 size (nbit n 58) false
          else match fld n 56 2 with
            | 1 => .acc (BitVec.ofNat 2 (fld n 58 2)) d
            | 2 => .fillStore d
            | _ => .store d }

/-- Whether an attachment tile may deliver a packet to the tile it names: that tile is of the partition in its tag. A barrier
packet names no tile, and an access is checked where it is served (01 R40). -/
def tagged (s : State) (q : Packet) : Bool :=
  [4, 6, 9, 10].contains q.kind || (decide (q.part < 6) && decide (partOf s q.dstTile = q.part))

/-- A packet whose destination is this device, from port `p`: the partner that sent it is the one it names. One with a
foreign tag is discarded, and a message's sender hears of it (11 R296). Its lines enter the mesh at the port, in the order in
which packets came (10 R278). -/
def landPacket (p : Nat) (q : Packet) (s : State) : State :=
  let n := q.hdr.toNat
  if !tagged s q then
    let s := foreign p q s
    if q.kind = 2 then
      replyMsg { hdr := q.hdr, dstDev := s.dev.link.self, payload := q.data.take (fld n 20 11), slot := 0 } (.reject 0) s
    else s
  else
  let leg := some (Node.port p, Node.tile q.dstTile)
  match q.kind with
  | 0 => landSegment p q s
  | 1 =>
    let r : SegReply := { dstDev := s.dev.link.self, srcTile := q.dstTile, srcIdx := fld n 0 16 }
    onMesh leg (fun x k => if nbit n 16 then { k with segRefs := k.segRefs ++ [{ r with sent := x }] }
      else { k with segAcks := k.segAcks ++ [{ r with sent := x }] }) s
  | 2 =>
    let g : Message := { hdr := q.hdr, dstDev := s.dev.link.self, payload := q.data.take (fld n 20 11), slot := 0 }
    onMesh leg (fun x k => { k with msgs := k.msgs ++ [{ g with sent := x }] }) s
  | 3 =>
    let h := BitVec.ofNat 128 (q.srcTile + s.dev.link.self * 2 ^ 32 + q.dstTile * 2 ^ 48 + fld n 0 16 * 2 ^ 64)
    let r : MsgReply := { hdr := h, slot := 0 }
    onMesh leg (fun x => putReply { r with sent := x } (match fld n 16 8 with | 0 => .accept | 1 => .nack | _ => .reject (fld n 24 8))) s
  | 4 | 6 =>
    let r := farRequest p q
    let leg := some (Node.port p, nodeAt s r.addr)
    (match s.place r.addr with
      | .bulk | .host _ => onMesh leg (fun x k => { k with slice := k.slice ++ [{ r with sent := x }] }) s
      | _ => onMesh leg (fun x k => { k with reqs := k.reqs ++ [{ r with sent := x }] }) s)
  | 5 => settleFar (some p) (fld n 64 16) (fun _ => if fld n 0 8 = 0 then .data (q.data.take (fld n 80 16))
      else .fault (BitVec.ofNat 8 (fld n 0 8)) (fld n 8 47)) s
  | 7 => settleFar (some p) (fld n 64 16) (fun _ => if fld n 0 8 = 0 then .ack else .fault (BitVec.ofNat 8 (fld n 0 8)) (fld n 8 47)) s
  | 9 =>
    let a : SysPkt := { b := fld n 0 8, epoch := BitVec.ofNat 32 (fld n 8 32), count := fld n 40 16, port := some p, src := q.src }
    s.onNet (fun k => { k with sysArr := k.sysArr ++ [a] })
  | 10 =>
    let a : SysPkt := { b := fld n 0 8, epoch := BitVec.ofNat 32 (fld n 8 32), count := 0, port := some p, src := q.src }
    s.onNet (fun k => { k with sysRel := k.sysRel ++ [a] })
  | 11 => unreachAt q.dstTile (fld n 0 16) (fld n 16 8) (fld n 24 8) (fld n 64 16) s
  | _ => s

/-! ### A packet at an ingress (12 R324, R325, R328, R329) -/

/-- A packet that has come over the link of port `p`, or over that link's detour: into the reduction engine, to this
device, or onward. -/
def passOn (p : Nat) (q : Packet) (s : State) : State :=
  if q.kind = 8 then s.onPort p (fun x => { x with rdIn := x.rdIn ++ [q] })
  else if q.dst = s.dev.link.self then landPacket p q s
  else match routeOut (some (p / 2)) q s with
    | .ok s => s
    | .error f => undeliverable f q s

/-- A detour leg: on at its two intermediate devices, and back into normal routing at its end, where a packet that has
come already is discarded. -/
def detourLeg (q : Packet) (s : State) : State :=
  let on := fun (out step : Nat) =>
    if legOpen s out then enqueue out 5 { q with dstep := step } s else undeliverable q.dfail q s
  if q.dstep = 0 then on q.dfail 1
  else if q.dstep = 1 then on (oppositePort q.dleg) 2
  else
    let p := oppositePort q.dfail
    if q.dup && !seqAhead q.origSeq ((s.port p).expSeq - 1) then s
    else passOn p { q with dup := false, origPort := 0, origSeq := 0, dfail := 0, dleg := 0, dstep := if q.kind = 8 then 2 else 0 } s

/-- A whole packet leaves port `p`'s ingress buffer. The lines of a reduction segment stay until its engine takes it. -/
def receivePacket (p k : Nat) (q : Packet) (s : State) : State :=
  let s := if q.kind = 8 ∧ k ≠ 5 then s else freeLines p k q.lines s
  if k = 5 then detourLeg q s else passOn p q s

/-- Lines of an accepted DATA flit: a packet is passed on once it is whole (12 R324). -/
def takeLines (p k : Nat) (d : Bytes) (s : State) : State :=
  let b := Map.get [] (s.port p).partial' k ++ d
  if packetWhole b then receivePacket p k (parsePacket b) (s.onPort p (fun x => { x with partial' := Map.set [] x.partial' k [] }))
  else s.onPort p (fun x => { x with partial' := Map.set [] x.partial' k b })

/-- A DATA flit: accepted where its sequence number is the expected one (12 R317). -/
def takeFlit (p : Nat) (h : FlitHead) (b : Bytes) (s : State) : State :=
  if h.seq ≠ (s.port p).expSeq ∨ 6 ≤ h.cls ∨ h.lines = 0 ∨ 4 < h.lines then s
  else
    let s := s.onPort p (fun x => { x with expSeq := x.expSeq + 1, heard := true, nak := false, naks := 0, rx := x.rx + BitVec.ofNat 64 h.lines })
    takeLines p h.cls ((List.range h.lines).flatMap (flitLine b)) s

/-- FLIT_RECEIVED: a flit arrives at a port that is up. `fec` says how many symbols the FEC corrected in it, none where it
gave no codeword (12 R315–R324, R343). A DATA flit is answered by a header with what is new. -/
def execFlitReceived (p : PortId) (fec : Option Nat) (flit : Bytes) (u : Upset) (s : State) : Res :=
  .next (selfTimed s <| withUpset u 0 (fun s =>
    if (s.port p).st ≠ pUp then s
    else
      let s := s.onPort p (countPort (fun k => { k with fecCorr := satAdd 64 k.fecCorr (fec.getD 0) }))
      if fec.isNone || !flitCrcOk flit then s.onPort p (discardFlit fec.isSome)
      else
        let h := flitHead flit
        let s := drain p (s.onPort p (hearHeader h))
        if h.ftype = 0 then (takeFlit p h flit s).onPort p sendIdle else s) s)

/-- NAK_REPEAT: a standing NAK is sent again (12 R317). -/
def execNakRepeat (p : PortId) (s : State) : Res :=
  .next (selfTimed s <| s.onPort p (fun x => if x.st = pUp ∧ x.nak then sendIdle { x with naks := x.naks + 1 } else x))

/-! ### Training, stalls and retraining (12 R310, R314, R321, R327) -/

/-- Send the SYS packets that the link switch held and those that wait at the ports, where it no longer holds any (12 R331). One
that no port can carry is not delivered. -/
def releaseSys (s : State) : State :=
  if holdsSys s then s
  else
    let l := s.dev.link.sysHeld
    let s := s.onDev (fun d => { d with link := { d.link with sysHeld := [] } })
    let s := l.foldl (fun s e => (sendOut e.1 e.2.dl e.2 s).getD (undeliverable e.1 e.2 s)) s
    (List.range 8).foldl (fun s p => if (s.port p).egress = [] then s else drain p s) s

/-- What waits at a port that has no way out is not delivered: the sent packets first (12 R330). -/
def giveUp (p : Nat) (s : State) : State :=
  let x := s.port p
  let l := x.replay.map (fun r => r.pkt) ++ x.egress.map (fun e => e.2)
  let s := s.onPort p (fun x => { x with replay := [], egress := [] })
  l.foldl (fun s q => undeliverable p q s) s

/-- Send a packet over the detour of port `f`; it stays a detour of its first failed port (12 R330). The link switch may hold a
SYS packet first (12 R331). -/
def overDetour (f g k : Nat) (q : Packet) (s : State) : State :=
  if k = 5 ∨ !legOpen s g then undeliverable f q s
  else if k = 4 ∧ holdsSys s then holdSys f q s
  else enqueue g 5 { q with dstep := 0, dfail := f, dleg := g } s

/-- What port `p` has sent without an acknowledgement and what waits there take its detour `g`: first the packets of the
replay buffer, resent (12 R328, R329). -/
def reroute (p g : Nat) (s : State) : State :=
  let x := s.port p
  let s := s.onPort p (fun x => { x with replay := [], egress := [] })
  let s := x.replay.foldl (fun s r => overDetour p g r.cls { r.pkt with dup := true, origPort := p, origSeq := r.lastSeq } s) s
  x.egress.foldl (fun s e => overDetour p g e.1 e.2 s) s

/-- Port `p` has found the wrong partner: it is treated as a failed port, whose detour is live at once (12 R310, log 17). -/
def mismatch (p : Nat) (s : State) : State :=
  let s := s.onPort p (fun x => { x with st := pMismatch })
  releaseSys (match detourOf s p with
    | some g => reroute p g s
    | none => giveUp p s)

/-- Port `p` goes down: its detour is being set up where it has an entry, and nothing can be delivered where it has none
(12 R327, R328, R330). -/
def markDown (p : Nat) (s : State) : State :=
  let s := s.onPort p (fun x => { x with st := if (detourOf s p).isSome then pSetup else pNoDetour, lanes := 0,
                                         partial' := [], nak := false, naks := 0 })
  if (detourOf s p).isSome then s else releaseSys (giveUp p s)

/-- The ports whose attachment tiles all lie in regions out of service are down, those that are enabled (01 R33). -/
def dropTileless (s : State) : State :=
  (List.range 8).foldl (fun s p =>
    if (s.port p).noTiles || !(attachTiles p).all (fun t => !s.dev.boot.regions.getLsbD (regionOf t)) then s
    else
      let s := s.onPort p (fun x => { x with noTiles := true })
      if 1 ≤ (s.port p).st ∧ (s.port p).st ≤ 3 then markDown p s else s) s

/-- A region leaves service while the device runs: its partition stops (16 R451), and the ports that attach in it alone are
down (01 R33). -/
def leaveService (r cause : Nat) (s : State) : State :=
  let n := partOfRegion s r
  let s := stopRegion r cause s
  let s := if n < 6 then stopPartition n cause s else s
  let s := s.onRegion r (fun g => { g with inService := false, nib := { g.nib with alive := false } })
  updateLevel (dropTileless (s.onBoot (fun b => { b with regions := setBit b.regions r false })))

/-- NIB_WATCHDOG: a Nib core missed its heartbeat; its region stops and leaves service. -/
def execNibWatchdog (r : RegionId) (s : State) : Res :=
  .next (if (s.region r).inService && (s.region r).nib.alive && !s.dev.boot.trip then
      leaveService r 0x83 (raiseRec (plainRec s 0x83 2 1 (partOfRegion s r) 14 r) s)
    else s)

/-- Ports that are not enabled, or whose dimension has one device, are DISABLED; others that were train, and are down where no
attachment tile is in service (12 R311, R343; 01 R33). Training runs once the sizes and the device number are written. -/
def settlePorts (s : State) : State :=
  updateLevel (releaseSys ((List.range 8).foldl (fun s p =>
    if s.dev.link.enabled.getLsbD p && decide (1 < dimSize s (p / 2)) then
      if (s.port p).st ≠ pDisabled || !s.dev.link.sizesSet || !s.dev.link.selfSet then s
      else if (s.port p).noTiles then markDown p s
      else s.onPort p (fun x => { x with st := pTraining })
    else if (s.port p).st = pDisabled then s
    else giveUp p (s.onPort p (fun x => { x with st := pDisabled, lanes := 0, partial' := [], nak := false, naks := 0 }))) s))

/-- Whether training runs on port `p`: it is enabled and in a dimension of more than one device (12 R311, R343). -/
def canTrain (s : State) (p : Nat) : Bool :=
  s.dev.link.enabled.getLsbD p && decide (1 < dimSize s (p / 2)) && decide (4 ≤ s.dev.boot.st) && decide (s.dev.boot.st ≤ 6)
    && decide ((s.port p).st ≤ pTraining) && s.dev.link.sizesSet && s.dev.link.selfSet

/-- PORT_TRAINING: a port sends TRAIN flits and trains with the partner it finds (12 R310, R311, R314; 01 R33). -/
def execPortTraining (p : PortId) (partner : Partner) (s : State) : Res :=
  .next (selfTimed s <| updateLevel <|
    if !canTrain s p then s
    else if (s.port p).noTiles then markDown p s
    else
      let s := s.onPort p (sendTrain s.dev.link.self p (s.dev.link.lowLat.getLsbD p))
      let s := s.onPort p (fun x => { x with nbrDev := partner.dev % 2 ^ 16, nbrPort := partner.port % 8 })
      if partner.dev ≠ neighbour s p ∨ partner.port ≠ oppositePort p ∨ partner.lowLatency ≠ s.dev.link.lowLat.getLsbD p then
        mismatch p s
      else if partner.lanes < 2 then markDown p s
      else drain p (s.onPort p (fun x =>
        { x with st := pUp, lanes := min partner.lanes 4, nextSeq := 0, acked := 0xFFF#12, expSeq := 0, heard := false,
                 nak := false, naks := 0, sent := [], ccIn := [], freed := [], partial' := [] })))

/-- LINK_STALL: the port retrains (12 R321, R327). -/
def execLinkStall (p : PortId) (s : State) : Res :=
  .next (selfTimed s <| updateLevel <| s.onPort p (fun x =>
    if x.st ≠ pUp then x
    else countPort (fun k => { k with stalls := satAdd 32 k.stalls 1, retrains := satAdd 32 k.retrains 1 }) { x with st := pRetrain }))

/-- RETRAIN_END: the port is up again with its lanes and replays, or it is marked down (12 R327). -/
def execRetrainEnd (p : PortId) (ok : Bool) (lanes : Nat) (s : State) : Res :=
  .next (selfTimed s <| updateLevel <|
    if (s.port p).st ≠ pRetrain then s
    else if !ok || decide (lanes < 2) then markDown p s
    else releaseSys (drain p (s.onPort p (fun x => replayAll { x with st := pUp, lanes := min lanes 4 }))))

/-- DETOUR_LIVE: the packets of the replay buffer are resent over the detour, ahead of the ones that waited (12 R328,
R329). -/
def execDetourLive (p : PortId) (s : State) : Res :=
  .next (selfTimed s <| updateLevel <|
    if (s.port p).st ≠ pSetup then s
    else
      match detourOf s p with
      | none => s
      | some g =>
        releaseSys (reroute p g (s.onPort p (fun x => { x with st := if legOpen s g then pDetoured else pNoDetour }))))

end Sys2Proof.Machine
end

