-- ==== Sys2Proof/Machine/Power.lean ====
section
/-!
DEFINITION. Beats, pools, heat, the core rail, ageing, scrubbing and the time-stamp counter (02 R53–R56; 15 R410–R429;
16 R430, R452; 17 R465, R481). One publication of beats stands for one window of 65,536 time-stamp cycles, and only it
and a wrap move the counter (log 7).
-/
namespace Sys2Proof.Machine

/-! ### Time (17 R465, 16 R452) -/

/-- Time that the AVSBus master and the Steward's waits count (15 R414, R420). -/
def passPower (ns : Nat) (s : State) : State :=
  let waits := (List.range 18).any (fun r => (s.region r).pool.waiting)
  let s := s.onPower (fun w => { w with avsWait := w.avsWait - ns, calmNs := if waits then 0 else w.calmNs + ns })
  (List.range 18).foldl (fun s r => s.onRegion r (fun g =>
    if g.pool.waiting then { g with pool := { g.pool with waitedNs := g.pool.waitedNs + ns } } else g)) s

/-- Move the 48-bit counter on; past its end it wraps and the wrap epoch rises. -/
def advanceTime (ns : Nat) (s : State) : State :=
  passPower ns (s.onTime (fun t => let n := t.time.toNat + ns
    { t with time := BitVec.ofNat 48 n, epoch := t.epoch + BitVec.ofNat 16 (n / 2 ^ 48), idleLeft := t.idleLeft - ns }))

/-- TIMESTAMP_WRAP: the counter passes its end (16 R452). -/
def execTimestampWrap (s : State) : Res :=
  .next (s.onTime (fun t => { t with time := 0, epoch := t.epoch + 1 }))

/-- REFCLK_TS_LOCK_CHANGE: 0x2C00:03 follows the clock (17 R465). -/
def execRefclkTsLockChange (locked : Bool) (s : State) : Res := .next (s.onTime (fun t => { t with locked := locked }))

/-! ### Beats and hops (02 R53–R56) -/

/-- A window in ps: 65,536 cycles of 1 ns. -/
def windowPs : Nat := 65536000

/-- The mean of the window values with these counts, rounded up to a whole picosecond: the sum of the fractions
65,536,000/c over the number of windows. -/
def meanUp (counts : List Nat) : Nat :=
  let q := counts.foldl (fun (a : Nat × Nat) c => (a.1 * c + windowPs * a.2, a.2 * c)) (0, 1)
  cdiv q.1 (q.2 * counts.length)

/-- One window's value, rounded up: the peaks hold whole picoseconds, and R53 gives a rounding for the mean only (DESIGN
CHOICE, log 27). -/
def windowUp (count : Nat) : Nat := cdiv windowPs count

/-- Add a window's count; a monitor that counts nothing gives no window value (log 27). -/
def addCount (c : Nat) (l : List Nat) : List Nat := if c = 0 then l else (c :: l).take 16

/-- A region takes a window's counts. Before 16 windows exist since the start or since the region came into service, what
is published is the mean of those so far (DESIGN CHOICE, log 27). -/
def Reg.window (g : Reg) (beat hop : Nat) : Reg :=
  if !g.inService then { g with beats := [], hops := [], tbeat := 0, thop := 0 }
  else
    let b := addCount beat g.beats
    let h := addCount hop g.hops
    { g with beats := b, hops := h, tbeat := if b = [] then 0 else meanUp b, thop := if h = [] then 0 else meanUp h }

/-- The largest current window values over the regions. -/
def windowBeat (s : State) : Nat := maxOf ((List.range 18).map (fun r => match (s.region r).beats with | c :: _ => windowUp c | [] => 0))
def windowHop (s : State) : Nat := maxOf ((List.range 18).map (fun r => match (s.region r).hops with | c :: _ => windowUp c | [] => 0))

/-- No lowering of PUBLISHED is required any longer. -/
def dropLimits (s : State) : State :=
  (List.range 18).foldl (fun s r => s.onRegion r (fun g => { g with pool := { g.pool with limit := none } })) s

/-- A plan that raises nothing needs no lowered pool (15 R411, R423). -/
def endLowering (s : State) : State :=
  if s.dev.power.plan ≤ s.dev.power.setpoint ∧ s.dev.tm.settle = 0 then dropLimits s else s

/-- Publish a window (02 R53, R55, R56). -/
def publishBeats (beats hops : List Nat) (s : State) : State :=
  let s := (List.range 18).foldl (fun s r => s.onRegion r (fun g => g.window ((beats[r]?).getD 0) ((hops[r]?).getD 0))) s
  let wb := windowBeat s
  let wh := windowHop s
  let tb := maxOf ((List.range 18).map (fun r => (s.region r).tbeat))
  let th := maxOf ((List.range 18).map (fun r => (s.region r).thop))
  let ends := s.dev.tm.settle == 1
  let s := s.onTime (fun t =>
    { t with tbeat := tb, thop := th, tbeatPeak := max t.tbeatPeak wb, thopPeak := max t.thopPeak wh, seq := t.seq + 1,
             settle := t.settle - 1 })
  if ends then dropLimits s else s

/-- The events of 18 R496 that are beats in which a condition holds. -/
def timedEvent (code : Nat) : Bool :=
  code == 0x01 || (decide (0x07 ≤ code) && decide (code ≤ 0x0E)) || [0x11, 0x18, 0x19, 0x1A, 0x22, 0x28].contains code

/-- Counter `n` of tile `t` moves by an unknown number of beats where it counts such an event (log 8). -/
def countFree (t n : Nat) (s : State) : State :=
  if timedEvent (fld (s.tile t).cnt.evsel.toNat (8 * n) 8) then
    let (k, s) := drawFree 32 s
    s.onTile t (fun x => { x with cnt := { x.cnt with evcnt := Map.mod 0 x.cnt.evcnt n (fun v => v + k) } })
  else s

/-- AP_GATED of region `r` moves by an unknown number of beats, as its tiles' requests and lines waited (15 R415, log 8). -/
def gateFree (r : Nat) (s : State) : State :=
  if !(s.region r).inService then s else
  let (k, s) := drawFree 64 s
  s.onRegion r (fun g => { g with pool := { g.pool with gated := g.pool.gated + k } })

/-- The counters of beats move, as time has passed. -/
def countBeats (s : State) : State :=
  let s := (s.tiles.map (fun p => p.1)).foldl (fun s t => (List.range 8).foldl (fun s n => countFree t n s) s) s
  (List.range 18).foldl (fun s r => gateFree r s) s

/-- TBEAT_PUBLICATION: a window ends, with what each region's monitors counted in it (02 R53, R56). Within it the posted writes
accepted so far have left (08 R220, log 75), a capture of the dump under way is complete (09 R258, log 28), and the counters
of beats have moved. -/
def execTbeatPublication (beatCounts hopCounts : List Nat) (s : State) : Res :=
  .next (let s := endDump (advanceTime 65536 s)
    let s := leavePosted s.net.posted.length s
    if s.dev.boot.pwronN && !s.dev.boot.trip then countBeats (publishBeats beatCounts hopCounts s) else s)

/-! ### Pools (15 R410, R411, R423) -/

/-- θ of R410 for a temperature in quarter degrees. -/
def theta (q : Int) : Nat := if q ≤ 340 then 4000 else if q ≤ 420 then 4000 - 30 * (q - 340).toNat else 1600

/-- Pbase of R410. -/
def poolBase (mv tr : Nat) : Nat := min 1536 (1280 * 562500 * tr / (mv * mv * 556))

/-- Pool of R410. -/
def poolOf (mv tr : Nat) (q : Int) : Nat := poolBase mv tr * theta q / 4000

/-- Fresh-silicon TBEAT in ps: the tables' where they list the point, else some value within R546's bounds. R546 states them
for 0-105 °C only; outside that range the model holds the value within them too (DESIGN CHOICE, log 27). -/
def freshTbeat (mv : Nat) (q : Int) : Nat :=
  let table := [(650, 280, 740), (700, 280, 640), (750, 280, 556), (800, 280, 508), (850, 280, 470), (750, 0, 551),
    (750, 100, 548), (750, 340, 561), (750, 420, 569), (650, 0, 781), (650, 100, 762), (650, 340, 737), (650, 420, 736)]
  match table.find? (fun (v, t, _) => v == mv && (t : Int) == q) with
  | some (_, _, b) => b
  | none => 460 + Config.freshBeat mv q % 331

/-- Publish one region's pool: a fall at once, a rise after 16 windows above, or at once for a waiting declaration. -/
def Reg.publish (g : Reg) (mv cap : Nat) : Reg :=
  if !g.inService then { g with pool := { g.pool with hwBound := 0, published := 0, above := 0 } }
  else
    let hw := poolOf mv g.tbeat g.pool.tj
    let c := min (min hw cap) (g.pool.limit.getD hw)
    let p : Pool := { g.pool with hwBound := hw }
    if c ≤ p.published then { g with pool := { p with published := c, above := 0 } }
    else if p.waiting ∨ 15 ≤ p.above then { g with pool := { p with published := c, above := 0 } }
    else { g with pool := { p with above := p.above + 1 } }

/-- Publish every pool. -/
def publishPools (s : State) : State :=
  (List.range 18).foldl (fun s r => s.onRegion r (fun g => g.publish s.dev.power.setpoint s.dev.power.cap)) s

/-- POOL_PUBLICATION (15 R411). -/
def execPoolPublication (s : State) : Res := .next (selfTimed s (if s.dev.boot.pwronN then publishPools s else s))

/-! ### Heat (15 R416–R419) -/

/-- The highest of a list of readings. -/
def hottest (l : List Int) : Int := l.foldl max (l.headD 0)

/-- A region takes its five readings (15 R416, R417). -/
def Reg.heat (g : Reg) (l : List Int) : Reg :=
  let t := hottest l
  let hold := decide (432 ≤ t) || (decide (424 < t) && g.pool.hold)
  { g with pool := { g.pool with tj := t, tjMax := max g.pool.tjMax t, hold := hold } }

/-- The first sensor at 110 °C or more: its region, or 18 and its side. -/
def trippedBy (temps : List (List Int)) (per : List Int) : Option Nat :=
  ((temps.map hottest ++ per).zipIdx.find? (fun x => decide (440 ≤ x.1))).map (fun x => x.2)

/-- The thermal trip (15 R418, 17 R468): the PCIe link is down (19 R520). -/
def thermalTrip (at' : Nat) (s : State) : State :=
  let s := ((cutLink s).onBoot (fun b => { b with trip := true })).onPower (fun w => { w with tripped := true })
  updateLevel (setDevState 7 (raiseRec (plainRec s 0x80 5 2 7 14 at') s))

/-- The readings of one window. -/
def readHeat (temps : List (List Int)) (per : List Int) (s : State) : State :=
  let old := (List.range 18).map (fun r => (s.region r).pool.hold)
  let s := (List.range 18).foldl (fun s r => s.onRegion r (fun g => g.heat ((temps[r]?).getD []))) s
  let held := (List.range 18).map (fun r => (s.region r).pool.hold)
  let fresh := ((old.zip held).filter (fun p => !p.1 && p.2)).length
  let mask := (List.range 18).foldl (fun m r => setBit m r ((held[r]?).getD false)) (0 : BitVec 18)
  let s := s.onPower (fun w => { w with periphery := per, held := mask, holds := satAdd 32 w.holds fresh })
  let top := hottest (temps.map hottest ++ per)
  let lim := s.dev.power.alertAt
  let hot := decide (lim ≤ top) || held.any id
  let s := s.onBoot (fun b => { b with alert := hot || (decide (lim - 8 < top) && b.alert) })
  match trippedBy temps per with
  | some k => thermalTrip k s
  | none => s

/-- THERMAL_READ: the five sensors of each region and the four of the periphery are read (15 R416). -/
def execThermalRead (temps : List (List Int)) (periphery : List Int) (s : State) : Res :=
  .next (selfTimed s (if s.dev.boot.pwronN then readHeat temps periphery s else s))

/-! ### The core rail (15 R420–R423, R414) -/

/-- PUBLISHED falls, in every region in service, to the fresh pool at a setpoint; the lowering stands until the raise has
settled or is no longer wanted (15 R423, log 69). -/
def lowerFor (mv : Nat) (s : State) : State :=
  (List.range 18).foldl (fun s r => s.onRegion r (fun g =>
    if !g.inService then g
    else
      let c := poolOf mv (freshTbeat mv g.pool.tj) g.pool.tj
      { g with pool := { g.pool with published := min g.pool.published c, limit := some c } })) s

/-- Whether no region's reservations exceed its lowered pool. -/
def fitsLimits (s : State) : Bool :=
  (List.range 18).all (fun r => let g := s.region r
    !g.inService || decide (g.pool.reserved ≤ g.pool.limit.getD g.pool.reserved))

/-- Whether the Steward may go back up to the plan after the lowering of R414: no region has waited for 1 s, and every one
reads 95 °C or less. -/
def mayReturn (s : State) : Bool :=
  !s.dev.power.lowered || (decide (1000000000 ≤ s.dev.power.calmNs)
    && (List.range 18).all (fun r => !(s.region r).pool.waiting && decide ((s.region r).pool.tj ≤ 380)))

/-- SETPOINT_STEP: the Steward moves VDD_CORE at most 10 mV toward the plan, in exchange-idle time, no sooner than 100 µs
after the master's last write; a raise first lowers the pools, and is issued only once every reservation fits them (15
R420–R423). -/
def execSetpointStep (up : Bool) (s : State) : Res :=
  .next (selfTimed s <|
    let w := s.dev.power
    if !s.dev.boot.pwronN || !exchangeIdle s || decide (0 < w.avsWait) then s
    else if up then
      if w.plan ≤ w.setpoint || !mayReturn s then s
      else
        let v := min w.plan (w.setpoint + 10)
        let s := lowerFor v s
        if fitsLimits s then
          (sendSetpoint v s).onPower (fun w => { w with lowered := w.lowered && decide (v < w.plan) })
        else s
    else if w.setpoint ≤ w.plan then s
    else sendSetpoint (max w.plan (w.setpoint - 10)) s)

/-! ### Ageing (15 R425–R428) -/

/-- The lowest trim code whose lines lead a drift in ppm by 8 %; a step is 0.5 % (15 R426). -/
def trimFor (worst : Int) : Nat := min 63 (cdiv (80000 + worst).toNat 5000)

/-- The lowest setpoint at which the expected TBEAT is within 0.5 % of the target (15 R427). -/
def holdRate (target : Nat) (drift : Int) : Option Nat :=
  ((List.range 21).map (fun k => 650 + 10 * k)).find? (fun v => decide (Config.plannedBeat v drift * 1000 ≤ target * 1005))

/-- Re-plan the setpoint under the policy (15 R427). -/
def replan (s : State) : State :=
  let tb := s.dev.tm.tbeat
  let s := s.onPower (fun w =>
    if w.policy = 0 then
      let t := if w.target = 0 then tb else w.target
      match holdRate t w.worst with
      | some v => { w with target := t, plan := v, planSt := 0 }
      | none => { w with target := t, plan := 850, planSt := 1 }
    else { w with target := 0, plan := w.holdSet, planSt := 0 })
  endLowering s

/-- An entry of the ageing log (15 R428). -/
def ageingEntry (s : State) (rows regions : List Int) : Bytes :=
  let w := s.dev.power
  let live := (List.range 18).filter (fun r => (s.region r).inService)
  let trims := (List.range 18).map (fun r => (s.region r).trim)
  let base := match live.map (fun r => poolBase w.setpoint (s.region r).tbeat) with
    | [] => 0
    | b :: l => l.foldl min b
  toBytes w.hours 4 ++ toBytes w.setpoint 2 ++ toBytes s.dev.tm.tbeat 2 ++ toBytes (toBits 32 (hottest rows)) 4
    ++ toBytes (toBits 32 (hottest regions)) 4 ++ toBytes base 2 ++ toBytes w.policy.toNat 1 ++ toBytes (maxOf trims) 1
    ++ toBytes (trims.zipIdx.foldl (fun a x => a + x.1 % 64 * 2 ^ (6 * x.2)) 0) 14 ++ zeros 14

/-- Write the log's entry at the first measurement after each 168 h. -/
def logAgeing (rows regions : List Int) (s : State) : State :=
  let w := s.dev.power
  if w.hours / 168 ≤ w.logHours / 168 then s
  else
    let e := ageingEntry s rows regions
    s.onPower (fun w => let l := w.log ++ [e]
      { w with log := l.drop (l.length - 512), logHours := w.hours })

/-- A sensor's drift in ppm from its fresh and its measured count: (fresh ÷ measured − 1) × 10⁶, as a whole number on one
side or the other of the quotient (15 R425, log 70). -/
def driftOf (fresh count : Nat) : Int :=
  if count = 0 then (Config.deadSensor fresh).toInt
  else
    let q := fresh * 1000000
    (q / count : Nat) - 1000000 + (if q % count ≠ 0 ∧ Config.driftUp fresh count then 1 else 0)

/-- The drifts of the sensors of rows 0–71 and of regions 0–17 from their measured counts, with the fresh counts at the
setpoint and the Tj of each sensor's region (15 R425). -/
def rowDrifts (s : State) (counts : List Nat) : List Int :=
  (List.range 72).map (fun y =>
    driftOf (Config.freshCount y s.dev.power.setpoint (s.region (y / 4)).pool.tj) ((counts[y]?).getD 0))

def regionDrifts (s : State) (counts : List Nat) : List Int :=
  (List.range 18).map (fun r =>
    driftOf (Config.freshCount (72 + r) s.dev.power.setpoint (s.region r).pool.tj) ((counts[r]?).getD 0))

/-- A measurement with its trim codes, its plan and its log entry. -/
def measure (rowCounts regionCounts : List Nat) (s : State) : State :=
  let rows := rowDrifts s rowCounts
  let regions := regionDrifts s regionCounts
  let row := fun (y : Nat) => (rows[y]?).getD 0
  let reg := fun (r : Nat) => (regions[r]?).getD 0
  let s := (List.range 18).foldl (fun s r => s.onRegion r (fun g =>
    let worst := hottest [row (4 * r), row (4 * r + 1), row (4 * r + 2), row (4 * r + 3), reg r]
    { g with drift := reg r, trimPlan := max g.trim (trimFor worst) })) s
  let s := s.onPower (fun w =>
    { w with worst := hottest (rows ++ regions), asked := false, sinceMeasured := 0,
             rowDrift := (List.range 72).foldl (fun m y => Map.set 0 m y (row y)) [] })
  logAgeing rows regions (replan (stepTrims s))

/-- Whether a measurement is due: 24 h after the last one, or one was asked for (15 R425, R429). -/
def fadeDue (w : Power) : Bool := w.asked || decide (24 ≤ w.sinceMeasured)

/-- `hours` more powered hours. -/
def addHours (hours : Nat) (s : State) : State :=
  (s.onPower (fun w => { w with hours := w.hours + hours, sinceMeasured := w.sinceMeasured + hours })).onBulk
    (fun b => { b with patrolHours := b.patrolHours + hours })

/-- FADE_MEASUREMENT: `hours` powered hours after the last such command, the counts of the 90 fade sensors are at hand. A
measurement that is due is made in exchange-idle time; one that found none in the hour after it was due is deferred, and
plan status 2 says so (15 R425). -/
def execFadeMeasurement (rowCounts regionCounts : List Nat) (hours : Nat) (s : State) : Res :=
  .next (selfTimed s <|
    if !s.dev.boot.pwronN then s
    else
      let s := addHours hours s
      if !fadeDue s.dev.power then s
      else if exchangeIdle s then measure rowCounts regionCounts s
      else if 25 ≤ s.dev.power.sinceMeasured then s.onPower (fun w => { w with planSt := 2 })
      else s)

/-! ### Scrubbing (16 R430, 17 R481) -/

/-- The patrol scrub reads the line that holds `a`; one it cannot correct is marked bad. A pass reads every usable line in
rising order, and its last one completes it (log 75). -/
def patrol (a : Nat) (s : State) : State :=
  let l := a / 128
  let bad := bulkLineBad s l && !s.dev.bulk.badLines.contains l
  let s := openRow (l * 128) s
  let s := if bad then raiseRec (plainRec s 0x0F 0 2 7 13 0 (l * 128)) (s.onBulk (fun b =>
      { b with badLines := b.badLines ++ [l], marked := satAdd 32 b.marked 1 })) else s
  let done := decide ((bulkBase + s.dev.bulk.gib * gib) / 128 ≤ l + 1)
  s.onBulk (fun b => if l ≠ bulkBase / 128 + b.patrolAt then b
    else { b with patrolAt := if done then 0 else b.patrolAt + 1, patrolHours := if done then 0 else b.patrolHours })

/-- PATROL_SCRUB: the patrol scrub reads the usable line that holds `addr` (16 R430). -/
def execPatrolScrub (addr : Nat) (u : Upset) (s : State) : Res :=
  .next (match s.place addr with
    | .bulk => withUpset u 0 (patrol addr) s
    | _ => s)

/-- BACKGROUND_SCRUB: the scrubber zeroes the next unscrubbed granule (17 R481). -/
def execBackgroundScrub (s : State) : Res :=
  .next (match (List.range (s.dev.bulk.gib * 1024)).find? (fun g => !isScrubbed s g) with
    | some g => scrubGranule g s
    | none => s)

end Sys2Proof.Machine
end

