-- ==== Sys2Proof/Machine/Ecdsa.lean ====
section
/-!
DEFINITION. The ECDSA check over P-384 of FIPS 186-5 and SP 800-186, which 17 R471 and R483 name (log 11). Points are in
Jacobian coordinates: (X, Y, Z) stands for (X/Z², Y/Z³), and Z = 0 for the point at infinity.
-/
namespace Sys2Proof.Machine

/-- The field's prime: 2^384 − 2^128 − 2^96 + 2^32 − 1. -/
def ecP : Nat := 2 ^ 384 - 2 ^ 128 - 2 ^ 96 + 2 ^ 32 - 1

/-- The order of the base point. -/
def ecN : Nat := 0xFFFFFFFFFFFFFFFFFFFFFFFFFFFFFFFFFFFFFFFFFFFFFFFFC7634D81F4372DDF581A0DB248B0A77AECEC196ACCC52973

/-- The curve's coefficient b; a is −3. -/
def ecB : Nat := 0xB3312FA7E23EE7E4988E056BE3F82D19181D9C6EFE8141120314088F5013875AC656398D8A2ED19D2A85C8EDD3EC2AEF

/-- The base point. -/
def ecGx : Nat := 0xAA87CA22BE8B05378EB1C71EF320AD746E1D3B628BA79B9859F741E082542A385502F25DBF55296C3A545E3872760AB7
def ecGy : Nat := 0x3617DE4A96262C6F5D9E98BF9292DC29F8F41DBD289A147CE9DA3113B5F0B8C00A60B1CE1D7E819D7A431D7C90EA0E5F

/-- A point. -/
structure EcPoint where
  x : Nat
  y : Nat
  z : Nat
  deriving DecidableEq, Repr

/-- The difference in the field. -/
def subP (a b : Nat) : Nat := (a + (ecP - b % ecP)) % ecP

/-- Twice a point. -/
def EcPoint.double (q : EcPoint) : EcPoint :=
  let d := q.z * q.z % ecP
  let g := q.y * q.y % ecP
  let b := q.x * g % ecP
  let a := 3 * (subP q.x d * ((q.x + d) % ecP) % ecP) % ecP
  let x := subP (a * a) (8 * b)
  ⟨x, subP (a * subP (4 * b) x) (8 * (g * g % ecP)), 2 * (q.y * q.z % ecP) % ecP⟩

/-- The sum of two points. -/
def EcPoint.add (p q : EcPoint) : EcPoint :=
  if p.z = 0 then q
  else if q.z = 0 then p
  else
    let zp := p.z * p.z % ecP
    let zq := q.z * q.z % ecP
    let u := p.x * zq % ecP
    let s := p.y * (q.z * zq % ecP) % ecP
    let h := subP (q.x * zp) u
    let r := subP (q.y * (p.z * zp % ecP)) s
    if h = 0 then (if r = 0 then p.double else ⟨1, 1, 0⟩)
    else
      let h2 := h * h % ecP
      let h3 := h * h2 % ecP
      let v := u * h2 % ecP
      let x := subP (r * r) (h3 + 2 * v)
      ⟨x, subP (r * subP v x) (s * h3), h * (p.z * q.z % ecP) % ecP⟩

/-- The multiple of a point by the number with these bits, the highest first. -/
def ecMul (q : EcPoint) (bits : List Bool) : EcPoint :=
  bits.foldl (fun a b => if b then a.double.add q else a.double) ⟨1, 1, 0⟩

/-- The 384 bits of a number, the highest first. -/
def bits384 (n : Nat) : List Bool := ((List.range 384).map n.testBit).reverse

/-- A power modulo `m`, by the exponent's bits. -/
def powMod (m b : Nat) (bits : List Bool) : Nat := bits.foldl (fun a i => if i then a * a % m * b % m else a * a % m) 1

/-- The inverse modulo a prime. -/
def invMod (m a : Nat) : Nat := powMod m (a % m) (bits384 (m - 2))

/-- Whether (x, y) is a point of the curve. -/
def onCurve (x y : Nat) : Bool :=
  decide (x < ecP) && decide (y < ecP) && decide (y * y % ecP = (subP (x * (x * x % ecP)) (3 * x) + ecB) % ecP)

/-- Whether (r, s) is a signature of a message under the public key (x, y). -/
def ecdsaOk (x y r s : Nat) (msg : Bytes) : Bool :=
  let w := invMod ecN s
  let e := beNat (sha384 msg)
  let q := (ecMul ⟨ecGx, ecGy, 1⟩ (bits384 (e * w % ecN))).add (ecMul ⟨x, y, 1⟩ (bits384 (r * w % ecN)))
  let i := invMod ecP q.z
  onCurve x y && decide (0 < r) && decide (r < ecN) && decide (0 < s) && decide (s < ecN) && decide (q.z ≠ 0)
    && decide (q.x * (i * i % ecP) % ecP % ecN = r)

/-- The check of a signed response: the key's x and y and the signature's r and s are 48 B each, big-endian (17 R478, R483). -/
def signatureOk (key : BitVec 768) (msg sig : Bytes) : Bool :=
  let k := toBytes key.toNat 96
  decide (sig.length = 96) && ecdsaOk (beNat (k.take 48)) (beNat (k.drop 48)) (beNat (sig.take 48)) (beNat (sig.drop 48)) msg

end Sys2Proof.Machine
end

