-- ==== Sys2Proof/Machine/Tenant.lean ====
section
/-!
DEFINITION. The partition table and tenants (01 R37–R41; 17 R474–R482). A command takes all its steps at once (log 30).
-/
namespace Sys2Proof.Machine

/-! ### The partition table (17 R476) -/

/-- A staged table's rows for partition `n`. -/
structure TableRow where
  band : Option (Nat × Nat)
  weight : Nat
  share : Nat × Nat
  pend : Nat × Nat
  deriving DecidableEq, Repr

/-- Row `n` of the staged table. -/
def tableRow (g : Staged) (n : Nat) : TableRow :=
  let b := fld g.bands.toNat (16 * n) 16
  let h := fld g.shares.toNat (64 * n) 64
  { band := if nbit b 15 then some (fld b 0 5, fld b 5 5) else none, weight := fld g.weights.toNat (8 * n) 8,
    share := (fld h 0 16, fld h 16 16), pend := (fld h 32 16, fld h 48 16) }

/-- The rows of all six partitions. -/
def tableRows (g : Staged) : List TableRow := (List.range 6).map (tableRow g)

/-- Whether bands are whole runs of regions in service, apart, and in the partitions' order (01 R37). -/
def bandsOk (s : State) : Nat → List TableRow → Bool
  | _, [] => true
  | lo, r :: l => match r.band with
    | none => bandsOk s lo l
    | some (r0, k) => decide (lo ≤ r0) && decide (1 ≤ k) && decide (r0 + k ≤ 18)
        && (List.range k).all (fun i => s.dev.boot.regions.getLsbD (r0 + i)) && bandsOk s (r0 + k) l

/-- The ranges of a table that hold anything. -/
def tableRanges (rows : List TableRow) : List (Nat × Nat) := (rows.flatMap (fun r => [r.share, r.pend])).filter (fun x => x.2 ≠ 0)

/-- Whether ranges lie within the usable size and apart. -/
def rangesOk (gib : Nat) : List (Nat × Nat) → Bool
  | [] => true
  | r :: l => decide (r.1 + r.2 ≤ gib) && l.all (fun q => !meets r.1 r.2 q.1 q.2) && rangesOk gib l

/-- The ownership bits of partition `n`: 1,024 flags, 256 semaphores, 32 barriers. -/
def tableObjs (g : Staged) (n : Nat) : Nat := fld g.objs.toNat (1312 * n) 1312

/-- Whether no object is in two partitions (01 R41). -/
def objsOk (g : Staged) : Bool :=
  (List.range 6).all (fun m => (List.range m).all (fun n => tableObjs g m &&& tableObjs g n == 0))

/-- Whether partition `n`'s band, share or pending share would change. -/
def rowChanges (s : State) (n : Nat) (r : TableRow) : Bool :=
  let p := s.part n
  decide (p.band ≠ r.band) || decide (p.share ≠ r.share) || decide (p.pend ≠ r.pend)

/-- The result of an APPLY of the staged table: 1 where it takes effect (17 R476). -/
def applyResult (s : State) : Nat :=
  let g := s.dev.staged
  let rows := tableRows g
  if !bandsOk s 0 rows then 2
  else if !rangesOk s.dev.bulk.gib (tableRanges rows) then 3
  else if !objsOk g then 4
  else if rows.zipIdx.any (fun x => (s.part x.2).tn.cur != 0 && rowChanges s x.2 x.1) then 5
  else if rows.any (fun r => r.weight == 0 || decide (64 < r.weight)) then 6
  else if s.dev.trace.on = 1 ∧ s.dev.trace.size ≠ 0 ∧ rows.zipIdx.any (fun x => x.2 == s.dev.trace.part &&
      (decide ((s.part x.2).band ≠ x.1.band) || decide ((s.part x.2).share ≠ x.1.share))) then 7
  else 1

/-- The owner that a table gives object bit `i`, as the ownership maps hold it: 0 for none, else partition + 1. -/
def tableOwner (g : Staged) (i : Nat) : Nat :=
  match (List.range 6).find? (fun n => nbit (tableObjs g n) i) with | some n => n + 1 | none => 0

/-- An ownership map from `k` object bits from `lo` on. -/
def ownMap (g : Staged) (lo k : Nat) : SMap Nat := ((List.range k).map (fun i => (i, tableOwner g (lo + i)))).filter (fun p => p.2 ≠ 0)

/-- Whether a region is in a row's band. -/
def TableRow.has (r : TableRow) (reg : Nat) : Bool :=
  match r.band with | some (r0, k) => decide (r0 ≤ reg) && decide (reg < r0 + k) | none => false

/-- The slices that an APPLY empties first. -/
def emptiedBy (s : State) (rows : List TableRow) : List Nat :=
  (List.range 18).filter (fun reg => rows.zipIdx.any (fun x =>
    let old := inBand s x.2 reg
    let new := x.1.has reg
    old != new || (rowChanges s x.2 x.1 && (old || new))))

/-- Put a table in force. -/
def enforce (g : Staged) (s : State) : State :=
  let rows := tableRows g
  let s := (emptiedBy s rows).foldl (fun s r => invalSlice r s) s
  let s := rows.zipIdx.foldl (fun s x => s.onPart x.2 (fun p =>
    { p with band := x.1.band, weight := x.1.weight, share := x.1.share, pend := x.1.pend })) s
  settleBars (List.range 32)
    (s.onHub (fun h => { h with ownGf := ownMap g 0 1024, ownSem := ownMap g 1024 256, ownBar := ownMap g 1280 32 }))

/-- APPLY: whether it took effect, and the state. -/
def applyTable (s : State) : Bool × State :=
  let k := applyResult s
  let s := s.onStaged (fun g => { g with result := BitVec.ofNat 8 k })
  if k = 1 then (true, (enforce s.dev.staged s).onStaged (fun g => { g with inForce := true })) else (false, s)

/-! ### Ends of an unlock (17 R484, 18 R495) -/

/-- The unlock of partition `n` ends. -/
def endUnlock (n : Nat) (s : State) : State :=
  (s.onSec (fun k => { k with unlock := setBit k.unlock n false })).onTrace (fun t => { t with attach := setBit t.attach n false })

/-! ### Tenant commands (17 R479–R482) -/

/-- Change partition `n`'s tenant state. -/
def onTenant (n : Nat) (f : Tenant → Tenant) (s : State) : State := s.onPart n (fun p => { p with tn := f p.tn })

/-- The Steward draws a range's key pair from its TRNG (17 R477). -/
def newKey (s : State) : BitVec 512 × State := drawFree 512 s

/-- The addresses of a range in GiB. -/
def rangeAddr (r : Nat × Nat) : Nat × Nat := (bulkBase + r.1 * gib, bulkBase + (r.1 + r.2) * gib)

/-- Whether every granule of a range is scrubbed. -/
def rangeScrubbed (s : State) (r : Nat × Nat) : Bool :=
  r.2 == 0 || s.dev.bulk.scrubbed.any (fun (lo, hi) => decide (lo ≤ r.1 * 1024) && decide ((r.1 + r.2) * 1024 ≤ hi))

/-- Bytes of a range that are not scrubbed. -/
def rangeUnscrubbed (s : State) (r : Nat × Nat) : Nat :=
  let lo := r.1 * 1024
  let hi := (r.1 + r.2) * 1024
  0x100000 * (hi - lo - sumOf (s.dev.bulk.scrubbed.map (fun (a, b) => min b hi - max a lo)))

/-- A tenant command's end: done, or the reason why it failed. -/
abbrev TenRes := Option (BitVec 8) × State

/-- A command that failed for a reason. -/
def tenFail (k : Nat) (s : State) : TenRes := (some (BitVec.ofNat 8 k), s)

/-- ASSIGN. -/
def assignTenant (n : Nat) (s : State) : TenRes :=
  let p := s.part n
  if p.tn.newId = 0 then tenFail 1 s
  else if p.tn.cur = 0 then
    let (k, s) := newKey s
    let r := rangeAddr p.share
    (none, rekey r.1 r.2 (p.tn.shareKey.getD Config.unassignedKey)
      ((onTenant n (fun t => { t with cur := t.newId, curKey := t.newKey, shareKey := some k }) s).onTrace
      (fun t => { t with attach := setBit t.attach n false })))
  else if p.tn.next ≠ 0 then tenFail 6 s
  else if p.pend.2 = 0 then tenFail 4 s
  else if !rangeScrubbed s p.pend then tenFail 5 s
  else
    let (k, s) := newKey s
    let r := rangeAddr p.pend
    (none, rekey r.1 r.2 (p.tn.pendKey.getD Config.unassignedKey)
      (onTenant n (fun t => { t with next := t.newId, nextKey := t.newKey, pendKey := some k }) s))

/-- STOP of a partition that neither loads nor runs fails for no listed reason: :26 takes an unknown value (log 31). -/
def stopTenant (n : Nat) (s : State) : TenRes :=
  let st := (s.part n).load.st
  if st = 1 ∨ st = 2 then (none, stopPartition n 0 s)
  else let (k, s) := drawFree 8 s; (some k, s)

/-- KILL. -/
def killTenant (n : Nat) (s : State) : TenRes :=
  if (s.part n).tn.cur = 0 then tenFail 1 s
  else
    let st := (s.part n).load.st
    let s := if st = 1 ∨ st = 2 then stopPartition n 0 s else s
    (none, fence n true (onTenant n (fun t => { t with killed := true }) s))

/-- Partition `n`'s objects at the hub in their tenant-switch state (09 R237). -/
def freshObjects (n : Nat) (s : State) : State :=
  let flags := (List.range 1024).filter (fun o => ownedBy s.hub.ownGf n o)
  let mask := flags.foldl (fun (m : BitVec 1024) o => setBit m o true) 0
  s.onHub (fun h =>
    { h with gf := h.gf &&& ~~~mask, gfTorn := h.gfTorn &&& ~~~mask, gfWait := h.gfWait.filter (fun o => !ownedBy h.ownGf n o.obj),
             sems := h.sems.filter (fun p => !ownedBy h.ownSem n p.1), bars := h.bars.filter (fun p => !ownedBy h.ownBar n p.1) })

/-- R480 steps 1 to 4: partition `n` is cleared and its share crypto-erased. -/
def wipe (n : Nat) (s : State) : State :=
  let s := endUnlock n s
  let s := clearTiles n (freshObjects n (quiesce n s))
  let s := (partTiles s n).foldl (fun s t => s.onTile t (fun x => { x with dbg := { x.dbg with hold := false } })) s
  let s := (bandOf s n).foldl (fun s r => zeroSlice r s) s
  let s := (List.range 8).foldl (fun s p => s.onPort p (fun x =>
    { x with rd := Map.set {} x.rd n {}, rdIn := x.rdIn.filter (fun q => q.part ≠ n) })) s
  let s := s.onPart n (fun p =>
    { p with rdnf := false, trans := disabled p.trans, transHi := [], commit := {},
             load := { p.load with plate := none }, tn := { p.tn with shareKey := none, curKey := 0, cur := 0 } })
  let r := rangeAddr (s.part n).share
  setLoad n 0 (unscrub r.1 r.2 s)

/-- The entry of 0x2800:03 for partition `n`, from its ranges in force. -/
def shareWord (p : Part) : Nat := p.share.1 + p.share.2 * 2 ^ 16 + p.pend.1 * 2 ^ 32 + p.pend.2 * 2 ^ 48

/-- The fence of R482 ends. -/
def openPart (n : Nat) (s : State) : State := fence n false (onTenant n (fun t => { t with killed := false }) s)

/-- Whether a SWITCH or RELEASE may run, or why not. -/
def switchBar (s : State) (n : Nat) : Option Nat :=
  let p := s.part n
  if p.tn.cur = 0 then some 1
  else if p.load.st = 1 ∨ p.load.st = 2 then some 3
  else none

/-- SWITCH steps 1 to 5, and the end of the fence. -/
def switchTenant (n : Nat) (s : State) : TenRes :=
  match switchBar s n with
  | some k => tenFail k s
  | none =>
    let old := (s.part n).tn
    let s := wipe n s
    let s := if old.next ≠ 0 then
        let s := s.onPart n (fun p =>
          { p with share := p.pend, pend := p.share,
                   tn := { p.tn with cur := old.next, curKey := old.nextKey, shareKey := old.pendKey, next := 0, nextKey := 0, pendKey := none } })
        let w := shareWord (s.part n)
        s.onStaged (fun g => { g with shares := setFld g.shares (64 * n) 64 w })
      else
        let (k, s) := newKey s
        onTenant n (fun t => { t with cur := t.newId, curKey := t.newKey, shareKey := some k }) s
    (none, openPart n s)

/-- RELEASE. -/
def releaseTenant (n : Nat) (s : State) : TenRes :=
  match switchBar s n with
  | some k => tenFail k s
  | none =>
    let s := wipe n s
    let r := rangeAddr (s.part n).pend
    (none, openPart n (onTenant n (fun t => { t with next := 0, nextKey := 0, pendKey := none }) (unscrub r.1 r.2 s)))

/-- A tenant command ends: :25, :26 and cause 3 (17 R478; 19 R512). -/
def endTenant (n : Nat) (r : TenRes) : Bool × State :=
  match r with
  | (none, s) => (true, causePart n 3 (settleDevState (onTenant n (fun t => { t with cmd := 2 }) s)))
  | (some k, s) => (false, causePart n 3 (settleDevState (onTenant n (fun t => { t with cmd := 3, reason := k }) s)))

/-- A tenant command of 0x2800:24, 1 ASSIGN to 5 RELEASE: whether it has ended, and with success. A SWITCH that goes on with
a LOAD ends with that load. The device is RUNNING while it runs (17 R468). -/
def tenantCmd (n v : Nat) (s : State) : Option Bool × State :=
  let s := settleDevState (onTenant n (fun t => { t with cmd := 1 }) s)
  let fin := fun (r : TenRes) => let (ok, s) := endTenant n r; ((some ok, s) : Option Bool × State)
  match v with
  | 1 => fin (assignTenant n s)
  | 2 => fin (stopTenant n s)
  | 3 => fin (killTenant n s)
  | 4 =>
    let auto := (s.part n).tn.autoLoad == 1
    match switchTenant n s with
    | (none, s) =>
      if auto then
        match load n false (serveFaults n s) with
        | (true, s) => (none, s)
        | (false, s) => fin (none, s)
      else fin (none, s)
    | r => fin r
  | _ => fin (releaseTenant n s)

/-- STOP ALL: STOP of every partition that loads or runs (17 R469). -/
def stopAll (s : State) : State :=
  (List.range 6).foldl (fun s n => if (s.part n).load.st = 1 ∨ (s.part n).load.st = 2 then stopPartition n 0 s else s) s

end Sys2Proof.Machine
end

