-- ==== Sys2Proof/Machine/Security.lean ====
section
/-!
DEFINITION. Firmware slots, debug unlock and attestation (17 R470–R473, R483–R486; 19 R523). What images hold, the leaf key's
signatures and the certificates are constants of Config (log 11).
-/
namespace Sys2Proof.Machine

/-! ### Firmware (17 R470–R473) -/

/-- Bytes of a firmware slot. -/
def slotSize : Nat := 8388608

/-- What the Steward finds of slot A (false) or B: its state, SVN and version. The bytes written to it decide; a slot that was
never written is as shipped. -/
def slotFound (k : Security) (slotB : Bool) : Fin 3 × Fin 65 × BitVec 32 :=
  match if slotB then k.imageB else k.imageA with
  | [] => (k.shipped[if slotB then 1 else 0]?).getD (1, 0, 0)
  | img => (Config.imageState slotB img, Config.imageSvn slotB img, Config.imageVersion slotB img)

/-- Write the slot that does not run. -/
def writeSlot (off : Nat) (d : Bytes) (s : State) : State :=
  s.onSec (fun k => if k.slotB then { k with imageA := Map.fill none k.imageA off (d.map some) }
    else { k with imageB := Map.fill none k.imageB off (d.map some) })

/-- VERIFY of the slot that does not run: whether it is valid. -/
def verifySlot (s : State) : Bool × State :=
  let x := slotFound s.dev.sec (!s.dev.sec.slotB)
  let r : BitVec 8 := if x.1 = 2 then 4 else if x.1 = 1 then 2 else if x.2.1.val < s.dev.sec.otp then 3 else 1
  (r == 1, s.onSec (fun k => { k with verify := r }))

/-! ### Debug unlock (17 R483, R484) -/

/-- 60 s in ns. -/
def minuteNs : Nat := 60000000000

/-- The key of a scope; none where the scope is refused. -/
def scopeKey (s : State) (scope : Nat) : Option (BitVec 768) :=
  if scope = 0xFF then some Config.debugKey
  else if 6 ≤ scope ∨ (s.part scope).tn.cur = 0 ∨ (s.part scope).tn.curKey = 0 then none
  else some (s.part scope).tn.curKey

/-- Whether three failed responses hold challenges off. -/
def lockedOut (s : State) : Bool := decide (3 ≤ s.dev.sec.fails) && decide (timeNow s < s.dev.sec.failAt + minuteNs)

/-- Make a fresh challenge for a scope. -/
def makeChallenge (scope : Byte) (s : State) : State :=
  let (nonce, s) := drawFree 256 s
  let c := nonce.toNat + Config.deviceId.toNat * 2 ^ 256 + scope.toNat * 2 ^ 320
  let now := timeNow s
  s.onSec (fun k => { k with challenge := BitVec.ofNat 384 c, asked := some (scope, now), nonces := k.nonces + 1,
                             fails := if 3 ≤ k.fails then 0 else k.fails })

/-- Count a failed response. -/
def failResponse (s : State) : State :=
  let now := timeNow s
  s.onSec (fun k => { k with asked := none, fails := k.fails + 1, failAt := if k.fails = 2 then now else k.failAt })

/-- The bit of 0x2D00:0B for a scope. -/
def scopeBit (scope : Nat) : Nat := if scope = 0xFF then 7 else scope

/-- A signed response: whether it unlocked its scope. Without a challenge it fails and is not counted (log 32). -/
def answerChallenge (sig : Bytes) (s : State) : Bool × State :=
  match s.dev.sec.asked with
  | none => (false, s)
  | some (scope, at') =>
    match scopeKey s scope.toNat with
    | none => (false, failResponse s)
    | some key =>
      if timeNow s ≤ at' + minuteNs && signatureOk key (toBytes s.dev.sec.challenge.toNat 48) sig then
        (true, s.onSec (fun k => { k with asked := none, fails := 0, unlock := setBit k.unlock (scopeBit scope.toNat) true }))
      else (false, failResponse s)

/-- Relock every scope. -/
def relockAll (s : State) : State := (s.onSec (fun k => { k with unlock := 0 })).onTrace (fun t => { t with attach := 0 })

/-! ### Measurements (17 R486) -/

/-- The partition table in force, laid out as 0x2800:01–:04. -/
def tableBytes (s : State) : Bytes :=
  (List.range 6).flatMap (fun n => match (s.part n).band with
    | some (r0, k) => toBytes (r0 + k * 2 ^ 5 + 2 ^ 15) 2
    | none => zeros 2)
  ++ (List.range 6).map (fun n => BitVec.ofNat 8 (s.part n).weight)
  ++ (List.range 6).flatMap (fun n => toBytes (shareWord (s.part n)) 8)
  ++ (List.range 6).flatMap (fun n =>
    let bits := fun (m : SMap Nat) (k : Nat) => toBytes ((List.range k).foldl (fun a o => a + b2n (ownedBy m n o) * 2 ^ o) 0) (k / 8)
    bits s.hub.ownGf 1024 ++ bits s.hub.ownSem 256 ++ bits s.hub.ownBar 32)

/-- A measurement. -/
def measurement (s : State) (i : Nat) : BitVec 384 :=
  let k := s.dev.sec
  let image := if k.slotB then k.imageB else k.imageA
  match i with
  | 1 => Config.romDigest
  | 2 => Config.firmwareDigest false k.slotB k.version image
  | 3 => Config.firmwareDigest true k.slotB k.version image
  | 4 => Config.fuseDigest s.dev.boot.repair k.otp
  | 5 => BitVec.ofNat 384 (leNat (sha384 (k.unlock :: tableBytes s)))
  | i =>
    let p := s.part (i - 0x10)
    let d := match p.load.plate with | some x => if p.load.st = 2 then toBytes x.digest.toNat 48 else zeros 48 | none => zeros 48
    BitVec.ofNat 384 (leNat (sha384 (toBytes p.tn.cur.toNat 8 ++ d)))

/-- The indices that function `f` reports. -/
def measured (f : Nat) : List Nat := [1, 2, 3, 4, 5] ++ (if f = 0 then (List.range 6).map (0x10 + ·) else [0x10 + (f - 1)])

/-! ### DOE (19 R523) -/

/-- Bytes of the largest data object. -/
def doeLimit : Nat := 4096

/-- The data objects of the DOE capability: PCI-SIG's Discovery, 0, and CMA/SPDM, 1. -/
def doeObjects : List Nat := [0, 1]

/-- The answer of the Discovery object to an index: the vendor 0x0001 and the object of that index, with the next index, or 0
after the last; an index that none has answers with vendor 0xFFFF (log 33). -/
def doeDiscovery (index : Byte) : BitVec 32 :=
  let next := if index.toNat + 1 < doeObjects.length then index.toNat + 1 else 0
  match doeObjects[index.toNat]? with
  | some k => BitVec.ofNat 32 (0x0001 + k * 2 ^ 16 + next * 2 ^ 24)
  | none => 0xFFFF#32

/-! ### SPDM over DOE (17 R485); message layouts and transcripts are DMTF DSP0274 1.3's (log 33) -/

/-- An SPDM message: version 1.3, a code and two parameters, then its body. -/
def spdmMsg (code p1 p2 : Nat) (body : Bytes) : Bytes := toBytes (0x13 + code * 2 ^ 8 + p1 * 2 ^ 16 + p2 * 2 ^ 24) 4 ++ body

/-- A request as it came. -/
def spdmBytes (code : Nat) (q : SpdmReq) : Bytes := [q.ver, BitVec.ofNat 8 code, q.p1, q.p2] ++ q.body

/-- An SPDM ERROR. -/
def spdmError (code : Nat) (data : Nat := 0) : Bytes := spdmMsg 0x7F code data []

/-- Put a response object in function `f`'s DOE mailbox; `st` is how far the negotiation stands then. -/
def spdmAnswer (f st : Nat) (d : Bytes) (s : State) : State := s.onFn f (fun x => { x with doe := d, spdm := st })

/-- An ERROR ends the measurements that were to be signed together. -/
def spdmFail (f code data : Nat) (s : State) : State :=
  s.onFn f (fun x => { x with doe := spdmError code data, talkM := [] })

/-- Serve a request: none larger than a data object; only of its version, 1.3 after GET_VERSION; only where the negotiation
stands at `lo` to `hi`; and only with `len` bytes of body or more. -/
def spdmRequest (f lo hi code len : Nat) (q : SpdmReq) (answer : State → State) (s : State) : State :=
  let st := (s.fn f).spdm
  if !fnExists s f then s
  else if doeLimit < 12 + q.body.length then s.onFn f (fun x => { x with doeErr := true })
  else if q.ver.toNat ≠ (if code = 0x84 then 0x10 else 0x13) then spdmFail f 0x41 0 s
  else if st < lo ∨ hi < st then spdmFail f 0x04 0 s
  else if q.body.length < len then spdmFail f 0x01 0 s
  else answer s

/-- VERSION: 1.3 and no other. -/
def spdmVersion : Bytes := toBytes 0x10 1 ++ toBytes 0x04 1 ++ zeros 3 ++ toBytes 1 1 ++ toBytes 0x1300 2

/-- GET_VERSION: the negotiation starts over. -/
def execGetVersion (fn : FnId) (s : State) (p1 p2 : Byte := 0) (body : Bytes := []) (ver : Byte := 0x10) : Res :=
  let q : SpdmReq := ⟨ver, p1, p2, body⟩
  .next (spdmRequest fn.val 0 4 0x84 0 q (fun s => (spdmAnswer fn.val 1 spdmVersion s).onFn fn.val
    (fun x => { x with talkA := spdmBytes 0x84 q ++ spdmVersion, talkB := [], talkM := [] })) s)

/-- The flags of CAPABILITIES: certificates, challenge, and measurements with signature; nothing else. -/
def spdmFlags : Nat := 0x2 + 0x4 + 0x10

/-- CAPABILITIES. The exponent of its time is not given. -/
def spdmCapabilities (ct : Byte) : Bytes :=
  spdmMsg 0x61 0 0 (zeros 1 ++ [ct] ++ zeros 2 ++ toBytes spdmFlags 4 ++ toBytes (doeLimit - 8) 4 ++ toBytes (doeLimit - 8) 4)

/-- GET_CAPABILITIES. -/
def execGetCapabilities (fn : FnId) (s : State) (p1 p2 : Byte := 0) (body : Bytes := []) (ver : Byte := 0x13) : Res :=
  let q : SpdmReq := ⟨ver, p1, p2, body⟩
  .next (spdmRequest fn.val 1 1 0xE1 16 q (fun s =>
    let (ct, s) := drawFree 8 s
    (spdmAnswer fn.val 2 (spdmCapabilities ct) s).onFn fn.val
      (fun x => { x with talkA := x.talkA ++ spdmBytes 0xE1 q ++ spdmCapabilities ct })) s)

/-- The bits of ECDSA P-384 among the base algorithms and of SHA-384 among the hashes. -/
def spdmEcdsa : Nat := 7
def spdmSha : Nat := 1

/-- ALGORITHMS: ECDSA P-384 and SHA-384, and the DMTF measurement specification where the requester offers it. -/
def spdmAlgorithms (dmtf : Bool) : Bytes :=
  spdmMsg 0x63 0 0 (toBytes 36 2 ++ toBytes (b2n dmtf) 1 ++ zeros 1 ++ toBytes (b2n dmtf * 4) 4 ++ toBytes (2 ^ spdmEcdsa) 4
    ++ toBytes (2 ^ spdmSha) 4 ++ zeros 16)

/-- Bit `k` of the four bytes at `o` of a request's body. -/
def bodyBit (q : SpdmReq) (o k : Nat) : Bool := nbit (leNat ((q.body.drop o).take 4)) k

/-- NEGOTIATE_ALGORITHMS: what the device supports, or nothing agreed. -/
def execNegotiateAlgorithms (fn : FnId) (p1 p2 : Byte) (s : State) (body : Bytes := []) (ver : Byte := 0x13) : Res :=
  let q : SpdmReq := ⟨ver, p1, p2, body⟩
  .next (spdmRequest fn.val 2 2 0xE3 28 q (fun s =>
    if bodyBit q 4 spdmEcdsa && bodyBit q 8 spdmSha then
      let d := spdmAlgorithms (bodyBit q 2 0)
      (spdmAnswer fn.val (3 + b2n (bodyBit q 2 0)) d s).onFn fn.val (fun x => { x with talkA := x.talkA ++ spdmBytes 0xE3 q ++ d })
    else spdmFail fn.val 0x01 0 s) s)

/-- The digest of the slot 0 chain. -/
def chainDigest : Bytes := sha384 Config.certChain

/-- An answer about the certificates, kept for the signature of a challenge. -/
def spdmShow (f code : Nat) (q : SpdmReq) (d : Bytes) (s : State) : State :=
  s.onFn f (fun x => { x with doe := d, talkB := x.talkB ++ spdmBytes code q ++ d, talkM := [] })

/-- DIGESTS: slot 0 is the only one that the device supports and the only one provisioned. -/
def spdmDigests : Bytes := spdmMsg 0x01 1 1 chainDigest

/-- GET_DIGESTS. -/
def execGetDigests (fn : FnId) (s : State) (p1 p2 : Byte := 0) (body : Bytes := []) (ver : Byte := 0x13) : Res :=
  let q : SpdmReq := ⟨ver, p1, p2, body⟩
  .next (spdmRequest fn.val 3 4 0x81 0 q (spdmShow fn.val 0x81 q spdmDigests) s)

/-- CERTIFICATE: a part of the slot 0 chain. -/
def spdmCertificate (off len : Nat) : Bytes :=
  let d := (Config.certChain.drop off).take (min len (doeLimit - 16))
  spdmMsg 0x02 0 0 (toBytes d.length 2 ++ toBytes (Config.certChain.length - off - d.length) 2 ++ d)

/-- GET_CERTIFICATE. -/
def execGetCertificate (fn : FnId) (p1 p2 : Byte) (body : Bytes) (s : State) (ver : Byte := 0x13) : Res :=
  let q : SpdmReq := ⟨ver, p1, p2, body⟩
  .next (spdmRequest fn.val 3 4 0x82 4 q (fun s =>
    let off := leNat (q.body.take 2)
    if q.p1.toNat % 16 ≠ 0 ∨ Config.certChain.length ≤ off then spdmFail fn.val 0x01 0 s
    else spdmShow fn.val 0x82 q (spdmCertificate off (leNat ((q.body.drop 2).take 2))) s) s)

/-- The leaf key's signature of a transcript, for one use of it. -/
def spdmSign (context : String) (talk : Bytes) : Bytes :=
  let ascii := fun (t : String) => t.toList.map (fun c => BitVec.ofNat 8 c.toNat)
  let c := ascii context
  let head := ((List.replicate 4 (ascii "dmtf-spdm-v1.3.*")).flatten ++ zeros (36 - c.length)) ++ c
  toBytes (Config.leafSignature (head ++ sha384 talk)).toNat 96

/-- A DMTF measurement block of a digest, with the kind of what it measures: ROM, firmware, hardware or other configuration. -/
def measureBlock (s : State) (i : Nat) : Bytes :=
  let kind := match i with | 1 => 0 | 2 | 3 => 1 | 4 => 2 | _ => 3
  toBytes i 1 ++ toBytes 1 1 ++ toBytes 51 2 ++ toBytes kind 1 ++ toBytes 48 2 ++ toBytes (measurement s i).toNat 48

/-- The measurement summary that a CHALLENGE asks for: none, that of a trusted base that no rule names, or that of all. -/
def spdmSummary (f kind : Nat) (s : State) : Option Bytes × State :=
  match kind with
  | 0 => (some [], s)
  | 1 => let (d, s) := drawBytes 48 s; (some d, s)
  | 0xFF => (some (sha384 ((measured f).flatMap (measureBlock s))), s)
  | _ => (none, s)

/-- CHALLENGE_AUTH without its signature, for a requester's context. -/
def spdmAuth (nonce summary context : Bytes) : Bytes := spdmMsg 0x03 0 1 (chainDigest ++ nonce ++ summary ++ zeros 2 ++ context)

/-- CHALLENGE of slot 0: its signature covers all that was said since GET_VERSION but the measurements. -/
def execChallenge (fn : FnId) (p1 p2 : Byte) (s : State) (body : Bytes := []) (ver : Byte := 0x13) : Res :=
  let q : SpdmReq := ⟨ver, p1, p2, body⟩
  .next (spdmRequest fn.val 3 4 0x83 40 q (fun s =>
    match spdmSummary fn.val q.p2.toNat s with
    | (some sum, s) =>
      if q.p1 ≠ 0 then spdmFail fn.val 0x01 0 s
      else
        let (nonce, s) := drawBytes 32 s
        let d := spdmAuth nonce sum ((q.body.drop 32).take 8)
        let x := s.fn fn.val
        let sig := spdmSign "responder-challenge_auth signing" (x.talkA ++ x.talkB ++ spdmBytes 0x83 q ++ d)
        s.onFn fn.val (fun x => { x with doe := d ++ sig, talkB := [], talkM := [] })
    | (none, s) => spdmFail fn.val 0x01 0 s) s)

/-- The indices that a GET_MEASUREMENTS asks for: 0 for their number, 0xFF for all; none where the index does not exist. -/
def askedIndices (f i : Nat) : Option (List Nat) :=
  if i = 0 then some [] else if i = 0xFF then some (measured f) else if (measured f).contains i then some [i] else none

/-- MEASUREMENTS without its signature. -/
def spdmMeasurements (s : State) (f index : Nat) (l : List Nat) (nonce context : Bytes) : Bytes :=
  let rec' := l.flatMap (measureBlock s)
  spdmMsg 0x60 (if index = 0 then (measured f).length else 0) 0
    (toBytes l.length 1 ++ toBytes rec'.length 3 ++ rec' ++ nonce ++ zeros 2 ++ context)

/-- GET_MEASUREMENTS, signed where its attributes ask for it: the request then holds a nonce and a slot before the context. -/
def execGetMeasurements (fn : FnId) (p1 p2 : Byte) (body : Bytes) (s : State) (ver : Byte := 0x13) : Res :=
  let q : SpdmReq := ⟨ver, p1, p2, body⟩
  let signed := q.p1.getLsbD 0
  .next (spdmRequest fn.val 4 4 0xE0 (if signed then 41 else 8) q (fun s =>
    let slot := if signed then ((q.body[32]?).getD 0).toNat % 16 else 0
    match askedIndices fn.val q.p2.toNat with
    | some l =>
      if slot ≠ 0 then spdmFail fn.val 0x01 0 s
      else
        let (nonce, s) := drawBytes 32 s
        let d := spdmMeasurements s fn.val q.p2.toNat l nonce ((q.body.drop (if signed then 33 else 0)).take 8)
        let x := s.fn fn.val
        let talk := x.talkM ++ spdmBytes 0xE0 q ++ d
        let sig := if signed then spdmSign "responder-measurements signing" (x.talkA ++ talk) else []
        s.onFn fn.val (fun x => { x with doe := d ++ sig, talkB := [], talkM := if signed then [] else talk })
    | none => spdmFail fn.val 0x01 0 s) s)

/-- UNSUPPORTED_REQUEST: any other request code. -/
def execUnsupportedRequest (fn : FnId) (code : Byte) (s : State) (p1 p2 : Byte := 0) (body : Bytes := []) (ver : Byte := 0x13) : Res :=
  let q : SpdmReq := ⟨ver, p1, p2, body⟩
  .next (spdmRequest fn.val 0 4 code.toNat 0 q (spdmFail fn.val 0x07 code.toNat) s)

/-- DOE_ABORT: the mailbox is empty (19 R523). -/
def execDoeAbort (fn : FnId) (s : State) : Res :=
  .next (if fnExists s fn.val then s.onFn fn.val (fun x => { x with doe := [], doeErr := false }) else s)

end Sys2Proof.Machine
end

