-- ==== Sys2Proof/Machine/Entries.lean ====
section
/-!
DEFINITION. The dictionary: the entries of 17 R464 with their types and access rights, what a read of each answers and
what a write of each does (17 R463–R480 and the entry tables of the other chapters).
-/
namespace Sys2Proof.Machine

/-! ### The map (17 R463, R464) -/

/-- An entry's access right (17 R463). -/
inductive Access where
  | ro | const | rw | wo | rws
  deriving DecidableEq, Repr

/-- Consecutive subindices of an index with one type: its size in bytes, 0 where it varies, and whether it is a BLOB. -/
structure EntryRow where
  index : Nat
  first : Nat
  last : Nat
  acc : Access
  size : Nat
  blob : Bool := false
  deriving DecidableEq, Repr

/-- Rows of 0x1000 to 0x2500 (17 R465, R466, R469; 15 R419, R429; 02 R55; 01 R22; 16 R450). -/
def rowsLow : List EntryRow :=
  [⟨0x1000, 1, 2, .const, 0, false⟩, ⟨0x1000, 3, 3, .const, 8, false⟩, ⟨0x1000, 4, 4, .const, 6, true⟩,
   ⟨0x1000, 5, 5, .const, 4, false⟩, ⟨0x1000, 6, 7, .ro, 4, false⟩, ⟨0x1000, 8, 8, .ro, 1, false⟩, ⟨0x1000, 9, 9, .const, 0, false⟩,
   ⟨0x1100, 1, 1, .ro, 1, false⟩, ⟨0x1100, 2, 4, .rw, 1, false⟩, ⟨0x1100, 5, 5, .rw, 2, false⟩, ⟨0x1100, 6, 6, .ro, 1, false⟩,
   ⟨0x1100, 7, 7, .ro, 16, true⟩,
   ⟨0x2000, 1, 2, .ro, 1, false⟩, ⟨0x2000, 3, 3, .ro, 32, true⟩, ⟨0x2000, 4, 4, .wo, 1, false⟩, ⟨0x2000, 5, 5, .ro, 1, false⟩,
   ⟨0x2100, 1, 1, .const, 2, false⟩, ⟨0x2100, 2, 2, .ro, 2, false⟩, ⟨0x2100, 3, 4, .const, 2, false⟩, ⟨0x2100, 6, 6, .rws, 2, false⟩,
   ⟨0x2100, 7, 7, .rw, 2, false⟩, ⟨0x2100, 0x10, 0x21, .ro, 2, false⟩, ⟨0x2100, 0x30, 0x41, .ro, 2, false⟩,
   ⟨0x2200, 1, 1, .ro, 2, false⟩, ⟨0x2200, 2, 2, .rw, 2, false⟩, ⟨0x2200, 3, 4, .ro, 4, false⟩, ⟨0x2200, 5, 5, .ro, 1, false⟩,
   ⟨0x2200, 0x10, 0x21, .ro, 2, false⟩, ⟨0x2200, 0x22, 0x22, .ro, 8, true⟩,
   ⟨0x2300, 1, 1, .rws, 1, false⟩, ⟨0x2300, 2, 2, .wo, 1, false⟩, ⟨0x2300, 3, 4, .ro, 4, false⟩, ⟨0x2300, 5, 5, .ro, 2, false⟩,
   ⟨0x2300, 6, 6, .ro, 1, false⟩, ⟨0x2300, 7, 7, .ro, 2, false⟩, ⟨0x2300, 8, 8, .ro, 0, true⟩, ⟨0x2300, 0x10, 0x57, .ro, 4, false⟩,
   ⟨0x2300, 0x60, 0x71, .ro, 4, false⟩,
   ⟨0x2400, 1, 5, .ro, 4, false⟩, ⟨0x2400, 6, 6, .wo, 1, false⟩, ⟨0x2400, 7, 7, .ro, 1, false⟩, ⟨0x2400, 0x10, 0x21, .ro, 4, false⟩,
   ⟨0x2500, 1, 1, .ro, 4, false⟩, ⟨0x2500, 2, 2, .ro, 144, true⟩, ⟨0x2500, 3, 3, .ro, 1, false⟩, ⟨0x2500, 4, 4, .ro, 4, false⟩]

/-- Rows of 0x2600 to 0x2A00 (12 R343; 17 R474, R476, R478; 14 R385; 16 R444; 09 R257; 11 R306). -/
def rowsMid : List EntryRow :=
  [⟨0x2600, 1, 1, .rws, 2, false⟩, ⟨0x2600, 2, 2, .ro, 4, false⟩, ⟨0x2600, 3, 4, .rws, 2, false⟩, ⟨0x2600, 5, 5, .rws, 1, false⟩,
   ⟨0x2600, 6, 6, .ro, 4, false⟩, ⟨0x2600, 7, 7, .rws, 8, true⟩, ⟨0x2600, 8, 8, .rws, 1, false⟩, ⟨0x2600, 9, 9, .wo, 1, false⟩,
   ⟨0x2600, 0x10, 0x17, .ro, 32, true⟩,
   ⟨0x2700, 1, 2, .ro, 1, false⟩, ⟨0x2700, 3, 3, .ro, 2, false⟩, ⟨0x2700, 4, 4, .ro, 4, false⟩, ⟨0x2700, 5, 5, .ro, 64, true⟩,
   ⟨0x2700, 6, 7, .ro, 4, false⟩, ⟨0x2700, 8, 8, .ro, 8, false⟩, ⟨0x2700, 9, 9, .ro, 4, false⟩, ⟨0x2700, 0xA, 0xA, .wo, 1, false⟩,
   ⟨0x2800, 1, 1, .rws, 12, true⟩, ⟨0x2800, 2, 2, .rws, 6, true⟩, ⟨0x2800, 3, 3, .rws, 48, true⟩, ⟨0x2800, 4, 4, .rws, 984, true⟩,
   ⟨0x2800, 5, 5, .wo, 1, false⟩, ⟨0x2800, 6, 6, .ro, 1, false⟩,
   ⟨0x2800, 0x20, 0x20, .rw, 8, false⟩, ⟨0x2800, 0x21, 0x21, .rw, 96, true⟩, ⟨0x2800, 0x22, 0x23, .ro, 8, false⟩,
   ⟨0x2800, 0x24, 0x24, .wo, 1, false⟩, ⟨0x2800, 0x25, 0x26, .ro, 1, false⟩, ⟨0x2800, 0x27, 0x27, .rw, 1, false⟩,
   ⟨0x2800, 0x28, 0x28, .ro, 1, false⟩, ⟨0x2800, 0x29, 0x29, .ro, 8, false⟩,
   ⟨0x2800, 0x40, 0x40, .rws, 8, false⟩, ⟨0x2800, 0x41, 0x41, .wo, 1, false⟩, ⟨0x2800, 0x42, 0x43, .ro, 1, false⟩,
   ⟨0x2800, 0x44, 0x44, .ro, 8, false⟩, ⟨0x2800, 0x45, 0x45, .ro, 1, false⟩, ⟨0x2800, 0x46, 0x46, .ro, 4, false⟩,
   ⟨0x2900, 1, 1, .ro, 4, false⟩, ⟨0x2900, 2, 2, .ro, 1, false⟩, ⟨0x2900, 3, 3, .ro, 2, false⟩, ⟨0x2900, 4, 4, .rw, 2, false⟩,
   ⟨0x2900, 5, 5, .ro, 32, true⟩, ⟨0x2900, 6, 6, .ro, 32768, true⟩, ⟨0x2900, 7, 7, .wo, 1, false⟩, ⟨0x2900, 8, 8, .ro, 4, false⟩,
   ⟨0x2900, 9, 9, .rw, 1, false⟩,
   ⟨0x2A00, 1, 1, .wo, 1, false⟩, ⟨0x2A00, 2, 2, .ro, 4, false⟩, ⟨0x2A00, 3, 3, .ro, 8, false⟩, ⟨0x2A00, 4, 4, .ro, 1024, true⟩,
   ⟨0x2A00, 5, 5, .ro, 256, true⟩, ⟨0x2A00, 6, 6, .ro, 2048, true⟩, ⟨0x2A00, 7, 7, .ro, 0, true⟩, ⟨0x2A00, 8, 8, .rw, 2, false⟩,
   ⟨0x2A00, 9, 9, .ro, 1160, true⟩, ⟨0x2A00, 0xA, 0xA, .ro, 96, true⟩]

/-- Rows of 0x2B00 to 0x2E00 (18 R504, R506; 17 R465, R473; 13 R361). -/
def rowsHigh : List EntryRow :=
  [⟨0x2B00, 1, 2, .rws, 1, false⟩, ⟨0x2B00, 3, 4, .rws, 8, false⟩, ⟨0x2B00, 5, 5, .ro, 1, false⟩, ⟨0x2B00, 6, 6, .rws, 1, false⟩,
   ⟨0x2B00, 7, 8, .rw, 1, false⟩, ⟨0x2B00, 9, 9, .wo, 1, false⟩, ⟨0x2B00, 0xA, 0xA, .ro, 1, false⟩, ⟨0x2B00, 0xB, 0xB, .ro, 8, false⟩,
   ⟨0x2B00, 0xC, 0xC, .rw, 4, false⟩, ⟨0x2B00, 0xD, 0xD, .ro, 8, false⟩, ⟨0x2B00, 0xE, 0xE, .rw, 2, false⟩,
   ⟨0x2B00, 0xF, 0xF, .rw, 4, false⟩, ⟨0x2B00, 0x10, 0x10, .rw, 1, false⟩, ⟨0x2B00, 0x11, 0x12, .rw, 2, false⟩,
   ⟨0x2B00, 0x13, 0x13, .ro, 64, true⟩, ⟨0x2B00, 0x14, 0x14, .ro, 4, false⟩,
   ⟨0x2C00, 1, 1, .ro, 8, false⟩, ⟨0x2C00, 2, 2, .ro, 2, false⟩, ⟨0x2C00, 3, 3, .ro, 1, false⟩,
   ⟨0x2C10, 1, 1, .wo, 1, false⟩, ⟨0x2C10, 2, 2, .ro, 1, false⟩, ⟨0x2C10, 3, 3, .ro, 8, false⟩, ⟨0x2C10, 4, 5, .ro, 4, false⟩,
   ⟨0x2C10, 6, 6, .ro, 8, false⟩, ⟨0x2C10, 0x10, 0x17, .ro, 8, false⟩,
   ⟨0x2D00, 1, 2, .ro, 1, false⟩, ⟨0x2D00, 3, 3, .wo, 1, false⟩, ⟨0x2D00, 4, 4, .wo, 8388608, true⟩, ⟨0x2D00, 5, 5, .wo, 1, false⟩,
   ⟨0x2D00, 6, 7, .ro, 1, false⟩, ⟨0x2D00, 8, 8, .wo, 1, false⟩, ⟨0x2D00, 9, 9, .ro, 48, true⟩, ⟨0x2D00, 0xA, 0xA, .wo, 96, true⟩,
   ⟨0x2D00, 0xB, 0xB, .ro, 1, false⟩, ⟨0x2D00, 0xC, 0xC, .wo, 1, false⟩, ⟨0x2D00, 0xD, 0xD, .const, 48, true⟩,
   ⟨0x2E00, 1, 1, .ro, 8, false⟩, ⟨0x2E00, 2, 2, .ro, 1, false⟩, ⟨0x2E00, 3, 4, .ro, 32, true⟩, ⟨0x2E00, 5, 5, .ro, 4, false⟩,
   ⟨0x2E00, 6, 6, .ro, 1, false⟩, ⟨0x2E00, 7, 7, .ro, 4, false⟩, ⟨0x2E00, 8, 8, .ro, 2, false⟩, ⟨0x2E00, 9, 0xA, .ro, 8, false⟩,
   ⟨0x2E00, 0x10, 0x10, .ro, 4, false⟩, ⟨0x2E00, 0x11, 0x11, .ro, 1, false⟩, ⟨0x2E00, 0x20, 0x20, .rws, 1, false⟩,
   ⟨0x2E00, 0x21, 0x21, .ro, 1, false⟩]

/-- Every row of the dictionary. -/
def entryRows : List EntryRow := rowsLow ++ rowsMid ++ rowsHigh

/-- The original index of an index and, for a mirror, its partition (17 R467). -/
def originalOf (idx : Nat) : Option (Nat × Option Nat) :=
  if idx < 0x3000 then some (idx, none)
  else if idx < 0x3600 ∧ idx % 16 = 0 then
    let k := fld idx 4 4
    if [0x0, 0x1, 0x8, 0x9, 0xA, 0xE].contains k then some (0x2000 + 0x100 * k, some (fld idx 8 4)) else none
  else none

/-- Whether a subindex of an original is of partition scope (17 R463, R467). -/
def partScope (idx sub : Nat) : Bool := idx == 0x2E00 || (idx == 0x2800 && decide (0x20 ≤ sub))

/-- The row of an original entry; in a mirror of 0x2800 only the entries of partition scope exist (17 R464, R467). -/
def entryRow (m : Option Nat) (idx sub : Nat) : Option EntryRow :=
  if idx == 0x2800 && m.isSome && !partScope idx sub then none
  else entryRows.find? (fun e => e.index == idx && decide (e.first ≤ sub) && decide (sub ≤ e.last))

/-! ### What a read answers -/

/-- 0x1000 (17 R465). -/
def readIdentity (s : State) (sub : Nat) : Bytes :=
  match sub with
  | 1 => [0x4B#8, 0x4C#8, 0x56#8, 0x2D#8, 0x4E#8, 0x54#8, 0x34#8, 0x36#8, 0x30#8, 0x38#8, 0x2D#8, 0x42#8, 0x31#8]
  | 2 => [0x42#8, 0x31#8]
  | 3 => toBytes Config.deviceId.toNat 8
  | 4 => toBytes Config.macAddress.toNat 6
  | 5 => toBytes Config.romVersion.toNat 4
  | 6 => toBytes s.dev.sec.version 4
  | 7 => toBytes (Config.nibVersion s.dev.sec.version).toNat 4
  | 8 => toBytes s.dev.sec.svn 1
  | _ => [0x4B#8, 0x6C#8, 0x6F#8, 0x65#8, 0x6C#8, 0x6F#8, 0x76#8]

/-- A counter of 32 bits that saturates. -/
def sat32 (n : Nat) : Bytes := toBytes (min n (2 ^ 32 - 1)) 4

/-- 0x1100 (17 R466). -/
def readPort (g : Mgmt) (sub : Nat) : Bytes :=
  match sub with
  | 1 => toBytes g.nodeId.toNat 1
  | 2 => toBytes g.toTimer.toNat 1
  | 3 => toBytes g.burst.toNat 1
  | 4 => toBytes g.burstTimer.toNat 1
  | 5 => toBytes g.etherType.toNat 2
  | 6 => toBytes (b2n g.plcaOk) 1
  | _ => sat32 g.accepted ++ sat32 g.sent ++ sat32 g.ignored ++ sat32 g.busy

/-- 0x2000 (17 R469). -/
def readStart (b : Boot) (sub : Nat) : Bytes :=
  match sub with
  | 1 => toBytes b.st.toNat 1
  | 2 => toBytes b.cause.toNat 1
  | 3 => b.times.flatMap (fun t => toBytes t.toNat 4)
  | _ => toBytes b.bootSel.toNat 1

/-- 0x2100, and its mirror for partition `m`, which shows the entries of the partition's regions only (15 R429; 17 R467). -/
def readPower (s : State) (m : Option Nat) (sub : Nat) : Bytes :=
  let shown := fun (r : Nat) => match m with | none => true | some n => inBand s n r
  let v :=
    if 0x30 ≤ sub then (if shown (sub - 0x30) then (s.region (sub - 0x30)).pool.reserved else 0)
    else if 0x10 ≤ sub then
      let g := s.region (sub - 0x10)
      if shown (sub - 0x10) && g.inService then g.pool.published else 0
    else if m.isSome then 0
    else match sub with
      | 1 => 1536
      | 2 => s.dev.power.setpoint
      | 3 => 650
      | 4 => 850
      | 6 => s.dev.power.holdSet
      | _ => s.dev.power.cap
  toBytes v 2

/-- Tj of every region, then the periphery's readings. -/
def allTj (s : State) : List Int := (List.range 18).map (fun r => (s.region r).pool.tj) ++ s.dev.power.periphery

/-- 0x2200 (15 R419). -/
def readThermal (s : State) (sub : Nat) : Bytes :=
  let w := s.dev.power
  match sub with
  | 1 => toBytes (toBits 16 (hottest (allTj s))) 2
  | 2 => toBytes (toBits 16 w.alertAt) 2
  | 3 => toBytes w.held.toNat 4
  | 4 => sat32 w.holds
  | 5 => toBytes (b2n w.tripped) 1
  | 0x22 => (List.range 4).flatMap (fun i => toBytes (toBits 16 ((w.periphery[i]?).getD 0)) 2)
  | _ => toBytes (toBits 16 (s.region (sub - 0x10)).pool.tj) 2

/-- 0x2300 (15 R429). -/
def readAgeing (s : State) (sub : Nat) : Bytes :=
  let w := s.dev.power
  match sub with
  | 1 => toBytes w.policy.toNat 1
  | 3 => sat32 w.hours
  | 4 => toBytes (toBits 32 w.worst) 4
  | 5 => toBytes w.target 2
  | 6 => toBytes w.planSt.toNat 1
  | 7 => toBytes w.log.length 2
  | 8 => w.log.flatten
  | _ => toBytes (toBits 32 (if sub < 0x60 then Map.get 0 w.rowDrift (sub - 0x10) else (s.region (sub - 0x60)).drift)) 4

/-- 0x2400 (02 R55). -/
def readTiming (s : State) (sub : Nat) : Bytes :=
  let t := s.dev.tm
  match sub with
  | 1 => toBytes t.tbeat 4
  | 2 => toBytes t.thop 4
  | 3 => toBytes t.tbeatPeak 4
  | 4 => toBytes t.thopPeak 4
  | 5 => toBytes t.seq.toNat 4
  | 7 => toBytes (b2n (decide (t.settle ≠ 0))) 1
  | _ => let g := s.region (sub - 0x10); toBytes (if g.inService then g.tbeat else 0) 4

/-- 0x2500 (01 R22; 16 R450). -/
def readRepair (b : Boot) (sub : Nat) : Bytes :=
  match sub with
  | 1 => toBytes b.regions.toNat 4
  | 2 => padTo 144 b.repair
  | 3 => toBytes b.level 1
  | _ => toBytes b.reasons.toNat 4

/-- The counters of a port (12 R343). -/
def linkCounters (k : LinkCnt) : Bytes :=
  toBytes (min k.fecCorr (2 ^ 64 - 1)) 8 ++ sat32 k.uncorr ++ sat32 k.crcFail ++ sat32 k.replays ++ sat32 k.retrains
    ++ sat32 k.stalls ++ sat32 k.discBar

/-- 0x2600 (12 R343). -/
def readLinks (s : State) (sub : Nat) : Bytes :=
  let k := s.dev.link
  match sub with
  | 1 => toBytes k.sizes.toNat 2
  | 2 => toBytes (systemSize s) 4
  | 3 => toBytes k.self 2
  | 4 => toBytes k.root 2
  | 5 => toBytes k.lowLat.toNat 1
  | 6 => toBytes ((List.range 8).foldl (fun a p => a + (s.port p).st % 16 * 2 ^ (4 * p)) 0) 4
  | 7 => toBytes k.detours.toNat 8
  | 8 => toBytes k.enabled.toNat 1
  | _ => linkCounters (s.port (sub - 0x10)).cnt

/-- 0x2700 (17 R474). -/
def readBulkEntry (s : State) (sub : Nat) : Bytes :=
  let b := s.dev.bulk
  match sub with
  | 1 => toBytes b.trained.toNat 1
  | 2 => toBytes b.used.toNat 1
  | 3 => toBytes b.gib 2
  | 4 => toBytes (76800 * popCount b.used.toNat 8) 4
  | 5 => (List.range 8).flatMap (fun i => toBytes (min (Map.get 0 b.corrected i) (2 ^ 64 - 1)) 8)
  | 6 => sat32 b.uncorr
  | 7 => sat32 b.marked
  | 8 => toBytes (0x100000 * unscrubbed s) 8
  | _ => sat32 b.patrolHours

/-- 0x2800 for partition `n` (17 R476, R478; 14 R385). -/
def readPartition (s : State) (n sub : Nat) : Bytes :=
  let g := s.dev.staged
  let p := s.part n
  match sub with
  | 1 => toBytes g.bands.toNat 12
  | 2 => toBytes g.weights.toNat 6
  | 3 => toBytes g.shares.toNat 48
  | 4 => toBytes g.objs.toNat 984
  | 6 => toBytes g.result.toNat 1
  | 0x20 => toBytes p.tn.newId.toNat 8
  | 0x21 => toBytes p.tn.newKey.toNat 96
  | 0x22 => toBytes p.tn.cur.toNat 8
  | 0x23 => toBytes p.tn.next.toNat 8
  | 0x25 => toBytes p.tn.cmd.toNat 1
  | 0x26 => toBytes p.tn.reason.toNat 1
  | 0x27 => toBytes p.tn.autoLoad.toNat 1
  | 0x28 => toBytes (b2n p.tn.killed) 1
  | 0x29 => toBytes (rangeUnscrubbed s p.share + rangeUnscrubbed s p.pend) 8
  | 0x40 => toBytes p.load.offset.toNat 8
  | 0x42 => toBytes p.load.st.toNat 1
  | 0x43 => toBytes p.load.reason.toNat 1
  | 0x44 => toBytes p.load.loc.toNat 8
  | 0x45 => toBytes s.dev.sec.digests.length 1
  | _ => toBytes p.load.usecs.toNat 4

/-- 0x2900, and its mirror for partition `m` (16 R444). -/
def readBlotter (s : State) (m : Option Nat) (sub : Nat) : Bytes :=
  let b := s.dev.blot
  match sub with
  | 1 => toBytes b.stored.toNat 4
  | 2 => toBytes b.pinned.length 1
  | 3 => toBytes b.newest 2
  | 4 => toBytes b.sel.toNat 2
  | 5 => blotterView s m b.sel.toNat
  | 6 => (List.range 1024).flatMap (blotterView s m)
  | 8 => sat32 b.dropped
  | _ => toBytes b.policy.toNat 1

/-- 0x2B00 (18 R505, R506, R497). -/
def readTrace (s : State) (sub : Nat) : Bytes :=
  let t := s.dev.trace
  match sub with
  | 1 => toBytes t.on.toNat 1
  | 2 => toBytes t.part 1
  | 3 => toBytes t.base.toNat 8
  | 4 => toBytes t.size.toNat 8
  | 5 => toBytes (b2n (t.evIn.getLsbD 7 && t.evOut.getLsbD 7)) 1
  | 6 => toBytes t.mode.toNat 1
  | 7 => toBytes t.evIn.toNat 1
  | 8 => toBytes t.evOut.toNat 1
  | 0xA => toBytes t.st 1
  | 0xB => toBytes t.written 8
  | 0xC => toBytes t.after.toNat 4
  | 0xD => toBytes (min t.dropped (2 ^ 64 - 1)) 8
  | 0xE => toBytes t.kinds.toNat 2
  | 0xF => toBytes t.tiles.toNat 4
  | 0x10 => toBytes t.sample.toNat 1
  | 0x11 => toBytes t.markers.toNat 2
  | 0x12 => toBytes t.sel.toNat 2
  | 0x13 => (List.range 8).flatMap (fun i => toBytes (Map.get 0#64 (s.tile t.sel.toNat).cnt.totals i).toNat 8)
  | _ => sat32 t.notPulsed

/-- 0x2C00 (17 R465). -/
def readClock (s : State) (sub : Nat) : Bytes :=
  match sub with
  | 1 => toBytes (timeNow s) 8
  | 2 => toBytes s.dev.tm.epoch.toNat 2
  | _ => toBytes (b2n s.dev.tm.locked) 1

/-- 0x2C10 (18 R504). -/
def readAlign (s : State) (sub : Nat) : Bytes :=
  let a := s.dev.align
  match sub with
  | 2 => toBytes a.st.toNat 1
  | 3 => toBytes (toBits 64 a.offset) 8
  | 4 => toBytes (toBits 32 a.rate) 4
  | 5 => toBytes a.unc 4
  | 6 => toBytes ((a.at'.getD 0).toNat) 8
  | _ => toBytes (toBits 64 (if (s.port (sub - 0x10)).st = pUp then Map.get 0 a.nbr (sub - 0x10) else 0)) 8

/-- 0x2D00 (17 R473). -/
def readFirmware (k : Security) (sub : Nat) : Bytes :=
  match sub with
  | 1 => toBytes k.otp 1
  | 2 => toBytes k.svn 1
  | 6 => toBytes k.verify.toNat 1
  | 7 => toBytes (b2n k.slotB) 1
  | 9 => toBytes k.challenge.toNat 48
  | 0xB => toBytes k.unlock.toNat 1
  | _ => toBytes Config.firmwareKeyDigest.toNat 48

/-- The stamps of a partition as stored; without a commit description their place, and so their bytes, are unknown (log 26). -/
def storedStamp (s : State) (c : CommitSt) (bankB : Bool) : Bytes :=
  match c.desc with
  | some d => viewBulkRun s (stampAt d bankB) 32
  | none => toBytes (Config.freeValue 256 s.free).toNat 32

/-- 0x2E00 for partition `n` (13 R361). -/
def readCommit (s : State) (n sub : Nat) : Bytes :=
  let c := (s.part n).commit
  let root := s.dev.link.self == s.dev.link.root
  match sub with
  | 1 => toBytes c.committed.toNat 8
  | 2 => toBytes (b2n c.active) 1
  | 3 => storedStamp s c false
  | 4 => storedStamp s c true
  | 5 => toBytes c.cEpoch.toNat 4
  | 6 => toBytes c.st.toNat 1
  | 7 => toBytes c.lscale.toNat 4
  | 8 => toBytes c.run 2
  | 9 => toBytes c.skipped.toNat 8
  | 0xA => toBytes c.seed.toNat 8
  | 0x10 => toBytes c.root.toNat 4
  | 0x11 => toBytes (b2n (root && c.rootOk)) 1
  | 0x20 => toBytes c.cmd.toNat 1
  | _ => toBytes c.result.toNat 1

/-- The value of an entry that exists and may be read. `m` is the partition of the mirror it is read through. -/
def readEntry (s : State) (m : Option Nat) (idx sub : Nat) : Bytes :=
  match idx with
  | 0x1000 => readIdentity s sub
  | 0x1100 => readPort s.dev.mgmt sub
  | 0x2000 => readStart s.dev.boot sub
  | 0x2100 => readPower s m sub
  | 0x2200 => readThermal s sub
  | 0x2300 => readAgeing s sub
  | 0x2400 => readTiming s sub
  | 0x2500 => readRepair s.dev.boot sub
  | 0x2600 => readLinks s sub
  | 0x2700 => readBulkEntry s sub
  | 0x2800 => readPartition s (m.getD 0) sub
  | 0x2900 => readBlotter s m sub
  | 0x2A00 => (dumpEntry s m sub).getD []
  | 0x2B00 => readTrace s sub
  | 0x2C00 => readClock s sub
  | 0x2C10 => readAlign s sub
  | 0x2D00 => readFirmware s.dev.sec sub
  | _ => readCommit s (m.getD 0) sub

/-- What a read does first: the totals are folded up to the read (18 R497). -/
def prepareRead (idx sub : Nat) (s : State) : State :=
  if idx = 0x2B00 ∧ sub = 0x13 then foldTile s.dev.trace.sel.toNat s else s

/-! ### What a write does -/

/-- The end of a write: an answer with a status and the state unchanged, done, or PENDING with the final status, 0xFF while
the operation goes on (17 R459). -/
inductive WriteRes where
  | stat (code : Nat)
  | done (s : State)
  | pend (final : Nat) (s : State)
  deriving DecidableEq, Repr

/-- The statuses of 17 R459. -/
def stOk : Nat := 0
def stPending : Nat := 1
def stNoEntry : Nat := 2
def stDenied : Nat := 3
def stRefused : Nat := 4
def stNotStopped : Nat := 5
def stBusy : Nat := 6
def stBad : Nat := 7
def stFailed : Nat := 8

/-- The final status of an operation that has ended. -/
def stEnd (ok : Bool) : Nat := if ok then stOk else stFailed

/-- Do it where the value is not reserved (00 R15). -/
def refuseIf (bad : Bool) (s : State) : WriteRes := if bad then .stat stRefused else .done s

/-- 0x1100: the value waits for its answer to leave (17 R466). -/
def writePort (sub v : Nat) (s : State) : WriteRes :=
  let bad := match sub with | 2 => v == 0 | 4 => v == 0 | 5 => decide (v < 0x600) | _ => false
  refuseIf bad (s.onMgmt (fun g => { g with staged := g.staged ++ [(BitVec.ofNat 8 sub, BitVec.ofNat 16 v)] }))

/-- 0x2100 (15 R429): under hold power the plan is the new setpoint. -/
def writePower (sub v : Nat) (s : State) : WriteRes :=
  if sub = 6 then
    refuseIf (decide (v < 650) || decide (850 < v))
      (endLowering (s.onPower (fun w => { w with holdSet := v, plan := if w.policy = 1 then v else w.plan })))
  else refuseIf (decide (1536 < v)) (s.onPower (fun w => { w with cap := v }))

/-- Whether ALERT_N is asserted, by the readings in force (15 R419). -/
def alertNow (s : State) : Bool :=
  let top := hottest (allTj s)
  let lim := s.dev.power.alertAt
  decide (lim ≤ top) || s.dev.power.held != 0 || (decide (lim - 8 < top) && s.dev.boot.alert)

/-- 0x2200:02 (15 R419). -/
def writeThermal (v : Nat) (s : State) : WriteRes :=
  let t := signed 16 v
  let s := s.onPower (fun w => { w with alertAt := t })
  refuseIf (decide (428 < t)) (s.onBoot (fun b => { b with alert := alertNow s }))

/-- 0x2300 (15 R429). -/
def writeAgeing (sub v : Nat) (s : State) : WriteRes :=
  if sub = 1 then
    refuseIf (decide (1 < v)) (endLowering (s.onPower (fun w =>
      if BitVec.ofNat 8 v = w.policy then w
      else { w with policy := BitVec.ofNat 8 v, target := 0, plan := if v = 1 then w.holdSet else w.plan })))
  else if v = 1 then .pend 0xFF (s.onPower (fun w => { w with asked := true }))
  else .stat stRefused

/-- Whether a detour table names a port of the failed port's own dimension (12 R343). -/
def ownDimension (v : Nat) : Bool :=
  (List.range 8).any (fun p => nbit v (8 * p + 3) && fld v (8 * p) 3 / 2 == p / 2)

/-- 0x2600 (12 R343). -/
def writeLinks (sub v : Nat) (s : State) : WriteRes :=
  match sub with
  | 1 =>
    let s := s.onLink (fun k => { k with sizes := BitVec.ofNat 16 v, sizesSet := true })
    refuseIf (decide (systemSize s ≤ s.dev.link.self)) (settlePorts s)
  | 3 => refuseIf (decide (systemSize s ≤ v)) (settlePorts (s.onLink (fun k => { k with self := v, selfSet := true })))
  | 4 => .done (s.onLink (fun k => { k with root := v }))
  | 5 => .done (s.onLink (fun k => { k with lowLat := BitVec.ofNat 8 v }))
  | 7 => refuseIf (ownDimension v) (s.onLink (fun k => { k with detours := BitVec.ofNat 64 v &&& 0x0F0F0F0F0F0F0F0F#64 }))
  | 8 => .done (settlePorts (s.onLink (fun k => { k with enabled := BitVec.ofNat 8 v })))
  | _ => refuseIf (v != 1) ((List.range 8).foldl (fun s p => s.onPort p (fun x => { x with cnt := {} })) s)

/-- 0x2800:41 for partition `n` (14 R385). -/
def writeLoad (n v : Nat) (s : State) : WriteRes :=
  if v = 0 ∨ 3 < v then .stat stRefused
  else if (s.part n).load.st = 1 ∨ (s.part n).tn.cmd = 1 then .stat stBusy
  else if v = 3 then .done (s.onSec (fun k => { k with digests := [] }))
  else
    match load n (v == 1) (serveFaults n s) with
    | (true, s) => .pend 0xFF s
    | (false, s) => .pend stFailed s

/-- 0x2800:24 for partition `n` (17 R478). -/
def writeTenant (n v : Nat) (s : State) : WriteRes :=
  if v = 0 ∨ 5 < v then .stat stRefused
  else if (s.part n).tn.cmd = 1 then .stat stBusy
  else
    match tenantCmd n v s with
    | (some ok, s) => .pend (stEnd ok) s
    | (none, s) => .pend 0xFF s

/-- 0x2800 for partition `n` (17 R476, R478; 14 R385). Reserved bits are ignored (00 R14). -/
def writePartition (n sub v : Nat) (s : State) : WriteRes :=
  match sub with
  | 1 => .done (s.onStaged (fun g => { g with bands := BitVec.ofNat 96 v &&& 0x83FF83FF83FF83FF83FF83FF#96 }))
  | 2 => .done (s.onStaged (fun g => { g with weights := BitVec.ofNat 48 v }))
  | 3 => .done (s.onStaged (fun g => { g with shares := BitVec.ofNat 384 v }))
  | 4 => .done (s.onStaged (fun g => { g with objs := BitVec.ofNat 7872 v }))
  | 5 =>
    if v ≠ 1 then .stat stRefused
    else if s.dev.boot.st ≠ 5 then .stat stNotStopped
    else let r := applyTable s; .pend (stEnd r.1) r.2
  | 0x20 => refuseIf (v == 0) (onTenant n (fun t => { t with newId := BitVec.ofNat 64 v }) s)
  | 0x21 => .done (onTenant n (fun t => { t with newKey := BitVec.ofNat 768 v }) s)
  | 0x24 => writeTenant n v s
  | 0x27 => refuseIf (decide (1 < v)) (onTenant n (fun t => { t with autoLoad := BitVec.ofNat 8 v }) s)
  | 0x40 => refuseIf (v % 128 != 0) (s.onPart n (fun p => { p with load := { p.load with offset := BitVec.ofNat 64 v } }))
  | _ => writeLoad n v s

/-- 0x2900 (16 R444). -/
def writeBlotter (sub v : Nat) (s : State) : WriteRes :=
  match sub with
  | 4 => refuseIf (decide (1023 < v)) (s.onBlot (fun b => { b with sel := BitVec.ofNat 16 v }))
  | 7 => refuseIf (v != 1) (clearBlotter s)
  | _ => .done (s.onBlot (fun b => { b with policy := BitVec.ofNat 8 v &&& 0x3F#8 }))

/-- 0x2A00 (09 R257). -/
def writeDump (sub v : Nat) (s : State) : WriteRes :=
  if sub = 1 then (if v ≠ 1 then .stat stRefused else if s.hub.dump.st = 1 then .stat stBusy else .pend 0xFF (startDump s))
  else refuseIf (decide (4607 < v)) (s.onHub (fun h => { h with dump := { h.dump with sel := BitVec.ofNat 16 v } }))

/-- A change of the traced partition or of the Contact Sheet, which takes effect at once where trace is on (18 R498, R506). -/
def retrace (f : Trace → Trace) (s : State) : WriteRes :=
  if s.dev.trace.on = 0 then .done (s.onTrace f)
  else
    match traceOn ((traceOff s).onTrace f) with
    | some s => .done s
    | none => .stat stRefused

/-- 0x2B00:01 (18 R498, R506). -/
def writeTraceOn (v : Nat) (s : State) : WriteRes :=
  match v with
  | 0 => .done (traceOff s)
  | 1 => match traceOn s with | some s => .done s | none => .stat stRefused
  | _ => .stat stRefused

/-- 0x2B00 (18 R500, R505, R506). -/
def writeTrace (sub v : Nat) (s : State) : WriteRes :=
  match sub with
  | 1 => writeTraceOn v s
  | 2 => if 5 < v then .stat stRefused else retrace (fun t => { t with part := v }) s
  | 3 => if v % 128 ≠ 0 then .stat stRefused else retrace (fun t => { t with base := BitVec.ofNat 64 v }) s
  | 4 => if v % 128 ≠ 0 then .stat stRefused else retrace (fun t => { t with size := BitVec.ofNat 64 v }) s
  | 6 => refuseIf (nbit v 2 && !nbit v 0) (s.onTrace (fun t => { t with mode := BitVec.ofNat 8 (v % 8) }))
  | 7 => .done (s.onTrace (fun t => { t with evIn := BitVec.ofNat 8 v &&& 0x87#8 }))
  | 8 => .done (s.onTrace (fun t => { t with evOut := BitVec.ofNat 8 v &&& 0x9F#8 }))
  | 9 => refuseIf (v != 1) (triggerTrace s)
  | 0xC => .done (s.onTrace (fun t => { t with after := BitVec.ofNat 32 v }))
  | 0xE => .done (s.onTrace (fun t => { t with kinds := BitVec.ofNat 16 v &&& 0x0FFE#16 }))
  | 0xF => .done (s.onTrace (fun t => { t with tiles := BitVec.ofNat 32 v &&& 0x1FFF1FFF#32 }))
  | 0x10 => refuseIf (v != 0 && (decide (v < 8) || decide (24 < v))) (s.onTrace (fun t => { t with sample := BitVec.ofNat 8 v }))
  | 0x11 => .done (s.onTrace (fun t => { t with markers := BitVec.ofNat 16 v }))
  | _ => refuseIf (decide (4607 < v)) (s.onTrace (fun t => { t with sel := BitVec.ofNat 16 v }))

/-- Hops of the release tree from the root to this device (12 R340). -/
def treeHops (s : State) : Nat :=
  sumOf ((List.range 4).map (fun k =>
    let z := dimSize s k
    let d := ((coordsOf (dims s) s.dev.link.self)[k]?.getD 0 + z - (coordsOf (dims s) s.dev.link.root)[k]?.getD 0) % z
    min d (z - d)))

/-- The port towards the parent in the release tree; none at the root (12 R340). The release comes last along the last
dimension in which this device and the root differ, the short way round. -/
def parentPort (s : State) : Option Nat :=
  let here := coordsOf (dims s) s.dev.link.self
  let root := coordsOf (dims s) s.dev.link.root
  match [3, 2, 1, 0].find? (fun k => here[k]?.getD 0 ≠ root[k]?.getD 0) with
  | none => none
  | some k =>
    let z := dimSize s k
    let d := (here[k]?.getD 0 + z - root[k]?.getD 0) % z
    some (if 2 * d ≤ z then 2 * k + 1 else 2 * k)

/-- Time between two stamps of one counter, and the difference of two counters' stamps, in cycles of 1 ns. -/
def elapsed (a b : BitVec 48) : Nat := (b - a).toNat
def stampGap (a b : BitVec 48) : Int := (b - a).toInt

/-- The round trip of a probe pair, without the time in the neighbour. -/
def pairTrip (x : ProbePair) : Int := elapsed x.t1 x.t4 - elapsed x.t2 x.t3

/-- The offset of a probe pair in ps: half of (T2 − T1) − (T4 − T3). -/
def pairOffset (x : ProbePair) : Int := 500 * (stampGap x.t1 x.t2 - stampGap x.t3 x.t4)

/-- The offset of the pair with the shortest round trip, the first such; none where the exchange failed (18 R503). -/
def bestOffset : List ProbePair → Option Int
  | [] => none
  | x :: l => some (pairOffset (l.foldl (fun m y => if pairTrip y < pairTrip m then y else m) x))

/-- The pairs exchanged on port `p`: an even one leads in the positive direction of its dimension (12 R310). -/
def pairsAt (e : Probes) (p : Nat) : List ProbePair := ((if p % 2 = 0 then e.pos else e.neg)[p / 2]?).getD []

/-- The offset to the root: the sum along the tree (18 R503). At the root it is 0. -/
def rootOffset (s : State) (e : Probes) : Option Int :=
  match parentPort s with
  | none => some 0
  | some p =>
    if (s.port p).st ≠ pUp then none
    else (pairsAt e p :: (List.range (treeHops s - 1)).map (fun k => (e.above[k]?).getD [])).foldl
      (fun a l => match a, bestOffset l with | some a, some b => some (a + b) | _, _ => none) (some 0)

/-- The rate difference in ppb between two offsets in ps, `ns` apart: a whole number on one side or the other of the quotient
(18 R504, log 5). -/
def rateOf (old new : Int) (ns : Nat) : Int :=
  let n := (new - old) * 1000000
  n.fdiv ns + (if n.fmod ns ≠ 0 ∧ Config.rateUp n ns then 1 else 0)

/-- The end of a time measurement: whether it is valid (18 R503, R504). -/
def endAlign (e : Probes) (s : State) : Bool × State :=
  match rootOffset s e with
  | none => (false, s.onDev (fun d => { d with align := { d.align with st := 3, run := none } }))
  | some offset =>
    let now := timeNow s
    let old := s.dev.align
    let rate := match old.at' with
      | some t => if t.toNat + 1000000000 ≤ now then rateOf old.offset offset (now - t.toNat) else old.rate
      | none => old.rate
    let nbr := (List.range 8).foldl (fun m p =>
      Map.set 0 m p (if (s.port p).st = pUp then (bestOffset (pairsAt e p)).getD 0 else 0)) []
    (true, s.onDev (fun d =>
      { d with align := { st := 2, offset := offset, rate := rate, unc := 1500 * treeHops s, at' := some (BitVec.ofNat 64 now), nbr := nbr } }))

/-- A probe pair of which nothing is known (log 5). -/
def freePair (s : State) : ProbePair × State :=
  let (v, s) := drawFree 192 s
  (⟨v.extractLsb' 0 48, v.extractLsb' 48 48, v.extractLsb' 96 48, v.extractLsb' 144 48⟩, s)

/-- `n` exchanges of 16 probe pairs. -/
def freePairs (n : Nat) (s : State) : List (List ProbePair) × State :=
  let (l, s) := (List.range (16 * n)).foldl (fun (x : List ProbePair × State) _ => let (p, s) := freePair x.2; (p :: x.1, s)) ([], s)
  (pieces 16 n l, s)

/-- Probes of which nothing is known: a write of 0x2C10:01 that does not say what they yield (log 5). -/
def freeProbes (s : State) : Probes × State :=
  let (a, s) := freePairs 4 s
  let (b, s) := freePairs 4 s
  let (c, s) := freePairs (treeHops s - 1) s
  (⟨a, b, c⟩, s)

/-- 0x2C10:01: a measurement starts, unless one runs (18 R503, R504). -/
def writeAlign (e : Option Probes) (v : Nat) (s : State) : WriteRes :=
  if v ≠ 1 then .stat stRefused
  else if s.dev.align.run.isSome then .stat stBusy
  else
    let (e, s) := match e with | some e => (e, s) | none => freeProbes s
    .pend 0xFF (s.onDev (fun d => { d with align := { d.align with st := 1, run := some e } }))

/-- 0x2D00:08: a challenge is made for a scope that has an unlock key, unless responses are locked out (17 R482, R483). -/
def writeChallenge (v : Nat) (s : State) : WriteRes :=
  if (scopeKey s v).isNone then .stat stRefused
  else if lockedOut s then .stat stBusy
  else .done (makeChallenge (BitVec.ofNat 8 v) s)

/-- 0x2D00 (17 R472, R473). -/
def writeFirmware (sub v : Nat) (data : Bytes) (s : State) : WriteRes :=
  match sub with
  | 3 =>
    if s.dev.sec.otp < v ∧ v ≤ s.dev.sec.svn then .pend stOk (s.onSec (fun k => { k with otp := v })) else .stat stRefused
  | 5 => if v = 1 then (let r := verifySlot s; .pend (stEnd r.1) r.2) else .stat stRefused
  | 8 => writeChallenge v s
  | 0xA => let r := answerChallenge data s; .pend (stEnd r.1) r.2
  | _ => refuseIf (v != 1) (relockAll s)

/-- 0x2E00:20 for partition `n` (13 R361, R365). -/
def writeRecovery (n v : Nat) (s : State) : WriteRes :=
  if v = 0 ∨ 2 < v then .stat stRefused
  else
    let s := onCommit n (fun c => { c with cmd := BitVec.ofNat 8 v }) s
    let (k, s) := match (s.part n).commit.desc with
      | none => (2, s)
      | some d => if v = 1 then forward n d s else back n d s
    .pend (stEnd (decide (k ≤ 2))) (onCommit n (fun c => { c with result := BitVec.ofNat 8 k }) s)

/-- Write an entry that exists and may be written, with a value of the right size. -/
def writeEntry (e : Option Probes) (s : State) (m : Option Nat) (idx sub : Nat) (data : Bytes) : WriteRes :=
  let v := leNat data
  match idx with
  | 0x1100 => writePort sub v s
  | 0x2000 => if v = 1 then .pend stOk (stopAll s) else .stat stRefused
  | 0x2100 => writePower sub v s
  | 0x2200 => writeThermal v s
  | 0x2300 => writeAgeing sub v s
  | 0x2400 =>
    refuseIf (v != 1) (s.onTime (fun t => { t with tbeatPeak := windowBeat s, thopPeak := windowHop s }))
  | 0x2600 => writeLinks sub v s
  | 0x2700 => refuseIf (v != 1) (s.onBulk (fun b => { b with corrected := [], uncorr := 0, marked := 0 }))
  | 0x2800 => writePartition (m.getD 0) sub v s
  | 0x2900 => writeBlotter sub v s
  | 0x2A00 => writeDump sub v s
  | 0x2B00 => writeTrace sub v s
  | 0x2C10 => writeAlign e v s
  | 0x2D00 => writeFirmware sub v data s
  | _ => writeRecovery (m.getD 0) v s

end Sys2Proof.Machine
end

