-- ==== Sys2Proof/Machine/Dict.lean ====
section
/-!
DEFINITION. The dictionary's requests: the checks, the operations, PENDING and repeated requests, subscriptions, the
management port and the EVENT input (17 R455–R467, 18 R505, 19 R513, R514). Each command that writes or reads one entry is
that request.
-/
namespace Sys2Proof.Machine

/-- A request as its 16 B header and its data give it (17 R457). -/
structure Req where
  path : Path
  ver : BitVec 8
  op : BitVec 8
  txn : BitVec 16
  index : BitVec 16
  sub : BitVec 8
  status : BitVec 8 := 0
  count : BitVec 8 := 0
  length : Nat
  offset : BitVec 32 := 0
  data : Bytes
  deriving DecidableEq, Repr

/-- How a request ends: its status, its answer's data, and for PENDING the final status, 0xFF while not known. -/
structure Ended where
  status : Nat
  data : Bytes := []
  final : Nat := 0
  s : State
  deriving DecidableEq, Repr

/-- Most data bytes of a frame (17 R457). -/
def maxData : Nat := 1484

/-! ### Rights (17 R463, R467, R468; 19 R509) -/

/-- The partition of the virtual function that a path belongs to. -/
def vfPath : Path → Option Nat
  | .mgmt _ => none
  | .mailbox f => if f.val = 0 then none else some (f.val - 1)
  | .doorbell f _ => if f.val = 0 then none else some (f.val - 1)

/-- In the states before INIT and in TRIPPED only these entries are there, and no mirror (17 R468). -/
def inState (s : State) (idx : Nat) (mirror : Option Nat) : Bool :=
  [4, 5, 6].contains s.dev.boot.st.toNat || (mirror.isNone && [0x1000, 0x1100, 0x2000, 0x2C00, 0x2D00].contains idx)

/-- What a virtual function may write (17 R467). -/
def vfMayWrite (idx sub : Nat) (data : Bytes) : Bool :=
  match idx, sub with
  | 0x2800, 0x24 => data == [2#8]
  | 0x2800, 0x40 => true
  | 0x2800, 0x41 => true
  | 0x2A00, 1 => true
  | 0x2A00, 8 => true
  | 0x2E00, 0x20 => true
  | _, _ => false

/-- Whether a mirror's entry may be written: those of 0x2000 and 0x2100 only show, and the Blotter is not cleared through
one (17 R467, 16 R444). -/
def mirrorWritable (m : Option Nat) (idx sub : Nat) : Bool :=
  m.isNone || !(idx == 0x2000 || idx == 0x2100 || (idx == 0x2900 && sub == 7))

/-- The stopped state of an RWS entry (17 R463). -/
def stoppedFor (s : State) (m : Option Nat) (idx sub : Nat) : Bool :=
  if partScope idx sub then
    let p := s.part (m.getD 0)
    [0, 3, 4].contains p.load.st.toNat && p.tn.cmd != 1
  else decide (s.dev.boot.st.toNat ≤ 5)

/-- Whether a write may go on to its value: a status that ends it, or none. -/
def writeBar (s : State) (r : Req) (m : Option Nat) (idx : Nat) (e : EntryRow) : Option Nat :=
  let sub := r.sub.toNat
  if e.acc = .ro ∨ e.acc = .const ∨ !mirrorWritable m idx sub then some stDenied
  else if (vfPath r.path).isSome ∧ !vfMayWrite idx sub r.data then some stDenied
  else if r.op = 2 ∧ (r.length ≠ e.size ∨ maxData < e.size) then some stBad
  else if r.op = 4 ∧ (!e.blob ∨ e.size < r.offset.toNat + r.length) then some stBad
  else if e.acc = .rws ∧ !stoppedFor s m idx sub then some stNotStopped
  else none

/-! ### Operations (17 R458, R461, R462) -/

/-- The end of a write. -/
def endWrite (s : State) : WriteRes → Ended
  | .stat k => { status := k, s := s }
  | .done s => { status := stOk, s := s }
  | .pend k s => { status := stPending, final := k, s := s }

/-- READ. -/
def doRead (m : Option Nat) (idx : Nat) (e : EntryRow) (r : Req) (s : State) : Ended :=
  if e.acc = .wo then { status := stDenied, s := s }
  else
    let s := prepareRead idx r.sub.toNat s
    let v := readEntry s m idx r.sub.toNat
    if r.length ≠ 0 ∨ maxData < v.length then { status := stBad, s := s } else { status := stOk, data := v, s := s }

/-- Whether two requests may share a snapshot: one source address, TXN and entry. -/
def Snap.serves (x : Snap) (r : Req) (now : Nat) : Bool :=
  x.path == r.path && x.txn == r.txn && x.index == r.index && x.sub == r.sub && decide (now < x.at' + 1000000000)

/-- BLOCK_READ of one entry. -/
def blockReadOne (m : Option Nat) (idx : Nat) (e : EntryRow) (r : Req) (s : State) : Ended :=
  if e.acc = .wo then { status := stDenied, s := s }
  else if r.count ≠ 1 then { status := stBad, s := s }
  else
    let now := timeNow s
    let s := if r.offset = 0 then
        let s := prepareRead idx r.sub.toNat s
        let x : Snap := { path := r.path, txn := r.txn, index := r.index, sub := r.sub, at' := now,
                          data := readEntry s m idx r.sub.toNat }
        s.onMgmt (fun g =>
          { g with snaps := x :: g.snaps.filter (fun y => !(y.path == r.path && y.txn == r.txn) && decide (now < y.at' + 1000000000)) })
      else s
    match s.dev.mgmt.snaps.find? (fun x => x.serves r now) with
    | none => { status := stBad, s := s }
    | some x =>
      if x.data.length < r.offset.toNat + r.length then { status := stBad, s := s }
      else { status := stOk, data := (x.data.drop r.offset.toNat).take r.length, s := s }

/-- BLOCK_READ of several subindices at one instant. -/
def blockReadMany (m : Option Nat) (idx : Nat) (r : Req) (s : State) : Ended :=
  let subs := (List.range r.count.toNat).map (r.sub.toNat + ·)
  let rows := subs.map (entryRow m idx)
  if r.offset ≠ 0 ∨ rows.any (fun e => e.isNone) then { status := stBad, s := s }
  else if rows.any (fun e => match e with | some e => e.acc == .wo | none => false) then { status := stDenied, s := s }
  else
    let s := subs.foldl (fun s k => prepareRead idx k s) s
    let v := subs.flatMap (readEntry s m idx)
    if maxData < v.length ∨ v.length ≠ r.length then { status := stBad, s := s } else { status := stOk, data := v, s := s }

/-- WRITE. -/
def doWrite (p : Option Probes) (m : Option Nat) (idx : Nat) (e : EntryRow) (r : Req) (s : State) : Ended :=
  match writeBar s r m idx e with
  | some k => { status := k, s := s }
  | none => endWrite s (writeEntry p s m idx r.sub.toNat r.data)

/-- BLOCK_WRITE: bytes at OFFSET of a BLOB. Those for the slot not running go straight to flash; those for a readable BLOB
replace bytes of its value; a response is answered once its last byte is written (17 R461, R473; log 35). -/
def doBlockWrite (m : Option Nat) (idx : Nat) (e : EntryRow) (r : Req) (s : State) : Ended :=
  match writeBar s r m idx e with
  | some k => { status := k, s := s }
  | none =>
    if r.length = 0 then { status := stOk, s := s }
    else if idx = 0x2D00 ∧ r.sub = 4 then { status := stOk, s := writeSlot r.offset.toNat r.data s }
    else if e.acc = .wo then
      let v := splice (toBytes s.dev.sec.response.toNat 96) r.offset.toNat r.data
      let s := s.onSec (fun k => { k with response := BitVec.ofNat 768 (leNat v) })
      if r.offset.toNat + r.length = e.size then endWrite s (writeEntry none s m idx r.sub.toNat v) else { status := stOk, s := s }
    else endWrite s (writeEntry none s m idx r.sub.toNat (splice (readEntry s m idx r.sub.toNat) r.offset.toNat r.data))

/-- Whether a subscription has a request's key. -/
def Sub.keyed (x : Sub) (src : BitVec 48) (r : Req) : Bool := x.src == src && x.index == r.index && x.sub == r.sub

/-- SUBSCRIBE, from a source address. -/
def doSubscribe (src : BitVec 48) (m : Option Nat) (idx : Nat) (e : EntryRow) (r : Req) (s : State) : Ended :=
  let v := readEntry s m idx r.sub.toNat
  if e.acc = .wo then { status := stDenied, s := s }
  else if r.length ≠ 4 ∨ r.data.drop 2 ≠ [0#8, 0#8] ∨ maxData < v.length then { status := stBad, s := s }
  else if s.dev.mgmt.subs.any (fun x => x.keyed src r) || decide (s.dev.mgmt.subs.length < 32) then
    let x : Sub := { src := src, txn := r.txn, index := r.index, sub := r.sub, ms := leNat (r.data.take 2), last := timeNow s, value := v }
    { status := stOk, s := s.onMgmt (fun g => { g with subs := g.subs.filter (fun y => !y.keyed src r) ++ [x] }) }
  else { status := stBusy, s := s }

/-- UNSUBSCRIBE. -/
def doUnsubscribe (src : BitVec 48) (r : Req) (s : State) : Ended :=
  if r.length ≠ 0 then { status := stBad, s := s }
  else { status := stOk, s := s.onMgmt (fun g => { g with subs := g.subs.filter (fun y => !y.keyed src r) }) }

/-- Whether a header breaks 17 R457 or R458, or asks for a subscription on a PCIe path (19 R513). -/
def badHeader (r : Req) : Bool :=
  r.ver != 1 || r.op == 0 || decide (6 < r.op.toNat) || r.status != 0 || decide (maxData < r.length)
    || (r.op != 3 && r.count != 0) || (r.op != 3 && r.op != 4 && r.offset != 0)
    || (r.op != 3 && decide (r.data.length ≠ r.length))
    || (decide (5 ≤ r.op.toNat) && (match r.path with | .mgmt _ => false | _ => true))

/-- Carry out a request (17 R458–R468). -/
def carryOut (p : Option Probes) (r : Req) (s : State) : Ended :=
  let stop := fun (k : Nat) => ({ status := k, s := s } : Ended)
  if badHeader r then stop stBad
  else
    match originalOf r.index.toNat with
    | none => stop (if (vfPath r.path).isSome then stDenied else stNoEntry)
    | some (idx, m) =>
      if (vfPath r.path).isSome ∧ m ≠ vfPath r.path then stop stDenied
      else if !inState s idx m then stop stNoEntry
      else
        match entryRow m idx r.sub.toNat with
        | none => stop stNoEntry
        | some e =>
          match r.op.toNat with
          | 1 => doRead m idx e r s
          | 2 => doWrite p m idx e r s
          | 3 => if 1 < r.count.toNat then blockReadMany m idx r s else blockReadOne m idx e r s
          | 4 => doBlockWrite m idx e r s
          | k =>
            match r.path with
            | .mgmt src => if k = 5 then doSubscribe src m idx e r s else doUnsubscribe src r s
            | _ => stop stBad

/-! ### Answers (17 R457, R460; 19 R513, R514) -/

/-- An answer as bytes. -/
def frame (a : IdpAns) : Bytes :=
  [1#8, a.op] ++ toBytes a.txn.toNat 2 ++ toBytes a.index.toNat 2 ++ [a.sub, a.status, a.count, 0#8] ++ toBytes a.data.length 2
    ++ toBytes a.offset.toNat 4 ++ a.data

/-- New values of 0x1100:02–:05 take effect once the answer to their write has left; a new EtherType ends the subscriptions
(17 R462, R466). -/
def applyStaged (sub : BitVec 8) (s : State) : State :=
  match s.dev.mgmt.staged.find? (fun x => x.1 == sub) with
  | none => s
  | some (_, v) => s.onMgmt (fun g =>
      let g := { g with staged := g.staged.eraseP (fun x => x.1 == sub) }
      match sub.toNat with
      | 2 => { g with toTimer := v.truncate 8 }
      | 3 => { g with burst := v.truncate 8 }
      | 4 => { g with burstTimer := v.truncate 8 }
      | _ => if v = g.etherType then g else { g with etherType := v, subs := [] })

/-- Whether an answer is that of a write that 0x1100 stages. -/
def IdpAns.stages (a : IdpAns) : Bool := a.op == 0x82#8 && a.index == 0x1100#16 && a.status == 0

/-- An answer goes out on its path. -/
def deliver (a : IdpAns) (s : State) : State :=
  match a.path with
  | .mgmt _ => s.onMgmt (fun g => { g with queue := g.queue ++ [a], busy := if a.status = 6 then g.busy + 1 else g.busy })
  | .mailbox f =>
    let s := if a.stages then applyStaged a.sub s else s
    raiseCause f.val 0 (s.onFn f.val (fun x => { x with mbRsp := frame a, mbState := if a.status = 1 then 3 else 2 }))
  | .doorbell f part =>
    let n := match vfPath a.path with | some n => BitVec.ofNat 3 n | none => if s.dev.pcie.vfEnable then part else 0
    raiseCause f.val 1 (s.onFn f.val (fun x => { x with dbStatus := a.status, dbPart := n }))

/-- Whether two answers are to requests of one source, TXN, OP, INDEX and SUB (17 R460). A BLOCK_READ at another offset is no
repeat, as R461 serves it from the snapshot (log 57). -/
def IdpAns.repeats (a b : IdpAns) : Bool :=
  a.path == b.path && a.txn == b.txn && a.op == b.op && a.index == b.index && a.sub == b.sub && (a.op != 0x83 || a.offset == b.offset)

/-- Keep an answer for a second, for a repeat of its request. -/
def remember (a : IdpAns) (s : State) : State :=
  let now := timeNow s
  s.onMgmt (fun g => { g with answered := (now, a) :: g.answered.filter (fun x => decide (now < x.1 + 1000000000) && !x.2.repeats a) })

/-- The answer to a request. -/
def answerOf (r : Req) (status : Nat) (data : Bytes) : IdpAns :=
  let block := r.op == 3 || r.op == 4
  { path := r.path, op := r.op + 0x80, txn := r.txn, index := r.index, sub := r.sub,
    count := if block then r.count else 0, offset := if block then r.offset else 0, status := BitVec.ofNat 8 status, data := data }

/-- The stored answer of a request answered within the last second (17 R460). -/
def storedAnswer (s : State) (r : Req) : Option IdpAns :=
  let a := answerOf r 0 []
  (s.dev.mgmt.answered.find? (fun x => decide (timeNow s < x.1 + 1000000000) && x.2.repeats a)).map (fun x => x.2)

/-- Carry a request out and answer it: BUSY where 8 are outstanding. -/
def respond (p : Option Probes) (r : Req) (s : State) : State :=
  if 8 ≤ s.dev.mgmt.pend.length then
    let a := answerOf r stBusy []
    deliver a (remember a s)
  else
    let d := carryOut p r s
    let a := answerOf r d.status d.data
    let s := if d.status = stPending then
        d.s.onMgmt (fun g => { g with pend := g.pend ++ [{ path := a.path, op := a.op, txn := a.txn, index := a.index, sub := a.sub,
                                                            offset := a.offset, final := BitVec.ofNat 8 d.final }] })
      else d.s
    deliver a (remember a s)

/-! ### Paths (17 R456, R468; 19 R513, R514, R520, R524) -/

/-- Whether a function's page and mailbox are served. -/
def pageServed (s : State) (f : Nat) : Bool :=
  s.dev.boot.pwronN && s.dev.pcie.linkUp && !s.dev.boot.trip && fnExists s f && !(s.fn f).d3 && (f == 0 || computeReady s)

/-- Whether function `f` has a mailbox request outstanding: a GO is ignored. -/
def mailboxBusy (s : State) (f : Nat) : Bool := (s.fn f).mbState == 1 || (s.fn f).mbState == 3

/-- Whether function `f`'s doorbell is pending. -/
def doorbellPending (s : State) (f : Nat) : Bool :=
  s.dev.mgmt.pend.any (fun q => !q.drop && (match q.path with | .doorbell g _ => g.val == f | _ => false))

/-- The index of the mirror of 0x2K00 for partition `n` (17 R467). -/
def mirrorIndex (k n : Nat) : BitVec 16 := BitVec.ofNat 16 (0x3000 + 0x100 * n + 0x10 * k)

/-- DB_LOAD of a function (19 R514, R520). -/
def doorbell (f : FnId) (part : BitVec 3) (v : Byte) (s : State) : State :=
  let path : Path := .doorbell f part
  let n := match vfPath path with | some n => n | none => if s.dev.pcie.vfEnable then part.toNat else 0
  let r : Req := { path := path, ver := 1, op := 2, txn := 0, index := mirrorIndex 8 n, sub := 0x41, length := 1, data := [v] }
  if !pageServed s f.val then s
  else if doorbellPending s f.val then raiseCause f.val 1 (s.onFn f.val (fun x => { x with dbStatus := 6 }))
  else if !computeReady s then deliver (answerOf r stBusy []) s
  else if 8 ≤ s.dev.mgmt.pend.length then deliver (answerOf r stBusy []) s
  else respond none r s

/-- A request arrives on its path: on the management port as a frame, in a mailbox with GO, or as a doorbell. A repeated
request is not executed again (17 R455, R456, R460). -/
def handle (p : Option Probes) (r : Req) (s : State) : State :=
  let run := fun (s : State) => match storedAnswer s r with | some a => deliver a s | none => respond p r s
  match r.path with
  | .mgmt _ =>
    if !s.dev.boot.pwronN || s.dev.mgmt.nodeId == 0 then s
    else run (s.onMgmt (fun g => { g with accepted := g.accepted + 1 }))
  | .mailbox f => if pageServed s f.val && !mailboxBusy s f.val then run s else s
  | .doorbell f part => doorbell f part (r.data.headD 0) s

/-! ### The operations as commands -/

/-- A request of one entry without a block field. -/
def plainReq (h : ReqHdr) (op : BitVec 8) (index : BitVec 16) (sub : BitVec 8) (data : Bytes) : Req :=
  { path := h.path, ver := h.ver, op := op, txn := h.txn, index := index, sub := sub, length := data.length, data := data }

/-- A WRITE of an entry. -/
def request (h : ReqHdr) (index sub : Nat) (data : Bytes) (s : State) : Res :=
  .next (handle none (plainReq h 2 (BitVec.ofNat 16 index) (BitVec.ofNat 8 sub) data) s)

/-- A doorbell carries only a write. -/
def isDoorbell : Path → Bool
  | .doorbell _ _ => true
  | _ => false

/-- A request that no doorbell can carry. -/
def ask (r : Req) (s : State) : Res := .next (if isDoorbell r.path then s else handle none r s)

/-- IDP_READ (17 R458). -/
def execIdpRead (h : ReqHdr) (index : BitVec 16) (sub : BitVec 8) (s : State) : Res := ask (plainReq h 1 index sub []) s

/-- IDP_WRITE (17 R458). -/
def execIdpWrite (h : ReqHdr) (index : BitVec 16) (sub : BitVec 8) (data : Bytes) (s : State) : Res :=
  .next (handle none (plainReq h 2 index sub data) s)

/-- BLOCK_READ (17 R461). -/
def execBlockRead (h : ReqHdr) (index : BitVec 16) (sub : BitVec 8) (count : BitVec 8) (length : BitVec 16) (offset : BitVec 32)
    (s : State) : Res :=
  ask { path := h.path, ver := h.ver, op := 3, txn := h.txn, index := index, sub := sub, count := count, length := length.toNat,
        offset := offset, data := [] } s

/-- BLOCK_WRITE (17 R461). -/
def execBlockWrite (h : ReqHdr) (index : BitVec 16) (sub : BitVec 8) (offset : BitVec 32) (data : Bytes) (s : State) : Res :=
  ask { plainReq h 4 index sub data with offset := offset } s

/-- SUBSCRIBE (17 R462). -/
def execSubscribe (h : ReqHdr) (index : BitVec 16) (sub : BitVec 8) (data : Bytes) (s : State) : Res := ask (plainReq h 5 index sub data) s

/-- UNSUBSCRIBE (17 R462). -/
def execUnsubscribe (h : ReqHdr) (index : BitVec 16) (sub : BitVec 8) (s : State) : Res := ask (plainReq h 6 index sub []) s

/-- The value that subscription `x` watches. -/
def Sub.current (s : State) (x : Sub) : Bytes :=
  match originalOf x.index.toNat with
  | some (idx, m) => readEntry s m idx x.sub.toNat
  | none => []

/-- Whether a frame of the queue is a NOTIFY of subscription `x`; the answer to a request with OP 0x40 has the same OP, but never
status 0. -/
def Sub.sends (x : Sub) (a : IdpAns) : Bool :=
  a.op == 0xC0 && a.status == 0 && a.path == .mgmt x.src && a.index == x.index && a.sub == x.sub

/-- Whether subscription `x`'s least interval since its last NOTIFY has passed. -/
def Sub.due (s : State) (x : Sub) : Bool := decide (x.last + 1000000 * x.ms ≤ timeNow s)

/-- NOTIFY: the frame of a subscription whose value changed and whose interval has passed is queued, where none of its own waits
there already (17 R462). -/
def execNotify (i : Nat) (s : State) : Res :=
  .next (match s.dev.mgmt.subs[i]? with
    | none => s
    | some x =>
      if x.current s = x.value ∨ !x.due s ∨ s.dev.mgmt.queue.any x.sends ∨ !s.dev.boot.pwronN then s
      else
        let a : IdpAns := { path := .mgmt x.src, op := 0xC0, txn := x.txn, index := x.index, sub := x.sub, status := 0, data := x.current s }
        s.onMgmt (fun g => { g with queue := g.queue ++ [a] }))

/-- The final status of a pending request, and the state at its end: a LOAD ends with its load, a SWITCH with its LOAD, a
measurement of the ageing when it has run, and a time measurement and a capture are then complete. -/
def finalOf (q : IdpPend) (s : State) : Option (Nat × State) :=
  if q.final ≠ 0xFF then some (q.final.toNat, s)
  else
    match originalOf q.index.toNat with
    | none => none
    | some (idx, m) =>
      let n := m.getD 0
      if idx = 0x2300 then (if s.dev.power.asked then none else some (stOk, s))
      else if idx = 0x2C10 then
        (match s.dev.align.run with
        | some e => let r := endAlign e s; some (stEnd r.1, r.2)
        | none => none)
      else if idx = 0x2A00 then (let s := endDump s; if s.hub.dump.st = 1 then none else some (stOk, s))
      else if q.sub = 0x24 ∧ (s.part n).load.st ≠ 1 then (let r := endTenant n (none, s); some (stEnd r.1, r.2))
      else none

/-- IDP_FINAL_ANSWER: the second answer of a request answered PENDING (17 R459, R460). The answer to a function that was reset
since is discarded (19 R521). -/
def execIdpFinalAnswer (i : Nat) (s : State) : Res :=
  .next (match s.dev.mgmt.pend[i]? with
    | none => s
    | some q =>
      if !s.dev.boot.pwronN then s
      else
        match finalOf q s with
        | none => s
        | some (k, s) =>
          let a : IdpAns := { path := q.path, op := q.op, txn := q.txn, index := q.index, sub := q.sub, offset := q.offset,
                              status := BitVec.ofNat 8 k, data := [] }
          let s := s.onMgmt (fun g => { g with pend := dropAt i g.pend })
          if q.drop then s else deliver a (if isDoorbell q.path then s else remember a s))

/-! ### The port (17 R455, R456, R460) -/

/-- Whether a frame of the queue may still leave: a NOTIFY only for a subscription that stands and whose interval has passed
(17 R462, log 58). -/
def mayLeave (s : State) (a : IdpAns) : Bool :=
  a.op != 0xC0 || a.status != 0 || s.dev.mgmt.subs.any (fun x => x.sends a && x.due s)

/-- A frame as it leaves: a NOTIFY carries the value of this moment. -/
def leaving (s : State) (a : IdpAns) : IdpAns :=
  match s.dev.mgmt.subs.find? (fun x => x.sends a) with
  | some x => { a with data := x.current s }
  | none => a

/-- The subscriptions after frames have left: the interval of each whose NOTIFY is among them begins anew. -/
def notified (s : State) (out : List IdpAns) : List Sub :=
  s.dev.mgmt.subs.map (fun x => if out.any x.sends then { x with last := timeNow s, value := x.current s } else x)

/-- TRANSMIT_OPPORTUNITY: with PLCA status OK, up to a burst of queued frames leaves. -/
def execTransmitOpportunity (s : State) : Res :=
  .next (
    let g := s.dev.mgmt
    if !s.dev.boot.pwronN || g.nodeId == 0 || !g.plcaOk then s
    else
      let k := g.burst.toNat + 1
      let queue := g.queue.filter (mayLeave s)
      let out := (queue.take k).map (leaving s)
      let s := (s.onMgmt (fun g => { g with queue := queue.drop k, sent := g.sent + out.length, subs := notified s out })).onOut
        (fun o => { o with t1s := out })
      out.foldl (fun s a => if a.stages then applyStaged a.sub s else s) s)

/-- PLCA_STATUS_CHANGE (17 R456). -/
def execPlcaStatusChange (ok : Bool) (s : State) : Res := .next (s.onMgmt (fun g => { g with plcaOk := ok }))

/-- IGNORED_FRAME: counted, and nothing else (17 R455, R466). -/
def execIgnoredFrame (s : State) : Res :=
  .next (if s.dev.boot.pwronN then s.onMgmt (fun g => { g with ignored := g.ignored + 1 }) else s)

/-! ### Commands that are a write or a read of one entry -/

/-- TBEAT_PEAK_RESET (02 R55). -/
def execTbeatPeakReset (h : ReqHdr) (v : Byte) (s : State) : Res := request h 0x2400 6 [v] s

/-- DUMP_CAPTURE, on the original or on a mirror (09 R257). -/
def execDumpCapture (h : ReqHdr) (mirror : Option PartId) (v : Byte) (s : State) : Res :=
  request h (match mirror with | none => 0x2A00 | some n => 0x30A0 + 0x100 * n.val) 1 [v] s

/-- LINK_COUNTER_ZERO (12 R343). -/
def execLinkCounterZero (h : ReqHdr) (v : Byte) (s : State) : Res := request h 0x2600 9 [v] s

/-- An entry of 0x2800 in partition `n`'s mirror. -/
def requestPart (h : ReqHdr) (n : PartId) (sub : Nat) (v : Byte) (s : State) : Res := request h (0x3080 + 0x100 * n.val) sub [v] s

/-- LOAD_VERIFY (14 R385, R386). -/
def execLoadVerify (h : ReqHdr) (n : PartId) (s : State) : Res := requestPart h n 0x41 1 s

/-- LOAD_SERVICE (14 R385, R386). -/
def execLoadService (h : ReqHdr) (n : PartId) (s : State) : Res := requestPart h n 0x41 2 s

/-- FORGET (14 R385, R389). -/
def execForget (h : ReqHdr) (n : PartId) (s : State) : Res := requestPart h n 0x41 3 s

/-- APPLY (17 R476). -/
def execApply (h : ReqHdr) (s : State) : Res := request h 0x2800 5 [1#8] s

/-- ASSIGN (17 R479). -/
def execAssign (h : ReqHdr) (n : PartId) (s : State) : Res := requestPart h n 0x24 1 s

/-- STOP (17 R479). -/
def execStop (h : ReqHdr) (n : PartId) (s : State) : Res := requestPart h n 0x24 2 s

/-- KILL (17 R479, R482). -/
def execKill (h : ReqHdr) (n : PartId) (s : State) : Res := requestPart h n 0x24 3 s

/-- SWITCH (17 R479, R480). -/
def execSwitch (h : ReqHdr) (n : PartId) (s : State) : Res := requestPart h n 0x24 4 s

/-- RELEASE (17 R479). -/
def execRelease (h : ReqHdr) (n : PartId) (s : State) : Res := requestPart h n 0x24 5 s

/-- FORWARD (13 R365). -/
def execForward (h : ReqHdr) (n : PartId) (s : State) : Res := request h (0x30E0 + 0x100 * n.val) 0x20 [1#8] s

/-- BACK (13 R365). -/
def execBack (h : ReqHdr) (n : PartId) (s : State) : Res := request h (0x30E0 + 0x100 * n.val) 0x20 [2#8] s

/-- STOP_ALL (17 R469). -/
def execStopAll (h : ReqHdr) (s : State) : Res := request h 0x2000 4 [1#8] s

/-- COUNTER_RAISE (17 R472). -/
def execCounterRaise (h : ReqHdr) (v : Byte) (s : State) : Res := request h 0x2D00 3 [v] s

/-- SLOT_WRITE (17 R473). -/
def execSlotWrite (h : ReqHdr) (offset : BitVec 32) (data : Bytes) (s : State) : Res :=
  ask { plainReq h 4 0x2D00 4 data with offset := offset } s

/-- VERIFY (17 R473). -/
def execVerify (h : ReqHdr) (v : Byte) (s : State) : Res := request h 0x2D00 5 [v] s

/-- CHALLENGE_REQUEST (17 R482, R483). -/
def execChallengeRequest (h : ReqHdr) (scope : Byte) (s : State) : Res := request h 0x2D00 8 [scope] s

/-- SIGNED_RESPONSE (17 R483). -/
def execSignedResponse (h : ReqHdr) (sig : Bytes) (s : State) : Res := request h 0x2D00 0xA sig s

/-- RELOCK (17 R484). -/
def execRelock (h : ReqHdr) (v : Byte) (s : State) : Res := request h 0x2D00 0xC [v] s

/-- MEASUREMENT_REQUEST (15 R429). -/
def execMeasurementRequest (h : ReqHdr) (v : Byte) (s : State) : Res := request h 0x2300 2 [v] s

/-- BLOTTER_CLEAR (16 R442, R444). -/
def execBlotterClear (h : ReqHdr) (v : Byte) (s : State) : Res := request h 0x2900 7 [v] s

/-- BULK_COUNTER_ZERO (17 R474). -/
def execBulkCounterZero (h : ReqHdr) (v : Byte) (s : State) : Res := request h 0x2700 0xA [v] s

/-- TIME_MEASURE, with what the probes yield (18 R503, R504). -/
def execTimeMeasure (h : ReqHdr) (v : Byte) (pos neg above : List (List ProbePair)) (s : State) : Res :=
  .next (handle (some ⟨pos, neg, above⟩) (plainReq h 2 0x2C10 1 [v]) s)

/-- TRACE_TRIGGER (18 R500). -/
def execTraceTrigger (h : ReqHdr) (v : Byte) (s : State) : Res := request h 0x2B00 9 [v] s

/-- TRACE_ENABLE (18 R498, R506). -/
def execTraceEnable (h : ReqHdr) (v : Byte) (s : State) : Res := request h 0x2B00 1 [v] s

/-- TOTALS_READ (18 R497). -/
def execTotalsRead (h : ReqHdr) (s : State) : Res := ask (plainReq h 1 0x2B00 0x13 []) s

/-! ### The EVENT input (18 R505) -/

/-- EVENT_INPUT: a rising edge that stays high for `highNs`. -/
def execEventInput (highNs : Nat) (s : State) : Res :=
  .next (selfTimed s <|
    let t := s.dev.trace
    if !s.dev.boot.pwronN || decide (highNs < 100) || !t.evIn.getLsbD 7 || t.evOut.getLsbD 7 then s
    else
      let s := if t.evIn.getLsbD 0 then triggerTrace s else s
      let s := if t.evIn.getLsbD 1 then haltPart false t.part s else s
      if t.evIn.getLsbD 2 then startDump s else s)

end Sys2Proof.Machine
end

