-- ==== Sys2Proof/Machine/Host.lean ====
section
/-!
DEFINITION. The host interface: BAR0 with its function page, mailbox, translation tables and MSI-X, and the resets and
link events (19 R509–R524). Writes of registers without behaviour of their own are here too.
-/
namespace Sys2Proof.Machine

/-! ### Interrupts (19 R512, R515) -/

/-- INT_CAUSE_CLEAR: the cause bits whose bits are 1 clear. -/
def execIntCauseClear (fn : FnId) (v : Word) (s : State) : Res :=
  .next (if pageServed s fn.val then s.onFn fn.val (fun x => { x with cause := x.cause &&& ~~~(v.setWidth 8) }) else refuseBar0 fn 0x28 s)

/-- Write INT_MASK: a held cause is signalled when its mask bit becomes 1. -/
def writeMask (f : Nat) (v : Word) (s : State) : State :=
  let old := s.fn f
  let s := s.onFn f (fun x => { x with mask := v.setWidth 8 })
  (List.range 8).foldl (fun s i =>
    if v.getLsbD i && !old.mask.getLsbD i && old.cause.getLsbD i then signalMsi f i s else s) s

/-- INT_MASK_WRITE. -/
def execIntMaskWrite (fn : FnId) (v : Word) (s : State) : Res :=
  .next (if pageServed s fn.val then writeMask fn.val v s else refuseBar0 fn 0x30 s)

/-- Write half of an MSI-X entry; a vector that is no longer masked and pends is signalled (19 R511, PCIe). -/
def writeMsix (f i : Nat) (high : Bool) (v : Word) (s : State) : State :=
  let s := s.onFn f (fun x => { x with msix := Map.set msixReset x.msix i (setFld (x.vector i) (if high then 64 else 0) 64 v.toNat) })
  if !((s.fn f).vector i).getLsbD 96 && (s.fn f).pba.getLsbD i then
    signalMsi f i (s.onFn f (fun x => { x with pba := setBit x.pba i false }))
  else s

/-! ### Host-window translation (19 R516) -/

/-- Whether function `f` has a translation table that its host may reach: then its partition. -/
def tableOf (s : State) (f : Nat) : Option Nat :=
  let n := fnPart s f
  if hostServed s f && decide (n < 6) then some n else none

/-- A low-word write installs the entry with its staged high word, unless reserved bits are set or SIZE is too large. -/
def installEntry (f : FnId) (slot : Nat) (low : Word) (s : State) : State :=
  let off := 0x20000 + 16 * slot
  match tableOf s f.val with
  | none => refuseBar0 f off s
  | some n =>
    let hi := (Map.get 0#64 (s.part n).transHi slot).toNat
    if fld low.toNat 3 9 ≠ 0 ∨ 16777216 < hi then refuseBar0 f off s
    else s.onPart n (fun p => { p with trans := Map.set 0 p.trans slot (BitVec.ofNat 128 (low.toNat + hi * 2 ^ 64)) })

/-- A high-word write is staged. -/
def stageEntry (f : FnId) (slot : Nat) (high : Word) (s : State) : State :=
  match tableOf s f.val with
  | none => refuseBar0 f (0x20008 + 16 * slot) s
  | some n => s.onPart n (fun p => { p with transHi := Map.set 0#64 p.transHi slot high })

/-- TRANSLATION_INSTALL. -/
def execTranslationInstall (fn : FnId) (slot : Fin 256) (low : Word) (s : State) : Res := .next (installEntry fn slot.val low s)

/-! ### The mailbox (19 R512, R513) -/

/-- The request that MB_REQ holds, started with a length of `len` bytes. One whose length does not hold its data is malformed. -/
def mailboxReq (f : FnId) (s : State) (len : Nat) : Req :=
  let b := Map.range 0#8 (s.fn f.val).mbReq 0 2048
  let h := leNat (b.take 16)
  let op := BitVec.ofNat 8 (fld h 8 8)
  let k := fld h 80 16
  let ok := decide (16 ≤ len) && decide (len ≤ 1500) && (op == 3 || decide (16 + k ≤ len))
  { path := .mailbox f, ver := BitVec.ofNat 8 h, op := op, txn := BitVec.ofNat 16 (fld h 16 16), index := BitVec.ofNat 16 (fld h 32 16),
    sub := BitVec.ofNat 8 (fld h 48 8), status := BitVec.ofNat 8 (fld h 56 8), count := BitVec.ofNat 8 (fld h 64 8),
    length := if ok then k else maxData + 1, offset := BitVec.ofNat 32 (fld h 96 32),
    data := if op = 3 then [] else (b.drop 16).take k }

/-- MB_CTL: GO starts the request. -/
def mailboxGo (f : FnId) (v : Word) (s : State) : State :=
  if v.getLsbD 11 then handle none (mailboxReq f s (fld v.toNat 0 11)) s else s

/-! ### BAR0 (19 R510, R511) -/

/-- A host write of 8 B to BAR0 of function `f`. -/
def writeBar0 (f : FnId) (o : Nat) (v : Word) (s : State) : State :=
  if o % 8 ≠ 0 ∨ 0x20000000 ≤ o then refuseBar0 f o s
  else if o < 0x2000 then
    if !pageServed s f.val then refuseBar0 f o s
    else if o = 0x008 then doorbell f (BitVec.ofNat 3 (fld v.toNat 8 3)) (BitVec.ofNat 8 v.toNat) s
    else if o = 0x018 then mailboxGo f v s
    else if o = 0x028 then s.onFn f.val (fun x => { x with cause := x.cause &&& ~~~(v.setWidth 8) })
    else if o = 0x030 then writeMask f.val v s
    else if 0x1000 ≤ o ∧ o < 0x1800 then s.onFn f.val (fun x => { x with mbReq := Map.fill 0#8 x.mbReq (o - 0x1000) (toBytes v.toNat 8) })
    else s
  else if 0x10000 ≤ o ∧ o < 0x20000 then
    let p : DbgPath := .window f
    if !pathOpen s p then refuseBar0 f o s
    else if o = 0x10000 then s.onTrace (fun t => { t with dbgwAddr := Map.set 0 t.dbgwAddr f.val v })
    else if o = 0x10008 then runDbg p (Map.get 0#64 s.dev.trace.dbgwAddr f.val).toNat (some v) s
    else s
  else if !hostServed s f.val then refuseBar0 f o s
  else if 0x20000 ≤ o ∧ o < 0x21000 then
    let slot := (o - 0x20000) / 16
    if o % 16 = 0 then installEntry f slot v s else stageEntry f slot v s
  else if 0x30000 ≤ o ∧ o < 0x30080 then writeMsix f.val ((o - 0x30000) / 16) (decide (o % 16 = 8)) v s
  else if 0x1000000 ≤ o ∧ o < 0x2200000 then
    let k := o - 0x1000000
    writeBlock (.host f) (k / 0x1000) (k % 0x1000) v s
  else if 0x10000000 ≤ o then writeDev (.host f) (o - 0x10000000) v s
  else s

/-- FN_INFO, DB_STATUS, MB_STATE and the other registers of the function page as a read shows them (19 R512). -/
def readPage (s : State) (f o : Nat) : Nat :=
  let x := s.fn f
  let n := fnPart s f
  match o with
  | 0x000 => n + b2n (f == 0) * 2 ^ 3 + s.dev.boot.st.toNat * 2 ^ 8 + s.dev.boot.level % 256 * 2 ^ 16
  | 0x010 =>
    let l := (s.part (if 6 ≤ n then x.dbPart.toNat else n)).load
    x.dbStatus.toNat + x.dbPart.toNat * 2 ^ 8 + l.st.toNat * 2 ^ 16 + l.reason.toNat * 2 ^ 24
  | 0x020 => x.mbState.toNat + x.mbRsp.length % 2 ^ 11 * 2 ^ 2
  | 0x028 => x.cause.toNat
  | 0x030 => x.mask.toNat
  | _ => 0

/-- What a host read of 8 B at BAR0 offset `o` of function `f` returns; none where the request is refused (19 R511, R517; 03
R102; 08 R207). A read of DBGW_DATA is a command of its own, as it starts an access. -/
def readBar0 (s : State) (f : FnId) (o : Nat) : Option Nat :=
  let x := s.fn f.val
  if o % 8 ≠ 0 ∨ 0x20000000 ≤ o then none
  else if o < 0x2000 then
    if !pageServed s f.val then none
    else if o < 0x1000 then some (readPage s f.val o)
    else if o < 0x1800 then some (leNat (Map.range 0#8 x.mbReq (o - 0x1000) 8))
    else some (leNat ((x.mbRsp.drop (o - 0x1800)).take 8))
  else if 0x10000 ≤ o ∧ o < 0x20000 then
    if !pathOpen s (.window f) then none
    else some (if o = 0x10000 then (Map.get 0#64 s.dev.trace.dbgwAddr f.val).toNat
      else if o = 0x10010 then 1 + b2n (Map.get false s.dev.trace.dbgErr (dbgNum (.window f))) * 2 else 0)
  else if !hostServed s f.val then none
  else if 0x20000 ≤ o ∧ o < 0x21000 then
    (tableOf s f.val).map (fun n => fld (Map.get 0#128 (s.part n).trans ((o - 0x20000) / 16)).toNat (8 * (o % 16)) 64)
  else if 0x30000 ≤ o ∧ o < 0x30080 then some (fld (x.vector ((o - 0x30000) / 16)).toNat (8 * (o % 16)) 64)
  else if o = 0x31000 then some x.pba.toNat
  else if 0x1000000 ≤ o ∧ o < 0x2200000 then
    let t := (o - 0x1000000) / 0x1000
    if !actsFor s (.host f) (partOf s t) || (s.tile t).fenced || (s.tile t).clearing then none
    else some (blockWord s t (o % 0x1000)).toNat
  else if 0x10000000 ≤ o then
    (if fnPart s f.val = 7 then none else match devRead s (.host f) (o - 0x10000000) with | .ok v => some v | .error _ => none)
  else some 0

/-! ### Writes of other registers (03 R102; 08 R207; 19 R511) -/

/-- REGISTER_WRITE: a write of 8 B to a register by its local offset, or by a host at an offset of its BAR0. -/
def execRegisterWrite (w : Writer) (a : RegAddr) (v : Word) (s : State) : Res :=
  .next (match a, w with
    | .bar0 o, .host f => writeBar0 f o v s
    | .bar0 _, _ => s
    | .loc a, _ =>
      if a % 8 ≠ 0 then refuseWrite w 0x02 a s
      else match s.place a with
      | .block t o => writeBlock w t o v s
      | .devreg o => writeDev w o v s
      | _ => refuseWrite w 0x02 a s)

/-! ### Resets, link and power states (19 R521, R522, R524) -/

/-- PERST_N: asserted it resets the controller and every function, and the link is down. -/
def execPerstN (level : Bool) (s : State) : Res :=
  .next (let s := s.onBoot (fun b => { b with perstN := level })
    if level then s else linkDown (resetFns s))

/-- HOT_RESET, or the link is disabled: every function is reset, and the link is down until it has trained again. -/
def execHotReset (s : State) : Res := .next (linkDown (resetFns s))

/-- Whether the host's configuration requests reach function `f`. -/
def configServed (s : State) (f : Nat) : Bool := s.dev.boot.pwronN && s.dev.pcie.linkUp && !s.dev.boot.trip && fnExists s f

/-- FLR. -/
def execFlr (fn : FnId) (s : State) : Res :=
  .next (if !configServed s fn.val then s else if fn.val = 0 then resetFns s else resetFn fn.val s)

/-- VF_ENABLE_CLEAR: every virtual function is reset. -/
def execVfEnableClear (s : State) : Res := .next (if configServed s 0 && s.dev.pcie.vfEnable then resetVfs s else s)

/-- VF_ENABLE_SET (19 R509, R520). -/
def execVfEnableSet (s : State) : Res := .next (if configServed s 0 then s.onPcie (fun p => { p with vfEnable := true }) else s)

/-- PCIE_LINK_DOWN. -/
def execPcieLinkDown (s : State) : Res := .next (linkDown s)

/-- PCIE_LINK_UP: the link has trained, with PERST_N deasserted. The first time since power-good ends step 3, at a free time
(17 R469, log 63). -/
def execPcieLinkUp (s : State) : Res :=
  .next (let b := s.dev.boot
    if b.pwronN && b.perstN && !b.trip && !b.pcieFailed then
      let s := trainLink s
      if (b.times[2]?).getD 0 = 0xFFFFFFFF#32 then
        let (v, s) := drawFree 32 s
        s.onBoot (fun b => { b with times := b.times.set 2 v })
      else s
    else s)

/-- D3HOT: the function's BARs and MSI-X are disabled. -/
def execD3hot (fn : FnId) (s : State) : Res := .next (if configServed s fn.val then s.onFn fn.val (fun x => { x with d3 := true }) else s)

/-- D0_ENTRY. -/
def execD0Entry (fn : FnId) (s : State) : Res := .next (if configServed s fn.val then s.onFn fn.val (fun x => { x with d3 := false }) else s)

end Sys2Proof.Machine
end

