-- ==== Sys2Proof/Machine/Startup.lean ====
section
/-!
DEFINITION. Start-up, PWRON_RST_N and VDD_AON: what BIST and training find, repair, the partition table at start, and
what survives a reset (01 R19–R38; 16 R442, R447–R449; 17 R463, R468–R471, R480; 19 R531, R533).
-/
namespace Sys2Proof.Machine

/-! ### Repair (01 R19, R20, R22, R25, R26; 16 R447) -/

/-- The positions of row `y` in a list of positions, rising. -/
def inRow (l : List (Nat × Nat)) (y : Nat) : List Nat := (List.range 66).filter (fun p => l.contains (y, p))

/-- What repair makes of a row: its two bytes of the repair map, whether it was repaired, and whether it cuts the mesh. -/
def repairRow (si : Silicon) (y : Nat) : Bytes × Bool × Bool :=
  let mesh := inRow si.meshFailed y
  let bad := inRow (si.marchFailed ++ si.logicFailed ++ si.meshFailed) y
  let two := fun (a b : Nat) (flag : Nat) => [BitVec.ofNat 8 (min a b + flag), BitVec.ofNat 8 (max a b + flag)]
  match bad with
  | [] => (two 32 33 0, true, false)
  | [p] => (two p (if p ≤ 32 then 33 else 32) 0, true, false)
  | [p, q] => (two p q 0, true, false)
  | _ =>
    if 3 ≤ mesh.length then ([0xFF#8, 0xFF#8], false, true)
    else
      let l := mesh ++ bad.filter (fun p => !mesh.contains p)
      (two (l[0]?.getD 0) (l[1]?.getD 0) 0x80, false, false)

/-- Whether region `r` is in service: its rows were repaired, and its Nib core and its slice passed. -/
def regionPasses (si : Silicon) (r : Nat) : Bool :=
  (List.range 4).all (fun k => (repairRow si (4 * r + k)).2.1) && !si.nibFailed.contains r && !si.rcFailed.contains r

/-! ### Firmware (17 R471) -/

/-- The slot that starts: of those that BOOT_SEL allows, that verify and whose SVN is at or above the counter, the one with
the higher SVN, then the higher version, then A. True is B. -/
def startSlot (k : Security) (sel : Nat) : Option Bool :=
  let xa := slotFound k false
  let xb := slotFound k true
  let ok := fun (x : Fin 3 × Fin 65 × BitVec 32) => x.1 == 0 && decide (k.otp ≤ x.2.1.val)
  let a := sel != 2 && ok xa
  let b := sel != 1 && ok xb
  if a && b then some (decide (xa.2.1.val < xb.2.1.val) || (xa.2.1 == xb.2.1 && decide (xa.2.2.toNat < xb.2.2.toNat)))
  else if a then some false else if b then some true else none

/-! ### What stays while PWRON_RST_N is low (13 R363; 16 R442, R448; 17 R463, R469, R480) -/

/-- The entries kept in flash and what the always-on island keeps; everything else is as at reset. Keys, tenants and
the contents of the Bulk Store are gone. -/
def keepAon (s : State) : State :=
  let d := s.dev
  let g := (d.mgmt.staged.foldl (fun s x => applyStaged x.1 s) s).dev.mgmt
  { State.reset with
    pending := s.pending, out := s.out, free := s.free,
    parts := (List.range 6).foldl (fun m n => Map.set {} m n { commit := { root := (s.part n).commit.root, rootOk := (s.part n).commit.rootOk } }) [],
    regions := (List.range 18).foldl (fun m r => Map.set {} m r { trim := (s.region r).trim }) [],
    dev := { boot := { cause := d.boot.cause, perstN := d.boot.perstN,
                       aonKept := d.boot.aonKept, suspects := d.boot.suspects },
             power := { holdSet := d.power.holdSet, cap := d.power.cap, alertAt := d.power.alertAt, policy := d.power.policy,
                        tripped := d.power.tripped, hours := d.power.hours, target := d.power.target, log := d.power.log,
                        logHours := d.power.logHours },
             tm := { time := d.tm.time, epoch := d.tm.epoch, locked := d.tm.locked },
             bulk := { patrolHours := d.bulk.patrolHours },
             link := { sizes := d.link.sizes, self := d.link.self, root := d.link.root, lowLat := d.link.lowLat,
                       detours := d.link.detours, enabled := d.link.enabled,
                       sizesSet := d.link.sizesSet, selfSet := d.link.selfSet },
             blot := { d.blot with sel := 0 },
             sec := { otp := d.sec.otp, imageA := d.sec.imageA, imageB := d.sec.imageB, shipped := d.sec.shipped, fails := d.sec.fails, failAt := d.sec.failAt,
                      nonces := d.sec.nonces },
             mgmt := { toTimer := g.toTimer, burst := g.burst, burstTimer := g.burstTimer, etherType := g.etherType, plcaOk := g.plcaOk },
             staged := { bands := d.staged.bands, weights := d.staged.weights, shares := d.staged.shares, objs := d.staged.objs,
                         inForce := d.staged.inForce } } }

/-- PWRON_RST_N_ASSERTION: the device stops serving and keeps what the always-on island holds (17 R469, R480; 19 R531). -/
def execPwronRstNAssertion (s : State) : Res :=
  .next (if !s.dev.boot.pwronN then s
    else
      let trip := s.dev.boot.trip
      (keepAon s).onBoot (fun b => { b with cause := if trip then 3 else 2 }))

/-- VDD_AON_LOSS: the ring and the root records go too; the pinned records come back from flash when VDD_AON returns, and the
trip record and the time-stamp begin anew (13 R363, 15 R419, 16 R442). -/
def execVddAonLoss (s : State) : Res :=
  .next (
    let s := keepAon s
    let s := s.onBlot (fun b => { b with ring := [], newest := 0, dropped := 0, stored := BitVec.ofNat 32 b.pinned.length })
    let s := ((s.onBoot (fun b => { b with aonKept := false })).onPower (fun w => { w with tripped := false })).onTime
      (fun t => { t with time := 0, epoch := 0 })
    { s with parts := [] }.onSec (fun k => { k with fails := 0, failAt := 0 }))

/-! ### The partition table at start (01 R37, R38, R41; 17 R463, R469) -/

/-- The first and the last of the regions in service with none missing between. -/
def oneBand (s : State) : Option (Nat × Nat) :=
  match (List.range 18).filter (fun r => s.dev.boot.regions.getLsbD r) with
  | [] => none
  | r :: l => if r :: l = (List.range (l.length + 1)).map (r + ·) then some (r, l.length + 1) else none

/-- P0 of every region in service, with the whole Bulk Store and every object at the hub. -/
def formP0 (s : State) : State :=
  match oneBand s with
  | none => s
  | some b =>
    let all := fun (k : Nat) => (List.range k).map (fun i => (i, 1))
    let s := s.onPart 0 (fun p => { p with band := some b, share := (0, s.dev.bulk.gib) })
    s.onHub (fun h => { h with ownGf := all 1024, ownSem := all 256, ownBar := all 32 })

/-- A stored table without the bands that hold a region out of service. -/
def serviceable (s : State) (g : Staged) : Staged :=
  (List.range 6).foldl (fun g n => match (tableRow g n).band with
    | some (r0, k) =>
      if (List.range k).all (fun i => s.dev.boot.regions.getLsbD (r0 + i)) then g else { g with bands := setFld g.bands (16 * n) 16 0 }
    | none => g) g

/-- P0 where no table was written, else the stored table, where it holds; with the mesh cut there is no compute. -/
def formPartitions (s : State) : State :=
  if s.dev.boot.meshCut then s
  else if s.dev.staged.bands = 0 then formP0 s
  else
    let g := serviceable s s.dev.staged
    if applyResult (s.onStaged (fun _ => g)) = 1 then enforce g s else s

/-! ### The steps (17 R469) -/

/-- Whether the PCIe link has trained: the ROM starts training once PERST_N is deasserted. -/
def linkTrained (si : Silicon) (s : State) : Bool := s.dev.boot.perstN && si.pcieOk

/-- The times of the steps that were reached. -/
def stepsReached (si : Silicon) (link : Bool) (last : Nat) : List (BitVec 32) :=
  (List.range 8).map (fun i =>
    if (i = 2 ∧ link) ∨ (i ≠ 2 ∧ i < last) then BitVec.ofNat 32 ((si.stepTimes[i]?).getD 0) else 0xFFFFFFFF#32)

/-- Sites in use of those that trained (01 R35, R36). -/
def sitesUsed (m : BitVec 8) : BitVec 8 :=
  if m = 0xFF#8 then m
  else
    let l := (List.range 8).filter (fun i => m.getLsbD i)
    if l.length < 4 then 0 else (l.take 4).foldl (fun v i => setBit v i true) 0

/-- What the flash's slots hold as shipped, found at the first start. -/
def shippedSlots (si : Silicon) : List (Fin 3 × Fin 65 × BitVec 32) :=
  (List.range 2).map (fun k => ((si.slotState[k]?).getD 1, (si.slotSvn[k]?).getD 0, (si.slotVersion[k]?).getD 0))

/-- The ROM's steps: straps, stored entries, the port and the PCIe link. -/
def romSteps (si : Silicon) (s : State) : State :=
  let s := keepAon s
  let link := linkTrained si s
  let s := s.onBoot (fun b =>
    { b with st := 1, pwronN := true, cause := if b.aonKept then b.cause else 1, aonKept := true, bootSel := si.bootSel,
             pcieFailed := b.perstN && !si.pcieOk, times := stepsReached si link 2 })
  let s := s.onSec (fun k => if k.shipped = [] then { k with shipped := shippedSlots si } else k)
  let s := s.onMgmt (fun g => { g with nodeId := si.mgtId })
  if link then trainLink s else s

/-- BIST, repair and the Bulk Store (01 R19–R26, R33, R35, R36; 16 R447, R448). -/
def bistSteps (si : Silicon) (s : State) : State :=
  let rows := (List.range 72).map (repairRow si)
  let regs := (List.range 18).foldl (fun (m : BitVec 18) r => setBit m r (regionPasses si r)) 0
  let used := sitesUsed si.sites
  let s := s.onBoot (fun b =>
    { b with regions := regs, repair := rows.flatMap (fun x => x.1), meshCut := rows.any (fun x => x.2.2), hubFailed := !si.hubOk,
             marchFailed := si.marchFailed, logicFailed := si.logicFailed, meshFailed := si.meshFailed, suspects := [] })
  let s := s.onBulk (fun b => { b with trained := si.sites, used := used, gib := if used = 0xFF#8 then 186 else if used = 0 then 0 else 93 })
  let s := (List.range 18).foldl (fun s r => s.onRegion r (fun g =>
    { g with inService := regs.getLsbD r, nib := { g.nib with alive := regs.getLsbD r } })) s
  (List.range 8).foldl (fun s p => s.onPort p (fun x =>
    { x with noTiles := (attachTiles p).all (fun t => !regs.getLsbD (regionOf t)) })) s

/-- The first readings, the first measurement, and the pools (15 R410, R411, R416, R425; 02 R53). -/
def powerSteps (si : Silicon) (s : State) : State :=
  let s := readHeat si.temps si.periphery s
  let s := (List.range 18).foldl (fun s r => s.onRegion r (fun g => { g with pool := { g.pool with tjMax := g.pool.tj } })) s
  let s := publishBeats si.beats si.hops s
  if s.dev.boot.trip then s else
  let s := measure si.rowCounts si.regionCounts (sendSetpoint 750 s)
  (List.range 18).foldl (fun s r => s.onRegion r (fun g =>
    if g.inService then
      let hw := poolOf s.dev.power.setpoint g.tbeat g.pool.tj
      { g with pool := { g.pool with hwBound := hw, published := min hw s.dev.power.cap } }
    else g)) s

/-- Firmware runs: INIT to compute-ready. A trip in step 6 leaves that step and those after it unreached. -/
def initSteps (si : Silicon) (slotB : Bool) (s : State) : State :=
  let link := s.dev.pcie.linkUp
  let x := slotFound s.dev.sec slotB
  let s := s.onSec (fun k => { k with slotB := slotB, svn := x.2.1.val, version := x.2.2.toNat })
  let s := settlePorts (powerSteps si (formPartitions (bistSteps si s)))
  if s.dev.boot.trip then s.onBoot (fun b => { b with times := stepsReached si link 5 })
  else setDevState 5 (s.onBoot (fun b => { b with times := stepsReached si link 8 }))

/-- The whole start-up. -/
def startUp (si : Silicon) (s : State) : State :=
  let s := romSteps si s
  if s.dev.boot.bootSel = 3 then s
  else match startSlot s.dev.sec s.dev.boot.bootSel.toNat with
    | none => setDevState 3 (s.onBoot (fun b => { b with times := stepsReached si s.dev.pcie.linkUp 4 }))
    | some b => initSteps si b s

/-- PWRON_RST_N: its rising edge starts the device. -/
def execPwronRstN (si : Silicon) (s : State) : Res := .next (if s.dev.boot.pwronN then s else startUp si s)

end Sys2Proof.Machine
end

