-- ==== Sys2Proof/Machine/Dispatch.lean ====
section
/-!
DEFINITION. One arm for each command: its meaning.
-/
namespace Sys2Proof.Machine

/-- The effect of a command on everything but the queue. -/
def exec (i : Instr) (s : State) : Host.Outcome State Fault Refusal :=
  match i with
  | .alu t c rd rs1 rs2 fn => Sys2Proof.Machine.execAlu t c rd rs1 rs2 fn s
  | .fpu t c rd rs1 rs2 fn => Sys2Proof.Machine.execFpu t c rd rs1 rs2 fn s
  | .addi t c rd rs1 imm => Sys2Proof.Machine.execAddi t c rd rs1 imm s
  | .andi t c rd rs1 imm => Sys2Proof.Machine.execAndi t c rd rs1 imm s
  | .ori t c rd rs1 imm => Sys2Proof.Machine.execOri t c rd rs1 imm s
  | .xori t c rd rs1 imm => Sys2Proof.Machine.execXori t c rd rs1 imm s
  | .slli t c rd rs1 imm => Sys2Proof.Machine.execSlli t c rd rs1 imm s
  | .srli t c rd rs1 imm => Sys2Proof.Machine.execSrli t c rd rs1 imm s
  | .srai t c rd rs1 imm => Sys2Proof.Machine.execSrai t c rd rs1 imm s
  | .slti t c rd rs1 imm => Sys2Proof.Machine.execSlti t c rd rs1 imm s
  | .lui t c rd rs1 imm => Sys2Proof.Machine.execLui t c rd rs1 imm s
  | .lsh t c rd rs1 imm => Sys2Proof.Machine.execLsh t c rd rs1 imm s
  | .beq t c rd rs1 imm => Sys2Proof.Machine.execBeq t c rd rs1 imm s
  | .bne t c rd rs1 imm => Sys2Proof.Machine.execBne t c rd rs1 imm s
  | .blt t c rd rs1 imm => Sys2Proof.Machine.execBlt t c rd rs1 imm s
  | .bge t c rd rs1 imm => Sys2Proof.Machine.execBge t c rd rs1 imm s
  | .bltu t c rd rs1 imm => Sys2Proof.Machine.execBltu t c rd rs1 imm s
  | .bgeu t c rd rs1 imm => Sys2Proof.Machine.execBgeu t c rd rs1 imm s
  | .jal t c rd rs1 imm => Sys2Proof.Machine.execJal t c rd rs1 imm s
  | .jalr t c rd rs1 imm => Sys2Proof.Machine.execJalr t c rd rs1 imm s
  | .ld t c rt rb width mode off u => Sys2Proof.Machine.execLd t c rt rb width mode off u s
  | .st t c rt rb width mode off => Sys2Proof.Machine.execSt t c rt rb width mode off s
  | .sta t c rt rb width mode off => Sys2Proof.Machine.execSta t c rt rb width mode off s
  | .ldf t c rt rb width mode off => Sys2Proof.Machine.execLdf t c rt rb width mode off s
  | .stf t c rt rb width mode off => Sys2Proof.Machine.execStf t c rt rb width mode off s
  | .ldd t c rt rb width mode off => Sys2Proof.Machine.execLdd t c rt rb width mode off s
  | .std t c rt rb width mode off => Sys2Proof.Machine.execStd t c rt rb width mode off s
  | .mmSet t c dd da db gp tf => Sys2Proof.Machine.execMmSet t c dd da db gp tf s
  | .mmAcc t c dd da db gp tf => Sys2Proof.Machine.execMmAcc t c dd da db gp tf s
  | .mmSpill t c dd da db gp tf => Sys2Proof.Machine.execMmSpill t c dd da db gp tf s
  | .mmSpillacc t c dd da db gp tf => Sys2Proof.Machine.execMmSpillacc t c dd da db gp tf s
  | .vop t c dd da db gp tf sub => Sys2Proof.Machine.execVop t c dd da db gp tf sub s
  | .vtr t c dd da db gp tf sub => Sys2Proof.Machine.execVtr t c dd da db gp tf sub s
  | .cvt t c dd da db gp tf sub => Sys2Proof.Machine.execCvt t c dd da db gp tf sub s
  | .fill t c dd da db gp tf sub => Sys2Proof.Machine.execFill t c dd da db gp tf sub s
  | .movtCopy t c dd da db gp tf => Sys2Proof.Machine.execMovtCopy t c dd da db gp tf s
  | .movtGather t c dd da db gp tf => Sys2Proof.Machine.execMovtGather t c dd da db gp tf s
  | .ligIsect t c dd da db gp tf => Sys2Proof.Machine.execLigIsect t c dd da db gp tf s
  | .ligUnion t c dd da db gp tf => Sys2Proof.Machine.execLigUnion t c dd da db gp tf s
  | .ligBuild t c dd da db gp tf => Sys2Proof.Machine.execLigBuild t c dd da db gp tf s
  | .ligCheck t c dd da db gp tf => Sys2Proof.Machine.execLigCheck t c dd da db gp tf s
  | .ligSelect t c dd da db gp tf => Sys2Proof.Machine.execLigSelect t c dd da db gp tf s
  | .grnBits t c dd da db gp tf => Sys2Proof.Machine.execGrnBits t c dd da db gp tf s
  | .grnUniform t c dd da db gp tf => Sys2Proof.Machine.execGrnUniform t c dd da db gp tf s
  | .grnMask t c dd da db gp tf => Sys2Proof.Machine.execGrnMask t c dd da db gp tf s
  | .opt t c dd da db gp tf sub => Sys2Proof.Machine.execOpt t c dd da db gp tf sub s
  | .samp t c dd da db gp tf sub => Sys2Proof.Machine.execSamp t c dd da db gp tf sub s
  | .xstart t c ra rb rc xfn => Sys2Proof.Machine.execXstart t c ra rb rc xfn s
  | .msg t c ra rb rc xfn => Sys2Proof.Machine.execMsg t c ra rb rc xfn s
  | .enl t c ra rb rc xfn => Sys2Proof.Machine.execEnl t c ra rb rc xfn s
  | .tfSet t c rd rs1 obj => Sys2Proof.Machine.execTfSet t c rd rs1 obj s
  | .tfClr t c rd rs1 obj => Sys2Proof.Machine.execTfClr t c rd rs1 obj s
  | .tfTst t c rd rs1 obj => Sys2Proof.Machine.execTfTst t c rd rs1 obj s
  | .tfTas t c rd rs1 obj => Sys2Proof.Machine.execTfTas t c rd rs1 obj s
  | .tfWait t c rd rs1 obj => Sys2Proof.Machine.execTfWait t c rd rs1 obj s
  | .tfWaitc t c rd rs1 obj => Sys2Proof.Machine.execTfWaitc t c rd rs1 obj s
  | .gfSet t c rd rs1 obj => Sys2Proof.Machine.execGfSet t c rd rs1 obj s
  | .gfSetRel t c rd rs1 obj => Sys2Proof.Machine.execGfSetRel t c rd rs1 obj s
  | .gfClr t c rd rs1 obj => Sys2Proof.Machine.execGfClr t c rd rs1 obj s
  | .gfClrRel t c rd rs1 obj => Sys2Proof.Machine.execGfClrRel t c rd rs1 obj s
  | .gfTst t c rd rs1 obj => Sys2Proof.Machine.execGfTst t c rd rs1 obj s
  | .gfTstAcq t c rd rs1 obj => Sys2Proof.Machine.execGfTstAcq t c rd rs1 obj s
  | .gfTas t c rd rs1 obj => Sys2Proof.Machine.execGfTas t c rd rs1 obj s
  | .gfWait t c rd rs1 obj => Sys2Proof.Machine.execGfWait t c rd rs1 obj s
  | .gfWaitAcq t c rd rs1 obj => Sys2Proof.Machine.execGfWaitAcq t c rd rs1 obj s
  | .gfWaitc t c rd rs1 obj => Sys2Proof.Machine.execGfWaitc t c rd rs1 obj s
  | .semSignal t c rd rs1 obj => Sys2Proof.Machine.execSemSignal t c rd rs1 obj s
  | .semSignalRel t c rd rs1 obj => Sys2Proof.Machine.execSemSignalRel t c rd rs1 obj s
  | .semWait t c rd rs1 obj => Sys2Proof.Machine.execSemWait t c rd rs1 obj s
  | .semWaitAcq t c rd rs1 obj => Sys2Proof.Machine.execSemWaitAcq t c rd rs1 obj s
  | .semRead t c rd rs1 obj => Sys2Proof.Machine.execSemRead t c rd rs1 obj s
  | .barArrive t c rd rs1 obj => Sys2Proof.Machine.execBarArrive t c rd rs1 obj s
  | .barWait t c rd rs1 obj => Sys2Proof.Machine.execBarWait t c rd rs1 obj s
  | .barArriveWait t c rd rs1 obj => Sys2Proof.Machine.execBarArriveWait t c rd rs1 obj s
  | .fenceFull t c rd rs1 obj => Sys2Proof.Machine.execFenceFull t c rd rs1 obj s
  | .csrRead t c rd rs1 obj => Sys2Proof.Machine.execCsrRead t c rd rs1 obj s
  | .csrWrite t c rd rs1 obj => Sys2Proof.Machine.execCsrWrite t c rd rs1 obj s
  | .ctxStart t c rd rs1 obj => Sys2Proof.Machine.execCtxStart t c rd rs1 obj s
  | .ctxStop t c rd rs1 obj => Sys2Proof.Machine.execCtxStop t c rd rs1 obj s
  | .hret t c rd rs1 obj => Sys2Proof.Machine.execHret t c rd rs1 obj s
  | .bkpt t c rd rs1 obj => Sys2Proof.Machine.execBkpt t c rd rs1 obj s
  | .startQueueAcceptance t unit u => Sys2Proof.Machine.execStartQueueAcceptance t unit u s
  | .mmCompletion t => Sys2Proof.Machine.execMmCompletion t s
  | .veCompletion t => Sys2Proof.Machine.execVeCompletion t s
  | .ligCompletion t => Sys2Proof.Machine.execLigCompletion t s
  | .grnCompletion t => Sys2Proof.Machine.execGrnCompletion t s
  | .movtCompletion t => Sys2Proof.Machine.execMovtCompletion t s
  | .remoteAccessArrival item => Sys2Proof.Machine.execRemoteAccessArrival item s
  | .remoteAnswer item => Sys2Proof.Machine.execRemoteAnswer item s
  | .homeSliceRequest q u => Sys2Proof.Machine.execHomeSliceRequest q u s
  | .bulkStoreFill item => Sys2Proof.Machine.execBulkStoreFill item s
  | .hostCompletion item ok data => Sys2Proof.Machine.execHostCompletion item ok data s
  | .rowClose site bank => Sys2Proof.Machine.execRowClose site bank s
  | .hubOperation item u => Sys2Proof.Machine.execHubOperation item u s
  | .hubAnswer item => Sys2Proof.Machine.execHubAnswer item s
  | .rowArrival item => Sys2Proof.Machine.execRowArrival item s
  | .hubRowArrival item => Sys2Proof.Machine.execHubRowArrival item s
  | .barrierRelease t b => Sys2Proof.Machine.execBarrierRelease t b s
  | .systemArrival item => Sys2Proof.Machine.execSystemArrival item s
  | .systemRelease item => Sys2Proof.Machine.execSystemRelease item s
  | .listAcceptance t => Sys2Proof.Machine.execListAcceptance t s
  | .sendSlot t => Sys2Proof.Machine.execSendSlot t s
  | .segmentArrival item => Sys2Proof.Machine.execSegmentArrival item s
  | .segmentAcknowledgement item => Sys2Proof.Machine.execSegmentAcknowledgement item s
  | .segmentRefusal item => Sys2Proof.Machine.execSegmentRefusal item s
  | .recvAccTurn t slot => Sys2Proof.Machine.execRecvAccTurn t slot s
  | .msgInjection t slot => Sys2Proof.Machine.execMsgInjection t slot s
  | .messageHeaderArrival item => Sys2Proof.Machine.execMessageHeaderArrival item s
  | .messageAcceptance item => Sys2Proof.Machine.execMessageAcceptance item s
  | .nack item => Sys2Proof.Machine.execNack item s
  | .reject item => Sys2Proof.Machine.execReject item s
  | .retry t slot => Sys2Proof.Machine.execRetry t slot s
  | .handlerDispatch t => Sys2Proof.Machine.execHandlerDispatch t s
  | .enlTransferStart branch => Sys2Proof.Machine.execEnlTransferStart branch s
  | .enlLineLanding branch => Sys2Proof.Machine.execEnlLineLanding branch s
  | .portTraining p partner => Sys2Proof.Machine.execPortTraining p partner s
  | .flitReceived p fec flit u => Sys2Proof.Machine.execFlitReceived p fec flit u s
  | .nakRepeat p => Sys2Proof.Machine.execNakRepeat p s
  | .linkStall p => Sys2Proof.Machine.execLinkStall p s
  | .retrainEnd p ok lanes => Sys2Proof.Machine.execRetrainEnd p ok lanes s
  | .detourLive p => Sys2Proof.Machine.execDetourLive p s
  | .rdGo w p n v => Sys2Proof.Machine.execRdGo w p n v s
  | .reductionStart p n => Sys2Proof.Machine.execReductionStart p n s
  | .reductionSegment p item => Sys2Proof.Machine.execReductionSegment p item s
  | .reductionDone p n => Sys2Proof.Machine.execReductionDone p n s
  | .timeoutScan r elapsed => Sys2Proof.Machine.execTimeoutScan r elapsed s
  | .waitCancel item => Sys2Proof.Machine.execWaitCancel item s
  | .nibWatchdog r => Sys2Proof.Machine.execNibWatchdog r s
  | .faultRecord item => Sys2Proof.Machine.execFaultRecord item s
  | .counterFold r => Sys2Proof.Machine.execCounterFold r s
  | .phaseDeclaration r => Sys2Proof.Machine.execPhaseDeclaration r s
  | .apDecl w r v => Sys2Proof.Machine.execApDecl w r v s
  | .setpointLowering elapsed => Sys2Proof.Machine.execSetpointLowering elapsed s
  | .commitStamp n => Sys2Proof.Machine.execCommitStamp n s
  | .commitApply n => Sys2Proof.Machine.execCommitApply n s
  | .tbeatPublication beatCounts hopCounts => Sys2Proof.Machine.execTbeatPublication beatCounts hopCounts s
  | .poolPublication => Sys2Proof.Machine.execPoolPublication s
  | .thermalRead temps periphery => Sys2Proof.Machine.execThermalRead temps periphery s
  | .fadeMeasurement rowCounts regionCounts hours => Sys2Proof.Machine.execFadeMeasurement rowCounts regionCounts hours s
  | .setpointStep up => Sys2Proof.Machine.execSetpointStep up s
  | .patrolScrub addr u => Sys2Proof.Machine.execPatrolScrub addr u s
  | .backgroundScrub => Sys2Proof.Machine.execBackgroundScrub s
  | .timestampWrap => Sys2Proof.Machine.execTimestampWrap s
  | .pcsample t => Sys2Proof.Machine.execPcsample t s
  | .rlbInv w t v => Sys2Proof.Machine.execRlbInv w t v s
  | .tfValueClear w t n v => Sys2Proof.Machine.execTfValueClear w t n v s
  | .tfSetWrite w t n v => Sys2Proof.Machine.execTfSetWrite w t n v s
  | .nfClear w t v => Sys2Proof.Machine.execNfClear w t v s
  | .evselWrite w t v => Sys2Proof.Machine.execEvselWrite w t v s
  | .gfSetRegister w n v => Sys2Proof.Machine.execGfSetRegister w n v s
  | .gfClrRegister w n v => Sys2Proof.Machine.execGfClrRegister w n v s
  | .semWrite w n v => Sys2Proof.Machine.execSemWrite w n v s
  | .rcCtlFlush w r => Sys2Proof.Machine.execRcCtlFlush w r s
  | .rcCtlInval w r => Sys2Proof.Machine.execRcCtlInval w r s
  | .rcCtlZero w r => Sys2Proof.Machine.execRcCtlZero w r s
  | .lkRdnfClear w v => Sys2Proof.Machine.execLkRdnfClear w v s
  | .intCauseClear fn v => Sys2Proof.Machine.execIntCauseClear fn v s
  | .intMaskWrite fn v => Sys2Proof.Machine.execIntMaskWrite fn v s
  | .translationInstall fn slot low => Sys2Proof.Machine.execTranslationInstall fn slot low s
  | .dbgHalt w t force => Sys2Proof.Machine.execDbgHalt w t force s
  | .haltTakesEffect t => Sys2Proof.Machine.execHaltTakesEffect t s
  | .dbgResume w t => Sys2Proof.Machine.execDbgResume w t s
  | .dbgStep w t c => Sys2Proof.Machine.execDbgStep w t c s
  | .partitionHalt w parts force => Sys2Proof.Machine.execPartitionHalt w parts force s
  | .partitionResume w parts => Sys2Proof.Machine.execPartitionResume w parts s
  | .debugAccess path op addr data => Sys2Proof.Machine.execDebugAccess path op addr data s
  | .registerWrite w a v => Sys2Proof.Machine.execRegisterWrite w a v s
  | .idpRead h index sub => Sys2Proof.Machine.execIdpRead h index sub s
  | .idpWrite h index sub data => Sys2Proof.Machine.execIdpWrite h index sub data s
  | .blockRead h index sub count length offset => Sys2Proof.Machine.execBlockRead h index sub count length offset s
  | .blockWrite h index sub offset data => Sys2Proof.Machine.execBlockWrite h index sub offset data s
  | .subscribe h index sub data => Sys2Proof.Machine.execSubscribe h index sub data s
  | .unsubscribe h index sub => Sys2Proof.Machine.execUnsubscribe h index sub s
  | .notify item => Sys2Proof.Machine.execNotify item s
  | .idpFinalAnswer item => Sys2Proof.Machine.execIdpFinalAnswer item s
  | .tbeatPeakReset h v => Sys2Proof.Machine.execTbeatPeakReset h v s
  | .dumpCapture h mirror v => Sys2Proof.Machine.execDumpCapture h mirror v s
  | .linkCounterZero h v => Sys2Proof.Machine.execLinkCounterZero h v s
  | .loadVerify h n => Sys2Proof.Machine.execLoadVerify h n s
  | .loadService h n => Sys2Proof.Machine.execLoadService h n s
  | .forget h n => Sys2Proof.Machine.execForget h n s
  | .apply h => Sys2Proof.Machine.execApply h s
  | .assign h n => Sys2Proof.Machine.execAssign h n s
  | .stop h n => Sys2Proof.Machine.execStop h n s
  | .kill h n => Sys2Proof.Machine.execKill h n s
  | .switch h n => Sys2Proof.Machine.execSwitch h n s
  | .release h n => Sys2Proof.Machine.execRelease h n s
  | .forward h n => Sys2Proof.Machine.execForward h n s
  | .back h n => Sys2Proof.Machine.execBack h n s
  | .stopAll h => Sys2Proof.Machine.execStopAll h s
  | .counterRaise h v => Sys2Proof.Machine.execCounterRaise h v s
  | .slotWrite h offset data => Sys2Proof.Machine.execSlotWrite h offset data s
  | .verify h v => Sys2Proof.Machine.execVerify h v s
  | .challengeRequest h scope => Sys2Proof.Machine.execChallengeRequest h scope s
  | .signedResponse h sig => Sys2Proof.Machine.execSignedResponse h sig s
  | .relock h v => Sys2Proof.Machine.execRelock h v s
  | .measurementRequest h v => Sys2Proof.Machine.execMeasurementRequest h v s
  | .blotterClear h v => Sys2Proof.Machine.execBlotterClear h v s
  | .bulkCounterZero h v => Sys2Proof.Machine.execBulkCounterZero h v s
  | .timeMeasure h v pos neg above => Sys2Proof.Machine.execTimeMeasure h v pos neg above s
  | .traceTrigger h v => Sys2Proof.Machine.execTraceTrigger h v s
  | .traceEnable h v => Sys2Proof.Machine.execTraceEnable h v s
  | .totalsRead h => Sys2Proof.Machine.execTotalsRead h s
  | .perstN level => Sys2Proof.Machine.execPerstN level s
  | .hotReset => Sys2Proof.Machine.execHotReset s
  | .flr fn => Sys2Proof.Machine.execFlr fn s
  | .vfEnableClear => Sys2Proof.Machine.execVfEnableClear s
  | .pcieLinkDown => Sys2Proof.Machine.execPcieLinkDown s
  | .d3hot fn => Sys2Proof.Machine.execD3hot fn s
  | .doeAbort fn => Sys2Proof.Machine.execDoeAbort fn s
  | .getVersion fn p1 p2 body ver => Sys2Proof.Machine.execGetVersion fn s p1 p2 body ver
  | .getCapabilities fn p1 p2 body ver => Sys2Proof.Machine.execGetCapabilities fn s p1 p2 body ver
  | .negotiateAlgorithms fn p1 p2 body ver => Sys2Proof.Machine.execNegotiateAlgorithms fn p1 p2 s body ver
  | .getDigests fn p1 p2 body ver => Sys2Proof.Machine.execGetDigests fn s p1 p2 body ver
  | .getCertificate fn p1 p2 body ver => Sys2Proof.Machine.execGetCertificate fn p1 p2 body s ver
  | .challenge fn p1 p2 body ver => Sys2Proof.Machine.execChallenge fn p1 p2 s body ver
  | .getMeasurements fn p1 p2 body ver => Sys2Proof.Machine.execGetMeasurements fn p1 p2 body s ver
  | .unsupportedRequest fn code p1 p2 body ver => Sys2Proof.Machine.execUnsupportedRequest fn code s p1 p2 body ver
  | .pwronRstN si => Sys2Proof.Machine.execPwronRstN si s
  | .vddAonLoss => Sys2Proof.Machine.execVddAonLoss s
  | .eventInput highNs => Sys2Proof.Machine.execEventInput highNs s
  | .bankRefresh site bank => Sys2Proof.Machine.execBankRefresh site bank s
  | .rcCtlBusyEnd r => Sys2Proof.Machine.execRcCtlBusyEnd r s
  | .pcieLinkUp => Sys2Proof.Machine.execPcieLinkUp s
  | .vfEnableSet => Sys2Proof.Machine.execVfEnableSet s
  | .d0Entry fn => Sys2Proof.Machine.execD0Entry fn s
  | .pwronRstNAssertion => Sys2Proof.Machine.execPwronRstNAssertion s
  | .plcaStatusChange ok => Sys2Proof.Machine.execPlcaStatusChange ok s
  | .transmitOpportunity => Sys2Proof.Machine.execTransmitOpportunity s
  | .ignoredFrame => Sys2Proof.Machine.execIgnoredFrame s
  | .refclkTsLockChange locked => Sys2Proof.Machine.execRefclkTsLockChange locked s

end Sys2Proof.Machine
end

