-- ==== Sys2Proof/Machine/Encoding.lean ====
section
/-!
DEFINITION. The 32-bit words of the tile's instructions: the six formats and the opcodes (03 R67, R69–R72). The commands
carry their fields already read (log 3); this file ties the fields to the word that holds them. It is written from the
tables of 03 and no command's meaning calls it.
-/
namespace Sys2Proof.Machine

/-! ### Formats (03 R67) -/

/-- The S and X formats: op, three registers and an 11-bit function. -/
def sWord (op : BitVec 6) (a b c : BitVec 5) (fn : BitVec 11) : BitVec 32 := op ++ a ++ b ++ c ++ fn

/-- The I format. -/
def iWord (op : BitVec 6) (rd rs1 : BitVec 5) (imm : BitVec 16) : BitVec 32 := op ++ rd ++ rs1 ++ imm

/-- The M format. -/
def mWord (op : BitVec 6) (rt rb : BitVec 5) (width : BitVec 3) (mode : BitVec 2) (off : BitVec 11) : BitVec 32 :=
  op ++ rt ++ rb ++ width ++ mode ++ off

/-- The D format. -/
def dWord (op : BitVec 6) (dd da db : BitVec 3) (gp : BitVec 5) (tf : BitVec 8) (sub : BitVec 4) : BitVec 32 :=
  op ++ dd ++ da ++ db ++ gp ++ tf ++ sub

/-- The C format. -/
def cWord (op : BitVec 6) (rd rs1 : BitVec 5) (sub : BitVec 4) (obj : BitVec 12) : BitVec 32 := op ++ rd ++ rs1 ++ sub ++ obj

/-- Bits [31:26], the opcode. -/
def fldOp (w : BitVec 32) : BitVec 6 := w.extractLsb' 26 6
/-- Bits [25:21]. -/
def fldA (w : BitVec 32) : BitVec 5 := w.extractLsb' 21 5
/-- Bits [20:16]. -/
def fldB (w : BitVec 32) : BitVec 5 := w.extractLsb' 16 5
/-- Bits [15:11]. -/
def fldC (w : BitVec 32) : BitVec 5 := w.extractLsb' 11 5
/-- Bits [10:0]. -/
def fldFn (w : BitVec 32) : BitVec 11 := w.extractLsb' 0 11
/-- Bits [15:0]. -/
def fldImm (w : BitVec 32) : BitVec 16 := w.extractLsb' 0 16
/-- Bits [15:13]. -/
def fldWidth (w : BitVec 32) : BitVec 3 := w.extractLsb' 13 3
/-- Bits [12:11]. -/
def fldMode (w : BitVec 32) : BitVec 2 := w.extractLsb' 11 2
/-- Bits [25:23]. -/
def fldDd (w : BitVec 32) : BitVec 3 := w.extractLsb' 23 3
/-- Bits [22:20]. -/
def fldDa (w : BitVec 32) : BitVec 3 := w.extractLsb' 20 3
/-- Bits [19:17]. -/
def fldDb (w : BitVec 32) : BitVec 3 := w.extractLsb' 17 3
/-- Bits [16:12]. -/
def fldGp (w : BitVec 32) : BitVec 5 := w.extractLsb' 12 5
/-- Bits [11:4]. -/
def fldTf (w : BitVec 32) : BitVec 8 := w.extractLsb' 4 8
/-- Bits [3:0]. -/
def fldDsub (w : BitVec 32) : BitVec 4 := w.extractLsb' 0 4
/-- Bits [15:12]. -/
def fldCsub (w : BitVec 32) : BitVec 4 := w.extractLsb' 12 4
/-- Bits [11:0]. -/
def fldObj (w : BitVec 32) : BitVec 12 := w.extractLsb' 0 12

/-! ### Opcodes and sub-operations (03 R70, R72) -/

/-- The word of a tile instruction; none for a command that is no tile instruction. -/
def encodeTile : Instr → Option (BitVec 32)
  | .alu _ _ rd rs1 rs2 fn => some (sWord 0x00#6 rd rs1 rs2 fn)
  | .fpu _ _ rd rs1 rs2 fn => some (sWord 0x01#6 rd rs1 rs2 fn)
  | .addi _ _ rd rs1 imm => some (iWord 0x02#6 rd rs1 imm)
  | .andi _ _ rd rs1 imm => some (iWord 0x03#6 rd rs1 imm)
  | .ori _ _ rd rs1 imm => some (iWord 0x04#6 rd rs1 imm)
  | .xori _ _ rd rs1 imm => some (iWord 0x05#6 rd rs1 imm)
  | .slli _ _ rd rs1 imm => some (iWord 0x06#6 rd rs1 imm)
  | .srli _ _ rd rs1 imm => some (iWord 0x07#6 rd rs1 imm)
  | .srai _ _ rd rs1 imm => some (iWord 0x08#6 rd rs1 imm)
  | .slti _ _ rd rs1 imm => some (iWord 0x09#6 rd rs1 imm)
  | .lui _ _ rd rs1 imm => some (iWord 0x0A#6 rd rs1 imm)
  | .lsh _ _ rd rs1 imm => some (iWord 0x0B#6 rd rs1 imm)
  | .beq _ _ rd rs1 imm => some (iWord 0x0C#6 rd rs1 imm)
  | .bne _ _ rd rs1 imm => some (iWord 0x0D#6 rd rs1 imm)
  | .blt _ _ rd rs1 imm => some (iWord 0x0E#6 rd rs1 imm)
  | .bge _ _ rd rs1 imm => some (iWord 0x0F#6 rd rs1 imm)
  | .bltu _ _ rd rs1 imm => some (iWord 0x10#6 rd rs1 imm)
  | .bgeu _ _ rd rs1 imm => some (iWord 0x11#6 rd rs1 imm)
  | .jal _ _ rd rs1 imm => some (iWord 0x12#6 rd rs1 imm)
  | .jalr _ _ rd rs1 imm => some (iWord 0x13#6 rd rs1 imm)
  | .ld _ _ rt rb width mode off _ => some (mWord 0x14#6 rt rb width mode off)
  | .st _ _ rt rb width mode off => some (mWord 0x15#6 rt rb width mode off)
  | .sta _ _ rt rb width mode off => some (mWord 0x16#6 rt rb width mode off)
  | .ldf _ _ rt rb width mode off => some (mWord 0x17#6 rt rb width mode off)
  | .stf _ _ rt rb width mode off => some (mWord 0x18#6 rt rb width mode off)
  | .ldd _ _ rt rb width mode off => some (mWord 0x19#6 rt rb width mode off)
  | .std _ _ rt rb width mode off => some (mWord 0x1A#6 rt rb width mode off)
  | .mmSet _ _ dd da db gp tf => some (dWord 0x1C#6 dd da db gp tf 0#4)
  | .mmAcc _ _ dd da db gp tf => some (dWord 0x1C#6 dd da db gp tf 1#4)
  | .mmSpill _ _ dd da db gp tf => some (dWord 0x1C#6 dd da db gp tf 2#4)
  | .mmSpillacc _ _ dd da db gp tf => some (dWord 0x1C#6 dd da db gp tf 3#4)
  | .vop _ _ dd da db gp tf sub => some (dWord 0x1D#6 dd da db gp tf sub)
  | .vtr _ _ dd da db gp tf sub => some (dWord 0x1E#6 dd da db gp tf sub)
  | .cvt _ _ dd da db gp tf sub => some (dWord 0x1F#6 dd da db gp tf sub)
  | .fill _ _ dd da db gp tf sub => some (dWord 0x20#6 dd da db gp tf sub)
  | .movtCopy _ _ dd da db gp tf => some (dWord 0x21#6 dd da db gp tf 0#4)
  | .movtGather _ _ dd da db gp tf => some (dWord 0x21#6 dd da db gp tf 1#4)
  | .ligIsect _ _ dd da db gp tf => some (dWord 0x22#6 dd da db gp tf 0#4)
  | .ligUnion _ _ dd da db gp tf => some (dWord 0x22#6 dd da db gp tf 1#4)
  | .ligBuild _ _ dd da db gp tf => some (dWord 0x22#6 dd da db gp tf 2#4)
  | .ligCheck _ _ dd da db gp tf => some (dWord 0x22#6 dd da db gp tf 3#4)
  | .ligSelect _ _ dd da db gp tf => some (dWord 0x22#6 dd da db gp tf 4#4)
  | .grnBits _ _ dd da db gp tf => some (dWord 0x23#6 dd da db gp tf 0#4)
  | .grnUniform _ _ dd da db gp tf => some (dWord 0x23#6 dd da db gp tf 1#4)
  | .grnMask _ _ dd da db gp tf => some (dWord 0x23#6 dd da db gp tf 2#4)
  | .opt _ _ dd da db gp tf sub => some (dWord 0x24#6 dd da db gp tf sub)
  | .samp _ _ dd da db gp tf sub => some (dWord 0x25#6 dd da db gp tf sub)
  | .xstart _ _ ra rb rc xfn => some (sWord 0x26#6 ra rb rc xfn)
  | .msg _ _ ra rb rc xfn => some (sWord 0x27#6 ra rb rc xfn)
  | .enl _ _ ra rb rc xfn => some (sWord 0x28#6 ra rb rc xfn)
  | .tfSet _ _ rd rs1 obj => some (cWord 0x29#6 rd rs1 0#4 obj)
  | .tfClr _ _ rd rs1 obj => some (cWord 0x29#6 rd rs1 1#4 obj)
  | .tfTst _ _ rd rs1 obj => some (cWord 0x29#6 rd rs1 2#4 obj)
  | .tfTas _ _ rd rs1 obj => some (cWord 0x29#6 rd rs1 3#4 obj)
  | .tfWait _ _ rd rs1 obj => some (cWord 0x29#6 rd rs1 4#4 obj)
  | .tfWaitc _ _ rd rs1 obj => some (cWord 0x29#6 rd rs1 5#4 obj)
  | .gfSet _ _ rd rs1 obj => some (cWord 0x2A#6 rd rs1 0#4 obj)
  | .gfSetRel _ _ rd rs1 obj => some (cWord 0x2A#6 rd rs1 1#4 obj)
  | .gfClr _ _ rd rs1 obj => some (cWord 0x2A#6 rd rs1 2#4 obj)
  | .gfClrRel _ _ rd rs1 obj => some (cWord 0x2A#6 rd rs1 3#4 obj)
  | .gfTst _ _ rd rs1 obj => some (cWord 0x2A#6 rd rs1 4#4 obj)
  | .gfTstAcq _ _ rd rs1 obj => some (cWord 0x2A#6 rd rs1 5#4 obj)
  | .gfTas _ _ rd rs1 obj => some (cWord 0x2A#6 rd rs1 6#4 obj)
  | .gfWait _ _ rd rs1 obj => some (cWord 0x2A#6 rd rs1 7#4 obj)
  | .gfWaitAcq _ _ rd rs1 obj => some (cWord 0x2A#6 rd rs1 8#4 obj)
  | .gfWaitc _ _ rd rs1 obj => some (cWord 0x2A#6 rd rs1 9#4 obj)
  | .semSignal _ _ rd rs1 obj => some (cWord 0x2B#6 rd rs1 0#4 obj)
  | .semSignalRel _ _ rd rs1 obj => some (cWord 0x2B#6 rd rs1 1#4 obj)
  | .semWait _ _ rd rs1 obj => some (cWord 0x2B#6 rd rs1 2#4 obj)
  | .semWaitAcq _ _ rd rs1 obj => some (cWord 0x2B#6 rd rs1 3#4 obj)
  | .semRead _ _ rd rs1 obj => some (cWord 0x2B#6 rd rs1 4#4 obj)
  | .barArrive _ _ rd rs1 obj => some (cWord 0x2C#6 rd rs1 0#4 obj)
  | .barWait _ _ rd rs1 obj => some (cWord 0x2C#6 rd rs1 1#4 obj)
  | .barArriveWait _ _ rd rs1 obj => some (cWord 0x2C#6 rd rs1 2#4 obj)
  | .fenceFull _ _ rd rs1 obj => some (cWord 0x2D#6 rd rs1 0#4 obj)
  | .csrRead _ _ rd rs1 obj => some (cWord 0x2E#6 rd rs1 0#4 obj)
  | .csrWrite _ _ rd rs1 obj => some (cWord 0x2E#6 rd rs1 1#4 obj)
  | .ctxStart _ _ rd rs1 obj => some (cWord 0x2F#6 rd rs1 0#4 obj)
  | .ctxStop _ _ rd rs1 obj => some (cWord 0x2F#6 rd rs1 1#4 obj)
  | .hret _ _ rd rs1 obj => some (cWord 0x30#6 rd rs1 0#4 obj)
  | .bkpt _ _ rd rs1 obj => some (cWord 0x31#6 rd rs1 0#4 obj)
  | _ => none

/-- The instruction that context `c` of tile `t` reads from a word. None for a reserved opcode or sub-operation, which has
no row in the opcode table; reserved values of a sub-operation field that a row carries (VOP, VTR, CVT, FILL, OPT, SAMP) and
of fn, width and mode stay in the fields, and the instruction's meaning raises fault 0x0B for them (03 R69–R72). -/
def decodeTile (t : TileId) (c : CtxId) (w : BitVec 32) : Option Instr :=
  match (fldOp w).toNat with
  | 0x00 => some (.alu t c (fldA w) (fldB w) (fldC w) (fldFn w))
  | 0x01 => some (.fpu t c (fldA w) (fldB w) (fldC w) (fldFn w))
  | 0x02 => some (.addi t c (fldA w) (fldB w) (fldImm w))
  | 0x03 => some (.andi t c (fldA w) (fldB w) (fldImm w))
  | 0x04 => some (.ori t c (fldA w) (fldB w) (fldImm w))
  | 0x05 => some (.xori t c (fldA w) (fldB w) (fldImm w))
  | 0x06 => some (.slli t c (fldA w) (fldB w) (fldImm w))
  | 0x07 => some (.srli t c (fldA w) (fldB w) (fldImm w))
  | 0x08 => some (.srai t c (fldA w) (fldB w) (fldImm w))
  | 0x09 => some (.slti t c (fldA w) (fldB w) (fldImm w))
  | 0x0A => some (.lui t c (fldA w) (fldB w) (fldImm w))
  | 0x0B => some (.lsh t c (fldA w) (fldB w) (fldImm w))
  | 0x0C => some (.beq t c (fldA w) (fldB w) (fldImm w))
  | 0x0D => some (.bne t c (fldA w) (fldB w) (fldImm w))
  | 0x0E => some (.blt t c (fldA w) (fldB w) (fldImm w))
  | 0x0F => some (.bge t c (fldA w) (fldB w) (fldImm w))
  | 0x10 => some (.bltu t c (fldA w) (fldB w) (fldImm w))
  | 0x11 => some (.bgeu t c (fldA w) (fldB w) (fldImm w))
  | 0x12 => some (.jal t c (fldA w) (fldB w) (fldImm w))
  | 0x13 => some (.jalr t c (fldA w) (fldB w) (fldImm w))
  | 0x14 => some (.ld t c (fldA w) (fldB w) (fldWidth w) (fldMode w) (fldFn w) .none)
  | 0x15 => some (.st t c (fldA w) (fldB w) (fldWidth w) (fldMode w) (fldFn w))
  | 0x16 => some (.sta t c (fldA w) (fldB w) (fldWidth w) (fldMode w) (fldFn w))
  | 0x17 => some (.ldf t c (fldA w) (fldB w) (fldWidth w) (fldMode w) (fldFn w))
  | 0x18 => some (.stf t c (fldA w) (fldB w) (fldWidth w) (fldMode w) (fldFn w))
  | 0x19 => some (.ldd t c (fldA w) (fldB w) (fldWidth w) (fldMode w) (fldFn w))
  | 0x1A => some (.std t c (fldA w) (fldB w) (fldWidth w) (fldMode w) (fldFn w))
  | 0x1C => match (fldDsub w).toNat with
    | 0 => some (.mmSet t c (fldDd w) (fldDa w) (fldDb w) (fldGp w) (fldTf w))
    | 1 => some (.mmAcc t c (fldDd w) (fldDa w) (fldDb w) (fldGp w) (fldTf w))
    | 2 => some (.mmSpill t c (fldDd w) (fldDa w) (fldDb w) (fldGp w) (fldTf w))
    | 3 => some (.mmSpillacc t c (fldDd w) (fldDa w) (fldDb w) (fldGp w) (fldTf w))
    | _ => none
  | 0x1D => some (.vop t c (fldDd w) (fldDa w) (fldDb w) (fldGp w) (fldTf w) (fldDsub w))
  | 0x1E => some (.vtr t c (fldDd w) (fldDa w) (fldDb w) (fldGp w) (fldTf w) (fldDsub w))
  | 0x1F => some (.cvt t c (fldDd w) (fldDa w) (fldDb w) (fldGp w) (fldTf w) (fldDsub w))
  | 0x20 => some (.fill t c (fldDd w) (fldDa w) (fldDb w) (fldGp w) (fldTf w) (fldDsub w))
  | 0x21 => match (fldDsub w).toNat with
    | 0 => some (.movtCopy t c (fldDd w) (fldDa w) (fldDb w) (fldGp w) (fldTf w))
    | 1 => some (.movtGather t c (fldDd w) (fldDa w) (fldDb w) (fldGp w) (fldTf w))
    | _ => none
  | 0x22 => match (fldDsub w).toNat with
    | 0 => some (.ligIsect t c (fldDd w) (fldDa w) (fldDb w) (fldGp w) (fldTf w))
    | 1 => some (.ligUnion t c (fldDd w) (fldDa w) (fldDb w) (fldGp w) (fldTf w))
    | 2 => some (.ligBuild t c (fldDd w) (fldDa w) (fldDb w) (fldGp w) (fldTf w))
    | 3 => some (.ligCheck t c (fldDd w) (fldDa w) (fldDb w) (fldGp w) (fldTf w))
    | 4 => some (.ligSelect t c (fldDd w) (fldDa w) (fldDb w) (fldGp w) (fldTf w))
    | _ => none
  | 0x23 => match (fldDsub w).toNat with
    | 0 => some (.grnBits t c (fldDd w) (fldDa w) (fldDb w) (fldGp w) (fldTf w))
    | 1 => some (.grnUniform t c (fldDd w) (fldDa w) (fldDb w) (fldGp w) (fldTf w))
    | 2 => some (.grnMask t c (fldDd w) (fldDa w) (fldDb w) (fldGp w) (fldTf w))
    | _ => none
  | 0x24 => some (.opt t c (fldDd w) (fldDa w) (fldDb w) (fldGp w) (fldTf w) (fldDsub w))
  | 0x25 => some (.samp t c (fldDd w) (fldDa w) (fldDb w) (fldGp w) (fldTf w) (fldDsub w))
  | 0x26 => some (.xstart t c (fldA w) (fldB w) (fldC w) (fldFn w))
  | 0x27 => some (.msg t c (fldA w) (fldB w) (fldC w) (fldFn w))
  | 0x28 => some (.enl t c (fldA w) (fldB w) (fldC w) (fldFn w))
  | 0x29 => match (fldCsub w).toNat with
    | 0 => some (.tfSet t c (fldA w) (fldB w) (fldObj w))
    | 1 => some (.tfClr t c (fldA w) (fldB w) (fldObj w))
    | 2 => some (.tfTst t c (fldA w) (fldB w) (fldObj w))
    | 3 => some (.tfTas t c (fldA w) (fldB w) (fldObj w))
    | 4 => some (.tfWait t c (fldA w) (fldB w) (fldObj w))
    | 5 => some (.tfWaitc t c (fldA w) (fldB w) (fldObj w))
    | _ => none
  | 0x2A => match (fldCsub w).toNat with
    | 0 => some (.gfSet t c (fldA w) (fldB w) (fldObj w))
    | 1 => some (.gfSetRel t c (fldA w) (fldB w) (fldObj w))
    | 2 => some (.gfClr t c (fldA w) (fldB w) (fldObj w))
    | 3 => some (.gfClrRel t c (fldA w) (fldB w) (fldObj w))
    | 4 => some (.gfTst t c (fldA w) (fldB w) (fldObj w))
    | 5 => some (.gfTstAcq t c (fldA w) (fldB w) (fldObj w))
    | 6 => some (.gfTas t c (fldA w) (fldB w) (fldObj w))
    | 7 => some (.gfWait t c (fldA w) (fldB w) (fldObj w))
    | 8 => some (.gfWaitAcq t c (fldA w) (fldB w) (fldObj w))
    | 9 => some (.gfWaitc t c (fldA w) (fldB w) (fldObj w))
    | _ => none
  | 0x2B => match (fldCsub w).toNat with
    | 0 => some (.semSignal t c (fldA w) (fldB w) (fldObj w))
    | 1 => some (.semSignalRel t c (fldA w) (fldB w) (fldObj w))
    | 2 => some (.semWait t c (fldA w) (fldB w) (fldObj w))
    | 3 => some (.semWaitAcq t c (fldA w) (fldB w) (fldObj w))
    | 4 => some (.semRead t c (fldA w) (fldB w) (fldObj w))
    | _ => none
  | 0x2C => match (fldCsub w).toNat with
    | 0 => some (.barArrive t c (fldA w) (fldB w) (fldObj w))
    | 1 => some (.barWait t c (fldA w) (fldB w) (fldObj w))
    | 2 => some (.barArriveWait t c (fldA w) (fldB w) (fldObj w))
    | _ => none
  | 0x2D => match (fldCsub w).toNat with
    | 0 => some (.fenceFull t c (fldA w) (fldB w) (fldObj w))
    | _ => none
  | 0x2E => match (fldCsub w).toNat with
    | 0 => some (.csrRead t c (fldA w) (fldB w) (fldObj w))
    | 1 => some (.csrWrite t c (fldA w) (fldB w) (fldObj w))
    | _ => none
  | 0x2F => match (fldCsub w).toNat with
    | 0 => some (.ctxStart t c (fldA w) (fldB w) (fldObj w))
    | 1 => some (.ctxStop t c (fldA w) (fldB w) (fldObj w))
    | _ => none
  | 0x30 => match (fldCsub w).toNat with
    | 0 => some (.hret t c (fldA w) (fldB w) (fldObj w))
    | _ => none
  | 0x31 => match (fldCsub w).toNat with
    | 0 => some (.bkpt t c (fldA w) (fldB w) (fldObj w))
    | _ => none
  | _ => none

end Sys2Proof.Machine
end

