-- ==== Sys2Proof/Safety.lean ====
section
/-!
DEFINITION. What counts as a safe state and a safe run: the invariants that claims are stated over, the states in which a
command has its own effect, and what a command leaves as it was.
-/
namespace Sys2Proof.Machine

/-- Memory is in its canonical form: addresses rise strictly and no listed byte is zero (log 4). -/
abbrev Memory.wf (m : List Host.Cell) : Prop := Map.wf 0#8 m = true

/-! ### Instructions of the tile core -/

/-- Context `c` of tile `t` issues its next instruction, which uses the registers of `u`: it runs, no halt, acquire load or
thermal trip holds it, no armed breakpoint stands at it, no load in flight writes a register it uses, its codeword reads
without error, and it is not the tile's last word (03 R63, R65, R66, 02 R46, 08 R227, 18 R494, 15 R418). -/
def Ready (s : State) (t c : Nat) (u : Uses) : Prop :=
  canIssue s t c = true ∧ breaks s t c = false ∧ interlocked s t c u = false ∧
    fetchBad (fetched t c s) t c = false ∧ (s.cx t c).pc ≠ lastPc

/-- State `s'` with context `c`'s instruction done, which began at the PC of `s`: the PC stands at the next word. -/
def retired (t c : Nat) (s s' : State) : State := s'.onTile t (fun x => x.retire c ((s.cx t c).pc + 4))

/-- What follows an instruction that only writes `v` to rd. -/
def wrote (t c : Nat) (rd : BitVec 5) (v : Word) (s : State) : State :=
  retired t c s (setRv t c rd v (fetched t c s))

/-- What follows a jump to `npc` that leaves `s'`: the next instruction's line is fetched anew (03 R66). -/
def jumped (t c : Nat) (npc : BitVec 32) (s' : State) : State :=
  s'.onTile t (fun x => (x.retire c npc).onCx c (fun k => { k with fetch := none }))

/-- What follows an instruction that waits for `w` at its address. -/
def waiting (t c : Nat) (w : WaitFor) (s' : State) : State := s'.onTile t (fun x => x.block c w)

/-- Everything but the tiles is as it was. -/
def KeepsDevice (s s' : State) : Prop :=
  s'.pending = s.pending ∧ s'.mem = s.mem ∧ s'.bad = s.bad ∧ s'.hub = s.hub ∧ s'.net = s.net ∧ s'.regions = s.regions ∧
    s'.parts = s.parts ∧ s'.ports = s.ports ∧ s'.dev = s.dev ∧ s'.out = s.out ∧ s'.free = s.free

/-- Everything of a tile is as it was but for its contexts, PHASE_PC and its event counters. -/
def KeepsTile (x x' : Tile) : Prop :=
  x'.flags = x.flags ∧ x'.fe = x.fe ∧ x'.rlb = x.rlb ∧ x'.phaseStep = x.phaseStep ∧ x'.nf = x.nf ∧ x'.fenced = x.fenced ∧
    x'.clearing = x.clearing ∧ x'.faulted = x.faulted ∧ x'.epochs = x.epochs ∧ x'.barPending = x.barPending ∧
    x'.un = x.un ∧ x'.mail = x.mail ∧ x'.dbg = x.dbg ∧ x'.cnt.evsel = x.cnt.evsel ∧ x'.cnt.eccCe = x.cnt.eccCe

/-- Everything is as it was but for context `c` of tile `t`, and that tile's PHASE_PC and event counters. -/
def KeepsRest (t c : Nat) (s s' : State) : Prop :=
  KeepsDevice s s' ∧ KeepsTile (s.tile t) (s'.tile t) ∧ (∀ u, u ≠ t → s'.tile u = s.tile u) ∧
    (∀ d, d ≠ c → s'.cx t d = s.cx t d)

/-! ### Requests of the dictionary -/

/-- Whether a path takes a request: the management port with power and an id, a mailbox of a served function page with no
request outstanding (17 R456; 19 R513). A doorbell takes none but its own. -/
def hears (s : State) (p : Path) : Bool :=
  match p with
  | .mgmt _ => s.dev.boot.pwronN && !(s.dev.mgmt.nodeId == 0)
  | .mailbox f => pageServed s f.val && !mailboxBusy s f.val
  | .doorbell _ _ => false

/-- State `s` with a request on path `p` counted (17 R466). -/
def heard (s : State) (p : Path) : State :=
  match p with
  | .mgmt _ => s.onMgmt (fun g => { g with accepted := g.accepted + 1 })
  | _ => s

/-- What follows a request that was carried out up to `s`: its answer is remembered and goes out on its path. -/
def settled (r : Req) (status : Nat) (data : Bytes) (s : State) : State :=
  deliver (answerOf r status data) (remember (answerOf r status data) s)

/-- Request `r` reaches entry `e` of original index `idx`, seen through mirror `m`: its path takes it, it is no repeat, fewer
than 8 are outstanding, its header is good, and the entry is there for this path in this device state (17 R457–R468). -/
def Asked (s : State) (r : Req) (idx : Nat) (m : Option Nat) (e : EntryRow) : Prop :=
  hears s r.path = true ∧ storedAnswer s r = none ∧ s.dev.mgmt.pend.length < 8 ∧ badHeader r = false ∧
    originalOf r.index.toNat = some (idx, m) ∧ ((vfPath r.path).isSome = true → m = vfPath r.path) ∧ inState s idx m = true ∧
    entryRow m idx r.sub.toNat = some e

/-- A write that reaches its entry and that no right, size or state bars. -/
def WriteRuns (s : State) (r : Req) : Prop :=
  ∃ idx m e, Asked s r idx m e ∧ writeBar s r m idx e = none

/-- Everything is as it was but for the dictionary's own bookkeeping and what an answer changes on its path. -/
def Answered (s s' : State) : Prop :=
  s'.pending = s.pending ∧ s'.mem = s.mem ∧ s'.bad = s.bad ∧ s'.tiles = s.tiles ∧ s'.hub = s.hub ∧ s'.net = s.net ∧
    s'.regions = s.regions ∧ s'.parts = s.parts ∧ s'.ports = s.ports ∧ s'.free = s.free ∧ s'.dev.sec = s.dev.sec ∧
    s'.dev.tm = s.dev.tm ∧ s'.dev.power = s.dev.power ∧ s'.dev.bulk = s.dev.bulk ∧ s'.dev.blot = s.dev.blot ∧
    s'.dev.trace = s.dev.trace ∧ s'.dev.staged = s.dev.staged ∧ s'.dev.align = s.dev.align ∧ s'.dev.link = s.dev.link ∧
    s'.dev.boot = s.dev.boot

end Sys2Proof.Machine
end

