-- ==== Sys2Proof/Certificates/Slice0/Obligations.lean ====
section
/-!
DEFINITION. The statements about the model, for the provers.
-/
open Sys2Proof Sys2Proof.Machine

/-- For every command c and state s: a step of s with c at the front of its queue is exec of c on s with the rest of
the queue. -/
def Obligations.StepRunsTheFrontCommand : Prop :=
  ∀ (s : State) (c : Instr) (rest : List Instr),
    step { s with pending := c :: rest } = exec c { s with pending := rest }

/-- For every command and every state, exec answers a next state: no command is refused and none ends a run with a
fault; the faults of the device are records and next states. With no command waiting, a step answers the same state
(the model's choice, log 2: the commands are all that happens). -/
def Obligations.NoCommandStops : Prop :=
  (∀ (c : Instr) (s : State), ∃ t, exec c s = .next t) ∧
  (∀ s : State, s.pending = [] → step s = .next s)

/-- A context that is ready for an I-format instruction completes ADDI, ANDI, ORI, XORI, SLLI, SRLI, SRAI and SLTI: rd
holds rs1 with the sign-extended immediate added, ANDed, ORed, XORed, shifted by imm[5:0] left, right logical or right
arithmetic, or compared signed; nothing but rd and the PC follows. With rs1 = g0, LUI writes the sign-extended
immediate shifted left by 16, LSH writes rd shifted left by 16 with the zero-extended immediate below, and a CSR read
of obj at most 511 writes the tile's own register at obj x 8. -/
def Obligations.ImmediateResults : Prop :=
  (∀ (s : State) (t : TileId) (c : CtxId) (rd rs1 : BitVec 5) (imm : BitVec 16),
    Ready s t c { reads := [rs1.toNat], writes := [rd.toNat] } →
    let a := rv s t c rs1
    let i : Word := imm.signExtend 64
    let k := (imm.extractLsb' 0 6).toNat
    exec (.addi t c rd rs1 imm) s = .next (wrote t c rd (a + i) s) ∧
    exec (.andi t c rd rs1 imm) s = .next (wrote t c rd (a &&& i) s) ∧
    exec (.ori t c rd rs1 imm) s = .next (wrote t c rd (a ||| i) s) ∧
    exec (.xori t c rd rs1 imm) s = .next (wrote t c rd (a ^^^ i) s) ∧
    exec (.slli t c rd rs1 imm) s = .next (wrote t c rd (a <<< k) s) ∧
    exec (.srli t c rd rs1 imm) s = .next (wrote t c rd (a >>> k) s) ∧
    exec (.srai t c rd rs1 imm) s = .next (wrote t c rd (a.sshiftRight k) s) ∧
    exec (.slti t c rd rs1 imm) s = .next (wrote t c rd (if a.toInt < i.toInt then 1 else 0) s)) ∧
  (∀ (s : State) (t : TileId) (c : CtxId) (rd : BitVec 5),
    (∀ imm : BitVec 16, Ready s t c { writes := [rd.toNat] } →
      exec (.lui t c rd 0 imm) s = .next (wrote t c rd (imm.signExtend 64 <<< 16) s)) ∧
    (∀ imm : BitVec 16, Ready s t c { reads := [rd.toNat], writes := [rd.toNat] } →
      exec (.lsh t c rd 0 imm) s = .next (wrote t c rd ((rv s t c rd <<< 16) ||| imm.setWidth 64) s)) ∧
    (∀ obj : BitVec 12, Ready s t c { writes := [rd.toNat] } → obj.toNat ≤ 511 →
      exec (.csrRead t c rd 0 obj) s = .next (wrote t c rd (blockWord (fetched t c s) t (obj.toNat * 8)) s)))

/-- A ready context completes ALU with fn 0 to 18: ADD, SUB, AND, OR, XOR, SLL, SRL, SRA (shift by rs2[5:0]), SLT,
SLTU, MIN, MAX, MINU, MAXU, MUL (low 64 bits), MULH (signed high), MULHU; and with rs2 = g0, CLZ writes the number k
of leading zeros (the k high bits are 0, the next is 1 where there is one) and POPC the number of set bits. -/
def Obligations.AluResults : Prop :=
  ∀ (s : State) (t : TileId) (c : CtxId) (rd rs1 rs2 : BitVec 5),
    Ready s t c { reads := [rs1.toNat, rs2.toNat], writes := [rd.toNat] } →
    let a := rv s t c rs1
    let b := rv s t c rs2
    let k := (b.extractLsb' 0 6).toNat
    (∀ (fn : BitVec 11) (v : Word),
      (fn.toNat, v) ∈ [(0, a + b), (1, a - b), (2, a &&& b), (3, a ||| b), (4, a ^^^ b), (5, a <<< k), (6, a >>> k),
        (7, a.sshiftRight k), (8, if a.toInt < b.toInt then 1 else 0), (9, if a.toNat < b.toNat then 1 else 0),
        (10, if a.toInt < b.toInt then a else b), (11, if a.toInt < b.toInt then b else a),
        (12, if a.toNat < b.toNat then a else b), (13, if a.toNat < b.toNat then b else a), (14, a * b),
        (15, BitVec.ofInt 64 (a.toInt * b.toInt / 2 ^ 64)), (16, BitVec.ofNat 64 (a.toNat * b.toNat / 2 ^ 64))] →
      exec (.alu t c rd rs1 rs2 fn) s = .next (wrote t c rd v s)) ∧
    (rs2 = 0 → ∃ n, n ≤ 64 ∧ (∀ i, 64 - n ≤ i → a.getLsbD i = false) ∧ (n < 64 → a.getLsbD (63 - n) = true) ∧
      exec (.alu t c rd rs1 rs2 17) s = .next (wrote t c rd (BitVec.ofNat 64 n) s)) ∧
    (rs2 = 0 → exec (.alu t c rd rs1 rs2 18) s
      = .next (wrote t c rd (BitVec.ofNat 64 ((List.range 64).countP a.getLsbD)) s))

/-- A ready context completes FPU with fn 0 to 9 on bits [31:0]: FADD, FSUB, FMUL, the IEEE 754-2019 minimum and
maximum, FEQ, FLT and FLE (0 or 1, false on a NaN), FCVT.W (to INT32, ties to even, saturating, NaN gives 0) and
FCVT.S (from INT32), each rounded to nearest even and zero-extended to 64 bits. -/
def Obligations.FpuResults : Prop :=
  ∀ (s : State) (t : TileId) (c : CtxId) (rd rs1 rs2 : BitVec 5),
    Ready s t c { reads := [rs1.toNat, rs2.toNat], writes := [rd.toNat] } →
    let x := fp32.decode ((rv s t c rs1).setWidth 32).toNat
    let y := fp32.decode ((rv s t c rs2).setWidth 32).toNat
    let round : Sys2Proof.Machine.Num → Word := fun v => BitVec.ofNat 64 (fp32.encode .rne v)
    (∀ (fn : BitVec 11) (v : Word),
      (fn.toNat, v) ∈ [(0, round (x.add y)), (1, round (x.add y.neg)), (2, round (x.mul y)), (3, round (x.minimum y)),
        (4, round (x.maximum y)), (5, if x.cmp y = some .eq then 1 else 0), (6, if x.lt y then 1 else 0),
        (7, if x.le y then 1 else 0)] →
      exec (.fpu t c rd rs1 rs2 fn) s = .next (wrote t c rd v s)) ∧
    (rs2 = 0 → exec (.fpu t c rd rs1 rs2 8) s
      = .next (wrote t c rd (BitVec.ofNat 64 (toBits 32 (toIntSat .rne (-0x80000000) 0x7FFFFFFF x))) s)) ∧
    (rs2 = 0 → exec (.fpu t c rd rs1 rs2 9) s
      = .next (wrote t c rd (round (.ofInt ((rv s t c rs1).setWidth 32).toInt)) s))

/-- A ready context completes each branch. Where rs1 compares with rd as named (equal, not equal, less and not less,
signed and unsigned), the PC becomes PC + imm x 4 if that target has bits [63:20] and [1:0] clear; otherwise fault
0x02 is raised at the branch. Where it does not compare so, the PC moves to the next word. A ready context completes
JAL (rs1 = g0) and JALR where the target, PC + imm x 4 or rs1 + imm, has bits [63:20] and [1:0] clear: rd holds PC + 4
and the PC is the target, which JALR takes from rs1 as it was before. A target that has one of those bits set raises
fault 0x02 at the jump, and rd is not written. -/
def Obligations.BranchAndJumpResults : Prop :=
  (∀ (s : State) (t : TileId) (c : CtxId) (rd rs1 : BitVec 5) (imm : BitVec 16),
    Ready s t c { reads := [rs1.toNat, rd.toNat] } →
    let a := rv s t c rs1
    let b := rv s t c rd
    let s1 := fetched t c s
    let target : Word := (s.cx t c).pc.setWidth 64 + imm.signExtend 64 * 4
    let go : Bool → State := fun taken =>
      if taken = false then retired t c s s1
      else if target.toNat < 2 ^ 20 ∧ target.toNat % 4 = 0 then jumped t c (target.setWidth 32) s1
      else issueFault t c 0x02 s1
    exec (.beq t c rd rs1 imm) s = .next (go (decide (a = b))) ∧
    exec (.bne t c rd rs1 imm) s = .next (go (decide (a ≠ b))) ∧
    exec (.blt t c rd rs1 imm) s = .next (go (decide (a.toInt < b.toInt))) ∧
    exec (.bge t c rd rs1 imm) s = .next (go (decide (b.toInt ≤ a.toInt))) ∧
    exec (.bltu t c rd rs1 imm) s = .next (go (decide (a.toNat < b.toNat))) ∧
    exec (.bgeu t c rd rs1 imm) s = .next (go (decide (b.toNat ≤ a.toNat)))) ∧
  (∀ (s : State) (t : TileId) (c : CtxId) (rd rs1 : BitVec 5) (imm : BitVec 16),
    let s1 := fetched t c s
    let link : Word := (s.cx t c).pc.setWidth 64 + 4
    let go : Word → State := fun target =>
      if target.toNat < 2 ^ 20 ∧ target.toNat % 4 = 0 then jumped t c (target.setWidth 32) (setRv t c rd link s1)
      else issueFault t c 0x02 s1
    (Ready s t c { writes := [rd.toNat] } →
      exec (.jal t c rd 0 imm) s = .next (go ((s.cx t c).pc.setWidth 64 + imm.signExtend 64 * 4))) ∧
    (Ready s t c { reads := [rs1.toNat], writes := [rd.toNat] } →
      exec (.jalr t c rd rs1 imm) s = .next (go (rv s t c rs1 + imm.signExtend 64))))

/-- The state after an instruction that only writes rd (the next state of the ALU, FPU, immediate, constant and CSR
read statements): rd holds the value if it is not g0, g0 reads 0, every other general register and every descriptor
register of the context is as before, the PC stands at the next word, PHASE_PC names the instruction, and everything
else - other contexts, other tiles, flags, units, messages, memory, the hub, traffic, regions, partitions, ports, the
device - is as before but for the tile's event counters. After a jump to npc that leaves the registers of s' (the next
state of the branch and jump statements): the PC is npc, the fetch line is dropped, the general and descriptor
registers are those of s', and everything else but the tile's event counters and PHASE_PC is as in s'. -/
def Obligations.RegisterWriteAndJumpFrame : Prop :=
  (∀ (s : State) (t : TileId) (c : CtxId) (rd : BitVec 5) (v : Word),
    let s' := wrote t c rd v s
    (rd ≠ 0 → rv s' t c rd = v) ∧ rv s' t c 0 = 0 ∧ (∀ r : BitVec 5, r ≠ rd → rv s' t c r = rv s t c r) ∧
    (∀ d, (s'.cx t c).desc d = (s.cx t c).desc d) ∧ (s'.cx t c).pc = (s.cx t c).pc + 4 ∧
    (s'.cx t c).wait = (s.cx t c).wait ∧ (s'.cx t c).bypass = (s.cx t c).bypass ∧
    (s'.tile t).phasePc = BitVec.ofNat 34 (c.val * 2 ^ 32 + (s.cx t c).pc.toNat) ∧
    KeepsRest t c s s' ∧ (∀ a n, s'.bytes a n = s.bytes a n)) ∧
  (∀ (s' : State) (t : TileId) (c : CtxId) (npc : BitVec 32),
    let s'' := jumped t c npc s'
    (s''.cx t c).pc = npc ∧ (s''.cx t c).fetch = none ∧ (s''.cx t c).regs = (s'.cx t c).regs ∧
    (s''.cx t c).descs = (s'.cx t c).descs ∧ (s''.cx t c).wait = (s'.cx t c).wait ∧
    (s''.tile t).phasePc = BitVec.ofNat 34 (c.val * 2 ^ 32 + (s'.cx t c).pc.toNat) ∧
    KeepsRest t c s' s'' ∧ (∀ a n, s''.bytes a n = s'.bytes a n))

/-- A ready context, an aligned address rb + off11 x size in the tile's own window, bytes whose codewords read without
an uncorrectable error and that no unit is writing: LD of every width puts the bytes into its register group and an
acquire LD also empties the remote line buffer and makes the next remote LD bypass it; LDD puts 32 B into a descriptor
register; LDF of a full word loads it and, unless it only peeks, leaves it empty; LDF of an empty word waits for it.
Nothing is written to memory. -/
def Obligations.LocalLoads : Prop :=
  ∀ (s : State) (t : TileId) (c : CtxId) (rt rb : BitVec 5) (width : BitVec 3) (mode : BitVec 2) (off : BitVec 11) (o : Nat),
    let s1 := fetched t c s
    (∀ size, accessSize width = some size → Ready s t c { reads := [rb.toNat], writes := regGroup rt.toNat size } →
      let addr := rv s t c rb + off.signExtend 64 * BitVec.ofNat 64 size
      addr.toNat % size = 0 → rt.toNat % max 1 (size / 8) = 0 →
      targetOf s1 t .load size addr = .own o → s.badIn (tileBase t + o) size = none →
      ownedResult s1 (tileBase t + o) size = false →
      let s2 := s1.onCx t c (fun k => k.loadRegs rt.toNat (s.bytes (tileBase t + o) size))
      exec (.ld t c rt rb width 0 off .none) s = .next (retired t c s s2) ∧
      exec (.ld t c rt rb width 1 off .none) s = .next (retired t c s (acquire t c s2))) ∧
    (rt.toNat < 8 → Ready s t c { reads := [rb.toNat], dwrites := [rt.toNat % 8] } →
      let addr := rv s t c rb + off.signExtend 64 * 32
      addr.toNat % 32 = 0 →
      targetOf s1 t .load 32 addr = .own o → s.badIn (tileBase t + o) 32 = none →
      ownedResult s1 (tileBase t + o) 32 = false →
      exec (.ldd t c rt rb 5 0 off) s = .next (retired t c s (s1.onCx t c (fun k =>
        k.setDesc rt.toNat (BitVec.ofNat 256 (leNat (s.bytes (tileBase t + o) 32))))))) ∧
    (Ready s t c { reads := [rb.toNat], writes := [rt.toNat] } → mode.toNat < 2 →
      let addr := rv s t c rb + off.signExtend 64 * 8
      addr.toNat % 8 = 0 → targetOf s1 t .fillLoad 8 addr = .own o →
      ((s1.tile t).full (o / 8) = false →
        exec (.ldf t c rt rb 3 mode off) s = .next (waiting t c (.fe (o / 8) rt.toNat (mode == 1)) s1)) ∧
      ((s1.tile t).full (o / 8) = true → s.badIn (tileBase t + o) 8 = none →
        ownedResult s1 (tileBase t + o) 8 = false →
        let s2 := s1.onCx t c (fun k => k.loadRegs rt.toNat (s.bytes (tileBase t + o) 8))
        exec (.ldf t c rt rb 3 0 off) s = .next (retired t c s (setFull t (o / 8) false s2)) ∧
        exec (.ldf t c rt rb 3 1 off) s = .next (retired t c s s2)))

/-- A ready context and an aligned address in the tile's own window: ST (plain, or a release with no write of the
context outstanding) and STD write the bytes of their registers, STA the sums of its elements with the old bytes, and
STF fills an empty word. Where a codeword that the store must read back holds an uncorrectable error, or the word of
an STF is full already, it faults instead. Every byte outside the bytes stored to reads as before, and so does every
register. -/
def Obligations.LocalStores : Prop :=
  ∀ (s : State) (t : TileId) (c : CtxId) (rt rb : BitVec 5) (off : BitVec 11) (o : Nat),
    let s1 := fetched t c s
    let a := tileBase t + o
    let stored : Bytes → State → Prop := fun bs s' =>
      s'.bytes a bs.length = bs ∧ (∀ b, b < a ∨ a + bs.length ≤ b → s'.bytes b 1 = s.bytes b 1) ∧
      (∀ r : BitVec 5, rv s' t c r = rv s t c r) ∧ (s'.cx t c).pc = (s.cx t c).pc + 4
    (∀ (width : BitVec 3) (mode : BitVec 2) (size : Nat), accessSize width = some size →
      Ready s t c { reads := rb.toNat :: regGroup rt.toNat size } → rt.toNat % max 1 (size / 8) = 0 →
      let addr := rv s t c rb + off.signExtend 64 * BitVec.ofNat 64 size
      let bs := storeBytes s t c rt.toNat size
      addr.toNat % size = 0 →
      (mode = 0 ∨ mode = 2 ∧ writesOut s1 t c = false →
        targetOf s1 t .store size addr (BitVec.ofNat 64 (leNat bs)) = .own o → mergeBad s a size = none →
        ∃ s', exec (.st t c rt rb width mode off) s = .next s' ∧ stored bs s' ∧ (s'.tile t).fe = (s.tile t).fe) ∧
      (∀ w, accSize mode = some w → w ≤ size → targetOf s1 t .acc size addr = .own o → s.badIn a size = none →
        ownedResult s1 a size = false →
        let r := accBytes mode (s.bytes a size) bs
        ∃ s', exec (.sta t c rt rb width mode off) s = .next s' ∧ stored r.1 s' ∧ (s'.tile t).fe = (s.tile t).fe ∧
          (s'.tile t).nf = { (s.tile t).nf with aw := (s.tile t).nf.aw || r.2 })) ∧
    (rt.toNat < 8 → Ready s t c { reads := [rb.toNat], dreads := [rt.toNat % 8] } →
      let addr := rv s t c rb + off.signExtend 64 * 32
      addr.toNat % 32 = 0 → targetOf s1 t .store 32 addr = .own o → mergeBad s a 32 = none →
      ∃ s', exec (.std t c rt rb 5 0 off) s = .next s' ∧ stored (toBytes ((s.cx t c).desc rt.toNat).toNat 32) s' ∧
        (s'.tile t).fe = (s.tile t).fe) ∧
    (Ready s t c { reads := [rb.toNat, rt.toNat] } →
      let addr := rv s t c rb + off.signExtend 64 * 8
      addr.toNat % 8 = 0 → targetOf s1 t .fillStore 8 addr = .own o →
      ((s.tile t).full (o / 8) = true → exec (.stf t c rt rb 3 0 off) s = .next (issueFault t c 0x0C s1 a)) ∧
      ((s.tile t).full (o / 8) = false → (∀ d, feWaiter (s.tile t) d (o / 8) = none) →
        ∃ s', exec (.stf t c rt rb 3 0 off) s = .next s' ∧ (s'.tile t).full (o / 8) = true ∧
          stored (toBytes (rv s t c rt).toNat 8) s'))

/-- A ready context whose aligned access names another tile's SRAM or a register (over the mesh) or a home slice: LD
with no matching line in the remote line buffer, ST, STA, STF, LDD and STD complete for their context by sending a
request that names the context, the partition, the address and what is asked, and when and between which ends it was
sent (the model's own stamp, log 79); it stands last among the requests in flight, and no byte of memory changes. -/
def Obligations.RemoteAccesses : Prop :=
  ∀ (s : State) (t : TileId) (c : CtxId) (rt rb : BitVec 5) (off : BitVec 11) (a : Nat),
    let s1 := fetched t c s
    let pc := (s.cx t c).pc
    let req : MemOp → MemReq := fun op =>
      { iss := .ctx t c pc, part := partOf s t, addr := a, op := op,
        sent := { no := s.net.lines, leg := some (.tile t, nodeAt s a) } }
    let leaves : Res → Target → MemOp → Prop := fun r g op => ∃ s', r = .next s' ∧ s'.mem = s.mem ∧
      (s'.cx t c).pc = pc + 4 ∧
      (g = .mesh a → s'.net.reqs.getLast? = some (req op)) ∧ (g = .slice a → s'.net.slice.getLast? = some (req op))
    ∀ g, g = .mesh a ∨ g = .slice a →
    (∀ (width : BitVec 3) (size : Nat), accessSize width = some size → rt.toNat % max 1 (size / 8) = 0 →
      let addr := rv s t c rb + off.signExtend 64 * BitVec.ofNat 64 size
      let bs := storeBytes s t c rt.toNat size
      addr.toNat % size = 0 →
      (Ready s t c { reads := [rb.toNat], writes := regGroup rt.toNat size } → targetOf s1 t .load size addr = g →
        (∀ l ∈ (s.tile t).rlb, l.addr ≠ lineKey none a) →
        leaves (exec (.ld t c rt rb width 0 off .none) s) g
          (.load rt.toNat size false (fillable s1 g && !(s.cx t c).bypass))) ∧
      (Ready s t c { reads := rb.toNat :: regGroup rt.toNat size } →
        targetOf s1 t .store size addr (BitVec.ofNat 64 (leNat bs)) = g →
        leaves (exec (.st t c rt rb width 0 off) s) g (.store bs)) ∧
      (∀ (mode : BitVec 2) (w : Nat), Ready s t c { reads := rb.toNat :: regGroup rt.toNat size } →
        accSize mode = some w → w ≤ size → targetOf s1 t .acc size addr = g →
        leaves (exec (.sta t c rt rb width mode off) s) g (.acc mode bs))) ∧
    (Ready s t c { reads := [rb.toNat, rt.toNat] } →
      let addr := rv s t c rb + off.signExtend 64 * 8
      addr.toNat % 8 = 0 → targetOf s1 t .fillStore 8 addr = g →
      leaves (exec (.stf t c rt rb 3 0 off) s) g (.fillStore (storeBytes s t c rt.toNat 8))) ∧
    (rt.toNat < 8 → let addr := rv s t c rb + off.signExtend 64 * 32
      addr.toNat % 32 = 0 →
      (Ready s t c { reads := [rb.toNat], dwrites := [rt.toNat % 8] } → targetOf s1 t .load 32 addr = g →
        leaves (exec (.ldd t c rt rb 5 0 off) s) g (.loadDesc rt.toNat)) ∧
      (Ready s t c { reads := [rb.toNat], dreads := [rt.toNat % 8] } → targetOf s1 t .store 32 addr = g →
        leaves (exec (.std t c rt rb 5 0 off) s) g (.store (toBytes ((s.cx t c).desc rt.toNat).toNat 32))))

/-- A ready context: an address that is not a multiple of the size raises fault 0x02 with nothing accessed; width 7,
an rt that breaks the multiple rule, a reserved mode, a width other than 8 B in LDF and STF, and a width other than 5
or a non-zero rt[4:3] in LDD and STD raise fault 0x0B; and STA to a home slice or a register raises fault 0x02 (here
for LD, ST and STA). -/
def Obligations.MemoryFormFaults : Prop :=
  ∀ (s : State) (t : TileId) (c : CtxId) (rt rb : BitVec 5) (width : BitVec 3) (mode : BitVec 2) (off : BitVec 11) (u : Upset),
    let s1 := fetched t c s
    let illegal := Host.Outcome.next (issueFault t c 0x0B s1) (φ := Fault) (ρ := Refusal)
    (Ready s t c {} → exec (.ld t c rt rb 7 mode off u) s = illegal ∧ exec (.st t c rt rb 7 mode off) s = illegal ∧
      exec (.sta t c rt rb 7 mode off) s = illegal ∧ exec (.ldf t c rt rb 7 mode off) s = illegal ∧
      exec (.stf t c rt rb 7 mode off) s = illegal) ∧
    (∀ size, accessSize width = some size →
      (Ready s t c { reads := [rb.toNat], writes := regGroup rt.toNat size } →
        2 ≤ mode.toNat ∨ rt.toNat % max 1 (size / 8) ≠ 0 → exec (.ld t c rt rb width mode off u) s = illegal) ∧
      (Ready s t c { reads := rb.toNat :: regGroup rt.toNat size } →
        (mode = 1 ∨ mode = 3 ∨ rt.toNat % max 1 (size / 8) ≠ 0 → exec (.st t c rt rb width mode off) s = illegal) ∧
        (mode = 3 ∨ mode ≠ 1 ∧ size < 4 ∨ size < 2 ∨ rt.toNat % max 1 (size / 8) ≠ 0 →
          exec (.sta t c rt rb width mode off) s = illegal)) ∧
      (size ≠ 8 → Ready s t c { reads := [rb.toNat], writes := [rt.toNat] } →
        exec (.ldf t c rt rb width mode off) s = illegal) ∧
      (size ≠ 8 → Ready s t c { reads := [rb.toNat, rt.toNat] } → exec (.stf t c rt rb width mode off) s = illegal)) ∧
    (width ≠ 5 ∨ 8 ≤ rt.toNat ∨ mode ≠ 0 →
      (Ready s t c { reads := [rb.toNat], dwrites := [rt.toNat % 8] } → exec (.ldd t c rt rb width mode off) s = illegal) ∧
      (Ready s t c { reads := [rb.toNat], dreads := [rt.toNat % 8] } → exec (.std t c rt rb width mode off) s = illegal)) ∧
    (∀ size, accessSize width = some size → rt.toNat % max 1 (size / 8) = 0 →
      let addr := rv s t c rb + off.signExtend 64 * BitVec.ofNat 64 size
      addr.toNat % size ≠ 0 →
      (Ready s t c { reads := [rb.toNat], writes := regGroup rt.toNat size } →
        exec (.ld t c rt rb width 0 off .none) s = .next (issueFault t c 0x02 s1 (addr.toNat % 2 ^ 47))) ∧
      (Ready s t c { reads := rb.toNat :: regGroup rt.toNat size } →
        exec (.st t c rt rb width 0 off) s = .next (issueFault t c 0x02 s1 (addr.toNat % 2 ^ 47))))

/-- STA to the Bulk Store, the host window, a register block or a device register, of this device or of another,
raises fault 0x02 at its context and accumulates nothing: the next state is that of the fault alone. -/
def Obligations.StaOutsideTileMemoryFaults : Prop :=
  ∀ (s : State) (t : TileId) (c : CtxId) (rt rb : BitVec 5) (width : BitVec 3) (mode : BitVec 2) (off : BitVec 11)
      (size w a : Nat),
    accessSize width = some size → accSize mode = some w → w ≤ size → rt.toNat % max 1 (size / 8) = 0 →
    Ready s t c { reads := rb.toNat :: regGroup rt.toNat size } →
    let addr := rv s t c rb + off.signExtend 64 * BitVec.ofNat 64 size
    addr.toNat % size = 0 →
    (routeOf s addr = .here a ∧ (s.place a = .bulk ∨ (∃ h, s.place a = .host h) ∨ (∃ u o, s.place a = .block u o) ∨
        ∃ o, s.place a = .devreg o) ∨
      (∃ d, routeOf s addr = .far d a) ∧ ∀ u o, placeOf 186 a ≠ .sram u o) →
    exec (.sta t c rt rb width mode off) s = .next (issueFault t c 0x02 (fetched t c s) (addr.toNat % 2 ^ 47))

/-- In a load of 8 B or more, register rt + j gets bytes 8j to 8j + 7 as a little-endian number, for every j of the
group but g0, whose share is discarded; a load of 1, 2 or 4 B zero-extends into rt. In a store of 8 B or more the
bytes of register rt + j stand at 8j, and a store of 1, 2 or 4 B takes the low bits of rt. Registers outside the group
keep their values. -/
def Obligations.RegisterGroupsMoveInOrder : Prop :=
  ∀ (k : Ctx) (rt : Nat) (bs : Bytes),
    (∀ n j, n ∈ [1, 2, 4, 8] → bs.length = 8 * n → j < n → rt + j ≠ 0 →
      (k.loadRegs rt bs).reg (rt + j) = BitVec.ofNat 64 (leNat ((bs.drop (8 * j)).take 8))) ∧
    (bs.length ∈ [1, 2, 4] → rt ≠ 0 → (k.loadRegs rt bs).reg rt = BitVec.ofNat 64 (leNat bs)) ∧
    (∀ r, r < rt ∨ rt + max 1 (bs.length / 8) ≤ r → bs.length ∈ [1, 2, 4, 8, 16, 32, 64] →
      (k.loadRegs rt bs).reg r = k.reg r) ∧
    (k.loadRegs rt bs).reg 0 = 0 ∧
    (∀ (s : State) (t c j : Nat), (∀ size ∈ [16, 32, 64], j < size / 8 →
        ((storeBytes s t c rt size).drop (8 * j)).take 8 = toBytes ((s.cx t c).reg (rt + j)).toNat 8) ∧
      (∀ size ∈ [1, 2, 4, 8], leNat (storeBytes s t c rt size) = ((s.cx t c).reg rt).toNat % 2 ^ (8 * size)))

/-- A ready context, obj at most 255 and, for the forms that write it, not 255: TF.SET and TF.CLR write the flag,
TF.TST writes its value to rd, TF.TAS writes the old value to rd and sets the flag, and TF.WAIT and TF.WAITC go on
where the flag is set, or clear, and otherwise wait for that. A set of flags 224 to 239 whose marker is enabled also
writes a trace record. -/
def Obligations.TileFlagInstructions : Prop :=
  ∀ (s : State) (t : TileId) (c : CtxId) (rd : BitVec 5) (obj : BitVec 12), obj.toNat ≤ 255 →
    let s1 := fetched t c s
    let f := obj.toNat
    let old : Word := if (s.tile t).flag f then 1 else 0
    (Ready s t c { writes := [0] } →
      (f ≠ 255 → exec (.tfSet t c 0 0 obj) s = .next (retired t c s (putFlag t f true (marker t c f s1)))) ∧
      (f ≠ 255 → exec (.tfClr t c 0 0 obj) s = .next (retired t c s (putFlag t f false s1))) ∧
      exec (.tfWait t c 0 0 obj) s = .next (if (s.tile t).flag f then retired t c s s1 else waiting t c (.tf f true) s1) ∧
      exec (.tfWaitc t c 0 0 obj) s = .next (if (s.tile t).flag f then waiting t c (.tf f false) s1 else retired t c s s1)) ∧
    (Ready s t c { writes := [rd.toNat] } →
      exec (.tfTst t c rd 0 obj) s = .next (wrote t c rd old s) ∧
      (f ≠ 255 → exec (.tfTas t c rd 0 obj) s
        = .next (retired t c s (setRv t c rd old (putFlag t f true (marker t c f s1))))))

/-- A write of flag f of tile t leaves it with the new value and every other flag of the tile as it was; each context
that waited for flag f to take that value runs again with its PC past its instruction, and every context that waits
for something else, runs or is off is as it was; nothing outside the tile changes. -/
def Obligations.FlagWriteEffect : Prop :=
  ∀ (s : State) (t f : Nat) (b : Bool), f < 256 →
    let s' := putFlag t f b s
    (s'.tile t).flag f = b ∧ (∀ g, g ≠ f → (s'.tile t).flag g = (s.tile t).flag g) ∧
    (∀ c, c < 4 → (s.cx t c).wait = some (.tf f b) → (s.cx t c).st = .wait →
      (s'.cx t c).wait = none ∧ (s'.cx t c).pc = (s.cx t c).pc + 4 ∧ (s'.cx t c).regs = (s.cx t c).regs ∧
      ((s.cx t c).stepGrant = false → (s'.cx t c).st = .run)) ∧
    (∀ c, (s.cx t c).wait ≠ some (.tf f b) → s'.cx t c = s.cx t c) ∧
    (∀ u, u ≠ t → s'.tile u = s.tile u) ∧ KeepsDevice s s'

/-- A ready context and obj at most 1,023: each GF instruction sends its operation to the Sync Hub, where it stands
last among those in flight, and its context waits for the answer at its instruction. TST and TAS name the register of
the answer, ACQ forms are acquires, and REL forms wait instead while a write of the context is outstanding. -/
def Obligations.GlobalFlagInstructions : Prop :=
  ∀ (s : State) (t : TileId) (c : CtxId) (rd : BitVec 5) (obj : BitVec 12), obj.toNat ≤ 1023 →
    let s1 := fetched t c s
    let send : HubKind → Bool → Nat → Bool → Host.Outcome State Fault Refusal := fun kind acq r isWait =>
      .next (waiting t c (.gf obj.toNat isWait) (s1.onNet (fun n => { n with hubOps := n.hubOps ++
        [{ t := t, c := c, iaddr := (s.cx t c).pc, kind := kind, obj := obj.toNat, acq := acq, rd := r }] })))
    (Ready s t c { writes := [0] } →
      exec (.gfSet t c 0 0 obj) s = send .gfSet false 0 false ∧
      exec (.gfClr t c 0 0 obj) s = send .gfClr false 0 false ∧
      exec (.gfWait t c 0 0 obj) s = send .gfWait false 0 true ∧
      exec (.gfWaitAcq t c 0 0 obj) s = send .gfWait true 0 true ∧
      exec (.gfWaitc t c 0 0 obj) s = send .gfWaitc false 0 true ∧
      exec (.gfSetRel t c 0 0 obj) s
        = (if writesOut s1 t c then .next (waiting t c (.fence false) s1) else send .gfSet false 0 false) ∧
      exec (.gfClrRel t c 0 0 obj) s
        = (if writesOut s1 t c then .next (waiting t c (.fence false) s1) else send .gfClr false 0 false)) ∧
    (Ready s t c { writes := [rd.toNat] } →
      exec (.gfTst t c rd 0 obj) s = send .gfTst false rd.toNat false ∧
      exec (.gfTstAcq t c rd 0 obj) s = send .gfTst true rd.toNat false ∧
      exec (.gfTas t c rd 0 obj) s = send .gfTas false rd.toNat false)

/-- A ready context and obj at most 255: SEM.SIGNAL, SEM.WAIT and SEM.READ send their operation with the count of
rs1[15:0] to the Sync Hub, and the context waits for the answer at its instruction. A wait for 0 completes at the
tile, as an acquire where it is one. SIGNAL.REL waits instead while a write of the context is outstanding. -/
def Obligations.SemaphoreInstructions : Prop :=
  ∀ (s : State) (t : TileId) (c : CtxId) (rd rs1 : BitVec 5) (obj : BitVec 12), obj.toNat ≤ 255 →
    let s1 := fetched t c s
    let n : BitVec 16 := (rv s t c rs1).setWidth 16
    let send : HubKind → BitVec 16 → Bool → Nat → Bool → Host.Outcome State Fault Refusal := fun kind k acq r isWait =>
      .next (waiting t c (.sem obj.toNat isWait k.toNat) (s1.onNet (fun m => { m with hubOps := m.hubOps ++
        [{ t := t, c := c, iaddr := (s.cx t c).pc, kind := kind, obj := obj.toNat, n := k, acq := acq, rd := r }] })))
    (Ready s t c { reads := [rs1.toNat], writes := [0] } →
      exec (.semSignal t c 0 rs1 obj) s = send .semSignal n false 0 false ∧
      exec (.semSignalRel t c 0 rs1 obj) s
        = (if writesOut s1 t c then .next (waiting t c (.fence false) s1) else send .semSignal n false 0 false) ∧
      exec (.semWait t c 0 rs1 obj) s = (if n = 0 then .next (retired t c s s1) else send .semWait n false 0 true) ∧
      exec (.semWaitAcq t c 0 rs1 obj) s
        = (if n = 0 then .next (retired t c s (acquire t c s1)) else send .semWait n true 0 true)) ∧
    (Ready s t c { reads := [0], writes := [rd.toNat] } →
      exec (.semRead t c rd 0 obj) s = send .semRead 0 false rd.toNat false)

/-- A ready context and a barrier of its partition: BAR.ARRIVE arrives and goes on, BAR.WAIT goes on unless the tile's
arrival is still pending, in which case it waits, and BAR.ARRIVE.WAIT arrives and waits; while a list that names the
barrier as gate has not been posted, the arriving forms are held. FENCE.FULL waits while anything of the context is
outstanding; then it empties the remote line buffer and the fetch line. A barrier of another partition raises fault
0x0A. -/
def Obligations.BarrierAndFenceInstructions : Prop :=
  ∀ (s : State) (t : TileId) (c : CtxId) (b : BitVec 12), Ready s t c {} →
    let s1 := fetched t c s
    let n := b.toNat
    (n ≤ 31 → ownedBy s.hub.ownBar (partOf s t) n = true →
      exec (.barArrive t c 0 0 b) s = .next (if gateHolds (s.tile t) n then waiting t c (.barHeld n false) s1
        else retired t c s (arrive t c n s1)) ∧
      exec (.barWait t c 0 0 b) s = .next (if (s.tile t).barPending.getLsbD n then waiting t c (.bar n) s1
        else retired t c s s1) ∧
      exec (.barArriveWait t c 0 0 b) s = .next (if gateHolds (s.tile t) n then waiting t c (.barHeld n true) s1
        else waiting t c (.bar n) (arrive t c n s1))) ∧
    (n ≤ 31 → ownedBy s.hub.ownBar (partOf s t) n = false →
      exec (.barArrive t c 0 0 b) s = .next (issueFault t c 0x0A s1) ∧
      exec (.barWait t c 0 0 b) s = .next (issueFault t c 0x0A s1) ∧
      exec (.barArriveWait t c 0 0 b) s = .next (issueFault t c 0x0A s1)) ∧
    exec (.fenceFull t c 0 0 0) s = .next (if anyOut s1 t c then waiting t c (.fence true) s1
      else retired t c s ((invalidateRlb t s1).onCx t c (fun k => { k with fetch := none })))

/-- A ready context: CTX.START of an OFF context that is not the handler context puts it at rs1 in RUN, or in HALT
where the tile is held; a target with bits [63:20] or [1:0] set raises fault 0x02, and a context that is not OFF fault
0x0B. CTX.STOP outside a handler context and HRET in a handler that runs a message leave the context OFF, HRET after
giving its message's entry back, whose bytes are then unspecified for what still is to use them. BKPT halts where a
debugger is attached to the partition and otherwise raises fault 0x0B. A CSR write of obj at most 511 that does not
name TF255 writes the tile's own register at obj x 8, after a MARKER record for each of TF224 to TF239 that it sets
through TF_SET3 (with the value of g1; R502). -/
def Obligations.ContextInstructions : Prop :=
  ∀ (s : State) (t : TileId) (c : CtxId) (rs1 : BitVec 5) (obj : BitVec 12),
    let s1 := fetched t c s
    (Ready s t c { reads := [rs1.toNat] } → obj.toNat ≤ 3 →
      (((s1.cx t obj.toNat).st ≠ .off ∨ (s.tile t).mail.handler = some obj.toNat) →
        exec (.ctxStart t c 0 rs1 obj) s = .next (issueFault t c 0x0B s1)) ∧
      ((s1.cx t obj.toNat).st = .off → (s.tile t).mail.handler ≠ some obj.toNat →
        exec (.ctxStart t c 0 rs1 obj) s = .next (
          if (rv s t c rs1).toNat < 2 ^ 20 ∧ (rv s t c rs1).toNat % 4 = 0 then
            retired t c s (s1.onTile t (fun x => x.onCx obj.toNat (fun k =>
              { k with pc := (rv s t c rs1).setWidth 32, fetch := none, wait := none, haltedInWait := false,
                       stepGrant := false, st := if x.dbg.hold then .halt else .run })))
          else issueFault t c 0x02 s1))) ∧
    (Ready s t c {} →
      ((s.tile t).mail.handler ≠ some c.val →
        exec (.ctxStop t c 0 0 0) s = .next (retired t c s (s1.onCx t c (fun k => { k with st := .off, fetch := none })))) ∧
      ((s.tile t).mail.handler = some c.val → (s.tile t).mail.running ≠ none →
        exec (.hret t c 0 0 0) s = .next (retired t c s
          (((releaseEntry t c s1).onMail t Mail.retire).onCx t c (fun k => { k with st := .off, fetch := none })))) ∧
      (partOf s t < 6 → s.dev.trace.attach.getLsbD (partOf s t) = true →
        exec (.bkpt t c 0 0 0) s = .next (retired t c s (s1.onCx t c (fun k => { k with st := .halt, stepGrant := false })))) ∧
      (s.dev.trace.attach.getLsbD (partOf s t) = false → exec (.bkpt t c 0 0 0) s = .next (issueFault t c 0x0B s1))) ∧
    (Ready s t c { reads := [rs1.toNat] } → obj.toNat ≤ 511 → namesPhaseFlag (obj.toNat * 8) (rv s t c rs1) = false →
      exec (.csrWrite t c 0 rs1 obj) s = .next (retired t c s
        (putBlock t (obj.toNat * 8) (rv s t c rs1) (markWrite t c (obj.toNat * 8) (rv s t c rs1) s1))))

/-- A context that is ready with the registers and descriptor registers that its unit will read (gp, and the one after
it where the operation draws Grain bits at IDXBASE; the three descriptors, and the one after db for a rule of two
state tensors), tf other than 255 and every unused field naming d0 or g0: each engine start puts its request, with its
own address and fields, last in its unit's start queue (MM 0, the VE 1, the Ligature unit 2, the Grain generator 3,
the transfer unit 4) and goes on; where two requests stand there already the context waits for an entry and nothing is
queued. The memory, the flags and the unit's running operation are not touched. -/
def Obligations.EngineStarts : Prop :=
  ∀ (s : State) (t : TileId) (c : CtxId) (dd da db : BitVec 3) (gp : BitVec 5) (tf : BitVec 8) (sub : BitVec 4), tf ≠ 255 →
    let s1 := fetched t c s
    let req : OpKind → BitVec 4 → StartReq := fun kind sub =>
      { kind := kind, sub := sub, ctx := c, iaddr := (s.cx t c).pc, dd := dd, da := da, db := db, gp := gp, tf := tf }
    let starts : Instr → OpKind → BitVec 4 → Nat → Prop := fun i kind sub u =>
      Ready s t c { reads := (req kind sub).regs (s.cx t c), dreads := (req kind sub).descs } →
      exec i s = .next (if 2 ≤ ((s.tile t).unit u).queue.length then waiting t c (.queue u) s1
        else retired t c s (s1.onUnit t u (fun x => { x with queue := x.queue ++ [req kind sub] })))
    starts (.mmSet t c dd da db gp tf) .mm 0 0 ∧ starts (.mmAcc t c dd da db gp tf) .mm 1 0 ∧
    starts (.mmSpill t c dd da db gp tf) .mm 2 0 ∧ starts (.mmSpillacc t c dd da db gp tf) .mm 3 0 ∧
    (sub.toNat ≤ 5 ∨ sub = 12 ∨ sub = 13 ∨ sub.toNat ≤ 11 ∧ db = 0 → starts (.vop t c dd da db gp tf sub) .vop sub 1) ∧
    (sub.toNat ≤ 5 → starts (.opt t c dd da db gp tf sub) .opt sub 1) ∧
    starts (.ligIsect t c dd da db gp tf) .lig 0 2 ∧ starts (.ligUnion t c dd da db gp tf) .lig 1 2 ∧
    (db = 0 →
      (sub.toNat ≤ 5 → starts (.vtr t c dd da db gp tf sub) .vtr sub 1) ∧
      starts (.cvt t c dd da db gp tf 0) .cvt 0 1 ∧ starts (.samp t c dd da db gp tf 0) .samp 0 1 ∧
      starts (.ligBuild t c dd da db gp tf) .lig 2 2 ∧ starts (.ligCheck t c dd da db gp tf) .lig 3 2 ∧
      starts (.ligSelect t c dd da db gp tf) .lig 4 2 ∧
      starts (.movtGather t c dd da db gp tf) .movt 1 4 ∧
      (gp = 0 → starts (.movtCopy t c dd da db gp tf) .movt 0 4) ∧
      (da = 0 → starts (.fill t c dd da db gp tf 0) .fill 0 1 ∧
        starts (.grnBits t c dd da db gp tf) .grn 0 3 ∧ starts (.grnUniform t c dd da db gp tf) .grn 1 3 ∧
        starts (.grnMask t c dd da db gp tf) .grn 2 3))

/-- A ready context raises fault 0x0B at its instruction, before any acceptance check and with nothing queued or
written, for: a reserved fn of ALU or FPU; a non-zero rs2 where it is unused; LUI, LSH and JAL with rs1 other than g0;
an engine start that names TF255, a reserved sub of VOP, VTR, CVT, FILL, OPT or SAMP, or a non-zero unused field; a
tile flag, semaphore, barrier or CSR object above its range; and FENCE, CTX.STOP, HRET or BKPT with a non-zero object.
-/
def Obligations.ReservedFieldsFault : Prop :=
  ∀ (s : State) (t : TileId) (c : CtxId) (rd rs1 rs2 : BitVec 5) (fn : BitVec 11) (imm : BitVec 16) (dd da db : BitVec 3)
      (gp : BitVec 5) (tf : BitVec 8) (sub : BitVec 4) (obj : BitVec 12),
    let illegal : Res := .next (issueFault t c 0x0B (fetched t c s))
    (Ready s t c { reads := [rs1.toNat, rs2.toNat], writes := [rd.toNat] } →
      (19 ≤ fn.toNat ∨ (fn = 17 ∨ fn = 18) ∧ rs2 ≠ 0 → exec (.alu t c rd rs1 rs2 fn) s = illegal) ∧
      (10 ≤ fn.toNat ∨ (fn = 8 ∨ fn = 9) ∧ rs2 ≠ 0 → exec (.fpu t c rd rs1 rs2 fn) s = illegal)) ∧
    (rs1 ≠ 0 →
      (Ready s t c { writes := [rd.toNat] } →
        exec (.lui t c rd rs1 imm) s = illegal ∧ exec (.jal t c rd rs1 imm) s = illegal) ∧
      (Ready s t c { reads := [rd.toNat], writes := [rd.toNat] } → exec (.lsh t c rd rs1 imm) s = illegal)) ∧
    (Ready s t c { reads := [gp.toNat, (gp.toNat + 1) % 32], dreads := [dd.toNat, da.toNat, db.toNat, (db.toNat + 1) % 8] } →
      (14 ≤ sub.toNat ∨ 6 ≤ sub.toNat ∧ sub.toNat ≤ 11 ∧ db ≠ 0 ∨ tf = 255 → exec (.vop t c dd da db gp tf sub) s = illegal) ∧
      (6 ≤ sub.toNat ∨ db ≠ 0 ∨ tf = 255 → exec (.vtr t c dd da db gp tf sub) s = illegal) ∧
      (sub ≠ 0 ∨ db ≠ 0 ∨ tf = 255 → exec (.cvt t c dd da db gp tf sub) s = illegal ∧
        exec (.samp t c dd da db gp tf sub) s = illegal) ∧
      (sub ≠ 0 ∨ da ≠ 0 ∨ db ≠ 0 ∨ tf = 255 → exec (.fill t c dd da db gp tf sub) s = illegal) ∧
      (6 ≤ sub.toNat ∨ tf = 255 → exec (.opt t c dd da db gp tf sub) s = illegal) ∧
      (tf = 255 → exec (.mmSet t c dd da db gp tf) s = illegal) ∧
      (da ≠ 0 ∨ db ≠ 0 ∨ tf = 255 → exec (.grnMask t c dd da db gp tf) s = illegal) ∧
      (gp ≠ 0 ∨ db ≠ 0 ∨ tf = 255 → exec (.movtCopy t c dd da db gp tf) s = illegal)) ∧
    (Ready s t c { writes := [rd.toNat] } → 255 < obj.toNat ∨ rs1 ≠ 0 → exec (.tfTst t c rd rs1 obj) s = illegal) ∧
    (Ready s t c { reads := [rs1.toNat], writes := [rd.toNat] } → 255 < obj.toNat ∨ rd ≠ 0 →
      exec (.semSignal t c rd rs1 obj) s = illegal) ∧
    (Ready s t c {} →
      (31 < obj.toNat ∨ rs1 ≠ 0 ∨ rd ≠ 0 → exec (.barArrive t c rd rs1 obj) s = illegal) ∧
      (obj ≠ 0 ∨ rs1 ≠ 0 ∨ rd ≠ 0 → exec (.fenceFull t c rd rs1 obj) s = illegal ∧ exec (.ctxStop t c rd rs1 obj) s = illegal ∧
        exec (.hret t c rd rs1 obj) s = illegal ∧ exec (.bkpt t c rd rs1 obj) s = illegal))

/-- A fault of tile t, which has raised none since its last load: its record goes last on the way to the Steward with
the fault's code, data address and instruction address, severity 1 and the tile's number; every context that ran,
waited or was halted enters FAULT with no wait, one that was OFF stays OFF; the start queues are empty while accepted
operations run on; the faulted mark is set; memory, other tiles, regions and ports are as before. A fault of the issue
leaves the context's PC at the instruction. A second fault raises no record. -/
def Obligations.TileFaultEffect : Prop :=
  ∀ (s : State) (t c code daddr : Nat), c < 4 → t < 4608 → code < 256 →
    let s' := issueFault t c code s daddr
    (s'.tile t).faulted = true ∧
    (∀ d, d < 4 → (s.cx t d).st ≠ .off → (s'.cx t d).st = .fault) ∧
    (∀ d, d < 4 → (s.cx t d).st = .off → d ≠ c → (s'.cx t d).st = .off) ∧
    (∀ d, d < 4 → (s.cx t d).st ≠ .off → (s.cx t d).st ≠ .fault → (s'.cx t d).wait = none) ∧
    (∀ d, (s'.cx t d).regs = (s.cx t d).regs ∧ (s'.cx t d).pc = (s.cx t d).pc) ∧
    (∀ u, u < 5 → ((s'.tile t).unit u).queue = [] ∧ ((s'.tile t).unit u).running = ((s.tile t).unit u).running) ∧
    (∀ u, u ≠ t → s'.tile u = s.tile u) ∧ s'.mem = s.mem ∧ s'.regions = s.regions ∧ s'.ports = s.ports ∧
    s'.parts = s.parts ∧ s'.pending = s.pending ∧
    ((s.tile t).faulted = true → s'.net.recs = s.net.recs) ∧
    ((s.tile t).faulted = false → ∃ r, s'.net.recs = s.net.recs ++ [r] ∧ r.code.toNat = code ∧ r.severity = 1 ∧
      r.scope = 0 ∧ r.tile.toNat = t ∧ r.ctx.toNat = c ∧ r.iaddr = (s.cx t c).pc ∧ r.daddr.toNat = daddr % 2 ^ 47)

/-- A ready context. XSTART with unused fields 0 reads its list's gate from its own memory (a free value where a unit
is writing it) and queues its request with it; an address outside the window or not a multiple of 16 raises fault
0x02, a gate that an unposted or running list holds fault 0x09. ENL queues its request with the values of its three
registers. Both name a flag other than 255 and wait for an entry where the transfer unit's queue holds two. MSG whose
operands pass the checks of R290 takes the lowest free send slot and the next sequence number and clears its flag, or
waits for a slot. -/
def Obligations.ExchangeAndMessageStarts : Prop :=
  ∀ (s : State) (t : TileId) (c : CtxId) (ra rb rc : BitVec 5) (xfn : BitVec 11),
    let s1 := fetched t c s
    let a := rv s t c ra
    let pc := (s.cx t c).pc
    let put : StartReq → Host.Outcome State Fault Refusal := fun q =>
      .next (if 2 ≤ ((s.tile t).unit 4).queue.length then waiting t c (.queue 4) s1
        else retired t c s (s1.onUnit t 4 (fun x => { x with queue := x.queue ++ [q] })))
    (Ready s t c { reads := [ra.toNat] } → xfn.toNat < 255 →
      let l := a.toNat % 2 ^ 47
      let h := readShared l 4 s1
      let g := leNat h.1 / 2 ^ 16 % 64
      let q : StartReq := { kind := .xstart, sub := 0, ctx := c, iaddr := pc, tf := xfn.setWidth 8, a := a,
                            gate := if g = 63 then none else some g }
      (ownedResult s1 l 4 = false → h = (s.bytes l 4, s1)) ∧
      ((inOwnWindow s t a 16 = false ∨ l % 16 ≠ 0) → exec (.xstart t c ra 0 0 xfn) s = .next (issueFault t c 0x02 s1 l)) ∧
      (inOwnWindow s t a 16 = true → l % 16 = 0 → s.badIn l 4 = none →
        (g ≠ 63 → gateBusy (s.tile t) g = true → exec (.xstart t c ra 0 0 xfn) s = .next (issueFault t c 0x09 s1)) ∧
        (g = 63 ∨ gateBusy (s.tile t) g = false → exec (.xstart t c ra 0 0 xfn) s
          = .next (if 2 ≤ ((s.tile t).unit 4).queue.length then waiting t c (.queue 4) s1
            else retired t c s (h.2.onUnit t 4 (fun x => { x with queue := x.queue ++ [q] })))))) ∧
    (Ready s t c { reads := [ra.toNat, rb.toNat, rc.toNat] } →
      (∀ chip : Bool, (xfn.toNat % 1024 < 255 ∧ xfn.getLsbD 10 = chip) → exec (.enl t c ra rb rc xfn) s
        = put { kind := .enl, sub := 0, ctx := c, iaddr := pc, tf := xfn.setWidth 8, a := a, b := rv s t c rb,
                n := rv s t c rc, chip := chip }) ∧
      (xfn.toNat % 16 ≠ 15 → msgCheck s1 t a (rv s t c rb) (rv s t c rc) = none →
        (freeSend (s.tile t).mail = none → exec (.msg t c ra rb rc xfn) s = .next (waiting t c .sendSlot s1)) ∧
        (∀ k, freeSend (s.tile t).mail = some k → ∃ (s' : State) (m : SendSlot), exec (.msg t c ra rb rc xfn) s = .next s' ∧
          (s'.tile t).mail.slot k = some m ∧ m.dstTile = a.toNat % 2 ^ 13 ∧ m.q = xfn.getLsbD 10 ∧
          m.handler = xfn.extractLsb' 4 6 ∧ m.len = (rv s t c rc).toNat ∧ m.ctx = c ∧ m.iaddr = pc ∧
          m.seq = (s.tile t).mail.seq ∧ m.flag = 240 + xfn.toNat % 16 ∧ m.st = .waiting ∧ m.refusals = 0 ∧
          (s'.tile t).mail.seq = (s.tile t).mail.seq + 1 ∧ (s'.tile t).flag m.flag = false ∧ s'.mem = s.mem)))

/-- A unit of the ME, VE, Ligature unit and Grain generator that runs nothing, in a region without HOLD and a device
that has not tripped, whose head request passes its checks with a class within the reservation and whose turn it is:
START_QUEUE_ACCEPTANCE runs it. A request that fails a check raises that check's fault at its instruction, one whose
class exceeds the reservation fault 0x03, and one whose turn it is not waits. The checks see as free values what is
unspecified to them (R76). MOVT in the transfer unit is accepted so, with the list that it read, where the reservation
is above 0, and waits while the list cannot be read yet; XSTART is handed to a list engine that is free. -/
def Obligations.HeadRequestIsAccepted : Prop :=
  ∀ (s : State) (t : TileId) (unit : Fin 5) (q : StartReq) (rest : List StartReq),
    s.dev.boot.trip = false → ((s.tile t).unit unit).queue = q :: rest → ((s.tile t).unit unit).running = none →
    (unit ≠ 4 → (s.region (regionOf t)).pool.hold = false → (unit = 2 → mmOwnsLig (s.tile t) = false) →
      let v := acceptView s t q
      let s1 : State := { s with free := v.free }
      (∀ d, acceptOp v t q = .error d →
        exec (.startQueueAcceptance t unit .none) s = .next (refuseStart t q d s1)) ∧
      (∀ op, acceptOp v t q = .ok op →
        let cost := op.tokens - ((s.tile t).unit unit).draw
        ((s.tile t).un.resv.toNat < op.tokens →
          exec (.startQueueAcceptance t unit .none) s = .next (refuseStart t q (0x03, 0) s1)) ∧
        (op.tokens ≤ (s.tile t).un.resv.toNat →
          ((takeTurn t unit cost s1).1 = true →
            exec (.startQueueAcceptance t unit .none) s = .next (startOp t unit op (takeTurn t unit cost s1).2)) ∧
          ((takeTurn t unit cost s1).1 = false →
            exec (.startQueueAcceptance t unit .none) s = .next (takeTurn t unit cost (beginWaits t s1)).2)))) ∧
    (unit = 4 → q.kind = .movt → let g := gatherList t q s;
      (∀ d, g.1 = .error d → exec (.startQueueAcceptance t unit .none) s = .next (refuseStart t q d g.2)) ∧
      (g.1 = .ok none → exec (.startQueueAcceptance t unit .none) s = .next g.2) ∧
      (∀ list, g.1 = .ok (some list) →
        (∀ d, acceptMovt g.2 t q list = .error d →
          exec (.startQueueAcceptance t unit .none) s = .next (refuseStart t q d g.2)) ∧
        (∀ op, acceptMovt g.2 t q list = .ok op →
          ((g.2.tile t).un.resv = 0 →
            exec (.startQueueAcceptance t unit .none) s = .next (refuseStart t q (0x03, 0) g.2)) ∧
          ((g.2.tile t).un.resv ≠ 0 → exec (.startQueueAcceptance t unit .none) s = .next (startOp t 4 op g.2))))) ∧
    (unit = 4 → q.kind = .xstart → (s.tile t).un.handed = none → (s.tile t).un.list = none →
      exec (.startQueueAcceptance t unit .none) s
        = .next ((popQueue t 4 s).onTile t (fun x => x.onUn (fun n => { n with handed := some q }))))

/-- When unit u of tile t starts an operation, the operation runs with the request it was made from, the request has
left the head of the queue (an XSTART behind it is marked where the operation's results meet its list's header), the
tile flag the request names is clear, and every other flag is as before. -/
def Obligations.AcceptanceEffect : Prop :=
  ∀ (s : State) (t u : Nat) (op : RunOp) (rest : List StartReq), ((s.tile t).unit u).queue = op.req :: rest →
    let s' := startOp t u op s
    (∃ o, ((s'.tile t).unit u).running = some o ∧ o.req = op.req ∧ o.dC = op.dC ∧ o.dA = op.dA ∧ o.dB = op.dB ∧
      o.param = op.param ∧ o.tokens = op.tokens) ∧
    (u < 4 → ((s'.tile t).unit u).queue = rest) ∧
    (((s'.tile t).unit u).queue.map (fun q => { q with tainted := false }) = rest.map (fun q => { q with tainted := false })) ∧
    (s'.tile t).flag op.req.tf.toNat = false ∧
    (∀ g, g ≠ op.req.tf.toNat → (s'.tile t).flag g = (s.tile t).flag g)

/-- While the device has not tripped, MM_COMPLETION, VE_COMPLETION, LIG_COMPLETION and GRN_COMPLETION of a unit that
runs an operation carry out its oldest one and end it (an MM that a parity error stopped ends at its block; one with
metadata waits for a LIG operation that runs). An MM, a VE operation or a LIG whose operands read without error, every
GRN, and a MOVT with both ends on this device whose turn it is where it injects a line, whose list can be read, whose
lines wait at no slice and behind no line, and whose pieces all move, complete: the flag of the request is set, the
unit is free, and memory holds what the operation wrote. What is written, for results in one row without scales or
stochastic rounding: a VOP of R166, CVT, FILL and VTR write for each element of dd its function of the sources' scaled
values, and an MM of one block without metadata the dot product of its K-rows, started from C's value with ACC,
rounded to odd by a SPILL form; each is encoded in dd's format, and a row read back gives the codes written to it. -/
def Obligations.CompletionsEndTheOperation : Prop :=
  ∀ (s : State) (t : TileId) (op : RunOp), s.dev.boot.trip = false →
    let ends : Nat → Instr → State → Prop := fun u i e => ∃ s', exec i s = .next s' ∧
      (s'.tile t).flag op.req.tf.toNat = true ∧ ((s'.tile t).unit u).running = none ∧ (s.dev.trace.on = 0 → s'.mem = e.mem)
    let runs : Nat → Prop := fun u => ((s.tile t).unit u).running = some op ∧ ((s.tile t).unit u).tail = none
    let a := descOf op.dA
    let b := descOf op.dB
    let c := descOf op.dC
    let oneRow := c.ext1 = 1 ∧ c.ext2 = 1 ∧ 0 < c.ext0 ∧ c.scl = 0 ∧ op.tainted = false
    let written : State → (Nat → Machine.Num) → RMode → Prop := fun e value how =>
      e.mem = (c.putRaw 0 0 0 ((List.range c.ext0).map (fun i => c.format.encode how (value i))) s).mem
    (((s.tile t).unit 0).oldest = some op →
      (op.stopAt ≠ none → exec (.mmCompletion t) s = .next (endStopped t op s)) ∧
      (op.stopAt = none → ((s.tile t).unit 0).tail ≠ none ∨ mmOwnsLig (s.tile t) = false ∨ ((s.tile t).unit 2).running = none →
        exec (.mmCompletion t) s = .next (endOp t 0 op (runMm t op s)))) ∧
    (((s.tile t).unit 1).oldest = some op → op.req.kind = .opt →
      exec (.veCompletion t) s = .next (endOp t 1 op (runOpt t op s))) ∧
    (((s.tile t).unit 1).oldest = some op → op.req.kind ≠ .opt →
      exec (.veCompletion t) s = .next (endOp t 1 op (runVe t op s))) ∧
    (((s.tile t).unit 2).oldest = some op → exec (.ligCompletion t) s = .next (endOp t 2 op (runLig op s))) ∧
    (((s.tile t).unit 3).oldest = some op → exec (.grnCompletion t) s = .next (endOp t 3 op (runGrn t op s))) ∧
    (runs 0 → op.stopAt = none → badBlock s op = none →
      (mmOwnsLig (s.tile t) = false ∨ ((s.tile t).unit 2).running = none) → ends 0 (.mmCompletion t) (runMm t op s).s) ∧
    (runs 1 → op.req.kind ≠ .opt → badInRanges s op.opnd = none → ends 1 (.veCompletion t) (runVe t op s).s) ∧
    (runs 1 → op.req.kind = .opt → (runOpt t op s).fault = none → ends 1 (.veCompletion t) (runOpt t op s).s) ∧
    (runs 2 → badInRanges s (ligReads s op) = none → ends 2 (.ligCompletion t) (runLig op s).s) ∧
    (runs 3 → ends 3 (.grnCompletion t) (runGrn t op s).s) ∧
    (((s.tile t).unit 4).running = some op → movtHere s op = true →
      let ps := movtPieces s op
      let turn := if injects s t op then takeTurn t 4 1 s else (true, s)
      let r := movePieces t op ps ps 0 turn.2
      turn.1 = true → ps.any (pieceWaits s) = false → behindLines s t ps = false → listBad turn.2 op = none →
        exec (.movtCompletion t) s = .next (endMovt t op r.1 r.2.1 r.2.2) ∧
        (((s.tile t).unit 4).tail = none → r.2.1 = none → ends 4 (.movtCompletion t) r.2.2)) ∧
    (oneRow → op.stopAt = none → badBlock s op = none → c.ext0 ≤ 16 → a.mta = 0 → b.mta = 0 → a.kExt ≠ 0 →
      a.nExt = 1 → a.ext2 = 1 → b.nExt = c.ext0 → b.ext2 = 1 →
      let z : Nat → Machine.Num := fun j => if op.req.sub.toNat % 2 = 1 then ((c.elems s)[j]?).getD .zero else .zero
      let α := if a.scl = 2 ∨ b.scl = 2 then some (a.alpha.mul b.alpha) else none
      written (runMm t op s).s
        (fun j => if a.format.isInt then dotInt (numInt (z j)) (kRowValues s a 0 0) (kRowValues s b j 0)
          else dotFloat (alignBits a.fmt b.fmt) α (z j) (kRowValues s a 0 0) (kRowValues s b j 0))
        (if 2 ≤ op.req.sub.toNat then .odd else .rne)) ∧
    (oneRow → badInRanges s op.opnd = none → (veParam op.param).rnd = false →
      (∀ n acc, veClass op.req = .elem n acc → n ≤ 2 →
        let src : Nat → Desc → Nat → Machine.Num := fun k d i => if k ≤ n then ((d.elems s)[i]?).getD .zero else .zero
        written (runVe t op s).s (fun i => elemOp op.req (veParam op.param) (src 1 a i) (src 2 b i)
          (if acc then ((c.elems s)[i]?).getD .zero else .zero)) .rne) ∧
      (veClass op.req = .vtr → (a.elems s).length = c.ext0 →
        written (runVe t op s).s (fun i => vtrFn op.req.sub.toNat (((a.elems s)[i]?).getD .zero)) .rne)) ∧
    (∀ (d : Desc) (raws : List Nat), raws.length = d.ext0 →
      d.rawRow (d.putRaw 0 0 0 raws s) 0 0 = raws.map (· % 2 ^ fmtWidth d.fmt))

/-- An MM with an extent of C of zero, and an OPT over no parameters, that run alone in their unit and were not
stopped end with no byte of memory changed, no non-finite mark and their flag set, and the unit is free. -/
def Obligations.EmptyOperationsComplete : Prop :=
  ∀ (s : State) (t : TileId) (op : RunOp) (u : Nat), s.dev.boot.trip = false → s.dev.trace.on = 0 →
    ((s.tile t).unit u).running = some op → ((s.tile t).unit u).tail = none → op.stopAt = none →
    (u = 0 ∧ (blockGrid (descOf op.dC)).2.2 = 0 ∨ u = 1 ∧ op.req.kind = .opt ∧ (descOf op.dC).count = 0) →
    ∃ s', exec (if u = 0 then .mmCompletion t else .veCompletion t) s = .next s' ∧ s'.mem = s.mem ∧
      (s'.tile t).flag op.req.tf.toNat = true ∧ ((s'.tile t).unit u).running = none ∧ (s'.tile t).nf = (s.tile t).nf

/-- The state of the Grain sequence at position 0 is 0, at position p + 1 it is a times the state at p plus c modulo
2^64 with the constants of the manual, and the output at p is the low 32 bits of (S xor (S >> 31)) >> 32 rotated right
by S >> 59. -/
def Obligations.GrainSequence : Prop :=
  grainState 0 = 0 ∧
  (∀ p, p + 1 < 2 ^ 64 → grainState (p + 1) = (0x9E6C63D0876A9A4D * grainState p + 0x6A09) % 2 ^ 64) ∧
  (∀ p, p < 2 ^ 64 → let z : BitVec 64 := BitVec.ofNat 64 (grainState p)
    grainOut p = (((z ^^^ (z >>> 31)) >>> 32).setWidth 32).rotateRight (z >>> 59).toNat)

/-- HUB_OPERATION on an operation of a tile whose partition owns the flag. SET and TAS set it, CLR clears it, TST and
the waits leave it; every other flag is as before. SET and TAS answer, oldest first, every waiter for the flag to be
set, CLR every waiter for it to be clear, and then the operation itself, TST and TAS with the value that the flag had.
A wait that is satisfied is answered; one that is not, of a context that still waits, joins the waiters last. -/
def Obligations.GlobalFlagOperationsAtTheHub : Prop :=
  ∀ (s : State) (i : Nat) (o : HubOp), s.dev.boot.trip = false → s.net.hubOps[i]? = some o → o.obj < 1024 →
    ownedBy s.hub.ownGf (partOf s o.t) o.obj = true →
    let v := s.hub.gf.getLsbD o.obj
    let old : Word := if v then 1 else 0
    let woken : HubKind → List HubAns := fun k =>
      (s.hub.gfWait.filter (fun w => w.obj = o.obj ∧ w.kind = k)).map (fun w => { op := w, val := none })
    let ends : Bool → List HubAns → Prop := fun b answers => ∃ s', exec (.hubOperation i .none) s = .next s' ∧
      s'.hub.gf.getLsbD o.obj = b ∧ (∀ g, g ≠ o.obj → s'.hub.gf.getLsbD g = s.hub.gf.getLsbD g) ∧
      s'.net.hubAns = s.net.hubAns ++ answers ∧ s'.net.hubOps = dropAt i s.net.hubOps ∧ s'.tiles = s.tiles ∧
      s'.mem = s.mem ∧ s'.hub.sems = s.hub.sems ∧ s'.hub.bars = s.hub.bars
    (o.kind = .gfSet → ends true (woken .gfWait ++ [{ op := o, val := none }])) ∧
    (o.kind = .gfClr → ends false (woken .gfWaitc ++ [{ op := o, val := none }])) ∧
    (o.kind = .gfTst → ends v [{ op := o, val := some old }]) ∧
    (o.kind = .gfTas → ends true (woken .gfWait ++ [{ op := o, val := some old }])) ∧
    (o.kind = .gfWait → v = true → ends true [{ op := o, val := none }]) ∧
    (o.kind = .gfWaitc → v = false → ends false [{ op := o, val := none }]) ∧
    ((o.kind = .gfWait ∧ v = false ∨ o.kind = .gfWaitc ∧ v = true) → ((s.cx o.t o.c).wait).isSome →
      ends v [] ∧ ∃ s', exec (.hubOperation i .none) s = .next s' ∧ s'.hub.gfWait = s.hub.gfWait ++ [o])

/-- HUB_OPERATION on a semaphore of the tile's partition. SIGNAL adds its signed count; a sum below 0 raises fault
0x04 at the signaller and leaves the count, a sum above 65,535 leaves 65,535 with SAT set; then the waiters are served
strictly in order, each taking its count, up to the first that asks for more than is left, and those served are
answered in their order before the signaller. WAIT with an empty queue and a count of at least n takes n; any other
WAIT of a context that still waits joins the queue last and leaves the count. -/
def Obligations.SemaphoreOperationsAtTheHub : Prop :=
  ∀ (s : State) (i : Nat) (o : HubOp), s.dev.boot.trip = false → s.net.hubOps[i]? = some o → o.obj < 256 →
    ownedBy s.hub.ownSem (partOf s o.t) o.obj = true →
    let m := s.hub.sem o.obj
    let s0 := s.onNet (fun n => { n with hubOps := dropAt i n.hubOps })
    let sum : Int := m.count.toNat + o.n.toInt
    let ends : SemSt → List HubAns → Prop := fun m' answers => ∃ s', exec (.hubOperation i .none) s = .next s' ∧
      s'.hub.sem o.obj = m' ∧ (∀ g, g ≠ o.obj → s'.hub.sem g = s.hub.sem g) ∧ s'.net.hubAns = s.net.hubAns ++ answers ∧
      s'.tiles = s.tiles ∧ s'.mem = s.mem ∧ s'.hub.gf = s.hub.gf
    (o.kind = .semSignal →
      (sum < 0 → exec (.hubOperation i .none) s = .next (hubFault o 0x04 s0)) ∧
      (∀ served rest : List HubOp, m.queue = served ++ rest → 0 ≤ sum →
        let taken := (served.map (fun w => w.n.toNat)).foldl (· + ·) 0
        let left := (min sum 65535).toNat - taken
        taken ≤ (min sum 65535).toNat → (∀ w ∈ rest.head?, left < w.n.toNat) →
        ends { m with count := BitVec.ofNat 16 left, sat := m.sat || decide (65535 < sum), queue := rest }
          ((served ++ [o]).map (fun w => { op := w, val := none })))) ∧
    (o.kind = .semWait →
      (m.queue = [] → o.n.toNat ≤ m.count.toNat → ends { m with count := m.count - o.n } [{ op := o, val := none }]) ∧
      (m.queue ≠ [] ∨ m.count.toNat < o.n.toNat → ((s.cx o.t o.c).wait).isSome →
        ends { m with queue := m.queue ++ [o] } []))

/-- HUB_OPERATION on a READ of a semaphore of the tile's partition answers a value with the count in bits 15:0, SAT in
bit 16 and 0 in bits 63:17, and changes nothing else: not the hub, no tile, no memory. -/
def Obligations.SemaphoreReadChangesNothing : Prop :=
  ∀ (s : State) (i : Nat) (o : HubOp), s.dev.boot.trip = false → s.net.hubOps[i]? = some o → o.kind = .semRead →
    ownedBy s.hub.ownSem (partOf s o.t) o.obj = true →
    ∃ v : Word, v.extractLsb' 0 16 = (s.hub.sem o.obj).count ∧ v.getLsbD 16 = (s.hub.sem o.obj).sat ∧
      v.extractLsb' 17 47 = 0 ∧
      exec (.hubOperation i .none) s = .next (s.onNet (fun n =>
        { n with hubOps := dropAt i n.hubOps, hubAns := n.hubAns ++ [{ op := o, val := some v }] }))

/-- HUB_OPERATION on a flag or a semaphore that the tile's partition does not own raises fault 0x0A at the issuing
instruction, and the object is as before. -/
def Obligations.ForeignHubObjectsFault : Prop :=
  ∀ (s : State) (i : Nat) (o : HubOp), s.dev.boot.trip = false → s.net.hubOps[i]? = some o →
    ownedBy (if o.kind.isFlag then s.hub.ownGf else s.hub.ownSem) (partOf s o.t) o.obj = false →
    exec (.hubOperation i .none) s = .next (tileFault o.t
      { code := 0x0A, src := 8, ctx := o.c, iaddr := o.iaddr, back := !o.drop }
      (s.onNet (fun n => { n with hubOps := dropAt i n.hubOps })))

/-- HUB_ANSWER for a context that waits for that flag or semaphore: the value, if there is one, is in the register
that the operation names, an acquire empties the remote line buffer and makes the next remote LD bypass it, and the
context's wait ends with its PC past the instruction. -/
def Obligations.HubAnswerEndsTheWait : Prop :=
  ∀ (s : State) (i : Nat) (a : HubAns), s.dev.boot.trip = false → s.net.hubAns[i]? = some a → a.op.drop = false →
    (s.cx a.op.t a.op.c).st = .wait →
    ((∃ w, (s.cx a.op.t a.op.c).wait = some (.gf a.op.obj w)) ∧ a.op.kind.isFlag = true ∨
      (∃ w n, (s.cx a.op.t a.op.c).wait = some (.sem a.op.obj w n)) ∧ a.op.kind.isFlag = false) →
    ∃ s', exec (.hubAnswer i) s = .next s' ∧ (s'.cx a.op.t a.op.c).wait = none ∧
      (s'.cx a.op.t a.op.c).pc = (s.cx a.op.t a.op.c).pc + 4 ∧
      (∀ v, a.val = some v → a.op.rd ≠ 0 → (s'.cx a.op.t a.op.c).reg a.op.rd = v) ∧
      (∀ r, r ≠ a.op.rd ∨ a.val = none → (s'.cx a.op.t a.op.c).reg r = (s.cx a.op.t a.op.c).reg r) ∧
      (a.op.acq = true → (s'.tile a.op.t).rlb = [] ∧ (s'.cx a.op.t a.op.c).bypass = true) ∧
      (a.op.acq = false → (s'.tile a.op.t).rlb = (s.tile a.op.t).rlb) ∧
      s'.mem = s.mem ∧ s'.hub = s.hub ∧ (∀ u, u ≠ a.op.t → s'.tile u = s.tile u)

/-- ROW_ARRIVAL of a participant that has not arrived and carries the combiner's epoch sets its bit, and on the row's
last participant the row's arrival leaves for the hub; a tile that is no participant, has arrived or carries another
epoch raises fault 0x11. HUB_ROW_ARRIVAL marks the row; on the last row with participants a device barrier's epoch
steps by one with no row marked, and the release is due at every tile of the owner. BARRIER_RELEASE at a tile where it
is due steps the tile's epoch by one, clears its PENDING bit and is due there once less; the row combiner takes the
new epoch with no arrival where it had not taken it for an earlier tile of the row, and is else as it was. A release
of the boundary barrier also steps PHASE_STEP and clears TF255. -/
def Obligations.BarrierArrivalsAndReleases : Prop :=
  ∀ (s : State), s.dev.boot.trip = false →
    (∀ (i : Nat) (a : RowArr), s.net.rowArr[i]? = some a → firstOfTile s.net.rowArr i a.t = true →
      let y := tileY a.t
      let m := s.hub.bar a.b
      let k := Map.get {} m.comb y
      let s0 := s.onNet (fun n => { n with rowArr := dropAt i n.rowArr })
      (participates m a.t = false ∨ k.arrived.getLsbD (tileX a.t) = true ∨ a.tag ≠ k.epoch →
        exec (.rowArrival i) s = .next (tileFault a.t { code := 0x11, src := 9, ctx := a.c, iaddr := a.iaddr } s0)) ∧
      (participates m a.t = true → k.arrived.getLsbD (tileX a.t) = false → a.tag = k.epoch →
        ∃ s', exec (.rowArrival i) s = .next s' ∧ s'.tiles = s.tiles ∧ s'.mem = s.mem ∧
          Map.get {} (s'.hub.bar a.b).comb y = { k with arrived := setBit k.arrived (tileX a.t) true } ∧
          s'.net.hubRows = s.net.hubRows ++
            (if Map.get 0 m.masks y &&& ~~~(setBit k.arrived (tileX a.t) true) = 0 then [(a.b, y)] else []))) ∧
    (∀ (i b y : Nat), s.net.hubRows[i]? = some (b, y) → b < 32 → y < 72 →
      let m := s.hub.bar b
      let rows := setBit m.rows y true
      ∃ s', exec (.hubRowArrival i) s = .next s' ∧ s'.mem = s.mem ∧ s'.tiles = s.tiles ∧
        (rowsComplete { m with rows := rows } = false → (s'.hub.bar b).rows = rows ∧ (s'.hub.bar b).epoch = m.epoch) ∧
        (rowsComplete { m with rows := rows } = true → m.scope = false →
          (s'.hub.bar b).rows = 0 ∧ (s'.hub.bar b).epoch = m.epoch + 1 ∧ (s'.hub.bar b).sysWait = false ∧
          (∀ n, Map.get 0 s.hub.ownBar b = n + 1 → (s'.hub.bar b).due = m.due ++ partTiles s n)) ∧
        (rowsComplete { m with rows := rows } = true → m.scope = true →
          (s'.hub.bar b).sysWait = true ∧ (s'.hub.bar b).epoch = m.epoch ∧ s'.net.sysArr = s.net.sysArr ++
            [{ b := b, epoch := m.epoch, count := 1, port := none, src := s.dev.link.self }])) ∧
    (∀ (t : TileId) (b : Fin 32), (s.hub.bar b).due.contains t.val = true →
      let k := Map.get {} (s.hub.bar b).comb (tileY t)
      let e := Map.get 0 (s.tile t).epochs b + 1
      ∃ s', exec (.barrierRelease t b) s = .next s' ∧ s'.mem = s.mem ∧
        (s'.hub.bar b).due = (s.hub.bar b).due.erase t ∧ (s'.hub.bar b).epoch = (s.hub.bar b).epoch ∧
        (k.epoch + 1 = e → Map.get {} (s'.hub.bar b).comb (tileY t) = { arrived := 0, epoch := e }) ∧
        (k.epoch + 1 ≠ e → Map.get {} (s'.hub.bar b).comb (tileY t) = k) ∧
        (∀ y, y ≠ tileY t → Map.get {} (s'.hub.bar b).comb y = Map.get {} (s.hub.bar b).comb y) ∧
        Map.get 0 (s'.tile t).epochs b = Map.get 0 (s.tile t).epochs b + 1 ∧
        (s'.tile t).barPending.getLsbD b = false ∧
        (∀ d : Fin 32, d ≠ b → (s'.tile t).barPending.getLsbD d = (s.tile t).barPending.getLsbD d) ∧
        (isBoundary s (partOf s t) b = true → (s'.tile t).phaseStep = (s.tile t).phaseStep + 1 ∧
          (s'.tile t).flag 255 = false) ∧
        (isBoundary s (partOf s t) b = false → (s'.tile t).phaseStep = (s.tile t).phaseStep))

/-- While a port retrains or sets up a detour, SYSTEM_ARRIVAL and SYSTEM_RELEASE wait. Else SYSTEM_ARRIVAL of the
device's own arrival leaves for the head of its W-line where another device is that head, and a packet from a port
that carries another epoch, or that no count takes, is discarded and counted at that port. At the head an arrival of
its line adds its count; the last one of the line gives one sum: it leaves for the root, or is counted where the root
is here. The root adds its line's sum and the packets of the other heads; before the last device the sum stands, and
the last one starts the release with the next epoch and records it for a commit barrier. An arrival that waits at an
egress takes one of its class, destination, barrier and epoch that comes, with the sum of the counts. SYSTEM_RELEASE
goes on over the ports of its tree; then one exactly one epoch ahead of a barrier in SYSWAIT steps its epoch, and any
other is discarded and counted at its port. -/
def Obligations.SystemBarrierPackets : Prop :=
  ∀ (s : State) (i : Nat) (a : SysPkt), s.dev.boot.trip = false →
    let b := a.b
    let m := s.hub.bar b
    let self := s.dev.link.self
    let root := s.dev.link.root
    let discarded : State → State := fun s => match a.port with
      | some p => s.onPort p (fun x => { x with cnt := { x.cnt with discBar := satAdd 32 x.cnt.discBar 1 } })
      | none => s
    (holdsSys s = true → exec (.systemArrival i) s = .next s ∧ exec (.systemRelease i) s = .next s) ∧
    (holdsSys s = false → s.net.sysArr[i]? = some a →
      let s0 := s.onNet (fun n => { n with sysArr := dropAt i n.sysArr })
      let goes : Nat → Nat → State → Prop := fun dst k s1 =>
        (∀ r, originate (barPacket s1 9 dst b m.epoch.toNat k) s1 = .ok r → exec (.systemArrival i) s = .next r) ∧
        (∀ p, originate (barPacket s1 9 dst b m.epoch.toNat k) s1 = .error p →
          exec (.systemArrival i) s = .next (barUnreach b dst p s1))
      let counts : Nat → State → Prop := fun k s1 =>
        (m.rootCount + k < systemSize s → exec (.systemArrival i) s = .next (s1.onBar b (fun m => { m with rootCount := m.rootCount + k }))) ∧
        (systemSize s ≤ m.rootCount + k → ∃ s', exec (.systemArrival i) s = .next s' ∧ (s'.hub.bar b).rootCount = 0 ∧
          s'.net.sysRel = s.net.sysRel ++ [{ b := b, epoch := m.epoch + 1, count := 0, port := none, src := self }] ∧
          (∀ n d, Map.get 0 s.hub.ownBar b = n + 1 → (s.part n).commit.desc = some d → d.cbar = b →
            (s'.part n).commit.root = m.epoch + 1 ∧ (s'.part n).commit.rootOk = true) ∧ s'.tiles = s.tiles ∧ s'.mem = s.mem)
      (a.port.isSome = true → a.epoch ≠ m.epoch → exec (.systemArrival i) s = .next (discarded s0)) ∧
      (a.port = none → a.epoch = m.epoch → lineHead s ≠ self → goes (lineHead s) a.count s0) ∧
      (a.port.isSome = true → lineHead s ≠ self → exec (.systemArrival i) s = .next (discarded s0)) ∧
      (a.port = none ∨ a.epoch = m.epoch → lineHead s = self → ofMyLine s a.src = true →
        let full := s0.onBar b (fun m => { m with headCount := 0 })
        (m.headCount + a.count < dimSize s 3 →
          exec (.systemArrival i) s = .next (s0.onBar b (fun m => { m with headCount := m.headCount + a.count }))) ∧
        (dimSize s 3 ≤ m.headCount + a.count → self ≠ root → goes root (dimSize s 3) full) ∧
        (dimSize s 3 ≤ m.headCount + a.count → self = root → counts (dimSize s 3) full)) ∧
      (a.port = none ∨ a.epoch = m.epoch → lineHead s = self → ofMyLine s a.src = false →
        (self = root → counts a.count s0) ∧ (self ≠ root → exec (.systemArrival i) s = .next (discarded s0)))) ∧
    (∀ (k e n n' dst : Nat) (q q' : Packet) (l : List (Nat × Packet)), b < 256 → e < 2 ^ 32 → n + n' < 2 ^ 16 →
      q = { barPacket s 9 dst b e n with src := q.src, dl := q.dl } → q' = { barPacket s 9 dst b e n' with src := q'.src, dl := q'.dl } →
      mergeArrival (k, q') ((k, q) :: l) = (k, { q with hdr := barHdr b e (n + n') }) :: l) ∧
    (holdsSys s = false → s.net.sysRel[i]? = some a →
      let s0 := s.onNet (fun n => { n with sysRel := dropAt i n.sysRel })
      let sent := (releasePorts s0 a.port).foldl (fun s p =>
        (sendOut p false (barPacket s 10 (neighbour s p) b a.epoch.toNat 0) s).getD (barUnreach b (neighbour s p) p s)) s0
      (m.sysWait = true → a.epoch = m.epoch + 1 → exec (.systemRelease i) s = .next (epochStep b sent) ∧
        (releasePorts s0 a.port = [] → ∃ s', exec (.systemRelease i) s = .next s' ∧ (s'.hub.bar b).epoch = a.epoch ∧
          (s'.hub.bar b).sysWait = false ∧ (s'.hub.bar b).rows = 0 ∧ s'.tiles = s.tiles)) ∧
      (m.sysWait = false ∨ a.epoch ≠ m.epoch + 1 → exec (.systemRelease i) s = .next (discarded sent)))

/-- REMOTE_ACCESS_ARRIVAL of an access that no earlier one of its source to the same tile, and no earlier line over
its way, holds back, at the SRAM of a tile that is of the access's partition, or for a Nib core of its region, and
neither fenced nor clearing: a load answers the bytes and changes no memory, a store writes its bytes and is
acknowledged, an accumulation adds, and a store with fill puts its bytes into an empty word that no context awaits and
leaves it full, or is answered with fault 0x0C at a full one. At a tile that is fenced, in its clearing pass or of
another partition, or for a Nib core of another region, it is answered with fault 0x0A, and nothing is read or
written. Of a tile's state an access that writes nothing moves event counters alone. -/
def Obligations.RemoteAccessTakesEffect : Prop :=
  ∀ (s : State) (i : Nat) (r : MemReq) (t o : Nat), s.dev.boot.trip = false → s.net.reqs[i]? = some r →
    firstReq s.net.reqs i r = true → arrives s r.sent = true → s.place r.addr = .sram t o → (∀ d k x p, r.iss ≠ .far d k x p) →
    let s0 := s.onNet (fun n => { n with reqs := dropAt i n.reqs })
    let answers : State → MemRes → Prop := fun s' v => exec (.remoteAccessArrival i) s = .next s' ∧
      s'.net.answers = s.net.answers ++ [
          { req := r, res := v, sent := { no := s.net.lines, leg := r.iss.node.map (fun d => (.tile t, d)) } }] ∧ s'.net.reqs = dropAt i s.net.reqs
    let counted : State → Prop := fun s' => ∀ u, KeepsTile (s.tile u) (s'.tile u) ∧ ∀ c, s'.cx u c = s.cx u c
    let outside := (∃ k, r.iss = .nib k ∧ regionOf t ≠ k) ∨ (∀ k, r.iss ≠ .nib k) ∧ (partOf s t ≠ r.part ∨ 6 ≤ r.part)
    ((s.tile t).fenced = true ∨ (s.tile t).clearing = true ∨ outside →
      ∃ s', answers s' (.fault 0x0A r.addr) ∧ s'.mem = s.mem ∧ counted s') ∧
    ((s.tile t).fenced = false → (s.tile t).clearing = false → ¬ outside →
      (∀ d, r.op = .fillStore d → o % 8 = 0 → o < 0x10000 →
        ((s.tile t).full (o / 8) = true → ∃ s', answers s' (.fault 0x0C r.addr) ∧ s'.mem = s.mem ∧ counted s') ∧
        ((s.tile t).full (o / 8) = false → (∀ c, feWaiter (s.tile t) c (o / 8) = none) → d.length = 8 →
          ∃ s', answers s' .ack ∧ (s'.tile t).full (o / 8) = true ∧ s'.bytes r.addr 8 = d ∧
            (∀ b, b < r.addr ∨ r.addr + 8 ≤ b → s'.bytes b 1 = s.bytes b 1) ∧
            (∀ w, w ≠ o / 8 → (s'.tile t).full w = (s.tile t).full w))) ∧
      (∀ rt size acq fill, r.op = .load rt size acq fill →
        let a := if fill then r.addr / 64 * 64 else r.addr
        let n := if fill then 64 else size
        s.badIn a n = none → ownedResult s0 a n = false →
        ∃ s', answers s' (.data (s.bytes a n)) ∧ s'.mem = s.mem ∧ counted s') ∧
      (∀ d, r.op = .loadDesc d → s.badIn r.addr 32 = none → ownedResult s0 r.addr 32 = false →
        ∃ s', answers s' (.data (s.bytes r.addr 32)) ∧ s'.mem = s.mem ∧ counted s') ∧
      (∀ d, r.op = .store d → mergeBad s r.addr d.length = none →
        ∃ s', answers s' .ack ∧ s'.bytes r.addr d.length = d ∧
          ∀ b, b < r.addr ∨ r.addr + d.length ≤ b → s'.bytes b 1 = s.bytes b 1) ∧
      (∀ ty d, r.op = .acc ty d → s.badIn r.addr d.length = none → ownedResult s0 r.addr d.length = false →
        let q := accBytes ty (s.bytes r.addr d.length) d
        ∃ s', answers s' .ack ∧ s'.bytes r.addr q.1.length = q.1 ∧
          (∀ b, b < r.addr ∨ r.addr + q.1.length ≤ b → s'.bytes b 1 = s.bytes b 1) ∧
          (s'.tile t).nf.aw = ((s.tile t).nf.aw || q.2)))

/-- REMOTE_ANSWER for a context, with no earlier line over its way in flight: a load's data is in its registers, with
the line it fills in the remote line buffer and an acquire completed; a descriptor load's 32 B are in its descriptor
register; a fault in the answer is a fault of the tile at the access's instruction; the answer counts as one line
ejected at the tile (log 8); then releases and fences that waited for it go on. -/
def Obligations.RemoteAnswerReachesItsContext : Prop :=
  ∀ (s : State) (i t c : Nat) (pc : BitVec 32) (a : MemAns), s.dev.boot.trip = false → s.net.answers[i]? = some a → arrives s a.sent = true →
    a.req.iss = .ctx t c pc →
    let s0 := countLine 0x21 (some (.tile t)) (s.onNet (fun n => { n with answers := dropAt i n.answers }))
    (∀ d rt size acq, a.res = .data d → a.req.op = .load rt size acq false → d.length = size →
      exec (.remoteAnswer i) s = .next (wakeFences t (
        let s1 := s0.onCx t c (fun k => k.loadRegs rt d)
        if acq then acquire t c s1 else s1))) ∧
    (∀ d rt size, a.res = .data d → a.req.op = .load rt size false true → d.length = 64 →
      size < 64 ∨ size = 64 ∧ a.req.addr % 64 = 0 →
      exec (.remoteAnswer i) s = .next (wakeFences t (
        (s0.onTile t (fun x => x.fillLine (lineKey a.req.dev a.req.addr) d)).onCx t c (fun k =>
          k.loadRegs rt ((d.drop (a.req.addr % 64)).take size))))) ∧
    (∀ d j, a.res = .data d → a.req.op = .loadDesc j →
      exec (.remoteAnswer i) s = .next (wakeFences t (s0.onCx t c (fun k => k.setDesc j (BitVec.ofNat 256 (leNat d)))))) ∧
    (a.res = .ack → exec (.remoteAnswer i) s = .next (wakeFences t s0)) ∧
    (∀ code x, a.res = .fault code x → exec (.remoteAnswer i) s
      = .next (wakeFences t (tileFault t { code := code, daddr := x, ctx := c, iaddr := pc } s0)))

/-- HOME_SLICE_REQUEST of an access to the Bulk Store at a slice that is not BUSY: outside the share of its partition
it is answered with fault 0x0A; where the line is on its way it waits with the others; else where the line is held it
is served; otherwise a read of the line begins for it. A host's or a Nib core's request at a BUSY slice or a line on
its way is held. BULK_STORE_FILL serves all that waited for the line, in order, and then requests that were held go
on. HOST_COMPLETION of one of the 256 outstanding reads answers it with its data, or fault 0x02, after the posted
writes accepted before it have left. ROW_CLOSE and BANK_REFRESH leave the bank with no open row (that their site
operand is the package site number is the model's choice, log 75). -/
def Obligations.HomeSliceRequests : Prop :=
  ∀ (s : State), 
    (∀ (i : Nat) (r : MemReq), s.dev.boot.trip = false → s.net.slice[i]? = some r → firstReq s.net.slice i r = true →
      arrives s r.sent = true → s.place r.addr = .bulk → sliceBusy s (shareOwner s r.addr) r.addr = false →
      let s0 := s.onNet (fun n => { n with slice := dropAt i n.slice })
      let n := shareOwner s0 r.addr
      (inShare s0 r.part r.addr = false → exec (.homeSliceRequest (.flight i) .none) s
        = .next (answer r (.fault 0x0A r.addr) (noteForeign r (.fault 0x0A r.addr) s0))) ∧
      (inShare s0 r.part r.addr = true →
        (fillOf s0 (r.addr / 128) = false → held s0 n r.addr = true → exec (.homeSliceRequest (.flight i) .none) s
          = .next (answer r (atBulk true r s0).1 (atBulk true r s0).2)) ∧
        (fillOf s0 (r.addr / 128) = true → ∃ s', exec (.homeSliceRequest (.flight i) .none) s = .next s' ∧
          s'.mem = s.mem ∧ ∀ (k : Nat) (f : Fill), s.net.fills[k]? = some f → s'.net.fills[k]?
            = some (if f.line = r.addr / 128 then { f with waiting := f.waiting ++ [r] } else f)) ∧
        (held s0 n r.addr = false → fillOf s0 (r.addr / 128) = false → exec (.homeSliceRequest (.flight i) .none) s
          = .next (s0.onNet (fun k => { k with fills := k.fills ++ [{ line := r.addr / 128, waiting := [r] }] }))))) ∧
    (∀ q : SliceReq, s.dev.boot.trip = false → slicesBusy s q = true →
      exec (.homeSliceRequest q .none) s = .next (s.onNet (fun n => { n with held := n.held ++ [q] }))) ∧
    (∀ (i : Nat) (f : Fill), s.dev.boot.trip = false → s.net.fills[i]? = some f → exec (.bulkStoreFill i) s = .next (drainHeld (f.waiting.foldl (fun s r =>
      answer r (atBulk true r s).1 (atBulk true r s).2) (s.onNet (fun n => { n with fills := dropAt i n.fills }))))) ∧
    (∀ (i : Nat) (h : HostReq) (ok : Bool) (d : Bytes) (rt size : Nat), s.dev.boot.trip = false → i < 256 → s.net.hostq[i]? = some h →
      h.req.op = .load rt size false false → d.length = size →
      ∃ s', exec (.hostCompletion i ok d) s = .next s' ∧ s'.net.answers = s.net.answers ++
          [{ req := h.req, res := if ok then .data d else .fault 0x02 h.req.addr,
             sent := { no := s.net.lines, leg := h.req.iss.node.map (fun d => (nodeAt s h.req.addr, d)) } }] ∧
        s'.net.posted = s.net.posted.drop h.behind ∧
        s'.out.posted = (s.net.posted.take h.behind).reverse ++ s.out.posted ∧ s'.mem = s.mem) ∧
    (∀ (site : SiteId) (bank : Fin 16), ∀ c, c = Instr.rowClose site bank ∨ c = Instr.bankRefresh site bank →
      ∃ s', exec c s = .next s' ∧ Map.get none s'.dev.bulk.openRows (site.val * 16 + bank.val) = none ∧
        (∀ k, k ≠ site.val * 16 + bank.val → Map.get none s'.dev.bulk.openRows k = Map.get none s.dev.bulk.openRows k) ∧
        s'.mem = s.mem ∧ s'.tiles = s.tiles)

/-- LIST_ACCEPTANCE of a handed XSTART, with no list running: a list that passes its checks is posted with the
XSTART's request, the engine holds it and the handed place is free, and while it has slots it runs; otherwise the
fault of the failed check is raised at the XSTART. SEND_SLOT of a running list whose gate is open, with fewer than 16
unacknowledged and its turn admitted, sends its next SEND slot to a tile of this device: the segment stands last in
flight with the slot's bytes and the superstep's tag, and the slot joins the unacknowledged ones. -/
def Obligations.ListsArePostedAndSent : Prop :=
  ∀ (s : State) (t : TileId), s.dev.boot.trip = false →
    (∀ q, (s.tile t).un.handed = some q → (s.tile t).un.list = none →
      let rd := readList q s
      (∀ d, acceptList rd.2 t q rd.1 = .error d → exec (.listAcceptance t) s = .next (refuseStart t q d rd.2)) ∧
      (∀ l, acceptList rd.2 t q rd.1 = .ok l → ∃ s', exec (.listAcceptance t) s = .next s' ∧ (s'.tile t).un.handed = none ∧
        (l.nslots ≠ 0 → (∃ h, (s'.tile t).un.list = some { l with tainted := h }) ∧ (s'.tile t).flag q.tf.toNat = false) ∧
        (l.nslots = 0 → (s'.tile t).un.list = none ∧ (s'.tile t).flag l.req.tf.toNat = true))) ∧
    (∀ (l : RunList) (j : Nat), (s.tile t).un.list = some l → l.nextSend = some j → l.stopped = false →
      gateOpen (s.tile t) l = true → l.outstanding.length < 16 → (takeTurn t 5 1 s).1 = true →
      (l.slot j).peerDev s = s.dev.link.self → l.tainted.contains j = false →
      s.badIn (tileBase t + (l.slot j).loc) (l.slot j).len = none →
      ∃ s', exec (.sendSlot t) s = .next s' ∧ s'.net.segs = s.net.segs ++
          [{ srcDev := s.dev.link.self, srcTile := t, srcIdx := j, dstTile := (l.slot j).peer,
             tag := (s.tile t).phaseStep.setWidth 16, part := partOf s t, len := (l.slot j).len,
             data := s.bytes (tileBase t + (l.slot j).loc) (l.slot j).len,
             sent := { no := s.net.lines, leg := some (.tile t, .tile (l.slot j).peer) } }] ∧
        (s'.tile t).un.list = some { l with next := j + 1, outstanding := l.outstanding ++ [j] } ∧ s'.mem = s.mem)

/-- SEGMENT_ARRIVAL of a whole segment that no earlier line of its way holds back, from a tile of this device: a
fenced receiver refuses it with nothing changed; else where it matches a RECV slot that nothing else touches (and
tracing is off and the list's bitmap lies elsewhere) its bytes stand at the slot's destination, and where it matches
such a RECV.ACC slot whose turn has come their sums with the old bytes do; the slot counts as filled and complete with
its bitmap bit set, the list's last slot ends the list and sets its flag, and the acknowledgement leaves. Where it
matches a RECV.ACC slot whose turn has not come its bytes stand in the staging place and the slot, filled, waits.
Where it matches no slot the receiver raises fault 0x06 with the source's tile and index as its data address and the
refusal leaves. -/
def Obligations.SegmentsArrive : Prop :=
  ∀ (s : State) (i : Nat) (g : Segment), s.dev.boot.trip = false → s.net.segs[i]? = some g → g.whole = true →
    firstSeg s.net.segs i g = true → arrives s g.sent = true → g.srcDev = s.dev.link.self →
    let t := g.dstTile
    let r : SegReply := { dstDev := g.srcDev, srcTile := g.srcTile, srcIdx := g.srcIdx,
                          sent := { no := s.net.lines, leg := some (.tile t, .tile g.srcTile) } }
    ((s.tile t).fenced = true → ∃ s', exec (.segmentArrival i) s = .next s' ∧ s'.net.segRefs = s.net.segRefs ++ [r] ∧
      s'.mem = s.mem ∧ s'.tiles = s.tiles) ∧
    ((s.tile t).fenced = false → matchSlot s g = none → ∃ s', exec (.segmentArrival i) s = .next s' ∧ s'.net.segRefs = s.net.segRefs ++ [r] ∧
      (s'.tile t).faulted = true ∧ s'.mem = s.mem ∧
      ((s.tile t).faulted = false → ∃ q, s'.net.recs = s.net.recs ++ [q] ∧ q.code = 0x06 ∧ q.severity = 1 ∧ q.scope = 0 ∧
        q.tile = BitVec.ofNat 13 t ∧ q.daddr = BitVec.ofNat 47 (0x7E0000000000 + g.srcTile * 2 ^ 16 + g.srcIdx))) ∧
    (∀ (l : RunList) (j : Nat), (s.tile t).fenced = false → (s.tile t).un.list = some l →
      matchSlot s g = some j →
      let k := l.slot j
      let l' := { l with filled := l.filled ++ [j] }
      let d := tileBase t + k.loc
      let bit := tileBase t + l.bitmap + j / 8
      let completes : Bytes → Prop := fun bs => ∃ s', exec (.segmentArrival i) s = .next s' ∧ s'.net.segAcks = s.net.segAcks ++ [r] ∧
        s'.bytes d k.len = bs ∧ s'.bytes bit 1 = [BitVec.ofNat 8 (leNat (s.bytes bit 1) ||| 2 ^ (j % 8))] ∧
        (l.done.length + 1 ≠ l.nslots → (s'.tile t).un.list = some { l' with done := l.done ++ [j] }) ∧
        (l.done.length + 1 = l.nslots → (s'.tile t).un.list = none ∧ (s'.tile t).flag l.req.tf.toNat = true)
      (l.tainted.contains j = false → overlaps l' j = [] → s.dev.trace.on = 0 → k.len = g.data.length → l.done.contains j = false →
        mergeBad s bit 1 = none → j / 8 < 512 → (l.bitmap + 512 ≤ k.loc ∨ k.loc + k.len ≤ l.bitmap) →
        (k.kind = 1 → completes g.data) ∧
        (k.kind = 2 → hasTurn l' j = true → ownedByOp s d k.len = false → s.badIn d k.len = none →
          (accBytes (BitVec.ofNat 2 k.acct) (s.bytes d k.len) g.data).1.length = k.len →
          completes (accBytes (BitVec.ofNat 2 k.acct) (s.bytes d k.len) g.data).1)) ∧
      (k.kind = 2 → hasTurn { l with filled := l.filled ++ [j] } j = false →
        ∃ s', exec (.segmentArrival i) s = .next s' ∧ s'.net.segAcks = s.net.segAcks ++ [r] ∧
          s'.bytes (tileBase t + k.stage) g.data.length = g.data ∧
          (s'.tile t).un.list = some { l with filled := l.filled ++ [j], staged := l.staged ++ [j] }))

/-- With no earlier line of its way still out, SEGMENT_ACKNOWLEDGEMENT of an unacknowledged slot of a running list
that has not stopped takes it out of the 16 and completes it; SEGMENT_REFUSAL takes it out of the 16 and leaves it
incomplete; RECV_ACC_TURN of a staged slot whose turn has come and whose staging place can be read adds its lines to
the destination. -/
def Obligations.SegmentRepliesAndTurns : Prop :=
  ∀ (s : State), s.dev.boot.trip = false →
    (∀ (i : Nat) (r : SegReply) (l : RunList), s.net.segAcks[i]? = some r → arrives s r.sent = true → (s.tile r.srcTile).un.list = some l →
      l.outstanding.contains r.srcIdx = true → l.stopped = false →
      exec (.segmentAcknowledgement i) s = .next (slotDone r.srcTile r.srcIdx (onList r.srcTile (fun l =>
        { l with outstanding := l.outstanding.filter (· ≠ r.srcIdx) }) (s.onNet (fun n => { n with segAcks := dropAt i n.segAcks }))))) ∧
    (∀ (i : Nat) (r : SegReply) (l : RunList), s.net.segRefs[i]? = some r → arrives s r.sent = true → (s.tile r.srcTile).un.list = some l →
      ∃ s', exec (.segmentRefusal i) s = .next s' ∧ s'.net.segRefs = dropAt i s.net.segRefs ∧ s'.mem = s.mem ∧
        (s'.tile r.srcTile).un.list = some { l with outstanding := l.outstanding.filter (· ≠ r.srcIdx) }) ∧
    (∀ (t : TileId) (j : Nat) (l : RunList), (s.tile t).un.list = some l → l.stopped = false → l.staged.contains j = true →
      hasTurn l j = true → l.tainted.contains j = false → ownedByOp s (tileBase t + (l.slot j).stage) (l.slot j).len = false →
      s.badIn (tileBase t + (l.slot j).stage) (l.slot j).len = none →
      let l' := { l with staged := l.staged.filter (· ≠ j) }
      exec (.recvAccTurn t j) s = .next (addRecv t j l' (s.bytes (tileBase t + (l.slot j).stage) (l.slot j).len) none
        (onList t (fun _ => l') s)))

/-- MSG_INJECTION of a waiting message whose key and reservation let it, to this device: the message stands last in
flight with its header and payload and its slot is in flight. MESSAGE_HEADER_ARRIVAL from this device, no earlier line
of its way still out: a fenced or clearing receiver rejects with fault 0x0A, one without a Plate's record with 0x07; a
message too long for its queue is rejected with 0x09, a full queue refuses it, and otherwise it is acknowledged and
stands as the newest entry of its queue. -/
def Obligations.MessagesLeaveAndAreJudged : Prop :=
  ∀ (s : State), s.dev.boot.trip = false →
    (∀ (t : TileId) (k : Fin 8) (m : SendSlot), (s.tile t).mail.slot k = some m → mayInject (s.tile t).mail m = true →
      (takeTurn t 6 1 s).1 = true → m.dstDev = s.dev.link.self → m.tainted = false →
      s.badIn (tileBase t + m.payload) m.len = none →
      ∃ s', exec (.msgInjection t k) s = .next s' ∧ s'.net.msgs = s.net.msgs ++
          [{ hdr := msgHdr m s.dev.link.self t (partOf s t), dstDev := m.dstDev,
             payload := s.bytes (tileBase t + m.payload) m.len, slot := k,
             sent := { no := s.net.lines, leg := some (.tile t, .tile m.dstTile) } }] ∧
        (s'.tile t).mail.slot k = some { m with st := .inFlight } ∧ s'.mem = s.mem) ∧
    (∀ (i : Nat) (g : Message), s.net.msgs[i]? = some g → arrives s g.sent = true → (msgHeadOf g.hdr).dev = s.dev.link.self →
      let h := msgHeadOf g.hdr
      let x := s.tile h.dst
      let r : MsgReply := { hdr := g.hdr, slot := g.slot, sent := { no := s.net.lines, leg := some (.tile h.dst, .tile h.src) } }
      let rejects : BitVec 8 → Prop := fun c => ∃ s', exec (.messageHeaderArrival i) s = .next s' ∧
        s'.net.msgRejs = s.net.msgRejs ++ [{ r with code := c }] ∧ s'.mem = s.mem
      (x.clearing = true ∨ x.fenced = true → rejects 0x0A) ∧
      (x.clearing = false → x.fenced = false → x.mail.record = none → rejects 0x07) ∧
      (∀ rec, x.clearing = false → x.fenced = false → x.mail.record = some rec →
        let e := handlerEntry rec h.handler
        let q := queueGeom rec h.q
        (e.2.2 ≠ 1 → e.2.2 ≠ 2 → rejects 0x07) ∧
        (e.2.2 = 1 → payloadMax q.2.1 < h.len → rejects 0x09) ∧
        (e.2.2 = 1 → h.len ≤ payloadMax q.2.1 → q.1 ≤ (x.mail.queue h.q).entries.length →
          ∃ s', exec (.messageHeaderArrival i) s = .next s' ∧ s'.net.msgNacks = s.net.msgNacks ++ [r] ∧ s'.mem = s.mem) ∧
        (e.2.2 = 1 → h.len ≤ payloadMax q.2.1 → (x.mail.queue h.q).entries.length < q.1 →
          ∃ s' n, exec (.messageHeaderArrival i) s = .next s' ∧ s'.net.msgAcks = s.net.msgAcks ++ [r] ∧
            ((s'.tile h.dst).mail.queue h.q).entries = (x.mail.queue h.q).entries ++
              [{ idx := freeEntry (x.mail.queue h.q) q.1, hdr := g.hdr, order := n,
                 tainted := ownedByOp s (entryRange h.dst rec h.q (freeEntry (x.mail.queue h.q) q.1)).1 (16 + min h.len g.payload.length) }])))

/-- A reply that answers a slot in flight, no earlier line of its way still out: MESSAGE_ACCEPTANCE sets the message's
flag and frees the slot; NACK below 64 refusals, of a tile that has not faulted or whose messages go on after fault
0x08, counts one and leaves the slot backing off; the 64th raises fault 0x08 at the MSG with the message's data
address, drops the messages with its key, and those with other keys stay; in a tile that faulted otherwise NACK frees
the slot. That messages with other keys go on where R298 and R305 meet is the model's reading (DEDUCED, log 76).
REJECT frees the slot and raises the fault it names at the MSG, or none for code 0. RETRY of a slot that is backing
off makes it wait and tries to inject it. -/
def Obligations.MessageRepliesAtTheSender : Prop :=
  ∀ (s : State), s.dev.boot.trip = false →
    let recorded : State → Nat → SendSlot → BitVec 8 → Prop := fun s' t m code => ∃ q, s'.net.recs = s.net.recs ++ [q] ∧
      q.code = code ∧ q.severity = 1 ∧ q.tile = BitVec.ofNat 13 t ∧ q.iaddr = m.iaddr ∧
      q.daddr = BitVec.ofNat 47 (0x7D0000000000 + m.dstTile * 2 ^ 16 + m.seq.toNat)
    (∀ (i t k : Nat) (r : MsgReply) (m : SendSlot), arrives s r.sent = true →
      (s.net.msgAcks[i]? = some r → answeredSlot s r = some (t, k, m) →
        ∃ s', exec (.messageAcceptance i) s = .next s' ∧ (s'.tile t).mail.slot k = none ∧
          (m.flag < 256 → (s'.tile t).flag m.flag = true) ∧ s'.net.msgAcks = dropAt i s.net.msgAcks) ∧
      (s.net.msgNacks[i]? = some r → answeredSlot s r = some (t, k, m) →
        ((s.tile t).faulted = false ∨ (s.tile t).mail.goesOn = true →
          (m.refusals < 63 → ∃ s', exec (.nack i) s = .next s' ∧
            (s'.tile t).mail.slot k = some { m with refusals := m.refusals + 1, st := .backingOff }) ∧
          (63 ≤ m.refusals → ∃ s', exec (.nack i) s = .next s' ∧ (s'.tile t).faulted = true ∧ (s'.tile t).mail.goesOn = true ∧
            ((s.tile t).faulted = false → s.dev.trace.on = 0 → recorded s' t m 0x08) ∧
            ∀ (j : Nat) (o : SendSlot), (s.tile t).mail.slot j = some o →
              (o.key ≠ m.key → (s'.tile t).mail.slot j = some o) ∧ (o.key = m.key → (s'.tile t).mail.slot j = none))) ∧
        ((s.tile t).faulted = true → (s.tile t).mail.goesOn = false →
          ∃ s', exec (.nack i) s = .next s' ∧ (s'.tile t).mail.slot k = none)) ∧
      (s.net.msgRejs[i]? = some r → answeredSlot s r = some (t, k, m) →
        ∃ s', exec (.reject i) s = .next s' ∧ (s'.tile t).mail.slot k = none ∧
          (r.code ≠ 0 → (s'.tile t).faulted = true ∧
            ((s.tile t).faulted = false → s.dev.trace.on = 0 → recorded s' t m r.code)) ∧
          (r.code = 0 → (s'.tile t).faulted = (s.tile t).faulted))) ∧
    (∀ (t : TileId) (k : Fin 8) (m : SendSlot), (s.tile t).mail.slot k = some m → m.st = .backingOff →
      exec (.retry t k) s = .next (tryInject t k (onSend t k (some { m with st := .waiting }) s)))

/-- HANDLER_DISPATCH at a tile that has not faulted and is not fenced or clearing, whose handler context is OFF with
no message running: with no load in flight into its g1 to g4, the oldest pending message of Q1, or of Q0 where Q1 is
empty, runs; the context is at its handler's PC, in RUN or, where the tile is held, in HALT, with the payload's offset
in g1, the length in g2, the source in g3, the handler, queue, SEQ and entry in g4, and an empty remote line buffer;
its other registers keep their values. ENL_TRANSFER_START of a free branch whose partition has no chip-wide transfer
begins its oldest request. ENL_LINE_LANDING with a line that no fill or busy slice holds back, admitted and read
writes it into every target that is not clearing, and counts it; the first of several clears the flag of every such
target but the requester; before the last line the transfer goes on with the next; the last one (with tracing off)
ends it and sets the flag of every such target, and a target in its clearing pass keeps its flags and bytes. -/
def Obligations.HandlersAndTheEnlarger : Prop :=
  ∀ (s : State), s.dev.boot.trip = false →
    (∀ (t : TileId) (rec : BitVec 2176) (c : Nat) (q1 : Bool) (e : QEntry), (s.tile t).mail.record = some rec →
      (s.tile t).mail.handler = some c → (s.cx t c).st = .off → (s.tile t).mail.running = none →
      (s.tile t).clearing = false → (s.tile t).fenced = false → (s.tile t).faulted = false →
      interlocked s t c { writes := [1, 2, 3, 4] } = false →
      (q1 = true ∧ oldest (s.tile t).mail.q1 = some e ∨
        q1 = false ∧ oldest (s.tile t).mail.q1 = none ∧ oldest (s.tile t).mail.q0 = some e) →
      let h := msgHeadOf e.hdr
      ∃ s', exec (.handlerDispatch t) s = .next s' ∧ (s'.tile t).mail.running = some (q1, e.idx) ∧
        (s'.cx t c).pc = BitVec.ofNat 32 (handlerEntry rec h.handler).1 ∧
        (s'.cx t c).st = (if (s.tile t).dbg.hold then .halt else .run) ∧ (s'.tile t).rlb = [] ∧
        (s'.cx t c).reg 1 = BitVec.ofNat 64 ((queueGeom rec q1).2.2 + 64 * (queueGeom rec q1).2.1 * e.idx + 16) ∧
        (s'.cx t c).reg 2 = BitVec.ofNat 64 h.len ∧
        (let g := (s'.cx t c).reg 3;
          g.extractLsb' 0 16 = BitVec.ofNat 16 h.dev ∧ g.extractLsb' 16 13 = BitVec.ofNat 13 h.src ∧
          g.extractLsb' 29 2 = BitVec.ofNat 2 h.ctx ∧ g.extractLsb' 31 33 = 0) ∧
        (let g := (s'.cx t c).reg 4;
          g.extractLsb' 0 6 = BitVec.ofNat 6 h.handler ∧ g.getLsbD 6 = q1 ∧ g.extractLsb' 7 9 = 0 ∧
          g.extractLsb' 16 16 = BitVec.ofNat 16 h.seq ∧ (e.idx < 2 ^ 32 → g.extractLsb' 32 32 = BitVec.ofNat 32 e.idx)) ∧
        (s'.cx t c).bypass = true ∧ s'.mem = s.mem ∧
        (∀ d, d ≠ c → s'.cx t d = s.cx t d) ∧ (∀ r, 5 ≤ r → (s'.cx t c).reg r = (s.cx t c).reg r)) ∧
    (∀ (r : RegionId) (q : EnlReq) (rest : List EnlReq), (s.region r).enl.cur = none → (s.region r).enl.queue = q :: rest →
      chipWaits s r = false →
      exec (.enlTransferStart (some r)) s = .next (s.onRegion r (fun g => { g with enl := { g.enl with cur := some (q, 0), queue := rest } }))) ∧
    (∀ (q : EnlReq) (rest : List EnlReq), s.dev.root.cur = none → s.dev.root.queue = q :: rest →
      (∀ r ∈ bandOf s (partOf s q.t), (s.region r).enl.cur = none) →
      exec (.enlTransferStart none) s = .next (s.onDev (fun d => { d with root := { d.root with cur := some (q, 0), queue := rest } }))) ∧
    (∀ (b : Option RegionId) (q : EnlReq) (k : Nat) (s1 s2 : State) (d : Bytes), (branchOf s b).cur = some (q, k) →
      xferWaits s (fld q.src.toNat 0 47 + 128 * k) 128 = false → enlAdmit q s = (true, s1) → enlLine q k s1 = (.ok d, s2) → d.length = 128 →
      q.dst + 128 * q.lines ≤ 0x100000 →
      let lands : State → Prop := fun s' =>
        (∀ u ∈ enlTargets s2 q, (s2.tile u).clearing = false → s'.bytes (tileBase u + q.dst + 128 * k) 128 = d) ∧
        (∀ u, (s2.tile u).clearing = true → (s'.tile u).flags = (s2.tile u).flags) ∧
        (∀ a, (∀ u ∈ enlTargets s2 q, (s2.tile u).clearing = true ∨
            a < tileBase u + q.dst + 128 * k ∨ tileBase u + q.dst + 128 * k + 128 ≤ a) →
          s'.bytes a 1 = s2.bytes a 1)
      (k + 1 < q.lines → ∃ s', exec (.enlLineLanding b) s = .next s' ∧ (branchOf s' b).cur = some (q, k + 1) ∧ lands s' ∧
        (k = 0 → ∀ u ∈ enlTargets s2 q, u ≠ q.t → (s2.tile u).clearing = false → (s'.tile u).flag q.tf.toNat = false) ∧
        ∀ u, k ≠ 0 ∨ u = q.t → (s'.tile u).flags = (s2.tile u).flags) ∧
      (k + 1 = q.lines → s.dev.trace.on = 0 → ∃ s', exec (.enlLineLanding b) s = .next s' ∧ (branchOf s' b).cur = none ∧ lands s' ∧
        ∀ u ∈ enlTargets s2 q, (s2.tile u).clearing = false → (s'.tile u).flag q.tf.toNat = true))

/-- At a port that may train: PORT_TRAINING with the expected partner and two lanes or more brings it UP with its
lanes and sequence numbers at their start; another partner leaves it in MISMATCH, and a port whose attachment tiles
are out of service is marked down. FLIT_RECEIVED at an UP port: a flit without a codeword or with a wrong CRC is
discarded and the NAK stands; a good DATA flit out of sequence changes nothing of what was received; the expected one
whose lines leave the packet unfinished is counted and kept. NAK_REPEAT sends a standing NAK again and counts it.
LINK_STALL makes an UP port retrain, and RETRAIN_END with two lanes or more makes it UP again, else it is marked down.
DETOUR_LIVE of a port with an open first leg, with no packet on a detour of its own, makes it DETOURED. The model's
choice: sequence numbers start at 0 with 0xFFF acknowledged (logs 6, 62), LK_RXLINES counts a flit's lines when it is
accepted (19), and a mismatch's detour is live at once (17). -/
def Obligations.LinksTrainCarryAndFail : Prop :=
  ∀ (s : State) (p : PortId), s.dev.boot.trip = false →
    (∀ a : Partner, canTrain s p = true → (s.port p).noTiles = false →
      ((a.dev % 2 ^ 16 = a.dev ∧ a.dev = neighbour s p ∧ a.port = oppositePort p ∧ a.lowLatency = s.dev.link.lowLat.getLsbD p) → 2 ≤ a.lanes →
        ∃ s', exec (.portTraining p a) s = .next s' ∧ (s'.port p).st = pUp ∧ (s'.port p).lanes = min a.lanes 4 ∧
          (s'.port p).expSeq = 0 ∧ (s'.port p).acked = 0xFFF#12 ∧ (s'.port p).nbrDev = a.dev ∧ s'.mem = s.mem ∧ s'.tiles = s.tiles) ∧
      (a.dev ≠ neighbour s p ∨ a.port ≠ oppositePort p ∨ a.lowLatency ≠ s.dev.link.lowLat.getLsbD p →
        ∃ s', exec (.portTraining p a) s = .next s' ∧ (s'.port p).st = pMismatch ∧
          ((s.port p).egress = [] → (s.port p).replay = [] → s.dev.link.sysHeld = [] → s'.mem = s.mem ∧ s'.tiles = s.tiles))) ∧
    (∀ a : Partner, canTrain s p = true → (s.port p).noTiles = true →
      exec (.portTraining p a) s = .next (updateLevel (markDown p s))) ∧
    (∀ (fec : Option Nat) (b : Bytes), (s.port p).st = pUp →
      ((fec.isSome && flitCrcOk b) = false → ∃ s', exec (.flitReceived p fec b .none) s = .next s' ∧ (s'.port p).nak = true ∧
        (s'.port p).naks = (s.port p).naks + 1 ∧ (s'.port p).expSeq = (s.port p).expSeq ∧ (s'.port p).partial' = (s.port p).partial' ∧
        s'.mem = s.mem ∧ s'.tiles = s.tiles ∧ s'.net = s.net ∧ s'.hub = s.hub) ∧
      ((fec.isSome && flitCrcOk b) = true → (flitHead b).ftype = 0 →
        let h := flitHead b
        let got := Map.get [] (s.port p).partial' h.cls ++ (List.range h.lines).flatMap (flitLine b)
        (h.seq ≠ (s.port p).expSeq → ∃ s', exec (.flitReceived p fec b .none) s = .next s' ∧
          (s'.port p).expSeq = (s.port p).expSeq ∧ (s'.port p).partial' = (s.port p).partial' ∧ (s'.port p).rx = (s.port p).rx ∧
          s'.mem = s.mem ∧ s'.tiles = s.tiles ∧ s'.net = s.net) ∧
        (h.seq = (s.port p).expSeq → h.cls < 6 → 1 ≤ h.lines → h.lines ≤ 4 → packetWhole got = false →
          ∃ s', exec (.flitReceived p fec b .none) s = .next s' ∧ (s'.port p).expSeq = (s.port p).expSeq + 1 ∧
            (s'.port p).nak = false ∧ (s'.port p).heard = true ∧ (s'.port p).rx = (s.port p).rx + BitVec.ofNat 64 h.lines ∧
            Map.get [] (s'.port p).partial' h.cls = got ∧ s'.mem = s.mem ∧ s'.tiles = s.tiles))) ∧
    ((s.port p).st = pUp → (s.port p).nak = true →
      exec (.nakRepeat p) s = .next (s.onPort p (fun x => sendIdle { x with naks := x.naks + 1 }))) ∧
    ((s.port p).st = pUp → ∃ s', exec (.linkStall p) s = .next s' ∧ (s'.port p).st = pRetrain ∧
      (s'.port p).replay = (s.port p).replay ∧ s'.mem = s.mem ∧ s'.tiles = s.tiles) ∧
    (∀ (ok : Bool) (lanes : Nat), (s.port p).st = pRetrain →
      (ok = true → 2 ≤ lanes → s.dev.link.sysHeld = [] → ∃ s', exec (.retrainEnd p ok lanes) s = .next s' ∧
        (s'.port p).st = pUp ∧ (s'.port p).lanes = min lanes 4 ∧ s'.mem = s.mem ∧ s'.tiles = s.tiles) ∧
      (ok = false ∨ lanes < 2 → exec (.retrainEnd p ok lanes) s = .next (updateLevel (markDown p s)))) ∧
    (∀ g, (s.port p).st = pSetup → detourOf s p = some g → g ≠ p.val → legOpen s g = true → s.dev.link.sysHeld = [] →
      (∀ e ∈ (s.port p).egress, e.1 ≠ 5) → (∀ r ∈ (s.port p).replay, r.cls ≠ 5) →
      ∃ s', exec (.detourLive p) s = .next s' ∧ (s'.port p).st = pDetoured ∧ (s'.port p).replay = [] ∧ s'.mem = s.mem ∧
        s'.tiles = s.tiles)

/-- RD_GO by an agent of the command's partition posts a command that keeps the rules and writes nothing but its
context, refuses one that breaks them with 0x09 and one with another partition's gate or flag with 0x0A, and does
nothing without its bit. REDUCTION_START of a posted command whose gate has released begins with this device's own
segments. REDUCTION_SEGMENT: a segment that does not match the posted command is discarded with a record 0x06; a
result for the device before the chunk's owner is written to its piece's destination. REDUCTION_DONE of a command
whose results are written and whose segments are acknowledged ends it and sets its flag where it names one of the
partition, with a record 0x0A where it is another's. LK_RDNF clears the writer's own bit and refuses any other. The
model's choice: 0x0A is looked at only where 0x09 does not apply, and REDUCTION_DONE's record 0x0A (log 20); the 0x02
of LK_RDNF (log 21). -/
def Obligations.ReductionEngineRuns : Prop :=
  ∀ (s : State), s.dev.boot.trip = false →
    (∀ (w : Writer) (p : PortId) (n : PartId) (v : Word), fullRights w = false → actsFor s w n = true →
      (∀ f, w = .host f → hostServed s f = true) →
      (v.getLsbD 0 = true → rdOk s p n = true → rdOwns s n (ringOf s p n) = true → ∃ s', exec (.rdGo w p n v) s = .next s' ∧
        rdCtx s' p n = { rdCtx s p n with busy := true, done := false, nf := false, err := false, started := false, rsGot := 0,
                                          agGot := 0, agOn := false, epoch := (s.hub.bar (ringOf s p n).gate).epoch } ∧
        s'.mem = s.mem ∧ s'.tiles = s.tiles ∧ s'.hub = s.hub ∧ s'.net = s.net) ∧
      (v.getLsbD 0 = true → rdOk s p n = false →
        exec (.rdGo w p n v) s = .next (refuseWrite w 0x09 (devBase + (0x3001020 + 0x10000 * p.val + 0x100 * n.val)) s)) ∧
      (v.getLsbD 0 = true → rdOk s p n = true → rdOwns s n (ringOf s p n) = false →
        exec (.rdGo w p n v) s = .next (refuseWrite w 0x0A (devBase + (0x3001020 + 0x10000 * p.val + 0x100 * n.val)) s)) ∧
      (v.getLsbD 0 = false → exec (.rdGo w p n v) s = .next s)) ∧
    (∀ (p : PortId) (n : PartId), (rdCtx s p n).busy = true → (rdCtx s p n).started = false →
      (s.hub.bar (ringOf s p n).gate).epoch ≠ (rdCtx s p n).epoch →
      let k := ringOf s p n
      let s1 := onRd p n (fun x => { x with started := true }) s
      exec (.reductionStart p n) s = .next (if k.op = 1 then beginGather k s1 else sendChunk k false k.up s1)) ∧
    (∀ (p : PortId) (i : Nat) (q : Packet), (s.port p).rdIn[i]? = some q → ((s.port p).rdIn.take i).all (fun r => r.part ≠ q.part) = true →
      let k := ringOf s p q.part
      (6 ≤ q.part ∨ segMatches s k q = false → ∃ s' r, exec (.reductionSegment p i) s = .next s' ∧ s'.net.recs = s.net.recs ++ [r] ∧
        r.code = 0x06 ∧ r.scope = 3 ∧ r.part = BitVec.ofNat 3 q.part ∧ r.aux = BitVec.ofNat 8 p.val ∧
        (s'.port p).rdIn = dropAt i (s.port p).rdIn ∧ s'.mem = s.mem ∧ s'.tiles = s.tiles) ∧
      (q.part < 6 → segMatches s k q = true → nbit q.hdr.toNat 21 = true → k.down = fld q.hdr.toNat 22 4 →
        ∃ s', exec (.reductionSegment p i) s = .next s' ∧ (s'.port p).rdIn = dropAt i (s.port p).rdIn ∧
          s'.bytes (tileBase (k.tfirst + fld q.hdr.toNat 26 13) + k.elemAt k.doff (fld q.hdr.toNat 22 4) (fld q.hdr.toNat 39 20) k.ofmt)
            q.data.length = q.data)) ∧
    (∀ (p : PortId) (n : PartId), let x := rdCtx s p n; let k := ringOf s p n
      x.busy = true → x.started = true → (k.op = 1 ∨ k.phaseElems ≤ x.rsGot) → (k.op = 0 ∨ (x.agOn = true ∧ k.phaseElems ≤ x.agGot)) →
      ringUnacked s k.out n = false →
      ∃ s', exec (.reductionDone p n) s = .next s' ∧ (rdCtx s' p n).busy = false ∧ (rdCtx s' p n).done = true ∧
        (k.gfv = true → ownedBy s.hub.ownGf n k.gf = true → k.gf < 1024 → s'.hub.gf.getLsbD k.gf = true) ∧
        (k.gfv = true → ownedBy s.hub.ownGf n k.gf = false → s'.hub = s.hub ∧
          ∃ r, s'.net.recs = s.net.recs ++ [r] ∧ r.code = 0x0A ∧ r.scope = 3) ∧
        (k.gfv = false → s'.hub = s.hub) ∧ s'.mem = s.mem ∧ s'.tiles = s.tiles) ∧
    (∀ (w : Writer) (v : Word), writerPart s w < 6 → (∀ f, w = .host f → hostServed s f = true) →
      ((∀ k < 6, k ≠ writerPart s w → v.getLsbD k = false) →
        exec (.lkRdnfClear w v) s = .next (if v.getLsbD (writerPart s w) then s.onPart (writerPart s w) (fun p => { p with rdnf := false }) else s)) ∧
      (∀ k < 6, k ≠ writerPart s w → v.getLsbD k = true →
        exec (.lkRdnfClear w v) s = .next (refuseWrite w 0x02 (devBase + 0x3080000) s)))

/-- With no fault record waiting to be served, TIMEOUT_SCAN of a live Nib core whose partition has no halted context
times its waits, and sends a cancel for each whose time is over; otherwise nothing. WAIT_CANCEL faults a context that
still waits there unanswered with 0x05, and does nothing to another. NIB_WATCHDOG takes the region of a live core out
of service. FAULT_RECORD stores the next record, with its time where it is the device's or a link's, in the pinned
area while it holds fewer than 64, else in the ring. COUNTER_FOLD, with no duty before it due, serves a capture under
way and folds the eight counters of each of the region's tiles. PHASE_DECLARATION of a running partition, with no duty
before it due, the release at every tile, the window open and the engines idle: a valid phase whose variant fits is
declared: variant, reservations, claims and TF255 at every tile; one whose variants do not fit waits for the pool; an
invalid or unreadable one, or one with the window closed, stops the region. The model's choice: a command of a lower
duty does nothing while a higher one is due (log 1, after R375), and times come as the operand (log 7); a halted
context stops the scan (R493). -/
def Obligations.NibCoresWatchAndDeclare : Prop :=
  ∀ (s : State), s.dev.boot.trip = false →
    (∀ (r : RegionId) (ns : Nat),
      ((s.region r).nib.alive = false ∨ anyHalted s (partOfRegion s r) = true ∨ faultDue s r = true → exec (.timeoutScan r ns) s = .next s) ∧
      ((s.region r).nib.alive = true → anyHalted s (partOfRegion s r) = false → faultDue s r = false →
        ∃ s', exec (.timeoutScan r ns) s = .next s' ∧ s'.tiles = s.tiles ∧ s'.mem = s.mem ∧ s'.hub = s.hub ∧
          (s'.region r).nib.timers = (timedWaits s r).map (timerFor (s.region r).nib.timers ns) ∧
          (waitTimeout s (partOfRegion s r) = none → s'.net = s.net) ∧
          (∀ lim, waitTimeout s (partOfRegion s r) = some lim → ∀ w ∈ timedWaits s r,
            s.net.cancels.all (fun k => !(k.t == w.1 && k.c == w.2.1)) = true →
            (({ t := w.1, c := w.2.1, wait := w.2.2 } : Cancel) ∈ s'.net.cancels ↔ lim ≤ (timerFor (s.region r).nib.timers ns w).ns)))) ∧
    (∀ (i : Nat) (k : Cancel), s.net.cancels[i]? = some k →
      ((s.tile k.t).waitsFor k.c k.wait = true → answered s k.t k.c = false → (s.tile k.t).faulted = false →
        ∃ s' r, exec (.waitCancel i) s = .next s' ∧ (s'.tile k.t).faulted = true ∧ (s'.cx k.t k.c).st = .fault ∧
          s'.net.cancels = dropAt i s.net.cancels ∧ s'.net.recs = s.net.recs ++ [r] ∧ r.code = 0x05 ∧
          r.daddr = BitVec.ofNat 47 (waitAddr k.t k.wait) ∧ r.iaddr = (s.cx k.t k.c).pc ∧ s'.mem = s.mem) ∧
      ((s.tile k.t).waitsFor k.c k.wait = false ∨ answered s k.t k.c = true →
        exec (.waitCancel i) s = .next (s.onNet (fun n => { n with cancels := dropAt i n.cancels })))) ∧
    (∀ r : RegionId, (s.region r).inService = true → (s.region r).nib.alive = true →
      ∃ s', exec (.nibWatchdog r) s = .next s' ∧ (s'.region r).inService = false ∧ (s'.region r).nib.alive = false ∧
        (s'.region r).nib.stopped = true ∧ s'.dev.boot.regions.getLsbD r = false) ∧
    (∀ (i : Nat) (r : Rec), s.net.recs[i]? = some r → recReady s i r = true → policyStops s r.part.toNat = false →
      s.dev.trace.on = 0 → r.severity ≠ 4 → r.severity ≠ 5 → (r.severity ≠ 1 ∨ (s.part r.part.toNat).load.st ≠ 1) →
      let q := if r.scope = 2 ∨ r.scope = 3 then stamp s r else r
      ∃ s', exec (.faultRecord i) s = .next s' ∧ s'.net.recs = dropAt i s.net.recs ∧ s'.dev.blot.stored = s.dev.blot.stored + 1 ∧
        (s.dev.blot.pinned.length < 64 → s'.dev.blot.pinned = s.dev.blot.pinned ++ [q]) ∧
        (64 ≤ s.dev.blot.pinned.length → s'.dev.blot.pinned = s.dev.blot.pinned ∧
          Map.get none s'.dev.blot.ring s'.dev.blot.newest = some q) ∧ s'.mem = s.mem ∧ s'.tiles = s.tiles) ∧
    (∀ r : RegionId,
      ((s.region r).nib.alive = false ∨ faultDue s r = true ∨ commitDue s r = true ∨ declareDue s r = true →
        exec (.counterFold r) s = .next s) ∧
      ((s.region r).nib.alive = true → faultDue s r = false → commitDue s r = false → declareDue s r = false →
      ∃ s', exec (.counterFold r) s = .next s' ∧ s'.mem = s.mem ∧ s'.regions = s.regions ∧ s'.hub = (serveDump r s).hub ∧
        ∀ t, s'.tile t = (if 256 * r ≤ t ∧ t < 256 * r + 256 then { s.tile t with cnt := (s.tile t).cnt.fold } else s.tile t))) ∧
    (∀ (r : RegionId) (p : PlateInfo), let n := partOfRegion s r
      (s.part n).load.plate = some p → (s.part n).load.st = 2 → (s.region r).nib.alive = true → (s.region r).nib.declaring = true →
      boundaryReached s r p.boundary = true → faultDue s r = false → commitDue s r = false → s.dev.trace.on = 0 →
      ((s.region r).pool.window = false → (s.region r).nib.stopped = false →
        ∃ s', exec (.phaseDeclaration r) s = .next s' ∧ (s'.region r).nib.stopped = true) ∧
      (∀ e, readDecl s r p false (bandOf s n).length = .error e →
        ∃ s', exec (.phaseDeclaration r) s = .next s' ∧ (s'.region r).nib.stopped = true) ∧
      (∀ d, (s.region r).pool.window = true → readDecl s r p false (bandOf s n).length = .ok d →
        (chooseVariant s r (r - leadRegion s n) p.phases d.ph = none →
          ∃ s', exec (.phaseDeclaration r) s = .next s' ∧ (s'.region r).pool.waiting = true ∧ (s'.region r).nib.declaring = true ∧
            s'.tiles = s.tiles ∧ s'.mem = s.mem) ∧
        (∀ v m, chooseVariant s r (r - leadRegion s n) p.phases d.ph = some (v, m) →
          ∃ s', exec (.phaseDeclaration r) s = .next s' ∧ (s'.region r).nib.variant = v ∧ (s'.region r).nib.declaring = false ∧
            (s'.region r).pool.map = m ∧ (s'.region r).pool.reserved = mapSum m ∧ (s'.region r).pool.waiting = false ∧
            (s'.region r).rc.ts = d.ph.ts ∧ (s'.region r).rc.pr = d.ph.pr ∧
            (∀ t, 256 * r ≤ t → t < 256 * r + 256 → (s'.tile t).flag 255 = true))))

/-- AP_DECL with the region's rights in an open window latches a map that fits its pool, giving each tile its tokens,
and refuses another; without them it is refused at its writer. TBEAT_PUBLICATION moves the time on by 65,536, takes
each region's counts, and changes nothing of a tile but those event counters that count beats. POOL_PUBLICATION
publishes a fall at once, and a rise for a waiting declaration or after 15 windows above. THERMAL_READ takes the
hottest of five sensors, with the hold from 108 C down to 106 C, and trips the device at 110 C. SETPOINT_LOWERING
lowers VDD_CORE 10 mV, not below 750, for a region that waited 1 ms; SETPOINT_STEP moves it at most 10 mV toward the
plan in exchange-idle time; neither writes within 100 us of a write. FADE_MEASUREMENT counts the hours; a measurement
that is due takes the drifts in exchange-idle time, and is deferred an hour later. TIMESTAMP_WRAP and
REFCLK_TS_LOCK_CHANGE do what they say. The model's choice: time moves by 65,536 at TBEAT_PUBLICATION and the 100 us
run down there and at SETPOINT_LOWERING (log 7); when the rail may return to the plan (52); what a raise lowers pools
to, and when that ends (69). -/
def Obligations.PowerHeatAndTime : Prop :=
  ∀ (s : State),
    (∀ (w : Writer) (r : RegionId) (v : Word),
      s.dev.boot.trip = false →
      (ownsPool w r = true → (s.region r).pool.window = true → v.getLsbD 0 = true → s.dev.trace.on = 0 →
        (w = .debugger → unlockedAll s (devScope s (0x5000010 + 0x1000 * r.val)) = true) →
        let p := (s.region r).pool
        (mapSum p.map ≤ p.published → mapSum p.map ≤ p.hwBound → ∃ s', exec (.apDecl w r v) s = .next s' ∧
          (s'.region r).pool.reserved = mapSum p.map ∧ (s'.region r).pool.inForce = p.published ∧ (s'.region r).pool.window = false ∧
          (s'.region r).pool.refused = false ∧ (∀ j < 256, (s'.tile (256 * r + j)).un.resv = BitVec.ofNat 4 (fld p.map.toNat (4 * j) 4)) ∧
          s'.mem = s.mem) ∧
        (p.published < mapSum p.map ∨ p.hwBound < mapSum p.map →
          exec (.apDecl w r v) s = .next (onPool r (fun p => { p with refused := true }) s))) ∧
      (ownsPool w r = false ∨ (s.region r).pool.window = false →
        exec (.apDecl w r v) s = .next (refuseWrite w 0x02 (devBase + (0x5000010 + 0x1000 * r.val)) s))) ∧
    (∀ b h : List Nat, s.dev.boot.pwronN = true → s.dev.boot.trip = false →
      ∃ s', exec (.tbeatPublication b h) s = .next s' ∧ s'.dev.tm.time = s.dev.tm.time + 65536#48 ∧ s'.dev.tm.seq = s.dev.tm.seq + 1 ∧
        (∀ r : RegionId, (s'.region r).beats = ((s.region r).window ((b[r.val]?).getD 0) ((h[r.val]?).getD 0)).beats ∧
          (s'.region r).tbeat = ((s.region r).window ((b[r.val]?).getD 0) ((h[r.val]?).getD 0)).tbeat ∧
          (s'.region r).tbeat ≤ s'.dev.tm.tbeat) ∧ s'.mem = s.mem ∧
        (∀ t : TileId, s'.tile t = { s.tile t with cnt := { (s.tile t).cnt with evcnt := (s'.tile t).cnt.evcnt } } ∧
          ∀ n < 8, timedEvent (fld (s.tile t).cnt.evsel.toNat (8 * n) 8) = false →
            Map.get 0 (s'.tile t).cnt.evcnt n = Map.get 0 (s.tile t).cnt.evcnt n)) ∧
    (s.dev.boot.pwronN = true → s.dev.boot.trip = false → ∃ s', exec .poolPublication s = .next s' ∧ s'.mem = s.mem ∧ s'.tiles = s.tiles ∧
      ∀ r : RegionId, (s.region r).inService = true →
        let p := (s.region r).pool
        let hw := poolOf s.dev.power.setpoint (s.region r).tbeat p.tj
        let c := min (min hw s.dev.power.cap) (p.limit.getD hw)
        let q := (s'.region r).pool
        q.hwBound = hw ∧ (c ≤ p.published ∨ p.waiting = true ∨ 15 ≤ p.above → q.published = c ∧ q.above = 0) ∧
        (p.published < c → p.waiting = false → p.above < 15 → q.published = p.published ∧ q.above = p.above + 1)) ∧
    (∀ (l : List (List Int)) (e : List Int), s.dev.boot.pwronN = true → s.dev.boot.trip = false →
      ∃ s', exec (.thermalRead l e) s = .next s' ∧ s'.mem = s.mem ∧ s'.dev.power.periphery = e ∧
        (∀ r : RegionId, let t := hottest ((l[r.val]?).getD [])
          (s'.region r).pool.tj = t ∧ (s'.region r).pool.tjMax = max (s.region r).pool.tjMax t ∧
          ((s'.region r).pool.hold = true ↔ 432 ≤ t ∨ (424 < t ∧ (s.region r).pool.hold = true))) ∧
        (∀ k, trippedBy l e = some k → s'.dev.boot.trip = true ∧ s'.dev.power.tripped = true ∧ s'.dev.boot.st = 7) ∧
        (trippedBy l e = none → s'.dev.boot.trip = false)) ∧
    (∀ ns : Nat, s.dev.boot.trip = false →
      let due := ∃ r : RegionId, (s.region r).pool.waiting = true ∧ 1000000 ≤ (s.region r).pool.waitedNs + ns ∧ capBars s r = false
      ∃ s', exec (.setpointLowering ns) s = .next s' ∧ s'.mem = s.mem ∧ s'.tiles = s.tiles ∧
        (due → 750 < s.dev.power.setpoint → s.dev.power.avsWait ≤ ns →
          s'.dev.power.setpoint = min 850 (max 750 (s.dev.power.setpoint - 10)) ∧ s'.dev.power.lowered = true ∧
          s'.out.avs = min 850 (max 750 (s.dev.power.setpoint - 10)) :: s.out.avs) ∧
        (¬ due ∨ s.dev.power.setpoint ≤ 750 ∨ ns < s.dev.power.avsWait → s'.dev.power = s.dev.power ∧ s'.out = s.out)) ∧
    (s.dev.boot.trip = false → s.dev.boot.pwronN = true →
      (∀ up, exchangeIdle s = false ∨ 0 < s.dev.power.avsWait → exec (.setpointStep up) s = .next s) ∧
      (exchangeIdle s = true → s.dev.power.avsWait = 0 → s.dev.power.plan < s.dev.power.setpoint →
        exec (.setpointStep false) s = .next (sendSetpoint (max s.dev.power.plan (s.dev.power.setpoint - 10)) s)) ∧
      (exchangeIdle s = true → s.dev.power.avsWait = 0 → s.dev.power.setpoint < s.dev.power.plan → mayReturn s = true →
        let v := min s.dev.power.plan (s.dev.power.setpoint + 10)
        ∃ s', exec (.setpointStep true) s = .next s' ∧
          (fitsLimits (lowerFor v s) = true → s'.dev.power.setpoint = min 850 (max 650 v)) ∧
          (fitsLimits (lowerFor v s) = false → s'.dev.power.setpoint = s.dev.power.setpoint ∧ s'.out = s.out)) ∧
      (∀ (rows regs : List Nat) (h : Nat), let s1 := addHours h s
        ∃ s', exec (.fadeMeasurement rows regs h) s = .next s' ∧ s'.dev.power.hours = s.dev.power.hours + h ∧
        (fadeDue s1.dev.power = false → s' = s1) ∧
        (fadeDue s1.dev.power = true → exchangeIdle s = true →
          s'.dev.power.worst = hottest (rowDrifts s rows ++ regionDrifts s regs) ∧ s'.dev.power.asked = false ∧
          s'.dev.power.sinceMeasured = 0) ∧
        (fadeDue s1.dev.power = true → exchangeIdle s = false → s'.dev.power.worst = s.dev.power.worst ∧ s'.regions = s.regions ∧
          s'.dev.power.planSt = (if 25 ≤ s.dev.power.sinceMeasured + h then 2 else s.dev.power.planSt)))) ∧
    exec .timestampWrap s = .next (s.onTime (fun t => { t with time := 0, epoch := t.epoch + 1 })) ∧
    (∀ b, exec (.refclkTsLockChange b) s = .next (s.onTime (fun t => { t with locked := b })))

/-- COMMIT_STAMP after U's release, with a live lead Nib core of a running partition that has no fault record to
serve, leaves the commit stamped and sets the commit tile's flag. COMMIT_APPLY after C's release makes NEXT_STEP the
committed step and the one after it the next, with its seed; where the stamp says written the banks change over, else
a step is counted as skipped and the loss scale is halved down to its least; RDNF is clear and the step flag set.
PATROL_SCRUB of the pass's next Bulk Store line moves the pass on, the last one ending it (the order is the model's
choice, log 75), and of any line marks one that cannot be corrected. BACKGROUND_SCRUB makes the first unscrubbed
granule read zero, and nothing else. PCSAMPLE writes the four PCs and states as a trace record where sampling is on.
-/
def Obligations.CommitsScrubsAndSamples : Prop :=
  ∀ (s : State),
    (∀ (n : PartId) (d : Commit), s.dev.boot.trip = false → (s.part n).commit.desc = some d → (s.part n).load.st = 2 → leadAlive s n = true →
      faultDue s (leadRegion s n) = false →
      ((s.part n).commit.uSignal = true → ∃ s', exec (.commitStamp n) s = .next s' ∧ (s'.part n).commit.st = 2 ∧
        (s'.part n).commit.uSignal = false ∧ (d.flag < 256 → (s'.tile d.tile).flag d.flag = true)) ∧
      ((s.part n).commit.cSignal = true →
        let c := (s.part n).commit
        let ok := decide (fieldOf (nibFetch n (stampAt d (!c.active)) 32 s).1 0 32 96 8 = 1)
        ∃ s', exec (.commitApply n) s = .next s' ∧ (s'.part n).commit.committed = c.next ∧ (s'.part n).commit.next = c.next + 1 ∧
          (s'.part n).commit.seed = seedFor d.j (c.next + 1) ∧ (s'.part n).commit.st = 1 ∧ (s'.part n).commit.cSignal = false ∧
          (ok = true → (s'.part n).commit.active = !c.active ∧ (s'.part n).commit.skipped = c.skipped) ∧
          (ok = false → (s'.part n).commit.active = c.active ∧ (s'.part n).commit.skipped = c.skipped + 1 ∧
            (s'.part n).commit.lscale = cutScale d c ∧ (s'.part n).commit.run = 0) ∧
          (s'.part n).rdnf = false ∧ (d.stepFlag < 1024 → s'.hub.gf.getLsbD d.stepFlag = true))) ∧
    (∀ a : Nat, s.place a = .bulk → ∃ s', exec (.patrolScrub a .none) s = .next s' ∧ s'.mem = s.mem ∧ s'.tiles = s.tiles ∧
      (a / 128 ≠ bulkBase / 128 + s.dev.bulk.patrolAt → s'.dev.bulk.patrolAt = s.dev.bulk.patrolAt ∧
        s'.dev.bulk.patrolHours = s.dev.bulk.patrolHours) ∧
      (a / 128 = bulkBase / 128 + s.dev.bulk.patrolAt →
        (a / 128 + 1 < (bulkBase + s.dev.bulk.gib * gib) / 128 → s'.dev.bulk.patrolAt = s.dev.bulk.patrolAt + 1 ∧
          s'.dev.bulk.patrolHours = s.dev.bulk.patrolHours) ∧
        ((bulkBase + s.dev.bulk.gib * gib) / 128 ≤ a / 128 + 1 → s'.dev.bulk.patrolAt = 0 ∧ s'.dev.bulk.patrolHours = 0)) ∧
      (bulkLineBad s (a / 128) = true → (a / 128) ∈ s'.dev.bulk.badLines) ∧
      (bulkLineBad s (a / 128) = false → s'.dev.bulk.badLines = s.dev.bulk.badLines ∧ s'.net = s.net)) ∧
    (∀ g, (List.range (s.dev.bulk.gib * 1024)).find? (fun g => !isScrubbed s g) = some g →
      ∃ s', exec .backgroundScrub s = .next s' ∧ isScrubbed s' g = true ∧ s'.tiles = s.tiles ∧ s'.regions = s.regions ∧
        (∀ a, bulkBase + g * 0x100000 ≤ a → a < bulkBase + (g + 1) * 0x100000 → s'.bytes a 1 = [0#8]) ∧
        (∀ a, a < bulkBase + g * 0x100000 ∨ bulkBase + (g + 1) * 0x100000 ≤ a → s'.bytes a 1 = s.bytes a 1)) ∧
    (∀ t : TileId, s.dev.boot.trip = false →
      (s.dev.trace.sample = 0 → exec (.pcsample t) s = .next s) ∧
      (s.dev.trace.sample ≠ 0 → exec (.pcsample t) s = .next (traceTile t 1 0 0xFFFFFFFF
        ([0, 1, 2, 3].flatMap (fun c => toBytes ((s.tile t).cx c).pc.toNat 4)
          ++ [0, 1, 2, 3].map (fun c => BitVec.ofNat 8 (((s.tile t).cx c).st.code + ((s.tile t).cx c).waitInfo.1 * 8))) s)))

/-- A write of a tile's register that R102 permits: RLB_INV with bit 0 empties the remote line buffer; TF_VALUE clears
and TF_SET sets exactly the flags written as ones; NF clears the bits written as ones; EVSEL keeps defined codes and
zeroes a counter whose selector changes. GF_SET and GF_CLR by an agent that sees every flag named set and clear
exactly those; SEM_WRITE writes the count and may clear SAT. RC_CTL starts its operation where none runs, and its end
has done every set that was left and serves what the slice held. A served function reads a tile's register block where
it acts for the tile's partition, and no fenced or clearing tile's. INT_CAUSE_CLEAR and INT_MASK_WRITE of a served
function page, TRANSLATION_INSTALL of a well-formed entry, and REGISTER_WRITE do the write they name. One that a rule
bars is refused at its writer with the rule's code and changes nothing else; a debugger's outside what is unlocked has
no effect; after a thermal trip none has. -/
def Obligations.RegisterCommandsTakeEffect : Prop :=
  ∀ (s : State), s.dev.boot.trip = false →
    let may : Writer → Nat → Prop := fun w o => match w with
      | .host f => hostServed s f = true ∧ fnPart s f ≠ 7
      | .debugger => unlockedAll s (devScope s o) = true
      | _ => True
    (∀ (w : Writer) (t : TileId) (v : Word),
      (∀ o code, blockWriteFault s w t o v = some code →
        (o = 0x058 → exec (.rlbInv w t v) s = .next (refuseWrite w code (regBase + t * 0x1000 + o) s)) ∧
        (∀ n : Fin 4, o = 0x100 + 8 * n.val → exec (.tfValueClear w t n v) s = .next (refuseWrite w code (regBase + t * 0x1000 + o) s)) ∧
        (∀ n : Fin 4, o = 0x120 + 8 * n.val → exec (.tfSetWrite w t n v) s = .next (refuseWrite w code (regBase + t * 0x1000 + o) s)) ∧
        (o = 0x050 → exec (.nfClear w t v) s = .next (refuseWrite w code (regBase + t * 0x1000 + o) s)) ∧
        (o = 0x240 → exec (.evselWrite w t v) s = .next (refuseWrite w code (regBase + t * 0x1000 + o) s))) ∧
      (blockWriteFault s w t 0x058 v = none → ∃ s', exec (.rlbInv w t v) s = .next s' ∧ s'.mem = s.mem ∧ s'.hub = s.hub ∧
        (s'.tile t).rlb = (if v.getLsbD 0 then [] else (s.tile t).rlb) ∧ (∀ u, u ≠ t.val → s'.tile u = s.tile u)) ∧
      (∀ n : Fin 4, blockWriteFault s w t (0x100 + 8 * n.val) v = none → ∃ s', exec (.tfValueClear w t n v) s = .next s' ∧ s'.mem = s.mem ∧
        s'.hub = s.hub ∧ (∀ u, u ≠ t.val → s'.tile u = s.tile u) ∧
        ∀ f < 256, (s'.tile t).flag f = (if f / 64 = n.val ∧ v.getLsbD (f % 64) = true then false else (s.tile t).flag f)) ∧
      (∀ n : Fin 4, blockWriteFault s w t (0x120 + 8 * n.val) v = none → ∃ s', exec (.tfSetWrite w t n v) s = .next s' ∧ s'.mem = s.mem ∧
        s'.hub = s.hub ∧ (∀ u, u ≠ t.val → s'.tile u = s.tile u) ∧
        ∀ f < 256, (s'.tile t).flag f = (if f / 64 = n.val ∧ v.getLsbD (f % 64) = true then true else (s.tile t).flag f)) ∧
      (blockWriteFault s w t 0x050 v = none → exec (.nfClear w t v) s = .next (s.onTile t (fun x =>
        { x with nf := { x.nf with nf := x.nf.nf && !v.getLsbD 0, aw := x.nf.aw && !v.getLsbD 1 } }))) ∧
      (blockWriteFault s w t 0x240 v = none → ∃ s', exec (.evselWrite w t v) s = .next s' ∧ s'.mem = s.mem ∧
        (s'.tile t).flags = (s.tile t).flags ∧ ∀ n < 8,
          let k := fld v.toNat (8 * n) 8
          let e := if eventDefined k then k else 0
          fld (s'.tile t).cnt.evsel.toNat (8 * n) 8 = e ∧
          Map.get 0 (s'.tile t).cnt.evcnt n = (if fld (s.tile t).cnt.evsel.toNat (8 * n) 8 = e then Map.get 0 (s.tile t).cnt.evcnt n else 0))) ∧
    (∀ (w : Writer) (n : Fin 16) (v : Word), may w (0x80 + 8 * n.val) → may w (0x100 + 8 * n.val) →
      let m := ownMask s w s.hub.ownGf (64 * n.val) 64
      (byTile w = false → m ≠ 0 → v.toNat &&& m = v.toNat →
        (∃ s', exec (.gfSetRegister w n v) s = .next s' ∧ s'.mem = s.mem ∧ s'.tiles = s.tiles ∧ s'.hub.sems = s.hub.sems ∧
          ∀ f < 1024, s'.hub.gf.getLsbD f = (s.hub.gf.getLsbD f || (decide (f / 64 = n.val) && v.getLsbD (f % 64)))) ∧
        (∃ s', exec (.gfClrRegister w n v) s = .next s' ∧ s'.mem = s.mem ∧ s'.tiles = s.tiles ∧ s'.hub.sems = s.hub.sems ∧
          ∀ f < 1024, s'.hub.gf.getLsbD f = (s.hub.gf.getLsbD f && !(decide (f / 64 = n.val) && v.getLsbD (f % 64))))) ∧
      (byTile w = true ∨ m = 0 ∨ v.toNat &&& m ≠ v.toNat →
        exec (.gfSetRegister w n v) s = .next (refuseWrite w 0x0A (devBase + (0x80 + 8 * n.val)) s) ∧
        exec (.gfClrRegister w n v) s = .next (refuseWrite w 0x0A (devBase + (0x100 + 8 * n.val)) s))) ∧
    (∀ (w : Writer) (n : Fin 256) (v : Word), may w (0x1800 + 8 * n.val) →
      (byTile w = false → ownMask s w s.hub.ownSem n.val 1 ≠ 0 → (s.hub.sem n).queue = [] →
        ∃ s', exec (.semWrite w n v) s = .next s' ∧ (s'.hub.sem n).count = v.setWidth 16 ∧
          (s'.hub.sem n).sat = ((s.hub.sem n).sat && !v.getLsbD 16) ∧ (∀ k, k ≠ n.val → s'.hub.sem k = s.hub.sem k) ∧
          s'.hub.gf = s.hub.gf ∧ s'.mem = s.mem ∧ s'.tiles = s.tiles) ∧
      (byTile w = true ∨ ownMask s w s.hub.ownSem n.val 1 = 0 →
        exec (.semWrite w n v) s = .next (refuseWrite w 0x0A (devBase + (0x1800 + 8 * n.val)) s))) ∧
    (∀ (w : Writer) (r : RegionId), may w (0x1000030 + 0x1000 * r.val) →
      sliceFenced s w r = false → ownsSlice s w r = true →
      let begun : RcOp → State := fun op => s.onRc r (fun c => match c.busy with | some _ => c | none => { c with busy := some op })
      exec (.rcCtlFlush w r) s = .next (begun .flush) ∧ exec (.rcCtlInval w r) s = .next (begun .inval) ∧
      exec (.rcCtlZero w r) s = .next (begun .zero)) ∧
    (∀ (n : Fin 16) (k : Fin 256) (r : RegionId) (o : Nat) (v : Word), unlockedAll s (devScope s o) = false →
      (o = 0x80 + 8 * n.val → exec (.gfSetRegister .debugger n v) s = .next s) ∧
      (o = 0x100 + 8 * n.val → exec (.gfClrRegister .debugger n v) s = .next s) ∧
      (o = 0x1800 + 8 * k.val → exec (.semWrite .debugger k v) s = .next s) ∧
      (o = 0x1000030 + 0x1000 * r.val → exec (.rcCtlFlush .debugger r) s = .next s)) ∧
    (∀ (r : RegionId) (op : RcOp), (s.region r).rc.busy = some op →
      let left := fun (x : CLine) => (s.region r).rc.scan ≤ x.set ∧ x.set < 512
      let s' := scanEnd r s
      exec (.rcCtlBusyEnd r) s = .next (drainHeld s') ∧ (s'.region r).rc.busy = none ∧ (s'.region r).rc.scan = 0 ∧
      (op ≠ .flush → ∀ x ∈ (s'.region r).rc.lines, ¬ left x) ∧ (op = .zero → s'.mem = s.mem) ∧
      (op = .flush → ∀ x ∈ (s'.region r).rc.lines, left x → x.dirty = true → x.poisoned = true)) ∧
    (∀ (f : FnId) (v : Word), pageServed s f = true →
      exec (.intCauseClear f v) s = .next (s.onFn f (fun x => { x with cause := x.cause &&& ~~~(v.setWidth 8) })) ∧
      (∃ s', exec (.intMaskWrite f v) s = .next s' ∧ (s'.fn f).mask = v.setWidth 8 ∧ (s'.fn f).cause = (s.fn f).cause ∧ s'.mem = s.mem)) ∧
    (∀ (f : FnId) (k : Fin 256) (low : Word) (n : Nat), tableOf s f = some n → fld low.toNat 3 9 = 0 →
      (Map.get 0#64 (s.part n).transHi k).toNat ≤ 16777216 →
      ∃ s', exec (.translationInstall f k low) s = .next s' ∧ s'.mem = s.mem ∧ s'.tiles = s.tiles ∧
        Map.get 0 (s'.part n).trans k = BitVec.ofNat 128 (low.toNat + (Map.get 0#64 (s.part n).transHi k).toNat * 2 ^ 64) ∧
        (∀ j, j ≠ k.val → Map.get 0 (s'.part n).trans j = Map.get 0 (s.part n).trans j)) ∧
    (∀ (f : FnId) (t : TileId) (o : Nat), hostServed s f = true → o % 8 = 0 → o < 0x1000 →
      readBar0 s f (0x1000000 + t * 0x1000 + o) =
        if actsFor s (.host f) (partOf s t) = true ∧ (s.tile t).fenced = false ∧ (s.tile t).clearing = false
        then some (blockWord s t o).toNat else none) ∧
    (∀ (w : Writer) (a : Nat) (v : Word),
      (∀ t o, s.place a = .block t o → a % 8 = 0 → exec (.registerWrite w (.loc a) v) s = .next (writeBlock w t o v s)) ∧
      (∀ o, s.place a = .devreg o → a % 8 = 0 → exec (.registerWrite w (.loc a) v) s = .next (writeDev w o v s)) ∧
      (a % 8 ≠ 0 → exec (.registerWrite w (.loc a) v) s = .next (refuseWrite w 0x02 a s)) ∧
      (∀ f : FnId, w = .host f → pageServed s f = true → a % 8 = 0 → 0x1000 ≤ a → a < 0x1800 →
        exec (.registerWrite w (.bar0 a) v) s =
          .next (s.onFn f (fun x => { x with mbReq := Map.fill 0#8 x.mbReq (a - 0x1000) (toBytes v.toNat 8) })))) ∧
    (∀ (x : State) (w : Writer) (t : TileId) (i : Fin 4) (n : Fin 16) (k : Fin 256) (r : RegionId) (v : Word), x.dev.boot.trip = true →
      exec (.rlbInv w t v) x = .next x ∧ exec (.tfValueClear w t i v) x = .next x ∧ exec (.tfSetWrite w t i v) x = .next x ∧
      exec (.nfClear w t v) x = .next x ∧ exec (.evselWrite w t v) x = .next x ∧ exec (.gfSetRegister w n v) x = .next x ∧
      exec (.gfClrRegister w n v) x = .next x ∧ exec (.semWrite w k v) x = .next x ∧ exec (.rcCtlFlush w r) x = .next x ∧
      exec (.rcCtlInval w r) x = .next x ∧ exec (.rcCtlZero w r) x = .next x)

/-- With the tile's partition open to a debugger: DBG_HALT of a tile with no locked sequence halts every context in
RUN or WAIT, whose wait stays, and holds the tile; one with a locked sequence waits for it, and HALT_TAKES_EFFECT
halts the rest once none is left. DBG_RESUME brings a context from HALT back to its wait, or to RUN; DBG_STEP does so
for one halted context and marks it for one instruction. PARTITION_HALT, plain or forced, and PARTITION_RESUME do the
same for every tile of the partitions named, and nothing where one of them is not open. Without the unlock nothing
happens. DEBUG_ACCESS with OP 0 does nothing. On an open path OP 1 reads the debug address and holds the data, OP 2
writes it, each with ERR where the access does not succeed, and the reserved OP marks ERR; a window keeps the address.
A closed TAP does nothing, and a closed window of a function that exists in D0 refuses the write of its address
(R517). EVENT_INPUT of 100 ns or more, where enabled, does what it is set to. -/
def Obligations.DebuggerHaltsAndSteps : Prop :=
  ∀ (s : State), s.dev.boot.trip = false →
    let still : State → TileId → Prop := fun s' t => s'.mem = s.mem ∧ ∀ c < 4, (s'.cx t c).wait = (s.cx t c).wait ∧
      (s'.cx t c).pc = (s.cx t c).pc ∧ (s'.cx t c).regs = (s.cx t c).regs
    let stopped : Ctx → CtxSt := fun k => if k.st = .run ∨ k.st = .wait then .halt else k.st
    let back : Ctx → CtxSt := fun k => match k.wait with | none => .run | some (.fe _ _ _) => .run | some _ => .wait
    let plainHalt : State → TileId → Prop := fun s' t => (s'.tile t).dbg.hold = true ∧ still s' t ∧
      (haltWaits s t = false → (s'.tile t).dbg.waiting = false ∧ ∀ c < 4, (s'.cx t c).st = stopped (s.cx t c)) ∧
      (haltWaits s t = true → (s'.tile t).dbg.waiting = true ∧ ∀ c < 4,
        (s'.cx t c).st = if lockedOp s t c = true then (s.cx t c).st else stopped (s.cx t c))
    (∀ (w : Writer) (t : TileId), mayDebug s w (partOf s t) = true →
      (∃ s', exec (.dbgHalt w t false) s = .next s' ∧ plainHalt s' t ∧ s'.hub = s.hub ∧ s'.net = s.net ∧
        (∀ u, u ≠ t.val → s'.tile u = s.tile u)) ∧
      (∃ s', exec (.dbgHalt w t true) s = .next s' ∧ (s'.tile t).dbg.hold = true ∧ (s'.tile t).dbg.forced = true ∧
        ∀ c < 4, (s'.cx t c).st ≠ .run ∧ (s'.cx t c).st ≠ .wait) ∧
      (∃ s', exec (.dbgResume w t) s = .next s' ∧ (s'.tile t).dbg.hold = false ∧ s'.mem = s.mem ∧ (∀ u, u ≠ t.val → s'.tile u = s.tile u) ∧
        ∀ c < 4, (s.cx t c).st = .halt → (s'.cx t c).st = back (s.cx t c)) ∧
      (∀ c : CtxId, (s.cx t c).st = .halt → ∃ s', exec (.dbgStep w t c) s = .next s' ∧ (s'.cx t c).st = back (s.cx t c) ∧
        (s'.cx t c).stepGrant = true ∧ (s'.cx t c).pc = (s.cx t c).pc ∧ (s'.cx t c).regs = (s.cx t c).regs ∧ s'.mem = s.mem ∧
        (∀ d, d ≠ c.val → s'.cx t d = s.cx t d) ∧ (∀ u, u ≠ t.val → s'.tile u = s.tile u) ∧
        ((s.cx t c).wait = none →
          exec (.dbgStep w t c) s = .next (s.onCx t c (fun k => { k with st := .run, haltedInWait := false, stepGrant := true }))))) ∧
    (∀ (w : Writer) (t : TileId) (c : CtxId) (b : Bool), mayDebug s w (partOf s t) = false →
      exec (.dbgHalt w t b) s = .next s ∧ exec (.dbgResume w t) s = .next s ∧ exec (.dbgStep w t c) s = .next s) ∧
    (∀ t : TileId, (s.tile t).dbg.waiting = true → haltWaits s t = false →
      ∃ s', exec (.haltTakesEffect t) s = .next s' ∧ (s'.tile t).dbg.waiting = false ∧ still s' t ∧
        ∀ c < 4, (s'.cx t c).st = stopped (s.cx t c)) ∧
    (∀ (w : Writer) (m : BitVec 6) (b : Bool),
      ((maskParts m).all (mayDebug s w) = false → exec (.partitionHalt w m b) s = .next s ∧ exec (.partitionResume w m) s = .next s) ∧
      ((maskParts m).all (mayDebug s w) = true →
        (∃ s', exec (.partitionHalt w m false) s = .next s' ∧ s'.hub = s.hub ∧ s'.net = s.net ∧
          ∀ n ∈ maskParts m, ∀ t : TileId, t.val ∈ partTiles s n → plainHalt s' t) ∧
        (∃ s', exec (.partitionHalt w m true) s = .next s' ∧ ∀ n ∈ maskParts m, ∀ t ∈ partTiles s n,
          (s'.tile t).dbg.hold = true ∧ ∀ c < 4, (s'.cx t c).st ≠ .run ∧ (s'.cx t c).st ≠ .wait) ∧
        (∃ s', exec (.partitionResume w m) s = .next s' ∧ s'.mem = s.mem ∧ ∀ n ∈ maskParts m, ∀ t ∈ partTiles s n,
          (s'.tile t).dbg.hold = false ∧ ∀ c < 4, (s'.cx t c).st ≠ .halt))) ∧
    (∀ (p : DbgPath) (op : BitVec 2) (a d : Word),
      exec (.debugAccess p 0 a d) s = .next s ∧
      (pathOpen s p = true →
        let s0 := match p with
          | .jtag => s
          | .window f => s.onTrace (fun t => { t with dbgwAddr := Map.set 0 t.dbgwAddr f.val a })
        (∀ x s1, dbgAccess p a.toNat none s0 = (x, s1) → ∃ s', exec (.debugAccess p 1 a d) s = .next s' ∧
          s'.mem = s1.mem ∧ s'.tiles = s1.tiles ∧ s'.hub = s1.hub ∧ Map.get false s'.dev.trace.dbgErr (dbgNum p) = x.isNone ∧
          (∀ v, x = some v → Map.get 0 s'.dev.trace.dbgData (dbgNum p) = v)) ∧
        (∀ x s1, dbgAccess p a.toNat (some d) s0 = (x, s1) → ∃ s', exec (.debugAccess p 2 a d) s = .next s' ∧
          s'.mem = s1.mem ∧ s'.tiles = s1.tiles ∧ s'.hub = s1.hub ∧ Map.get false s'.dev.trace.dbgErr (dbgNum p) = x.isNone) ∧
        (∃ s', exec (.debugAccess p 3 a d) s = .next s' ∧ Map.get false s'.dev.trace.dbgErr (dbgNum p) = true ∧ s'.mem = s.mem ∧
          s'.tiles = s.tiles)) ∧
      (pathOpen s p = false → op ≠ 0 → ∃ s', exec (.debugAccess p op a d) s = .next s' ∧ s'.mem = s.mem ∧ s'.tiles = s.tiles ∧
        s'.hub = s.hub ∧ s'.dev.trace = s.dev.trace ∧ (p = .jtag → s' = s) ∧
        (∀ f : FnId, p = .window f → fnExists s f = true → (s.fn f).d3 = false →
          { fn := f.val, write := true, bar := 0, off := 0x10000, len := 8 } ∈ s'.dev.pcie.aer))) ∧
    (∀ ns : Nat, s.dev.boot.pwronN = true → 100 ≤ ns → s.dev.trace.evIn.getLsbD 7 = true → s.dev.trace.evOut.getLsbD 7 = false →
      let e := s.dev.trace.evIn
      let n := s.dev.trace.part
      exec (.eventInput ns) s = .next (
        let s := if e.getLsbD 0 then triggerTrace s else s
        let s := if e.getLsbD 1 then haltPart false n s else s
        if e.getLsbD 2 then startDump s else s))

/-- IDP_READ, IDP_WRITE, BLOCK_READ, BLOCK_WRITE, SUBSCRIBE and UNSUBSCRIBE: a path that takes no request does nothing
with it; a repeat gets the stored answer again; any other is carried out. Carried out: READ answers the entry's value;
a barred write answers its status and writes nothing; an allowed one writes the value and answers OK, or PENDING and
stands among the outstanding; BLOCK_READ answers the value's bytes, BLOCK_WRITE puts bytes into it; SUBSCRIBE adds a
subscription while there are fewer than 32; UNSUBSCRIBE removes it. NOTIFY queues a changed value whose interval has
passed, once. IDP_FINAL_ANSWER sends the final status; that of a capture or a time measurement ends it.
TRANSMIT_OPPORTUNITY with PLCA status OK sends up to a burst of the queued frames that may leave. PLCA_STATUS_CHANGE
and IGNORED_FRAME do what they say. The model's choice: a BLOCK_READ at another offset is no repeat (log 57);
BLOCK_WRITE of a readable BLOB replaces bytes of its value (35); a second SUBSCRIBE replaces the first, a NOTIFY has
its TXN, and a queued one that may no longer leave is dropped (58); what serves a capture by its final answer (28),
and when a measurement ends (30). -/
def Obligations.DictionaryRequests : Prop :=
  ∀ (s : State),
    (∀ (h : ReqHdr) (i : BitVec 16) (k : BitVec 8) (d : Bytes), isDoorbell h.path = false →
      let run : Req → Res := fun r => .next (if hears s r.path = false then s else match storedAnswer s r with
        | some a => deliver a (heard s r.path)
        | none => respond none r (heard s r.path))
      exec (.idpRead h i k) s = run (plainReq h 1 i k []) ∧ exec (.idpWrite h i k d) s = run (plainReq h 2 i k d) ∧
      (∀ c l o, exec (.blockRead h i k c l o) s = run
        { path := h.path, ver := h.ver, op := 3, txn := h.txn, index := i, sub := k, count := c, length := l.toNat, offset := o,
          data := [] }) ∧
      (∀ o, exec (.blockWrite h i k o d) s = run { plainReq h 4 i k d with offset := o }) ∧
      exec (.subscribe h i k d) s = run (plainReq h 5 i k d) ∧ exec (.unsubscribe h i k) s = run (plainReq h 6 i k [])) ∧
    (∀ (r : Req) (idx : Nat) (m : Option Nat) (e : EntryRow), Asked s r idx m e →
      let s0 := heard s r.path
      let sub := r.sub.toNat
      let s1 := prepareRead idx sub s0
      let v := readEntry s1 m idx sub
      (r.op = 1 → e.acc ≠ .wo → v.length ≤ 1484 → r.length = 0 → respond none r s0 = settled r 0 v s1) ∧
      (r.op = 2 → ∀ c, writeBar s0 r m idx e = some c → respond none r s0 = settled r c [] s0) ∧
      (r.op = 2 → writeBar s0 r m idx e = none →
        (∀ s2, writeEntry none s0 m idx sub r.data = .done s2 → respond none r s0 = settled r 0 [] s2) ∧
        (∀ c s2, writeEntry none s0 m idx sub r.data = .pend c s2 → respond none r s0 = settled r 1 [] (s2.onMgmt (fun g =>
          { g with pend := g.pend ++ [{ path := r.path, op := r.op + 0x80, txn := r.txn, index := r.index, sub := r.sub, offset := 0,
                                        final := BitVec.ofNat 8 c }] })))) ∧
      (r.op = 3 → r.count = 1 → r.offset = 0 → e.acc ≠ .wo → r.length ≤ v.length →
        ∃ s2, respond none r s0 = settled r 0 (v.take r.length) s2 ∧ s2.mem = s.mem ∧ s2.parts = s.parts) ∧
      (r.op = 4 → writeBar s0 r m idx e = none → r.length ≠ 0 → idx ≠ 0x2D00 → e.acc ≠ .wo →
        ∀ s2, writeEntry none s0 m idx sub (splice (readEntry s0 m idx sub) r.offset.toNat r.data) = .done s2 →
          respond none r s0 = settled r 0 [] s2) ∧
      (∀ src, r.path = .mgmt src →
        (r.op = 5 → e.acc ≠ .wo → r.length = 4 → r.data.drop 2 = [0#8, 0#8] → (readEntry s0 m idx sub).length ≤ 1484 →
          s.dev.mgmt.subs.length < 32 → ∃ s2, respond none r s0 = settled r 0 [] s2 ∧
            s2.dev.mgmt.subs = s.dev.mgmt.subs.filter (fun y => !y.keyed src r) ++
              [{ src := src, txn := r.txn, index := r.index, sub := r.sub, ms := leNat (r.data.take 2), last := timeNow s, value := readEntry s0 m idx sub }]) ∧
        (r.op = 6 → r.length = 0 → ∃ s2, respond none r s0 = settled r 0 [] s2 ∧
          s2.dev.mgmt.subs = s.dev.mgmt.subs.filter (fun y => !y.keyed src r)))) ∧
    (∀ (i : Nat) (x : Sub), s.dev.mgmt.subs[i]? = some x → s.dev.boot.pwronN = true →
      let due := x.current s ≠ x.value ∧ x.last + 1000000 * x.ms ≤ timeNow s ∧ s.dev.mgmt.queue.any x.sends = false
      (due → exec (.notify i) s = .next (s.onMgmt (fun g => { g with queue := g.queue ++
        [{ path := .mgmt x.src, op := 0xC0, txn := x.txn, index := x.index, sub := x.sub, status := 0, data := x.current s }] }))) ∧
      (¬ due → exec (.notify i) s = .next s)) ∧
    (∀ (i : Nat) (q : IdpPend), s.dev.mgmt.pend[i]? = some q → s.dev.boot.pwronN = true → q.final ≠ 0xFF →
      ∃ s', exec (.idpFinalAnswer i) s = .next s' ∧ s'.dev.mgmt.pend = dropAt i s.dev.mgmt.pend ∧ s'.mem = s.mem ∧
        (∀ src, q.path = .mgmt src → q.drop = false → s'.dev.mgmt.queue = s.dev.mgmt.queue ++
          [{ path := q.path, op := q.op, txn := q.txn, index := q.index, sub := q.sub, offset := q.offset, status := q.final, data := [] }]) ∧
        (∀ f, q.path = .mailbox f → q.drop = false → (s'.fn f).mbState = (if q.final = 1 then 3 else 2))) ∧
    (∀ (i : Nat) (q : IdpPend) (m : Option Nat), s.dev.mgmt.pend[i]? = some q → s.dev.boot.pwronN = true → q.final = 0xFF →
      (originalOf q.index.toNat = some (0x2A00, m) →
        ((endDump s).hub.dump.st = 1 → exec (.idpFinalAnswer i) s = .next s) ∧
        ((endDump s).hub.dump.st ≠ 1 → ∃ s', exec (.idpFinalAnswer i) s = .next s' ∧ s'.dev.mgmt.pend = dropAt i s.dev.mgmt.pend ∧
          s'.hub = (endDump s).hub ∧ s'.mem = s.mem ∧ s'.tiles = s.tiles)) ∧
      (originalOf q.index.toNat = some (0x2C10, m) →
        (s.dev.align.run = none → exec (.idpFinalAnswer i) s = .next s) ∧
        (∀ e, s.dev.align.run = some e → ∃ s', exec (.idpFinalAnswer i) s = .next s' ∧ s'.dev.mgmt.pend = dropAt i s.dev.mgmt.pend ∧
          s'.dev.align = (endAlign e s).2.dev.align ∧ s'.dev.align.run = none ∧ s'.mem = s.mem ∧ s'.tiles = s.tiles ∧ s'.hub = s.hub))) ∧
    (s.dev.boot.pwronN = true → s.dev.mgmt.nodeId ≠ 0 → s.dev.mgmt.plcaOk = true →
      let queue := s.dev.mgmt.queue.filter (mayLeave s)
      let k := s.dev.mgmt.burst.toNat + 1
      ∃ s', exec .transmitOpportunity s = .next s' ∧ s'.dev.mgmt.queue = queue.drop k ∧ s'.out.t1s = (queue.take k).map (leaving s) ∧
        s'.dev.mgmt.sent = s.dev.mgmt.sent + (queue.take k).length ∧ s'.mem = s.mem ∧ s'.tiles = s.tiles ∧
        ((queue.take k).all (fun a => !a.stages) = true → s'.dev.mgmt.subs = notified s s'.out.t1s)) ∧
    (∀ ok, exec (.plcaStatusChange ok) s = .next (s.onMgmt (fun g => { g with plcaOk := ok }))) ∧
    (s.dev.boot.pwronN = true → exec .ignoredFrame s = .next (s.onMgmt (fun g => { g with ignored := g.ignored + 1 })))

/-- Each command whose write reaches its entry and is not barred, with an accepted value, has its effect and no other
but its answer: TBEAT_PEAK_RESET makes the peaks the current windows; DUMP_CAPTURE begins a dump where none is under
way; LINK_COUNTER_ZERO, BULK_COUNTER_ZERO and BLOTTER_CLEAR clear what they name; COUNTER_RAISE raises the counter up
to the running SVN; SLOT_WRITE writes bytes of the other slot and VERIFY judges it; CHALLENGE_REQUEST makes a
challenge; SIGNED_RESPONSE unlocks the challenged scope or counts a failure; RELOCK relocks every scope;
MEASUREMENT_REQUEST asks for a measurement; TIME_MEASURE starts one with its probes, or none where one runs;
TRACE_TRIGGER triggers; TRACE_ENABLE switches trace off, or on where the sheet fits; STOP_ALL stops every partition
that loads or runs. TOTALS_READ folds the selected tile's counters and answers its totals. The model's choice: a
response after the minute fails and counts (log 32); how a dump goes on (28); the raise and VERIFY end at the write,
and a time measurement, whose probes are the operand's (61), runs until its final answer (30). -/
def Obligations.DeviceEntryCommands : Prop :=
  ∀ (s : State) (h : ReqHdr),
    let s0 := heard s h.path
    let runs : Nat → Nat → Bytes → Prop := fun i k d => WriteRuns s (plainReq h 2 (BitVec.ofNat 16 i) (BitVec.ofNat 8 k) d)
    let does : Instr → State → Prop := fun c e => ∃ s', exec c s = .next s' ∧ Answered e s'
    (runs 0x2400 6 [1] → does (.tbeatPeakReset h 1) (s0.onTime (fun t => { t with tbeatPeak := windowBeat s, thopPeak := windowHop s }))) ∧
    (runs 0x2A00 1 [1] → does (.dumpCapture h none 1) (startDump s0)) ∧
    (∀ n : PartId, runs (0x30A0 + 0x100 * n.val) 1 [1] → does (.dumpCapture h (some n) 1) (startDump s0)) ∧
    (runs 0x2600 9 [1] → ∃ s', exec (.linkCounterZero h 1) s = .next s' ∧ s'.mem = s.mem ∧ s'.tiles = s.tiles ∧
      ∀ p : PortId, s'.port p = { s.port p with cnt := {} }) ∧
    (runs 0x2700 0xA [1] → does (.bulkCounterZero h 1) (s0.onBulk (fun b => { b with corrected := [], uncorr := 0, marked := 0 }))) ∧
    (runs 0x2900 7 [1] → ∃ s' r, exec (.blotterClear h 1) s = .next s' ∧ s'.dev.blot.pinned = [r] ∧ r.code = 0x84 ∧ r.severity = 0 ∧
      s'.dev.blot.stored = 1 ∧ s'.dev.blot.ring = [] ∧ s'.dev.blot.newest = 0 ∧ s'.mem = s.mem) ∧
    (∀ v : Byte, runs 0x2D00 3 [v] → s.dev.sec.otp < v.toNat → v.toNat ≤ s.dev.sec.svn →
      does (.counterRaise h v) (s0.onSec (fun k => { k with otp := v.toNat }))) ∧
    (∀ (o : BitVec 32) (d : Bytes), WriteRuns s { plainReq h 4 0x2D00 4 d with offset := o } → d ≠ [] →
      does (.slotWrite h o d) (s0.onSec (fun k =>
        if k.slotB then { k with imageA := Map.fill none k.imageA o.toNat (d.map some) }
        else { k with imageB := Map.fill none k.imageB o.toNat (d.map some) }))) ∧
    (runs 0x2D00 5 [1] → does (.verify h 1) (verifySlot s0).2) ∧
    (∀ v : Byte, runs 0x2D00 8 [v] → (scopeKey s v.toNat).isSome = true → lockedOut s = false →
      does (.challengeRequest h v) (makeChallenge v s0) ∧
      ∃ s', exec (.challengeRequest h v) s = .next s' ∧ s'.dev.sec.asked = some (v, timeNow s)) ∧
    (∀ sig : Bytes, runs 0x2D00 0xA sig → does (.signedResponse h sig) (answerChallenge sig s0).2 ∧
      (∀ v at' key, s.dev.sec.asked = some (v, at') → scopeKey s v.toNat = some key → at' + minuteNs < timeNow s →
        ∃ s', exec (.signedResponse h sig) s = .next s' ∧ s'.dev.sec.unlock = s.dev.sec.unlock ∧ s'.dev.sec.fails = s.dev.sec.fails + 1 ∧
          s'.dev.sec.asked = none)) ∧
    (runs 0x2D00 0xC [1] → does (.relock h 1) ((s0.onSec (fun k => { k with unlock := 0 })).onTrace (fun t => { t with attach := 0 }))) ∧
    (runs 0x2300 2 [1] → does (.measurementRequest h 1) (s0.onPower (fun w => { w with asked := true }))) ∧
    (runs 0x2C10 1 [1] → ∀ pos neg above : List (List ProbePair),
      (s.dev.align.run = none → does (.timeMeasure h 1 pos neg above)
        (s0.onDev (fun d => { d with align := { d.align with st := 1, run := some ⟨pos, neg, above⟩ } }))) ∧
      (s.dev.align.run ≠ none → does (.timeMeasure h 1 pos neg above) s0)) ∧
    (runs 0x2B00 9 [1] → ∃ s', exec (.traceTrigger h 1) s = .next s' ∧ s'.mem = s.mem ∧ s'.tiles = s.tiles ∧
      s'.dev.trace = (triggerTrace s).dev.trace) ∧
    (runs 0x2B00 1 [0] → does (.traceEnable h 0) (traceOff s0)) ∧
    (runs 0x2B00 1 [1] → ∀ s1, traceOn s0 = some s1 → does (.traceEnable h 1) s1) ∧
    (runs 0x2000 4 [1] → does (.stopAll h) (Machine.stopAll s0)) ∧
    (∀ m e, Asked s (plainReq h 1 0x2B00 0x13 []) 0x2B00 m e → ∃ s' a, exec (.totalsRead h) s = .next s' ∧ s'.mem = s.mem ∧
      (s'.tile s.dev.trace.sel.toNat).cnt = (s.tile s.dev.trace.sel.toNat).cnt.fold ∧
      a.data = (List.range 8).flatMap (fun i => toBytes (Map.get 0#64 (s.tile s.dev.trace.sel.toNat).cnt.fold.totals i).toNat 8) ∧
      a.status = 0 ∧ (∀ src, h.path = .mgmt src → s'.dev.mgmt.queue = s.dev.mgmt.queue ++ [a]))

/-- Each command whose write reaches its entry and is not barred, with no command or load of the partition running:
LOAD_VERIFY and LOAD_SERVICE do what a load does once the fault records of the partition are served, and one in a
partition that runs is refused with reason 1, as any other refusal leaves it; FORGET empties the verified digests;
APPLY puts a valid table in force and leaves all as it was for another; ASSIGN of a partition without a tenant makes
the new tenant the current one; STOP of a partition that loads or runs stops it; KILL of a tenant fences its tiles and
stops it; SWITCH without an automatic load puts the next tenant, or the new one, in the cleared partition; RELEASE
leaves it without a tenant; FORWARD and BACK give their result, and BACK makes the step after the committed one the
next. A doorbell starts a load of its function's own partition. The model's choice: what a refused load leaves (log
25), commands take all their steps at once (30), and FORWARD or BACK without a commit description gives result 2 (26).
-/
def Obligations.TenantAndLoadCommands : Prop :=
  ∀ (s : State) (h : ReqHdr) (n : PartId),
    let s0 := heard s h.path
    let runs : Nat → Nat → Prop := fun k v => WriteRuns s (plainReq h 2 (BitVec.ofNat 16 (0x3080 + 0x100 * n.val)) (BitVec.ofNat 8 k) [BitVec.ofNat 8 v])
    let does : Instr → State → Prop := fun c e => ∃ s', exec c s = .next s' ∧ Answered e s'
    let idle := (s.part n).load.st ≠ 1 ∧ (s.part n).tn.cmd ≠ 1
    let served := serveFaults n s0
    (runs 0x41 1 → idle → does (.loadVerify h n) (load n true served).2) ∧
    (runs 0x41 2 → idle → does (.loadService h n) (load n false served).2 ∧
      ((served.part n).load.st = 2 → (load n false served).2 = refuseLoad n false { reason := 1 } served ∧
        ∃ s', exec (.loadService h n) s = .next s' ∧ (s'.part n).load.st = 4 ∧ (s'.part n).load.reason = 1)) ∧
    (∀ (f : FnId) (x : BitVec 3), h.path = .doorbell f x → pageServed s f = true → doorbellPending s f = false → computeReady s = true →
      s.dev.mgmt.pend.length < 8 →
      let p := match vfPath h.path with | some n => n | none => if s.dev.pcie.vfEnable then x.toNat else 0
      exec (.loadVerify h n) s = .next (respond none
        { path := h.path, ver := 1, op := 2, txn := 0, index := mirrorIndex 8 p, sub := 0x41, length := 1, data := [1#8] } s)) ∧
    (runs 0x41 3 → idle → does (.forget h n) (s0.onSec (fun k => { k with digests := [] }))) ∧
    (WriteRuns s (plainReq h 2 0x2800 5 [1#8]) → s.dev.boot.st = 5 →
      (applyResult s = 1 → does (.apply h) ((enforce (s0.onStaged (fun g => { g with result := 1 })).dev.staged
        (s0.onStaged (fun g => { g with result := 1 }))).onStaged (fun g => { g with inForce := true }))) ∧
      (applyResult s ≠ 1 → does (.apply h) (s0.onStaged (fun g => { g with result := BitVec.ofNat 8 (applyResult s) })))) ∧
    (runs 0x24 1 → idle → (s.part n).tn.newId ≠ 0 → (s.part n).tn.cur = 0 →
      ∃ s', exec (.assign h n) s = .next s' ∧ (s'.part n).tn.cur = (s.part n).tn.newId ∧ (s'.part n).tn.curKey = (s.part n).tn.newKey ∧
        (s'.part n).tn.cmd = 2 ∧ s'.tiles = s.tiles ∧ s'.mem = s.mem ∧ ∀ k, k ≠ n.val → s'.part k = s.part k) ∧
    (runs 0x24 2 → (s.part n).tn.cmd ≠ 1 → (s.part n).load.st = 1 ∨ (s.part n).load.st = 2 →
      ∃ s', exec (.stop h n) s = .next s' ∧ (s'.part n).load.st = 3 ∧ (s'.part n).tn.cmd = 2 ∧
        ∀ r ∈ bandOf s n, (s'.region r).nib.stopped = true) ∧
    (runs 0x24 3 → (s.part n).tn.cmd ≠ 1 → (s.part n).tn.cur ≠ 0 →
      ∃ s', exec (.kill h n) s = .next s' ∧ (s'.part n).tn.killed = true ∧ (s'.part n).tn.cmd = 2 ∧
        (∀ t ∈ partTiles s n, (s'.tile t).fenced = true) ∧
        ((s.part n).load.st = 1 ∨ (s.part n).load.st = 2 → (s'.part n).load.st = 3)) ∧
    (runs 0x24 4 → (s.part n).tn.cmd ≠ 1 → switchBar s n = none → (s.part n).tn.autoLoad ≠ 1 →
      ∃ s', exec (.switch h n) s = .next s' ∧ (s'.part n).tn.cmd = 2 ∧ (s'.part n).tn.killed = false ∧ (s'.part n).load.st = 0 ∧
        (s'.part n).rdnf = false ∧ (∀ t ∈ partTiles s n, (s'.tile t).fenced = false) ∧
        ((s.part n).tn.next ≠ 0 → (s'.part n).tn.cur = (s.part n).tn.next ∧ (s'.part n).share = (s.part n).pend ∧
          (s'.part n).tn.shareKey = (s.part n).tn.pendKey) ∧
        ((s.part n).tn.next = 0 → (s'.part n).tn.cur = (s.part n).tn.newId)) ∧
    (runs 0x24 5 → (s.part n).tn.cmd ≠ 1 → switchBar s n = none →
      ∃ s', exec (.release h n) s = .next s' ∧ (s'.part n).tn.cmd = 2 ∧ (s'.part n).tn.cur = 0 ∧ (s'.part n).tn.next = 0 ∧
        (s'.part n).load.st = 0 ∧ (s'.part n).tn.killed = false) ∧
    (∀ v : Byte, WriteRuns s (plainReq h 2 (BitVec.ofNat 16 (0x30E0 + 0x100 * n.val)) 0x20 [v]) →
      let s1 := onCommit n (fun c => { c with cmd := v }) s0
      ((s.part n).commit.desc = none → v = 1 → does (.forward h n) (onCommit n (fun c => { c with result := 2 }) s1)) ∧
      ((s.part n).commit.desc = none → v = 2 → does (.back h n) (onCommit n (fun c => { c with result := 2 }) s1)) ∧
      (∀ d, (s.part n).commit.desc = some d → v = 1 → does (.forward h n)
        (onCommit n (fun c => { c with result := BitVec.ofNat 8 (Machine.forward n d s1).1 }) (Machine.forward n d s1).2)) ∧
      (∀ d, (s.part n).commit.desc = some d → v = 2 → ∃ s', exec (.back h n) s = .next s' ∧ (s'.part n).commit.result = 1 ∧
        (s'.part n).commit.next = (s.part n).commit.committed + 1 ∧ (s'.part n).commit.committed = (s.part n).commit.committed ∧
        (s'.part n).rdnf = false))

/-- PERST_N asserted and HOT_RESET reset every function, clear VF Enable and take the link down; PERST_N deasserted
only shows. FLR of a served virtual function resets it alone, of function 0 every function; VF_ENABLE_CLEAR resets the
virtual functions; VF_ENABLE_SET, D3HOT and D0_ENTRY set and clear their bits; each does nothing where no
configuration request can reach. DOE_ABORT empties the mailbox of a function that exists, and does nothing at one that
does not. PCIE_LINK_DOWN faults every outstanding host-window read with 0x02 and drops the posted writes. PCIE_LINK_UP
needs power, PERST_N deasserted, no trip and a controller that trained; it gives the link a rate and a width, and the
first one ends start-up step 3. None touches tiles or memory. That PERST_N and HOT_RESET take the link down is the
model's choice (log 65), and that what they reset is no longer held at a slice (log 75). -/
def Obligations.HostResetsAndPowerStates : Prop :=
  ∀ (s : State),
    let quiet : State → Prop := fun s' =>
      s'.mem = s.mem ∧ s'.tiles = s.tiles ∧ s'.hub = s.hub ∧ s'.regions = s.regions ∧ s'.ports = s.ports
    let clean : State → Prop := fun s' =>
      s'.dev.pcie.vfEnable = false ∧ (∀ f : FnId, s'.fn f = {}) ∧ s'.net.hostq = [] ∧ quiet s'
    let noneHeld : State → Prop := fun s' => s'.net.held = s.net.held.filter (fun q => !fromHost (fun _ => true) q)
    (∃ s', exec (.perstN true) s = .next s' ∧ s' = s.onBoot (fun b => { b with perstN := true })) ∧
    (∃ s', exec (.perstN false) s = .next s' ∧ s'.dev.boot.perstN = false ∧ s'.dev.pcie.linkUp = false ∧ s'.net.posted = [] ∧ noneHeld s' ∧ clean s') ∧
    (∃ s', exec .hotReset s = .next s' ∧ s'.dev.pcie.linkUp = false ∧ s'.net.posted = [] ∧ noneHeld s' ∧ clean s') ∧
    (∀ f : FnId, (configServed s f = false → exec (.flr f) s = .next s) ∧
      (configServed s f = true → f ≠ 0 → ∃ s', exec (.flr f) s = .next s' ∧ s'.fn f = {} ∧ (∀ g, g ≠ f.val → s'.fn g = s.fn g) ∧
        s'.dev.pcie.linkUp = s.dev.pcie.linkUp ∧ s'.dev.pcie.vfEnable = s.dev.pcie.vfEnable ∧
        s'.net.posted = s.net.posted.filter (fun w => w.fn != f.val) ∧ quiet s') ∧
      (configServed s f = true → f = 0 → ∃ s', exec (.flr f) s = .next s' ∧ (∀ g : FnId, s'.fn g = {}) ∧ s'.dev.pcie.vfEnable = false ∧
        s'.dev.pcie.linkUp = s.dev.pcie.linkUp ∧ quiet s')) ∧
    (configServed s 0 = true → s.dev.pcie.vfEnable = true → ∃ s', exec .vfEnableClear s = .next s' ∧ s'.dev.pcie.vfEnable = false ∧
      s'.fn 0 = s.fn 0 ∧ (∀ g : FnId, g ≠ 0 → s'.fn g = {}) ∧ quiet s') ∧
    (configServed s 0 = false → exec .vfEnableClear s = .next s ∧ exec .vfEnableSet s = .next s) ∧
    (s.dev.pcie.vfEnable = false → exec .vfEnableClear s = .next s) ∧
    (configServed s 0 = true → exec .vfEnableSet s = .next (s.onPcie (fun p => { p with vfEnable := true }))) ∧
    (∃ s', exec .pcieLinkDown s = .next s' ∧ s'.dev.pcie.linkUp = false ∧ s'.net.posted = [] ∧ s'.net.hostq = [] ∧ noneHeld s' ∧
      s'.net.answers = s.net.answers ++ s.net.hostq.zipIdx.map (fun (h, i) =>
        { req := h.req, res := .fault 0x02#8 h.req.addr,
          sent := { no := s.net.lines + i, leg := h.req.iss.node.map (fun d => (.pcie, d)) } }) ∧
      (∀ f, s'.fn f = s.fn f) ∧ quiet s') ∧
    (let b := s.dev.boot;
      (b.pwronN = true ∧ b.perstN = true ∧ b.trip = false ∧ b.pcieFailed = false →
        ∃ s', exec .pcieLinkUp s = .next s' ∧ s'.dev.pcie.linkUp = true ∧ 1 ≤ s'.dev.pcie.rate ∧ s'.dev.pcie.rate ≤ 6 ∧
          s'.dev.pcie.width ∈ [1, 2, 4, 8, 16] ∧ (∀ f, s'.fn f = s.fn f) ∧ s'.net = s.net ∧ quiet s' ∧
          (∀ i, i ≠ 2 → s'.dev.boot.times[i]? = b.times[i]?) ∧
          (b.times[2]?.getD 0 ≠ 0xFFFFFFFF#32 → s'.dev.boot = b)) ∧
      (b.pwronN = false ∨ b.perstN = false ∨ b.trip = true ∨ b.pcieFailed = true → exec .pcieLinkUp s = .next s)) ∧
    (∀ f : FnId, configServed s f = false → exec (.d3hot f) s = .next s ∧ exec (.d0Entry f) s = .next s) ∧
    (∀ f : FnId, configServed s f = true →
      exec (.d3hot f) s = .next (s.onFn f (fun x => { x with d3 := true })) ∧
      exec (.d0Entry f) s = .next (s.onFn f (fun x => { x with d3 := false }))) ∧
    (∀ f : FnId, fnExists s f = true → exec (.doeAbort f) s = .next (s.onFn f (fun x => { x with doe := [], doeErr := false }))) ∧
    (∀ f : FnId, fnExists s f = false → exec (.doeAbort f) s = .next s)

/-- A function that does not exist answers none of the eight requests. At one that exists, a request larger than a
data object marks an error of the mailbox; one of another version is answered VERSION_MISMATCH, one outside its order
UNEXPECTED, one too short INVALID. Otherwise GET_VERSION offers 1.3 and starts over; CAPABILITIES offers certificates,
challenge and signed measurements; ALGORITHMS selects ECDSA P-384, SHA-384 and the DMTF measurements offered, and any
other choice is INVALID; DIGESTS and CERTIFICATE give slot 0's chain; CHALLENGE_AUTH and MEASUREMENTS carry a nonce,
the requester's context and the leaf key's signature of what was said; another slot or an unknown index is INVALID;
any other code is UNSUPPORTED. Each changes its function alone. Layouts, transcripts and exponent are the model's
choice (log 33). -/
def Obligations.SpdmResponder : Prop :=
  ∀ (s : State) (f : FnId) (q : SpdmReq) (c : Byte),
    let requests : List (Instr × Nat × Nat × Nat × Nat) :=
      [(.getVersion f q.p1 q.p2 q.body q.ver, 0, 4, 0x84, 0), (.getCapabilities f q.p1 q.p2 q.body q.ver, 1, 1, 0xE1, 16), (.negotiateAlgorithms f q.p1 q.p2 q.body q.ver, 2, 2, 0xE3, 28),
       (.getDigests f q.p1 q.p2 q.body q.ver, 3, 4, 0x81, 0), (.getCertificate f q.p1 q.p2 q.body q.ver, 3, 4, 0x82, 4), (.challenge f q.p1 q.p2 q.body q.ver, 3, 4, 0x83, 40),
       (.getMeasurements f q.p1 q.p2 q.body q.ver, 4, 4, 0xE0, if q.p1.getLsbD 0 then 41 else 8), (.unsupportedRequest f c q.p1 q.p2 q.body q.ver, 0, 4, c.toNat, 0)]
    let old := s.fn f
    let k := old.spdm
    let gives : Instr → Fn → Prop := fun i x => ∃ s', exec i s = .next s' ∧ s'.fn f = x ∧ (∀ g, g ≠ f.val → s'.fn g = s.fn g) ∧
      s'.mem = s.mem ∧ s'.tiles = s.tiles ∧ s'.hub = s.hub ∧ s'.net = s.net ∧ s'.parts = s.parts
    let failing : Nat → Nat → Fn := fun e d => { old with doe := [0x13#8, 0x7F#8, BitVec.ofNat 8 e, BitVec.ofNat 8 d], talkM := [] }
    let room := 12 + q.body.length ≤ 4096
    let version : Nat → Nat := fun code => if code = 0x84 then 0x10 else 0x13
    let ready : Nat → Nat → Nat → Nat → Prop := fun lo hi code len =>
      fnExists s f = true ∧ room ∧ q.ver.toNat = version code ∧ lo ≤ k ∧ k ≤ hi ∧ len ≤ q.body.length
    (∀ r ∈ requests,
      (fnExists s f = false → exec r.1 s = .next s) ∧
      (fnExists s f = true → ¬ room → gives r.1 { old with doeErr := true }) ∧
      (fnExists s f = true → room → q.ver.toNat ≠ version r.2.2.2.1 → gives r.1 (failing 0x41 0)) ∧
      (fnExists s f = true → room → q.ver.toNat = version r.2.2.2.1 → (k < r.2.1 ∨ r.2.2.1 < k) → gives r.1 (failing 0x04 0)) ∧
      (fnExists s f = true → room → q.ver.toNat = version r.2.2.2.1 → r.2.1 ≤ k → k ≤ r.2.2.1 → q.body.length < r.2.2.2.2 →
        gives r.1 (failing 0x01 0))) ∧
    (ready 0 4 0x84 0 → let d := [0x10#8, 0x04#8, 0#8, 0#8, 0#8, 1#8, 0x00#8, 0x13#8];
      gives (.getVersion f q.p1 q.p2 q.body q.ver) { old with doe := d, spdm := 1, talkA := spdmBytes 0x84 q ++ d, talkB := [], talkM := [] }) ∧
    (ready 1 1 0xE1 16 → ∃ ct : Byte,
      let d := spdmMsg 0x61 0 0 ([0#8, ct] ++ zeros 2 ++ toBytes 0x16 4 ++ toBytes 4088 4 ++ toBytes 4088 4);
      gives (.getCapabilities f q.p1 q.p2 q.body q.ver) { old with doe := d, spdm := 2, talkA := old.talkA ++ spdmBytes 0xE1 q ++ d }) ∧
    (ready 2 2 0xE3 28 → let m := b2n (bodyBit q 2 0);
      let d := [0x13#8, 0x63#8, 0#8, 0#8, 36#8, 0#8, BitVec.ofNat 8 m, 0#8] ++ toBytes (4 * m) 4 ++ toBytes 0x80 4 ++ toBytes 2 4 ++ zeros 16
      ((bodyBit q 4 7 && bodyBit q 8 1) = true →
        gives (.negotiateAlgorithms f q.p1 q.p2 q.body q.ver) { old with doe := d, spdm := 3 + m, talkA := old.talkA ++ spdmBytes 0xE3 q ++ d }) ∧
      ((bodyBit q 4 7 && bodyBit q 8 1) = false → gives (.negotiateAlgorithms f q.p1 q.p2 q.body q.ver) (failing 0x01 0))) ∧
    (ready 3 4 0x81 0 → let d := spdmMsg 0x01 1 1 (sha384 Config.certChain);
      gives (.getDigests f q.p1 q.p2 q.body q.ver) { old with doe := d, talkB := old.talkB ++ spdmBytes 0x81 q ++ d, talkM := [] }) ∧
    (ready 3 4 0x82 4 → let off := leNat (q.body.take 2);
      let part := (Config.certChain.drop off).take (min (leNat ((q.body.drop 2).take 2)) 4080)
      let d := spdmMsg 0x02 0 0 (toBytes part.length 2 ++ toBytes (Config.certChain.length - off - part.length) 2 ++ part)
      (q.p1.toNat % 16 ≠ 0 ∨ Config.certChain.length ≤ off → gives (.getCertificate f q.p1 q.p2 q.body q.ver) (failing 0x01 0)) ∧
      (q.p1.toNat % 16 = 0 → off < Config.certChain.length →
        gives (.getCertificate f q.p1 q.p2 q.body q.ver) { old with doe := d, talkB := old.talkB ++ spdmBytes 0x82 q ++ d, talkM := [] })) ∧
    (ready 3 4 0x83 40 →
      (q.p1 ≠ 0 ∨ (q.p2 ≠ 0 ∧ q.p2 ≠ 1 ∧ q.p2 ≠ 0xFF) → gives (.challenge f q.p1 q.p2 q.body q.ver) (failing 0x01 0)) ∧
      (q.p1 = 0 → q.p2 = 0 ∨ q.p2 = 1 ∨ q.p2 = 0xFF → ∃ sum nonce : Bytes, nonce.length = 32 ∧ (q.p2 = 0 → sum = []) ∧
        (q.p2 = 1 → sum.length = 48) ∧ (q.p2 = 0xFF → sum = sha384 ((measured f).flatMap (measureBlock s))) ∧
        let d := spdmMsg 0x03 0 1 (sha384 Config.certChain ++ nonce ++ sum ++ zeros 2 ++ (q.body.drop 32).take 8);
        let sig := spdmSign "responder-challenge_auth signing" (old.talkA ++ old.talkB ++ spdmBytes 0x83 q ++ d)
        gives (.challenge f q.p1 q.p2 q.body q.ver) { old with doe := d ++ sig, talkB := [], talkM := [] })) ∧
    (let signed := q.p1.getLsbD 0;
      let slot := if signed then ((q.body[32]?).getD 0).toNat % 16 else 0
      ready 4 4 0xE0 (if signed then 41 else 8) →
      (slot ≠ 0 ∨ askedIndices f q.p2.toNat = none → gives (.getMeasurements f q.p1 q.p2 q.body q.ver) (failing 0x01 0)) ∧
      (∀ l, slot = 0 → askedIndices f q.p2.toNat = some l → ∃ nonce : Bytes, nonce.length = 32 ∧
        let r := l.flatMap (measureBlock s);
        let d := spdmMsg 0x60 (if q.p2 = 0 then (measured f).length else 0) 0
          (toBytes l.length 1 ++ toBytes r.length 3 ++ r ++ nonce ++ zeros 2 ++ (q.body.drop (if signed then 33 else 0)).take 8)
        let talk := old.talkM ++ spdmBytes 0xE0 q ++ d
        gives (.getMeasurements f q.p1 q.p2 q.body q.ver) { old with
          doe := d ++ (if signed then spdmSign "responder-measurements signing" (old.talkA ++ talk) else []),
          talkB := [], talkM := if signed then [] else talk })) ∧
    (ready 0 4 c.toNat 0 → gives (.unsupportedRequest f c q.p1 q.p2 q.body q.ver) (failing 0x07 c.toNat))

/-- PWRON_RST_N rising starts the device: in ROM_MGMT by strap, in FW_FAIL where no slot may run, else in STOPPED with
the slot chosen among what the Steward finds in the two, and with exactly the regions that passed in service; where a
sensor stands at 110 C it trips. PWRON_RST_N falling keeps what the always-on island holds, and no tile, memory or
partition state. Loss of VDD_AON loses the ring, the root records and the time too, and keeps the pinned records. The
model's choice: the whole start-up in one step and causes 2 and 3 (log 63), and what each loss keeps, with memory
listing nothing afterwards (log 64). -/
def Obligations.StartUpAndPowerLoss : Prop :=
  ∀ (s : State),
    (∀ si : Silicon,
      let slot := startSlot (romSteps si s).dev.sec si.bootSel.toNat
      (s.dev.boot.pwronN = true → exec (.pwronRstN si) s = .next s) ∧
      (s.dev.boot.pwronN = false → ∃ s', exec (.pwronRstN si) s = .next s' ∧ s'.dev.boot.pwronN = true ∧ s'.pending = s.pending ∧
        s'.dev.boot.bootSel = si.bootSel ∧ s'.dev.sec.imageA = s.dev.sec.imageA ∧ s'.dev.sec.imageB = s.dev.sec.imageB ∧
        (si.bootSel = 3 → s'.dev.boot.st = 1) ∧
        (si.bootSel ≠ 3 → slot = none → s'.dev.boot.st = 3) ∧
        (∀ b, si.bootSel ≠ 3 → slot = some b → s'.dev.sec.slotB = b ∧
          (∀ r : RegionId, s'.dev.boot.regions.getLsbD r = regionPasses si r ∧ (s'.region r).inService = regionPasses si r) ∧
          (trippedBy si.temps si.periphery = none → s'.dev.boot.st = 5 ∧ s'.dev.boot.trip = false) ∧
          ((trippedBy si.temps si.periphery).isSome = true → s'.dev.boot.st = 7 ∧ s'.dev.boot.trip = true)))) ∧
    (s.dev.boot.pwronN = false → exec .pwronRstNAssertion s = .next s) ∧
    (s.dev.boot.pwronN = true → ∃ s', exec .pwronRstNAssertion s = .next s' ∧ s'.dev.boot.pwronN = false ∧
      s'.dev.boot.cause = (if s.dev.boot.trip then 3 else 2) ∧ s'.pending = s.pending ∧ s'.mem = [] ∧ s'.tiles = [] ∧ s'.ports = [] ∧
      s'.dev.tm.time = s.dev.tm.time ∧ s'.dev.blot.pinned = s.dev.blot.pinned ∧ s'.dev.blot.ring = s.dev.blot.ring ∧
      s'.dev.sec.otp = s.dev.sec.otp ∧ s'.dev.power.tripped = s.dev.power.tripped ∧
      (∀ n : PartId, (s'.part n).band = none ∧ (s'.part n).commit.root = (s.part n).commit.root ∧
        (s'.part n).commit.rootOk = (s.part n).commit.rootOk)) ∧
    (∃ s', exec .vddAonLoss s = .next s' ∧ s'.dev.boot.pwronN = false ∧ s'.pending = s.pending ∧ s'.mem = [] ∧ s'.tiles = [] ∧
      s'.dev.tm.time = 0 ∧ s'.dev.tm.epoch = 0 ∧ s'.dev.blot.pinned = s.dev.blot.pinned ∧ s'.dev.blot.ring = [] ∧
      s'.dev.power.tripped = false ∧ s'.dev.sec.otp = s.dev.sec.otp ∧ (∀ n : PartId, (s'.part n).commit.root = 0 ∧ (s'.part n).commit.rootOk = false))

/-- Every instruction of a tile, with every value of its fields, is read back from the word that the manual's formats
give it (an LD without an upset of the environment, which is no field of a word: the model's choice, log 67); and
every word that is read as an instruction is that instruction's word, so that no bit of a word is dropped and no two
words spell one instruction. -/
def Obligations.TileWordsRoundTrip : Prop :=
  (∀ (i : Instr) (w : BitVec 32), encodeTile i = some w →
    (∀ t c rt rb width mode off u, i = .ld t c rt rb width mode off u → u = .none) →
    ∃ t c, decodeTile t c w = some i ∧ ∀ t' c', (decodeTile t' c' w).bind encodeTile = some w) ∧
  (∀ (t : TileId) (c : CtxId) (w : BitVec 32) (i : Instr), decodeTile t c w = some i → encodeTile i = some w)

/-- For every state whose memory is canonical (addresses rise strictly, no listed byte is zero), whatever else it
holds and whatever command is in front: the state after a step has canonical memory too. So two memories that read
alike are equal data, in every state that a run reaches. -/
def Obligations.MemoryStaysCanonical : Prop :=
  ∀ s s' : State, Memory.wf s.mem → step s = .next s' → Memory.wf s'.mem

/-- At reset no command waits, memory is canonical and lists nothing, no tile or partition holds anything, the device
is in ROM_MGMT with PWRON_RST_N asserted, a step idles, and the entries that the manual gives a reset value hold it:
step times all ones, TO_TIMER 32, burst 0, burst timer 128, EtherType 0x88B5, weights 1, DB_STATUS 0xFF,
COMMITTED_STEP all ones. The values that the manual does not give are the model's (log 6) and this says nothing of
them. -/
def Obligations.ResetState : Prop :=
  State.reset.pending = [] ∧ Memory.wf State.reset.mem ∧ State.reset.mem = [] ∧ State.reset.tiles = [] ∧ State.reset.parts = [] ∧
  step State.reset = .next State.reset ∧ State.reset.dev.boot.st = 1 ∧ State.reset.dev.boot.pwronN = false ∧
  State.reset.dev.boot.times = List.replicate 8 0xFFFFFFFF#32 ∧ State.reset.dev.mgmt.toTimer = 32 ∧ State.reset.dev.mgmt.burst = 0 ∧
  State.reset.dev.mgmt.burstTimer = 128 ∧ State.reset.dev.mgmt.etherType = 0x88B5 ∧ State.reset.dev.staged.weights = 0x010101010101 ∧
  (∀ f : FnId, (State.reset.fn f).dbStatus = 0xFF) ∧ (∀ n : PartId, (State.reset.part n).commit.committed = 0xFFFFFFFFFFFFFFFF#64)
end

