-- ==== Sys2Proof/Laws/Bits.lean ====
section
/-!
SUPPORT. Laws of bytes and bit fields: the two directions of byte order, sizes, single bits, and the bound of a CRC.
-/
namespace Sys2Proof.Machine

@[simp] theorem length_toBytes (n k : Nat) : (toBytes n k).length = k := by
  induction k generalizing n with
  | zero => rfl
  | succ k ih => simp [toBytes, ih]

@[simp] theorem length_zeros (k : Nat) : (zeros k).length = k := by simp [zeros]

/-- The low bytes of a number hold it modulo their width. -/
theorem leNat_toBytes (n k : Nat) : leNat (toBytes n k) = n % 2 ^ (8 * k) := by
  induction k generalizing n with
  | zero => simp [toBytes, leNat, Nat.mod_one]
  | succ k ih =>
    have h : 2 ^ (8 * (k + 1)) = 256 * 2 ^ (8 * k) := by rw [Nat.mul_add, Nat.pow_add]; omega
    rw [toBytes, leNat, ih, h, Nat.mod_mul]
    simp

theorem leNat_lt (bs : Bytes) : leNat bs < 2 ^ (8 * bs.length) := by
  induction bs with
  | nil => simp [leNat]
  | cons b bs ih =>
    have h : 2 ^ (8 * (bs.length + 1)) = 256 * 2 ^ (8 * bs.length) := by rw [Nat.mul_add, Nat.pow_add]; omega
    have := b.isLt
    simp only [leNat, List.length_cons, h]
    omega

/-- The bytes of the number that bytes hold are those bytes. -/
theorem toBytes_leNat (bs : Bytes) : toBytes (leNat bs) bs.length = bs := by
  induction bs with
  | nil => rfl
  | cons b bs ih =>
    have hb := b.isLt
    have h1 : (b.toNat + 256 * leNat bs) / 256 = leNat bs := by omega
    have h2 : BitVec.ofNat 8 (b.toNat + 256 * leNat bs) = b := by
      apply BitVec.eq_of_toNat_eq
      simp only [BitVec.toNat_ofNat]
      omega
    simp [leNat, toBytes, h1, h2, ih]

theorem leNat_append (a b : Bytes) : leNat (a ++ b) = leNat a + 2 ^ (8 * a.length) * leNat b := by
  induction a with
  | nil => simp [leNat]
  | cons x a ih =>
    have h : 2 ^ (8 * (a.length + 1)) = 256 * 2 ^ (8 * a.length) := by rw [Nat.mul_add, Nat.pow_add]; omega
    rw [List.cons_append, leNat, leNat, ih, List.length_cons, h, Nat.mul_add, Nat.mul_assoc, Nat.add_assoc]

theorem fld_lt (n lo w : Nat) : fld n lo w < 2 ^ w := Nat.mod_lt _ (Nat.two_pow_pos w)

/-- A bit after one bit was set or cleared. -/
theorem getLsbD_setBit {w : Nat} (v : BitVec w) (i j : Nat) (b : Bool) (hi : i < w) :
    (setBit v i b).getLsbD j = if j = i then b else v.getLsbD j := by
  by_cases hj : j = i
  · subst hj
    cases b <;> simp [setBit, hi]
  · have hz : j - i = 0 → ¬ j < i → False := by omega
    by_cases hw : j < w
    · cases b <;> simp [setBit, hj, hw] <;> intros <;> omega
    · simp [hj, BitVec.getLsbD_of_ge _ _ (Nat.le_of_not_lt hw)]

theorem crcBits_lt (k c : Nat) (h : c < 2 ^ 32) : crcBits k c < 2 ^ 32 := by
  induction k generalizing c with
  | zero => exact h
  | succ k ih =>
    rw [crcBits]
    refine ih _ ?_
    split
    · exact Nat.xor_lt_two_pow (by omega) (by decide)
    · omega

/-- A CRC has 32 bits. -/
theorem crc32_lt (bs : Bytes) : crc32 bs < 2 ^ 32 := by
  have hf : ∀ (l : Bytes) (c : Nat), c < 2 ^ 32 → l.foldl (fun c b => crcBits 8 (c ^^^ b.toNat)) c < 2 ^ 32 := by
    intro l
    induction l with
    | nil => exact fun _ h => h
    | cons b l ih =>
      intro c h
      refine ih _ (crcBits_lt _ _ (Nat.xor_lt_two_pow h ?_))
      have := b.isLt
      omega
  exact Nat.xor_lt_two_pow (hf bs _ (by decide)) (by decide)

end Sys2Proof.Machine
end

