-- ==== Sys2Proof/Laws/Map.lean ====
section
/-!
SUPPORT. Laws of sparse maps: what a write reads back, and the canonical form under every operation (log 4).
-/
namespace Sys2Proof.Machine

variable {α : Type}

theorem Map.get_place_self (d : α) (k : Nat) (v : α) (m : SMap α) (h : ∀ p ∈ m, p.1 ≠ k) :
    Map.get d (Map.place k v m) k = v := by
  induction m with
  | nil => simp [Map.place, Map.get]
  | cons p m ih =>
    have hp : p.1 ≠ k := h p (by simp)
    have hm := ih (fun q hq => h q (by simp [hq]))
    by_cases hk : k < p.1 <;> simp [Map.place, Map.get, hk, hp, hm]

theorem Map.get_place_ne (d : α) {k j : Nat} (v : α) (m : SMap α) (h : j ≠ k) :
    Map.get d (Map.place k v m) j = Map.get d m j := by
  induction m with
  | nil => simp [Map.place, Map.get, Ne.symm h]
  | cons p m ih => by_cases hk : k < p.1 <;> simp [Map.place, Map.get, hk, ih, Ne.symm h]

theorem Map.drop_keys (k : Nat) (m : SMap α) : ∀ p ∈ Map.drop k m, p.1 ≠ k := by
  induction m with
  | nil => simp [Map.drop]
  | cons p m ih =>
    by_cases hk : p.1 = k
    · simpa [Map.drop, hk] using ih
    · intro q hq
      rcases (by simpa [Map.drop, hk] using hq : q = p ∨ q ∈ Map.drop k m) with rfl | h
      · exact hk
      · exact ih q h

theorem Map.get_drop_self (d : α) (k : Nat) (m : SMap α) : Map.get d (Map.drop k m) k = d := by
  induction m with
  | nil => simp [Map.drop, Map.get]
  | cons p m ih => by_cases hk : p.1 = k <;> simp [Map.drop, Map.get, hk, ih]

theorem Map.get_drop_ne (d : α) {k j : Nat} (m : SMap α) (h : j ≠ k) : Map.get d (Map.drop k m) j = Map.get d m j := by
  induction m with
  | nil => simp [Map.drop, Map.get]
  | cons p m ih =>
    by_cases hk : p.1 = k
    · simp [Map.drop, Map.get, hk, ih, Ne.symm h]
    · simp [Map.drop, Map.get, hk, ih]

theorem Map.above_iff (k : Nat) (m : SMap α) : Map.above k m = true ↔ ∀ p ∈ m, k < p.1 := by simp [Map.above]

theorem Map.drop_sublist (k : Nat) (m : SMap α) : (Map.drop k m).Sublist m := by
  induction m with
  | nil => simp [Map.drop]
  | cons p m ih =>
    by_cases hk : p.1 = k
    · simpa [Map.drop, hk] using ih.trans (List.sublist_cons_self p m)
    · simpa [Map.drop, hk] using ih

theorem Map.get_below (d : α) (m : SMap α) (k : Nat) (h : ∀ p ∈ m, k < p.1) : Map.get d m k = d := by
  induction m with
  | nil => rfl
  | cons p m ih =>
    have hp : p.1 ≠ k := Nat.ne_of_gt (h p (by simp))
    simp [Map.get, hp, ih (fun q hq => h q (by simp [hq]))]

section
variable [DecidableEq α]

@[simp] theorem Map.get_set_self (d : α) (m : SMap α) (k : Nat) (v : α) : Map.get d (Map.set d m k v) k = v := by
  by_cases hv : v = d
  · simp [Map.set, hv, Map.get_drop_self]
  · simpa [Map.set, hv] using Map.get_place_self d k v (Map.drop k m) (Map.drop_keys k m)

theorem Map.get_set_ne (d : α) (m : SMap α) {k j : Nat} (v : α) (h : j ≠ k) :
    Map.get d (Map.set d m k v) j = Map.get d m j := by
  by_cases hv : v = d
  · simp [Map.set, hv, Map.get_drop_ne d m h]
  · simp [Map.set, hv, Map.get_place_ne d v _ h, Map.get_drop_ne d m h]

theorem Map.get_set (d : α) (m : SMap α) (k j : Nat) (v : α) :
    Map.get d (Map.set d m k v) j = if j = k then v else Map.get d m j := by
  by_cases h : j = k
  · subst h; simp
  · simp [h, Map.get_set_ne d m v h]

@[simp] theorem Map.get_mod_self (d : α) (m : SMap α) (k : Nat) (f : α → α) :
    Map.get d (Map.mod d m k f) k = f (Map.get d m k) := by simp [Map.mod]

theorem Map.get_mod_ne (d : α) (m : SMap α) {k j : Nat} (f : α → α) (h : j ≠ k) :
    Map.get d (Map.mod d m k f) j = Map.get d m j := by simp [Map.mod, Map.get_set_ne d m _ h]

theorem Map.get_mod (d : α) (m : SMap α) (k j : Nat) (f : α → α) :
    Map.get d (Map.mod d m k f) j = if j = k then f (Map.get d m k) else Map.get d m j := by
  simp [Map.mod, Map.get_set]

/-! ### The canonical form -/

theorem Map.wf_cons (d : α) (p : Nat × α) (m : SMap α) :
    Map.wf d (p :: m) = true ↔ p.2 ≠ d ∧ (∀ q ∈ m, p.1 < q.1) ∧ Map.wf d m = true := by
  simp [Map.wf, Map.above_iff, and_assoc]

/-- A part of a map in canonical form is in canonical form. -/
theorem Map.wf_sublist (d : α) {m m' : SMap α} (h : m'.Sublist m) (hw : Map.wf d m = true) : Map.wf d m' = true := by
  induction h with
  | slnil => exact hw
  | cons p h ih => exact ih ((Map.wf_cons d p _).1 hw).2.2
  | cons_cons p h ih =>
    obtain ⟨h1, h2, h3⟩ := (Map.wf_cons d p _).1 hw
    exact (Map.wf_cons d p _).2 ⟨h1, fun q hq => h2 q (h.subset hq), ih h3⟩

theorem Map.wf_place (d : α) (k : Nat) (v : α) (m : SMap α) (hv : v ≠ d) (hk : ∀ p ∈ m, p.1 ≠ k)
    (hw : Map.wf d m = true) : Map.wf d (Map.place k v m) = true ∧ ∀ p ∈ Map.place k v m, p.1 = k ∨ p ∈ m := by
  induction m with
  | nil => simp [Map.place, Map.wf, Map.above, hv]
  | cons p m ih =>
    obtain ⟨h1, h2, h3⟩ := (Map.wf_cons d p m).1 hw
    have hpk : p.1 ≠ k := hk p (by simp)
    obtain ⟨i1, i2⟩ := ih (fun q hq => hk q (by simp [hq])) h3
    by_cases hlt : k < p.1
    · refine ⟨?_, ?_⟩
      · simp only [Map.place, hlt, if_true]
        refine (Map.wf_cons d _ _).2 ⟨hv, ?_, hw⟩
        intro q hq
        rcases List.mem_cons.1 hq with rfl | hq
        · exact hlt
        · exact Nat.lt_trans hlt (h2 q hq)
      · intro q hq
        simp only [Map.place, hlt, if_true, List.mem_cons] at hq
        rcases hq with rfl | hq
        · exact Or.inl rfl
        · exact Or.inr (by simpa using hq)
    · refine ⟨?_, ?_⟩
      · simp only [Map.place, hlt, if_false]
        refine (Map.wf_cons d _ _).2 ⟨h1, ?_, i1⟩
        intro q hq
        rcases i2 q hq with h | h
        · omega
        · exact h2 q h
      · intro q hq
        simp only [Map.place, hlt, if_false, List.mem_cons] at hq
        rcases hq with rfl | hq
        · exact Or.inr (by simp)
        · rcases i2 q hq with h | h
          · exact Or.inl h
          · exact Or.inr (by simp [h])

theorem Map.wf_set (d : α) (m : SMap α) (k : Nat) (v : α) (hw : Map.wf d m = true) : Map.wf d (Map.set d m k v) = true := by
  have hd := Map.wf_sublist d (Map.drop_sublist k m) hw
  by_cases hv : v = d
  · simpa [Map.set, hv] using hd
  · simpa [Map.set, hv] using (Map.wf_place d k v _ hv (Map.drop_keys k m) hd).1

theorem Map.wf_mod (d : α) (m : SMap α) (k : Nat) (f : α → α) (hw : Map.wf d m = true) :
    Map.wf d (Map.mod d m k f) = true := Map.wf_set d m k _ hw

theorem Map.wf_fill (d : α) (vs : List α) : ∀ (m : SMap α) (k : Nat), Map.wf d m = true → Map.wf d (Map.fill d m k vs) = true := by
  induction vs with
  | nil => intro m k h; exact h
  | cons v vs ih => intro m k h; exact ih _ _ (Map.wf_set d m k v h)

theorem Map.wf_erase (d : α) (p : Nat → Bool) (m : SMap α) (hw : Map.wf d m = true) : Map.wf d (Map.erase p m) = true :=
  Map.wf_sublist d List.filter_sublist hw

/-- A value read after a list of values was written from key `k` on. -/
theorem Map.get_fill (d : α) (vs : List α) : ∀ (m : SMap α) (k j : Nat),
    Map.get d (Map.fill d m k vs) j = if h : k ≤ j ∧ j < k + vs.length then vs[j - k]'(by omega) else Map.get d m j := by
  induction vs with
  | nil =>
    intro m k j
    rw [Map.fill, dif_neg (fun h => by have h' := h.2; rw [List.length_nil] at h'; omega)]
  | cons v vs ih =>
    intro m k j
    rw [Map.fill, ih]
    by_cases h1 : j = k
    · subst h1
      rw [dif_neg (by omega), dif_pos ⟨Nat.le_refl _, by simp⟩]
      simp
    · by_cases h2 : k + 1 ≤ j ∧ j < k + 1 + vs.length
      · have h3 : k ≤ j ∧ j < k + (v :: vs).length := by simp; omega
        rw [dif_pos h2, dif_pos h3]
        have h4 : j - k = (j - (k + 1)) + 1 := by omega
        simp [h4]
      · have h3 : ¬(k ≤ j ∧ j < k + (v :: vs).length) := by simp; omega
        rw [dif_neg h2, dif_neg h3, Map.get_set_ne d m v h1]

/-- Two maps in canonical form with the same values are the same list. -/
theorem Map.ext (d : α) : ∀ (m m' : SMap α), Map.wf d m = true → Map.wf d m' = true →
    (∀ k, Map.get d m k = Map.get d m' k) → m = m'
  | [], [], _, _, _ => rfl
  | [], q :: m', _, h', hg => by
    obtain ⟨h1, _, _⟩ := (Map.wf_cons d q m').1 h'
    exact absurd (by simpa [Map.get] using (hg q.1).symm) h1
  | p :: m, [], h, _, hg => by
    obtain ⟨h1, _, _⟩ := (Map.wf_cons d p m).1 h
    exact absurd (by simpa [Map.get] using hg p.1) h1
  | p :: m, q :: m', h, h', hg => by
    obtain ⟨p1, p2, p3⟩ := (Map.wf_cons d p m).1 h
    obtain ⟨q1, q2, q3⟩ := (Map.wf_cons d q m').1 h'
    have hgp := hg p.1
    have hgq := hg q.1
    have hk : p.1 = q.1 := by
      rcases Nat.lt_trichotomy p.1 q.1 with hlt | heq | hgt
      · rw [Map.get_below d (q :: m') p.1 (by
          intro x hx; rcases List.mem_cons.1 hx with rfl | hx
          · exact hlt
          · exact Nat.lt_trans hlt (q2 x hx))] at hgp
        exact absurd (by simpa [Map.get] using hgp) p1
      · exact heq
      · rw [Map.get_below d (p :: m) q.1 (by
          intro x hx; rcases List.mem_cons.1 hx with rfl | hx
          · exact hgt
          · exact Nat.lt_trans hgt (p2 x hx))] at hgq
        exact absurd (by simpa [Map.get] using hgq.symm) q1
    have hv : p.2 = q.2 := by simpa [Map.get, hk] using hgp
    have ht : m = m' := Map.ext d m m' p3 q3 (fun k => by
      by_cases hkp : p.1 = k
      · subst hkp
        rw [Map.get_below d m _ p2, Map.get_below d m' _ (fun x hx => hk ▸ q2 x hx)]
      · have := hg k
        simpa [Map.get, hkp, hk ▸ hkp] using this)
    rw [ht, Prod.ext hk hv]

end

end Sys2Proof.Machine
end

