-- ==== Sys2Proof/Laws/State.lean ====
section
/-!
SUPPORT. What each update of the state leaves and changes, field by field, and the parts of the state by their numbers.
-/
namespace Sys2Proof.Machine

/-! ### Fields -/

@[simp] theorem State.onTile_pending (s : State) (t : Nat) (f : Tile → Tile) : (s.onTile t f).pending = s.pending := rfl
@[simp] theorem State.onTile_mem (s : State) (t : Nat) (f : Tile → Tile) : (s.onTile t f).mem = s.mem := rfl
@[simp] theorem State.onTile_bad (s : State) (t : Nat) (f : Tile → Tile) : (s.onTile t f).bad = s.bad := rfl
@[simp] theorem State.onTile_hub (s : State) (t : Nat) (f : Tile → Tile) : (s.onTile t f).hub = s.hub := rfl
@[simp] theorem State.onTile_net (s : State) (t : Nat) (f : Tile → Tile) : (s.onTile t f).net = s.net := rfl
@[simp] theorem State.onTile_regions (s : State) (t : Nat) (f : Tile → Tile) : (s.onTile t f).regions = s.regions := rfl
@[simp] theorem State.onTile_parts (s : State) (t : Nat) (f : Tile → Tile) : (s.onTile t f).parts = s.parts := rfl
@[simp] theorem State.onTile_ports (s : State) (t : Nat) (f : Tile → Tile) : (s.onTile t f).ports = s.ports := rfl
@[simp] theorem State.onTile_dev (s : State) (t : Nat) (f : Tile → Tile) : (s.onTile t f).dev = s.dev := rfl
@[simp] theorem State.onTile_out (s : State) (t : Nat) (f : Tile → Tile) : (s.onTile t f).out = s.out := rfl
@[simp] theorem State.onTile_free (s : State) (t : Nat) (f : Tile → Tile) : (s.onTile t f).free = s.free := rfl
@[simp] theorem State.onRegion_pending (s : State) (r : Nat) (f : Reg → Reg) : (s.onRegion r f).pending = s.pending := rfl
@[simp] theorem State.onRegion_tiles (s : State) (r : Nat) (f : Reg → Reg) : (s.onRegion r f).tiles = s.tiles := rfl
@[simp] theorem State.onRegion_mem (s : State) (r : Nat) (f : Reg → Reg) : (s.onRegion r f).mem = s.mem := rfl
@[simp] theorem State.onRegion_bad (s : State) (r : Nat) (f : Reg → Reg) : (s.onRegion r f).bad = s.bad := rfl
@[simp] theorem State.onRegion_hub (s : State) (r : Nat) (f : Reg → Reg) : (s.onRegion r f).hub = s.hub := rfl
@[simp] theorem State.onRegion_net (s : State) (r : Nat) (f : Reg → Reg) : (s.onRegion r f).net = s.net := rfl
@[simp] theorem State.onRegion_parts (s : State) (r : Nat) (f : Reg → Reg) : (s.onRegion r f).parts = s.parts := rfl
@[simp] theorem State.onRegion_ports (s : State) (r : Nat) (f : Reg → Reg) : (s.onRegion r f).ports = s.ports := rfl
@[simp] theorem State.onRegion_dev (s : State) (r : Nat) (f : Reg → Reg) : (s.onRegion r f).dev = s.dev := rfl
@[simp] theorem State.onRegion_out (s : State) (r : Nat) (f : Reg → Reg) : (s.onRegion r f).out = s.out := rfl
@[simp] theorem State.onRegion_free (s : State) (r : Nat) (f : Reg → Reg) : (s.onRegion r f).free = s.free := rfl
@[simp] theorem State.onPart_pending (s : State) (n : Nat) (f : Part → Part) : (s.onPart n f).pending = s.pending := rfl
@[simp] theorem State.onPart_tiles (s : State) (n : Nat) (f : Part → Part) : (s.onPart n f).tiles = s.tiles := rfl
@[simp] theorem State.onPart_mem (s : State) (n : Nat) (f : Part → Part) : (s.onPart n f).mem = s.mem := rfl
@[simp] theorem State.onPart_bad (s : State) (n : Nat) (f : Part → Part) : (s.onPart n f).bad = s.bad := rfl
@[simp] theorem State.onPart_hub (s : State) (n : Nat) (f : Part → Part) : (s.onPart n f).hub = s.hub := rfl
@[simp] theorem State.onPart_net (s : State) (n : Nat) (f : Part → Part) : (s.onPart n f).net = s.net := rfl
@[simp] theorem State.onPart_regions (s : State) (n : Nat) (f : Part → Part) : (s.onPart n f).regions = s.regions := rfl
@[simp] theorem State.onPart_ports (s : State) (n : Nat) (f : Part → Part) : (s.onPart n f).ports = s.ports := rfl
@[simp] theorem State.onPart_dev (s : State) (n : Nat) (f : Part → Part) : (s.onPart n f).dev = s.dev := rfl
@[simp] theorem State.onPart_out (s : State) (n : Nat) (f : Part → Part) : (s.onPart n f).out = s.out := rfl
@[simp] theorem State.onPart_free (s : State) (n : Nat) (f : Part → Part) : (s.onPart n f).free = s.free := rfl
@[simp] theorem State.onPort_pending (s : State) (p : Nat) (f : PortSt → PortSt) : (s.onPort p f).pending = s.pending := rfl
@[simp] theorem State.onPort_tiles (s : State) (p : Nat) (f : PortSt → PortSt) : (s.onPort p f).tiles = s.tiles := rfl
@[simp] theorem State.onPort_mem (s : State) (p : Nat) (f : PortSt → PortSt) : (s.onPort p f).mem = s.mem := rfl
@[simp] theorem State.onPort_bad (s : State) (p : Nat) (f : PortSt → PortSt) : (s.onPort p f).bad = s.bad := rfl
@[simp] theorem State.onPort_hub (s : State) (p : Nat) (f : PortSt → PortSt) : (s.onPort p f).hub = s.hub := rfl
@[simp] theorem State.onPort_net (s : State) (p : Nat) (f : PortSt → PortSt) : (s.onPort p f).net = s.net := rfl
@[simp] theorem State.onPort_regions (s : State) (p : Nat) (f : PortSt → PortSt) : (s.onPort p f).regions = s.regions := rfl
@[simp] theorem State.onPort_parts (s : State) (p : Nat) (f : PortSt → PortSt) : (s.onPort p f).parts = s.parts := rfl
@[simp] theorem State.onPort_dev (s : State) (p : Nat) (f : PortSt → PortSt) : (s.onPort p f).dev = s.dev := rfl
@[simp] theorem State.onPort_out (s : State) (p : Nat) (f : PortSt → PortSt) : (s.onPort p f).out = s.out := rfl
@[simp] theorem State.onPort_free (s : State) (p : Nat) (f : PortSt → PortSt) : (s.onPort p f).free = s.free := rfl
@[simp] theorem State.onNet_pending (s : State) (f : Net → Net) : (s.onNet f).pending = s.pending := rfl
@[simp] theorem State.onNet_tiles (s : State) (f : Net → Net) : (s.onNet f).tiles = s.tiles := rfl
@[simp] theorem State.onNet_mem (s : State) (f : Net → Net) : (s.onNet f).mem = s.mem := rfl
@[simp] theorem State.onNet_bad (s : State) (f : Net → Net) : (s.onNet f).bad = s.bad := rfl
@[simp] theorem State.onNet_hub (s : State) (f : Net → Net) : (s.onNet f).hub = s.hub := rfl
@[simp] theorem State.onNet_regions (s : State) (f : Net → Net) : (s.onNet f).regions = s.regions := rfl
@[simp] theorem State.onNet_parts (s : State) (f : Net → Net) : (s.onNet f).parts = s.parts := rfl
@[simp] theorem State.onNet_ports (s : State) (f : Net → Net) : (s.onNet f).ports = s.ports := rfl
@[simp] theorem State.onNet_dev (s : State) (f : Net → Net) : (s.onNet f).dev = s.dev := rfl
@[simp] theorem State.onNet_out (s : State) (f : Net → Net) : (s.onNet f).out = s.out := rfl
@[simp] theorem State.onNet_free (s : State) (f : Net → Net) : (s.onNet f).free = s.free := rfl
@[simp] theorem State.onHub_pending (s : State) (f : Hub → Hub) : (s.onHub f).pending = s.pending := rfl
@[simp] theorem State.onHub_tiles (s : State) (f : Hub → Hub) : (s.onHub f).tiles = s.tiles := rfl
@[simp] theorem State.onHub_mem (s : State) (f : Hub → Hub) : (s.onHub f).mem = s.mem := rfl
@[simp] theorem State.onHub_bad (s : State) (f : Hub → Hub) : (s.onHub f).bad = s.bad := rfl
@[simp] theorem State.onHub_net (s : State) (f : Hub → Hub) : (s.onHub f).net = s.net := rfl
@[simp] theorem State.onHub_regions (s : State) (f : Hub → Hub) : (s.onHub f).regions = s.regions := rfl
@[simp] theorem State.onHub_parts (s : State) (f : Hub → Hub) : (s.onHub f).parts = s.parts := rfl
@[simp] theorem State.onHub_ports (s : State) (f : Hub → Hub) : (s.onHub f).ports = s.ports := rfl
@[simp] theorem State.onHub_dev (s : State) (f : Hub → Hub) : (s.onHub f).dev = s.dev := rfl
@[simp] theorem State.onHub_out (s : State) (f : Hub → Hub) : (s.onHub f).out = s.out := rfl
@[simp] theorem State.onHub_free (s : State) (f : Hub → Hub) : (s.onHub f).free = s.free := rfl
@[simp] theorem State.onDev_pending (s : State) (f : Dev → Dev) : (s.onDev f).pending = s.pending := rfl
@[simp] theorem State.onDev_tiles (s : State) (f : Dev → Dev) : (s.onDev f).tiles = s.tiles := rfl
@[simp] theorem State.onDev_mem (s : State) (f : Dev → Dev) : (s.onDev f).mem = s.mem := rfl
@[simp] theorem State.onDev_bad (s : State) (f : Dev → Dev) : (s.onDev f).bad = s.bad := rfl
@[simp] theorem State.onDev_hub (s : State) (f : Dev → Dev) : (s.onDev f).hub = s.hub := rfl
@[simp] theorem State.onDev_net (s : State) (f : Dev → Dev) : (s.onDev f).net = s.net := rfl
@[simp] theorem State.onDev_regions (s : State) (f : Dev → Dev) : (s.onDev f).regions = s.regions := rfl
@[simp] theorem State.onDev_parts (s : State) (f : Dev → Dev) : (s.onDev f).parts = s.parts := rfl
@[simp] theorem State.onDev_ports (s : State) (f : Dev → Dev) : (s.onDev f).ports = s.ports := rfl
@[simp] theorem State.onDev_out (s : State) (f : Dev → Dev) : (s.onDev f).out = s.out := rfl
@[simp] theorem State.onDev_free (s : State) (f : Dev → Dev) : (s.onDev f).free = s.free := rfl
@[simp] theorem State.onOut_pending (s : State) (f : Out → Out) : (s.onOut f).pending = s.pending := rfl
@[simp] theorem State.onOut_tiles (s : State) (f : Out → Out) : (s.onOut f).tiles = s.tiles := rfl
@[simp] theorem State.onOut_mem (s : State) (f : Out → Out) : (s.onOut f).mem = s.mem := rfl
@[simp] theorem State.onOut_bad (s : State) (f : Out → Out) : (s.onOut f).bad = s.bad := rfl
@[simp] theorem State.onOut_hub (s : State) (f : Out → Out) : (s.onOut f).hub = s.hub := rfl
@[simp] theorem State.onOut_net (s : State) (f : Out → Out) : (s.onOut f).net = s.net := rfl
@[simp] theorem State.onOut_regions (s : State) (f : Out → Out) : (s.onOut f).regions = s.regions := rfl
@[simp] theorem State.onOut_parts (s : State) (f : Out → Out) : (s.onOut f).parts = s.parts := rfl
@[simp] theorem State.onOut_ports (s : State) (f : Out → Out) : (s.onOut f).ports = s.ports := rfl
@[simp] theorem State.onOut_dev (s : State) (f : Out → Out) : (s.onOut f).dev = s.dev := rfl
@[simp] theorem State.onOut_free (s : State) (f : Out → Out) : (s.onOut f).free = s.free := rfl
@[simp] theorem State.onPcie_pending (s : State) (f : Pcie → Pcie) : (s.onPcie f).pending = s.pending := rfl
@[simp] theorem State.onPcie_tiles (s : State) (f : Pcie → Pcie) : (s.onPcie f).tiles = s.tiles := rfl
@[simp] theorem State.onPcie_mem (s : State) (f : Pcie → Pcie) : (s.onPcie f).mem = s.mem := rfl
@[simp] theorem State.onPcie_bad (s : State) (f : Pcie → Pcie) : (s.onPcie f).bad = s.bad := rfl
@[simp] theorem State.onPcie_hub (s : State) (f : Pcie → Pcie) : (s.onPcie f).hub = s.hub := rfl
@[simp] theorem State.onPcie_net (s : State) (f : Pcie → Pcie) : (s.onPcie f).net = s.net := rfl
@[simp] theorem State.onPcie_regions (s : State) (f : Pcie → Pcie) : (s.onPcie f).regions = s.regions := rfl
@[simp] theorem State.onPcie_parts (s : State) (f : Pcie → Pcie) : (s.onPcie f).parts = s.parts := rfl
@[simp] theorem State.onPcie_ports (s : State) (f : Pcie → Pcie) : (s.onPcie f).ports = s.ports := rfl
@[simp] theorem State.onPcie_out (s : State) (f : Pcie → Pcie) : (s.onPcie f).out = s.out := rfl
@[simp] theorem State.onPcie_free (s : State) (f : Pcie → Pcie) : (s.onPcie f).free = s.free := rfl
@[simp] theorem State.onFn_pending (s : State) (k : Nat) (f : Fn → Fn) : (s.onFn k f).pending = s.pending := rfl
@[simp] theorem State.onFn_tiles (s : State) (k : Nat) (f : Fn → Fn) : (s.onFn k f).tiles = s.tiles := rfl
@[simp] theorem State.onFn_mem (s : State) (k : Nat) (f : Fn → Fn) : (s.onFn k f).mem = s.mem := rfl
@[simp] theorem State.onFn_bad (s : State) (k : Nat) (f : Fn → Fn) : (s.onFn k f).bad = s.bad := rfl
@[simp] theorem State.onFn_hub (s : State) (k : Nat) (f : Fn → Fn) : (s.onFn k f).hub = s.hub := rfl
@[simp] theorem State.onFn_net (s : State) (k : Nat) (f : Fn → Fn) : (s.onFn k f).net = s.net := rfl
@[simp] theorem State.onFn_regions (s : State) (k : Nat) (f : Fn → Fn) : (s.onFn k f).regions = s.regions := rfl
@[simp] theorem State.onFn_parts (s : State) (k : Nat) (f : Fn → Fn) : (s.onFn k f).parts = s.parts := rfl
@[simp] theorem State.onFn_ports (s : State) (k : Nat) (f : Fn → Fn) : (s.onFn k f).ports = s.ports := rfl
@[simp] theorem State.onFn_out (s : State) (k : Nat) (f : Fn → Fn) : (s.onFn k f).out = s.out := rfl
@[simp] theorem State.onFn_free (s : State) (k : Nat) (f : Fn → Fn) : (s.onFn k f).free = s.free := rfl
@[simp] theorem State.onBoot_pending (s : State) (f : Boot → Boot) : (s.onBoot f).pending = s.pending := rfl
@[simp] theorem State.onBoot_tiles (s : State) (f : Boot → Boot) : (s.onBoot f).tiles = s.tiles := rfl
@[simp] theorem State.onBoot_mem (s : State) (f : Boot → Boot) : (s.onBoot f).mem = s.mem := rfl
@[simp] theorem State.onBoot_bad (s : State) (f : Boot → Boot) : (s.onBoot f).bad = s.bad := rfl
@[simp] theorem State.onBoot_hub (s : State) (f : Boot → Boot) : (s.onBoot f).hub = s.hub := rfl
@[simp] theorem State.onBoot_net (s : State) (f : Boot → Boot) : (s.onBoot f).net = s.net := rfl
@[simp] theorem State.onBoot_regions (s : State) (f : Boot → Boot) : (s.onBoot f).regions = s.regions := rfl
@[simp] theorem State.onBoot_parts (s : State) (f : Boot → Boot) : (s.onBoot f).parts = s.parts := rfl
@[simp] theorem State.onBoot_ports (s : State) (f : Boot → Boot) : (s.onBoot f).ports = s.ports := rfl
@[simp] theorem State.onBoot_out (s : State) (f : Boot → Boot) : (s.onBoot f).out = s.out := rfl
@[simp] theorem State.onBoot_free (s : State) (f : Boot → Boot) : (s.onBoot f).free = s.free := rfl
@[simp] theorem State.onPower_pending (s : State) (f : Power → Power) : (s.onPower f).pending = s.pending := rfl
@[simp] theorem State.onPower_tiles (s : State) (f : Power → Power) : (s.onPower f).tiles = s.tiles := rfl
@[simp] theorem State.onPower_mem (s : State) (f : Power → Power) : (s.onPower f).mem = s.mem := rfl
@[simp] theorem State.onPower_bad (s : State) (f : Power → Power) : (s.onPower f).bad = s.bad := rfl
@[simp] theorem State.onPower_hub (s : State) (f : Power → Power) : (s.onPower f).hub = s.hub := rfl
@[simp] theorem State.onPower_net (s : State) (f : Power → Power) : (s.onPower f).net = s.net := rfl
@[simp] theorem State.onPower_regions (s : State) (f : Power → Power) : (s.onPower f).regions = s.regions := rfl
@[simp] theorem State.onPower_parts (s : State) (f : Power → Power) : (s.onPower f).parts = s.parts := rfl
@[simp] theorem State.onPower_ports (s : State) (f : Power → Power) : (s.onPower f).ports = s.ports := rfl
@[simp] theorem State.onPower_out (s : State) (f : Power → Power) : (s.onPower f).out = s.out := rfl
@[simp] theorem State.onPower_free (s : State) (f : Power → Power) : (s.onPower f).free = s.free := rfl
@[simp] theorem State.onTime_pending (s : State) (f : Timing → Timing) : (s.onTime f).pending = s.pending := rfl
@[simp] theorem State.onTime_tiles (s : State) (f : Timing → Timing) : (s.onTime f).tiles = s.tiles := rfl
@[simp] theorem State.onTime_mem (s : State) (f : Timing → Timing) : (s.onTime f).mem = s.mem := rfl
@[simp] theorem State.onTime_bad (s : State) (f : Timing → Timing) : (s.onTime f).bad = s.bad := rfl
@[simp] theorem State.onTime_hub (s : State) (f : Timing → Timing) : (s.onTime f).hub = s.hub := rfl
@[simp] theorem State.onTime_net (s : State) (f : Timing → Timing) : (s.onTime f).net = s.net := rfl
@[simp] theorem State.onTime_regions (s : State) (f : Timing → Timing) : (s.onTime f).regions = s.regions := rfl
@[simp] theorem State.onTime_parts (s : State) (f : Timing → Timing) : (s.onTime f).parts = s.parts := rfl
@[simp] theorem State.onTime_ports (s : State) (f : Timing → Timing) : (s.onTime f).ports = s.ports := rfl
@[simp] theorem State.onTime_out (s : State) (f : Timing → Timing) : (s.onTime f).out = s.out := rfl
@[simp] theorem State.onTime_free (s : State) (f : Timing → Timing) : (s.onTime f).free = s.free := rfl
@[simp] theorem State.onBulk_pending (s : State) (f : Bulk → Bulk) : (s.onBulk f).pending = s.pending := rfl
@[simp] theorem State.onBulk_tiles (s : State) (f : Bulk → Bulk) : (s.onBulk f).tiles = s.tiles := rfl
@[simp] theorem State.onBulk_mem (s : State) (f : Bulk → Bulk) : (s.onBulk f).mem = s.mem := rfl
@[simp] theorem State.onBulk_bad (s : State) (f : Bulk → Bulk) : (s.onBulk f).bad = s.bad := rfl
@[simp] theorem State.onBulk_hub (s : State) (f : Bulk → Bulk) : (s.onBulk f).hub = s.hub := rfl
@[simp] theorem State.onBulk_net (s : State) (f : Bulk → Bulk) : (s.onBulk f).net = s.net := rfl
@[simp] theorem State.onBulk_regions (s : State) (f : Bulk → Bulk) : (s.onBulk f).regions = s.regions := rfl
@[simp] theorem State.onBulk_parts (s : State) (f : Bulk → Bulk) : (s.onBulk f).parts = s.parts := rfl
@[simp] theorem State.onBulk_ports (s : State) (f : Bulk → Bulk) : (s.onBulk f).ports = s.ports := rfl
@[simp] theorem State.onBulk_out (s : State) (f : Bulk → Bulk) : (s.onBulk f).out = s.out := rfl
@[simp] theorem State.onBulk_free (s : State) (f : Bulk → Bulk) : (s.onBulk f).free = s.free := rfl
@[simp] theorem State.onBlot_pending (s : State) (f : Blotter → Blotter) : (s.onBlot f).pending = s.pending := rfl
@[simp] theorem State.onBlot_tiles (s : State) (f : Blotter → Blotter) : (s.onBlot f).tiles = s.tiles := rfl
@[simp] theorem State.onBlot_mem (s : State) (f : Blotter → Blotter) : (s.onBlot f).mem = s.mem := rfl
@[simp] theorem State.onBlot_bad (s : State) (f : Blotter → Blotter) : (s.onBlot f).bad = s.bad := rfl
@[simp] theorem State.onBlot_hub (s : State) (f : Blotter → Blotter) : (s.onBlot f).hub = s.hub := rfl
@[simp] theorem State.onBlot_net (s : State) (f : Blotter → Blotter) : (s.onBlot f).net = s.net := rfl
@[simp] theorem State.onBlot_regions (s : State) (f : Blotter → Blotter) : (s.onBlot f).regions = s.regions := rfl
@[simp] theorem State.onBlot_parts (s : State) (f : Blotter → Blotter) : (s.onBlot f).parts = s.parts := rfl
@[simp] theorem State.onBlot_ports (s : State) (f : Blotter → Blotter) : (s.onBlot f).ports = s.ports := rfl
@[simp] theorem State.onBlot_out (s : State) (f : Blotter → Blotter) : (s.onBlot f).out = s.out := rfl
@[simp] theorem State.onBlot_free (s : State) (f : Blotter → Blotter) : (s.onBlot f).free = s.free := rfl
@[simp] theorem State.onSec_pending (s : State) (f : Security → Security) : (s.onSec f).pending = s.pending := rfl
@[simp] theorem State.onSec_tiles (s : State) (f : Security → Security) : (s.onSec f).tiles = s.tiles := rfl
@[simp] theorem State.onSec_mem (s : State) (f : Security → Security) : (s.onSec f).mem = s.mem := rfl
@[simp] theorem State.onSec_bad (s : State) (f : Security → Security) : (s.onSec f).bad = s.bad := rfl
@[simp] theorem State.onSec_hub (s : State) (f : Security → Security) : (s.onSec f).hub = s.hub := rfl
@[simp] theorem State.onSec_net (s : State) (f : Security → Security) : (s.onSec f).net = s.net := rfl
@[simp] theorem State.onSec_regions (s : State) (f : Security → Security) : (s.onSec f).regions = s.regions := rfl
@[simp] theorem State.onSec_parts (s : State) (f : Security → Security) : (s.onSec f).parts = s.parts := rfl
@[simp] theorem State.onSec_ports (s : State) (f : Security → Security) : (s.onSec f).ports = s.ports := rfl
@[simp] theorem State.onSec_out (s : State) (f : Security → Security) : (s.onSec f).out = s.out := rfl
@[simp] theorem State.onSec_free (s : State) (f : Security → Security) : (s.onSec f).free = s.free := rfl
@[simp] theorem State.onTrace_pending (s : State) (f : Trace → Trace) : (s.onTrace f).pending = s.pending := rfl
@[simp] theorem State.onTrace_tiles (s : State) (f : Trace → Trace) : (s.onTrace f).tiles = s.tiles := rfl
@[simp] theorem State.onTrace_mem (s : State) (f : Trace → Trace) : (s.onTrace f).mem = s.mem := rfl
@[simp] theorem State.onTrace_bad (s : State) (f : Trace → Trace) : (s.onTrace f).bad = s.bad := rfl
@[simp] theorem State.onTrace_hub (s : State) (f : Trace → Trace) : (s.onTrace f).hub = s.hub := rfl
@[simp] theorem State.onTrace_net (s : State) (f : Trace → Trace) : (s.onTrace f).net = s.net := rfl
@[simp] theorem State.onTrace_regions (s : State) (f : Trace → Trace) : (s.onTrace f).regions = s.regions := rfl
@[simp] theorem State.onTrace_parts (s : State) (f : Trace → Trace) : (s.onTrace f).parts = s.parts := rfl
@[simp] theorem State.onTrace_ports (s : State) (f : Trace → Trace) : (s.onTrace f).ports = s.ports := rfl
@[simp] theorem State.onTrace_out (s : State) (f : Trace → Trace) : (s.onTrace f).out = s.out := rfl
@[simp] theorem State.onTrace_free (s : State) (f : Trace → Trace) : (s.onTrace f).free = s.free := rfl
@[simp] theorem State.onMgmt_pending (s : State) (f : Mgmt → Mgmt) : (s.onMgmt f).pending = s.pending := rfl
@[simp] theorem State.onMgmt_tiles (s : State) (f : Mgmt → Mgmt) : (s.onMgmt f).tiles = s.tiles := rfl
@[simp] theorem State.onMgmt_mem (s : State) (f : Mgmt → Mgmt) : (s.onMgmt f).mem = s.mem := rfl
@[simp] theorem State.onMgmt_bad (s : State) (f : Mgmt → Mgmt) : (s.onMgmt f).bad = s.bad := rfl
@[simp] theorem State.onMgmt_hub (s : State) (f : Mgmt → Mgmt) : (s.onMgmt f).hub = s.hub := rfl
@[simp] theorem State.onMgmt_net (s : State) (f : Mgmt → Mgmt) : (s.onMgmt f).net = s.net := rfl
@[simp] theorem State.onMgmt_regions (s : State) (f : Mgmt → Mgmt) : (s.onMgmt f).regions = s.regions := rfl
@[simp] theorem State.onMgmt_parts (s : State) (f : Mgmt → Mgmt) : (s.onMgmt f).parts = s.parts := rfl
@[simp] theorem State.onMgmt_ports (s : State) (f : Mgmt → Mgmt) : (s.onMgmt f).ports = s.ports := rfl
@[simp] theorem State.onMgmt_out (s : State) (f : Mgmt → Mgmt) : (s.onMgmt f).out = s.out := rfl
@[simp] theorem State.onMgmt_free (s : State) (f : Mgmt → Mgmt) : (s.onMgmt f).free = s.free := rfl
@[simp] theorem State.onCx_pending (s : State) (t c : Nat) (f : Ctx → Ctx) : (s.onCx t c f).pending = s.pending := rfl
@[simp] theorem State.onCx_mem (s : State) (t c : Nat) (f : Ctx → Ctx) : (s.onCx t c f).mem = s.mem := rfl
@[simp] theorem State.onCx_bad (s : State) (t c : Nat) (f : Ctx → Ctx) : (s.onCx t c f).bad = s.bad := rfl
@[simp] theorem State.onCx_hub (s : State) (t c : Nat) (f : Ctx → Ctx) : (s.onCx t c f).hub = s.hub := rfl
@[simp] theorem State.onCx_net (s : State) (t c : Nat) (f : Ctx → Ctx) : (s.onCx t c f).net = s.net := rfl
@[simp] theorem State.onCx_regions (s : State) (t c : Nat) (f : Ctx → Ctx) : (s.onCx t c f).regions = s.regions := rfl
@[simp] theorem State.onCx_parts (s : State) (t c : Nat) (f : Ctx → Ctx) : (s.onCx t c f).parts = s.parts := rfl
@[simp] theorem State.onCx_ports (s : State) (t c : Nat) (f : Ctx → Ctx) : (s.onCx t c f).ports = s.ports := rfl
@[simp] theorem State.onCx_dev (s : State) (t c : Nat) (f : Ctx → Ctx) : (s.onCx t c f).dev = s.dev := rfl
@[simp] theorem State.onCx_out (s : State) (t c : Nat) (f : Ctx → Ctx) : (s.onCx t c f).out = s.out := rfl
@[simp] theorem State.onCx_free (s : State) (t c : Nat) (f : Ctx → Ctx) : (s.onCx t c f).free = s.free := rfl
@[simp] theorem State.onUnit_pending (s : State) (t u : Nat) (f : UnitSt → UnitSt) : (s.onUnit t u f).pending = s.pending := rfl
@[simp] theorem State.onUnit_mem (s : State) (t u : Nat) (f : UnitSt → UnitSt) : (s.onUnit t u f).mem = s.mem := rfl
@[simp] theorem State.onUnit_bad (s : State) (t u : Nat) (f : UnitSt → UnitSt) : (s.onUnit t u f).bad = s.bad := rfl
@[simp] theorem State.onUnit_hub (s : State) (t u : Nat) (f : UnitSt → UnitSt) : (s.onUnit t u f).hub = s.hub := rfl
@[simp] theorem State.onUnit_net (s : State) (t u : Nat) (f : UnitSt → UnitSt) : (s.onUnit t u f).net = s.net := rfl
@[simp] theorem State.onUnit_regions (s : State) (t u : Nat) (f : UnitSt → UnitSt) : (s.onUnit t u f).regions = s.regions := rfl
@[simp] theorem State.onUnit_parts (s : State) (t u : Nat) (f : UnitSt → UnitSt) : (s.onUnit t u f).parts = s.parts := rfl
@[simp] theorem State.onUnit_ports (s : State) (t u : Nat) (f : UnitSt → UnitSt) : (s.onUnit t u f).ports = s.ports := rfl
@[simp] theorem State.onUnit_dev (s : State) (t u : Nat) (f : UnitSt → UnitSt) : (s.onUnit t u f).dev = s.dev := rfl
@[simp] theorem State.onUnit_out (s : State) (t u : Nat) (f : UnitSt → UnitSt) : (s.onUnit t u f).out = s.out := rfl
@[simp] theorem State.onUnit_free (s : State) (t u : Nat) (f : UnitSt → UnitSt) : (s.onUnit t u f).free = s.free := rfl
@[simp] theorem State.onMail_pending (s : State) (t : Nat) (f : Mail → Mail) : (s.onMail t f).pending = s.pending := rfl
@[simp] theorem State.onMail_mem (s : State) (t : Nat) (f : Mail → Mail) : (s.onMail t f).mem = s.mem := rfl
@[simp] theorem State.onMail_bad (s : State) (t : Nat) (f : Mail → Mail) : (s.onMail t f).bad = s.bad := rfl
@[simp] theorem State.onMail_hub (s : State) (t : Nat) (f : Mail → Mail) : (s.onMail t f).hub = s.hub := rfl
@[simp] theorem State.onMail_net (s : State) (t : Nat) (f : Mail → Mail) : (s.onMail t f).net = s.net := rfl
@[simp] theorem State.onMail_regions (s : State) (t : Nat) (f : Mail → Mail) : (s.onMail t f).regions = s.regions := rfl
@[simp] theorem State.onMail_parts (s : State) (t : Nat) (f : Mail → Mail) : (s.onMail t f).parts = s.parts := rfl
@[simp] theorem State.onMail_ports (s : State) (t : Nat) (f : Mail → Mail) : (s.onMail t f).ports = s.ports := rfl
@[simp] theorem State.onMail_dev (s : State) (t : Nat) (f : Mail → Mail) : (s.onMail t f).dev = s.dev := rfl
@[simp] theorem State.onMail_out (s : State) (t : Nat) (f : Mail → Mail) : (s.onMail t f).out = s.out := rfl
@[simp] theorem State.onMail_free (s : State) (t : Nat) (f : Mail → Mail) : (s.onMail t f).free = s.free := rfl
@[simp] theorem State.onSem_pending (s : State) (n : Nat) (f : SemSt → SemSt) : (s.onSem n f).pending = s.pending := rfl
@[simp] theorem State.onSem_tiles (s : State) (n : Nat) (f : SemSt → SemSt) : (s.onSem n f).tiles = s.tiles := rfl
@[simp] theorem State.onSem_mem (s : State) (n : Nat) (f : SemSt → SemSt) : (s.onSem n f).mem = s.mem := rfl
@[simp] theorem State.onSem_bad (s : State) (n : Nat) (f : SemSt → SemSt) : (s.onSem n f).bad = s.bad := rfl
@[simp] theorem State.onSem_net (s : State) (n : Nat) (f : SemSt → SemSt) : (s.onSem n f).net = s.net := rfl
@[simp] theorem State.onSem_regions (s : State) (n : Nat) (f : SemSt → SemSt) : (s.onSem n f).regions = s.regions := rfl
@[simp] theorem State.onSem_parts (s : State) (n : Nat) (f : SemSt → SemSt) : (s.onSem n f).parts = s.parts := rfl
@[simp] theorem State.onSem_ports (s : State) (n : Nat) (f : SemSt → SemSt) : (s.onSem n f).ports = s.ports := rfl
@[simp] theorem State.onSem_dev (s : State) (n : Nat) (f : SemSt → SemSt) : (s.onSem n f).dev = s.dev := rfl
@[simp] theorem State.onSem_out (s : State) (n : Nat) (f : SemSt → SemSt) : (s.onSem n f).out = s.out := rfl
@[simp] theorem State.onSem_free (s : State) (n : Nat) (f : SemSt → SemSt) : (s.onSem n f).free = s.free := rfl
@[simp] theorem State.onBar_pending (s : State) (n : Nat) (f : BarSt → BarSt) : (s.onBar n f).pending = s.pending := rfl
@[simp] theorem State.onBar_tiles (s : State) (n : Nat) (f : BarSt → BarSt) : (s.onBar n f).tiles = s.tiles := rfl
@[simp] theorem State.onBar_mem (s : State) (n : Nat) (f : BarSt → BarSt) : (s.onBar n f).mem = s.mem := rfl
@[simp] theorem State.onBar_bad (s : State) (n : Nat) (f : BarSt → BarSt) : (s.onBar n f).bad = s.bad := rfl
@[simp] theorem State.onBar_net (s : State) (n : Nat) (f : BarSt → BarSt) : (s.onBar n f).net = s.net := rfl
@[simp] theorem State.onBar_regions (s : State) (n : Nat) (f : BarSt → BarSt) : (s.onBar n f).regions = s.regions := rfl
@[simp] theorem State.onBar_parts (s : State) (n : Nat) (f : BarSt → BarSt) : (s.onBar n f).parts = s.parts := rfl
@[simp] theorem State.onBar_ports (s : State) (n : Nat) (f : BarSt → BarSt) : (s.onBar n f).ports = s.ports := rfl
@[simp] theorem State.onBar_dev (s : State) (n : Nat) (f : BarSt → BarSt) : (s.onBar n f).dev = s.dev := rfl
@[simp] theorem State.onBar_out (s : State) (n : Nat) (f : BarSt → BarSt) : (s.onBar n f).out = s.out := rfl
@[simp] theorem State.onBar_free (s : State) (n : Nat) (f : BarSt → BarSt) : (s.onBar n f).free = s.free := rfl
@[simp] theorem State.onPcie_dev_boot (s : State) (f : Pcie → Pcie) : (s.onPcie f).dev.boot = s.dev.boot := rfl
@[simp] theorem State.onPcie_dev_power (s : State) (f : Pcie → Pcie) : (s.onPcie f).dev.power = s.dev.power := rfl
@[simp] theorem State.onPcie_dev_tm (s : State) (f : Pcie → Pcie) : (s.onPcie f).dev.tm = s.dev.tm := rfl
@[simp] theorem State.onPcie_dev_bulk (s : State) (f : Pcie → Pcie) : (s.onPcie f).dev.bulk = s.dev.bulk := rfl
@[simp] theorem State.onPcie_dev_link (s : State) (f : Pcie → Pcie) : (s.onPcie f).dev.link = s.dev.link := rfl
@[simp] theorem State.onPcie_dev_blot (s : State) (f : Pcie → Pcie) : (s.onPcie f).dev.blot = s.dev.blot := rfl
@[simp] theorem State.onPcie_dev_sec (s : State) (f : Pcie → Pcie) : (s.onPcie f).dev.sec = s.dev.sec := rfl
@[simp] theorem State.onPcie_dev_trace (s : State) (f : Pcie → Pcie) : (s.onPcie f).dev.trace = s.dev.trace := rfl
@[simp] theorem State.onPcie_dev_align (s : State) (f : Pcie → Pcie) : (s.onPcie f).dev.align = s.dev.align := rfl
@[simp] theorem State.onPcie_dev_mgmt (s : State) (f : Pcie → Pcie) : (s.onPcie f).dev.mgmt = s.dev.mgmt := rfl
@[simp] theorem State.onPcie_dev_pcie (s : State) (f : Pcie → Pcie) : (s.onPcie f).dev.pcie = f s.dev.pcie := rfl
@[simp] theorem State.onPcie_dev_staged (s : State) (f : Pcie → Pcie) : (s.onPcie f).dev.staged = s.dev.staged := rfl
@[simp] theorem State.onPcie_dev_root (s : State) (f : Pcie → Pcie) : (s.onPcie f).dev.root = s.dev.root := rfl
@[simp] theorem State.onBoot_dev_boot (s : State) (f : Boot → Boot) : (s.onBoot f).dev.boot = f s.dev.boot := rfl
@[simp] theorem State.onBoot_dev_power (s : State) (f : Boot → Boot) : (s.onBoot f).dev.power = s.dev.power := rfl
@[simp] theorem State.onBoot_dev_tm (s : State) (f : Boot → Boot) : (s.onBoot f).dev.tm = s.dev.tm := rfl
@[simp] theorem State.onBoot_dev_bulk (s : State) (f : Boot → Boot) : (s.onBoot f).dev.bulk = s.dev.bulk := rfl
@[simp] theorem State.onBoot_dev_link (s : State) (f : Boot → Boot) : (s.onBoot f).dev.link = s.dev.link := rfl
@[simp] theorem State.onBoot_dev_blot (s : State) (f : Boot → Boot) : (s.onBoot f).dev.blot = s.dev.blot := rfl
@[simp] theorem State.onBoot_dev_sec (s : State) (f : Boot → Boot) : (s.onBoot f).dev.sec = s.dev.sec := rfl
@[simp] theorem State.onBoot_dev_trace (s : State) (f : Boot → Boot) : (s.onBoot f).dev.trace = s.dev.trace := rfl
@[simp] theorem State.onBoot_dev_align (s : State) (f : Boot → Boot) : (s.onBoot f).dev.align = s.dev.align := rfl
@[simp] theorem State.onBoot_dev_mgmt (s : State) (f : Boot → Boot) : (s.onBoot f).dev.mgmt = s.dev.mgmt := rfl
@[simp] theorem State.onBoot_dev_pcie (s : State) (f : Boot → Boot) : (s.onBoot f).dev.pcie = s.dev.pcie := rfl
@[simp] theorem State.onBoot_dev_staged (s : State) (f : Boot → Boot) : (s.onBoot f).dev.staged = s.dev.staged := rfl
@[simp] theorem State.onBoot_dev_root (s : State) (f : Boot → Boot) : (s.onBoot f).dev.root = s.dev.root := rfl
@[simp] theorem State.onPower_dev_boot (s : State) (f : Power → Power) : (s.onPower f).dev.boot = s.dev.boot := rfl
@[simp] theorem State.onPower_dev_power (s : State) (f : Power → Power) : (s.onPower f).dev.power = f s.dev.power := rfl
@[simp] theorem State.onPower_dev_tm (s : State) (f : Power → Power) : (s.onPower f).dev.tm = s.dev.tm := rfl
@[simp] theorem State.onPower_dev_bulk (s : State) (f : Power → Power) : (s.onPower f).dev.bulk = s.dev.bulk := rfl
@[simp] theorem State.onPower_dev_link (s : State) (f : Power → Power) : (s.onPower f).dev.link = s.dev.link := rfl
@[simp] theorem State.onPower_dev_blot (s : State) (f : Power → Power) : (s.onPower f).dev.blot = s.dev.blot := rfl
@[simp] theorem State.onPower_dev_sec (s : State) (f : Power → Power) : (s.onPower f).dev.sec = s.dev.sec := rfl
@[simp] theorem State.onPower_dev_trace (s : State) (f : Power → Power) : (s.onPower f).dev.trace = s.dev.trace := rfl
@[simp] theorem State.onPower_dev_align (s : State) (f : Power → Power) : (s.onPower f).dev.align = s.dev.align := rfl
@[simp] theorem State.onPower_dev_mgmt (s : State) (f : Power → Power) : (s.onPower f).dev.mgmt = s.dev.mgmt := rfl
@[simp] theorem State.onPower_dev_pcie (s : State) (f : Power → Power) : (s.onPower f).dev.pcie = s.dev.pcie := rfl
@[simp] theorem State.onPower_dev_staged (s : State) (f : Power → Power) : (s.onPower f).dev.staged = s.dev.staged := rfl
@[simp] theorem State.onPower_dev_root (s : State) (f : Power → Power) : (s.onPower f).dev.root = s.dev.root := rfl
@[simp] theorem State.onTime_dev_boot (s : State) (f : Timing → Timing) : (s.onTime f).dev.boot = s.dev.boot := rfl
@[simp] theorem State.onTime_dev_power (s : State) (f : Timing → Timing) : (s.onTime f).dev.power = s.dev.power := rfl
@[simp] theorem State.onTime_dev_tm (s : State) (f : Timing → Timing) : (s.onTime f).dev.tm = f s.dev.tm := rfl
@[simp] theorem State.onTime_dev_bulk (s : State) (f : Timing → Timing) : (s.onTime f).dev.bulk = s.dev.bulk := rfl
@[simp] theorem State.onTime_dev_link (s : State) (f : Timing → Timing) : (s.onTime f).dev.link = s.dev.link := rfl
@[simp] theorem State.onTime_dev_blot (s : State) (f : Timing → Timing) : (s.onTime f).dev.blot = s.dev.blot := rfl
@[simp] theorem State.onTime_dev_sec (s : State) (f : Timing → Timing) : (s.onTime f).dev.sec = s.dev.sec := rfl
@[simp] theorem State.onTime_dev_trace (s : State) (f : Timing → Timing) : (s.onTime f).dev.trace = s.dev.trace := rfl
@[simp] theorem State.onTime_dev_align (s : State) (f : Timing → Timing) : (s.onTime f).dev.align = s.dev.align := rfl
@[simp] theorem State.onTime_dev_mgmt (s : State) (f : Timing → Timing) : (s.onTime f).dev.mgmt = s.dev.mgmt := rfl
@[simp] theorem State.onTime_dev_pcie (s : State) (f : Timing → Timing) : (s.onTime f).dev.pcie = s.dev.pcie := rfl
@[simp] theorem State.onTime_dev_staged (s : State) (f : Timing → Timing) : (s.onTime f).dev.staged = s.dev.staged := rfl
@[simp] theorem State.onTime_dev_root (s : State) (f : Timing → Timing) : (s.onTime f).dev.root = s.dev.root := rfl
@[simp] theorem State.onBulk_dev_boot (s : State) (f : Bulk → Bulk) : (s.onBulk f).dev.boot = s.dev.boot := rfl
@[simp] theorem State.onBulk_dev_power (s : State) (f : Bulk → Bulk) : (s.onBulk f).dev.power = s.dev.power := rfl
@[simp] theorem State.onBulk_dev_tm (s : State) (f : Bulk → Bulk) : (s.onBulk f).dev.tm = s.dev.tm := rfl
@[simp] theorem State.onBulk_dev_bulk (s : State) (f : Bulk → Bulk) : (s.onBulk f).dev.bulk = f s.dev.bulk := rfl
@[simp] theorem State.onBulk_dev_link (s : State) (f : Bulk → Bulk) : (s.onBulk f).dev.link = s.dev.link := rfl
@[simp] theorem State.onBulk_dev_blot (s : State) (f : Bulk → Bulk) : (s.onBulk f).dev.blot = s.dev.blot := rfl
@[simp] theorem State.onBulk_dev_sec (s : State) (f : Bulk → Bulk) : (s.onBulk f).dev.sec = s.dev.sec := rfl
@[simp] theorem State.onBulk_dev_trace (s : State) (f : Bulk → Bulk) : (s.onBulk f).dev.trace = s.dev.trace := rfl
@[simp] theorem State.onBulk_dev_align (s : State) (f : Bulk → Bulk) : (s.onBulk f).dev.align = s.dev.align := rfl
@[simp] theorem State.onBulk_dev_mgmt (s : State) (f : Bulk → Bulk) : (s.onBulk f).dev.mgmt = s.dev.mgmt := rfl
@[simp] theorem State.onBulk_dev_pcie (s : State) (f : Bulk → Bulk) : (s.onBulk f).dev.pcie = s.dev.pcie := rfl
@[simp] theorem State.onBulk_dev_staged (s : State) (f : Bulk → Bulk) : (s.onBulk f).dev.staged = s.dev.staged := rfl
@[simp] theorem State.onBulk_dev_root (s : State) (f : Bulk → Bulk) : (s.onBulk f).dev.root = s.dev.root := rfl
@[simp] theorem State.onBlot_dev_boot (s : State) (f : Blotter → Blotter) : (s.onBlot f).dev.boot = s.dev.boot := rfl
@[simp] theorem State.onBlot_dev_power (s : State) (f : Blotter → Blotter) : (s.onBlot f).dev.power = s.dev.power := rfl
@[simp] theorem State.onBlot_dev_tm (s : State) (f : Blotter → Blotter) : (s.onBlot f).dev.tm = s.dev.tm := rfl
@[simp] theorem State.onBlot_dev_bulk (s : State) (f : Blotter → Blotter) : (s.onBlot f).dev.bulk = s.dev.bulk := rfl
@[simp] theorem State.onBlot_dev_link (s : State) (f : Blotter → Blotter) : (s.onBlot f).dev.link = s.dev.link := rfl
@[simp] theorem State.onBlot_dev_blot (s : State) (f : Blotter → Blotter) : (s.onBlot f).dev.blot = f s.dev.blot := rfl
@[simp] theorem State.onBlot_dev_sec (s : State) (f : Blotter → Blotter) : (s.onBlot f).dev.sec = s.dev.sec := rfl
@[simp] theorem State.onBlot_dev_trace (s : State) (f : Blotter → Blotter) : (s.onBlot f).dev.trace = s.dev.trace := rfl
@[simp] theorem State.onBlot_dev_align (s : State) (f : Blotter → Blotter) : (s.onBlot f).dev.align = s.dev.align := rfl
@[simp] theorem State.onBlot_dev_mgmt (s : State) (f : Blotter → Blotter) : (s.onBlot f).dev.mgmt = s.dev.mgmt := rfl
@[simp] theorem State.onBlot_dev_pcie (s : State) (f : Blotter → Blotter) : (s.onBlot f).dev.pcie = s.dev.pcie := rfl
@[simp] theorem State.onBlot_dev_staged (s : State) (f : Blotter → Blotter) : (s.onBlot f).dev.staged = s.dev.staged := rfl
@[simp] theorem State.onBlot_dev_root (s : State) (f : Blotter → Blotter) : (s.onBlot f).dev.root = s.dev.root := rfl
@[simp] theorem State.onSec_dev_boot (s : State) (f : Security → Security) : (s.onSec f).dev.boot = s.dev.boot := rfl
@[simp] theorem State.onSec_dev_power (s : State) (f : Security → Security) : (s.onSec f).dev.power = s.dev.power := rfl
@[simp] theorem State.onSec_dev_tm (s : State) (f : Security → Security) : (s.onSec f).dev.tm = s.dev.tm := rfl
@[simp] theorem State.onSec_dev_bulk (s : State) (f : Security → Security) : (s.onSec f).dev.bulk = s.dev.bulk := rfl
@[simp] theorem State.onSec_dev_link (s : State) (f : Security → Security) : (s.onSec f).dev.link = s.dev.link := rfl
@[simp] theorem State.onSec_dev_blot (s : State) (f : Security → Security) : (s.onSec f).dev.blot = s.dev.blot := rfl
@[simp] theorem State.onSec_dev_sec (s : State) (f : Security → Security) : (s.onSec f).dev.sec = f s.dev.sec := rfl
@[simp] theorem State.onSec_dev_trace (s : State) (f : Security → Security) : (s.onSec f).dev.trace = s.dev.trace := rfl
@[simp] theorem State.onSec_dev_align (s : State) (f : Security → Security) : (s.onSec f).dev.align = s.dev.align := rfl
@[simp] theorem State.onSec_dev_mgmt (s : State) (f : Security → Security) : (s.onSec f).dev.mgmt = s.dev.mgmt := rfl
@[simp] theorem State.onSec_dev_pcie (s : State) (f : Security → Security) : (s.onSec f).dev.pcie = s.dev.pcie := rfl
@[simp] theorem State.onSec_dev_staged (s : State) (f : Security → Security) : (s.onSec f).dev.staged = s.dev.staged := rfl
@[simp] theorem State.onSec_dev_root (s : State) (f : Security → Security) : (s.onSec f).dev.root = s.dev.root := rfl
@[simp] theorem State.onTrace_dev_boot (s : State) (f : Trace → Trace) : (s.onTrace f).dev.boot = s.dev.boot := rfl
@[simp] theorem State.onTrace_dev_power (s : State) (f : Trace → Trace) : (s.onTrace f).dev.power = s.dev.power := rfl
@[simp] theorem State.onTrace_dev_tm (s : State) (f : Trace → Trace) : (s.onTrace f).dev.tm = s.dev.tm := rfl
@[simp] theorem State.onTrace_dev_bulk (s : State) (f : Trace → Trace) : (s.onTrace f).dev.bulk = s.dev.bulk := rfl
@[simp] theorem State.onTrace_dev_link (s : State) (f : Trace → Trace) : (s.onTrace f).dev.link = s.dev.link := rfl
@[simp] theorem State.onTrace_dev_blot (s : State) (f : Trace → Trace) : (s.onTrace f).dev.blot = s.dev.blot := rfl
@[simp] theorem State.onTrace_dev_sec (s : State) (f : Trace → Trace) : (s.onTrace f).dev.sec = s.dev.sec := rfl
@[simp] theorem State.onTrace_dev_trace (s : State) (f : Trace → Trace) : (s.onTrace f).dev.trace = f s.dev.trace := rfl
@[simp] theorem State.onTrace_dev_align (s : State) (f : Trace → Trace) : (s.onTrace f).dev.align = s.dev.align := rfl
@[simp] theorem State.onTrace_dev_mgmt (s : State) (f : Trace → Trace) : (s.onTrace f).dev.mgmt = s.dev.mgmt := rfl
@[simp] theorem State.onTrace_dev_pcie (s : State) (f : Trace → Trace) : (s.onTrace f).dev.pcie = s.dev.pcie := rfl
@[simp] theorem State.onTrace_dev_staged (s : State) (f : Trace → Trace) : (s.onTrace f).dev.staged = s.dev.staged := rfl
@[simp] theorem State.onTrace_dev_root (s : State) (f : Trace → Trace) : (s.onTrace f).dev.root = s.dev.root := rfl
@[simp] theorem State.onMgmt_dev_boot (s : State) (f : Mgmt → Mgmt) : (s.onMgmt f).dev.boot = s.dev.boot := rfl
@[simp] theorem State.onMgmt_dev_power (s : State) (f : Mgmt → Mgmt) : (s.onMgmt f).dev.power = s.dev.power := rfl
@[simp] theorem State.onMgmt_dev_tm (s : State) (f : Mgmt → Mgmt) : (s.onMgmt f).dev.tm = s.dev.tm := rfl
@[simp] theorem State.onMgmt_dev_bulk (s : State) (f : Mgmt → Mgmt) : (s.onMgmt f).dev.bulk = s.dev.bulk := rfl
@[simp] theorem State.onMgmt_dev_link (s : State) (f : Mgmt → Mgmt) : (s.onMgmt f).dev.link = s.dev.link := rfl
@[simp] theorem State.onMgmt_dev_blot (s : State) (f : Mgmt → Mgmt) : (s.onMgmt f).dev.blot = s.dev.blot := rfl
@[simp] theorem State.onMgmt_dev_sec (s : State) (f : Mgmt → Mgmt) : (s.onMgmt f).dev.sec = s.dev.sec := rfl
@[simp] theorem State.onMgmt_dev_trace (s : State) (f : Mgmt → Mgmt) : (s.onMgmt f).dev.trace = s.dev.trace := rfl
@[simp] theorem State.onMgmt_dev_align (s : State) (f : Mgmt → Mgmt) : (s.onMgmt f).dev.align = s.dev.align := rfl
@[simp] theorem State.onMgmt_dev_mgmt (s : State) (f : Mgmt → Mgmt) : (s.onMgmt f).dev.mgmt = f s.dev.mgmt := rfl
@[simp] theorem State.onMgmt_dev_pcie (s : State) (f : Mgmt → Mgmt) : (s.onMgmt f).dev.pcie = s.dev.pcie := rfl
@[simp] theorem State.onMgmt_dev_staged (s : State) (f : Mgmt → Mgmt) : (s.onMgmt f).dev.staged = s.dev.staged := rfl
@[simp] theorem State.onMgmt_dev_root (s : State) (f : Mgmt → Mgmt) : (s.onMgmt f).dev.root = s.dev.root := rfl
@[simp] theorem State.onFn_dev_boot (s : State) (k : Nat) (f : Fn → Fn) : (s.onFn k f).dev.boot = s.dev.boot := rfl
@[simp] theorem State.onFn_dev_power (s : State) (k : Nat) (f : Fn → Fn) : (s.onFn k f).dev.power = s.dev.power := rfl
@[simp] theorem State.onFn_dev_tm (s : State) (k : Nat) (f : Fn → Fn) : (s.onFn k f).dev.tm = s.dev.tm := rfl
@[simp] theorem State.onFn_dev_bulk (s : State) (k : Nat) (f : Fn → Fn) : (s.onFn k f).dev.bulk = s.dev.bulk := rfl
@[simp] theorem State.onFn_dev_link (s : State) (k : Nat) (f : Fn → Fn) : (s.onFn k f).dev.link = s.dev.link := rfl
@[simp] theorem State.onFn_dev_blot (s : State) (k : Nat) (f : Fn → Fn) : (s.onFn k f).dev.blot = s.dev.blot := rfl
@[simp] theorem State.onFn_dev_sec (s : State) (k : Nat) (f : Fn → Fn) : (s.onFn k f).dev.sec = s.dev.sec := rfl
@[simp] theorem State.onFn_dev_trace (s : State) (k : Nat) (f : Fn → Fn) : (s.onFn k f).dev.trace = s.dev.trace := rfl
@[simp] theorem State.onFn_dev_align (s : State) (k : Nat) (f : Fn → Fn) : (s.onFn k f).dev.align = s.dev.align := rfl
@[simp] theorem State.onFn_dev_mgmt (s : State) (k : Nat) (f : Fn → Fn) : (s.onFn k f).dev.mgmt = s.dev.mgmt := rfl
@[simp] theorem State.onFn_dev_staged (s : State) (k : Nat) (f : Fn → Fn) : (s.onFn k f).dev.staged = s.dev.staged := rfl
@[simp] theorem State.onFn_dev_root (s : State) (k : Nat) (f : Fn → Fn) : (s.onFn k f).dev.root = s.dev.root := rfl
@[simp] theorem State.onStaged_pending (s : State) (f : Staged → Staged) : (s.onStaged f).pending = s.pending := rfl
@[simp] theorem State.onStaged_tiles (s : State) (f : Staged → Staged) : (s.onStaged f).tiles = s.tiles := rfl
@[simp] theorem State.onStaged_mem (s : State) (f : Staged → Staged) : (s.onStaged f).mem = s.mem := rfl
@[simp] theorem State.onStaged_bad (s : State) (f : Staged → Staged) : (s.onStaged f).bad = s.bad := rfl
@[simp] theorem State.onStaged_hub (s : State) (f : Staged → Staged) : (s.onStaged f).hub = s.hub := rfl
@[simp] theorem State.onStaged_net (s : State) (f : Staged → Staged) : (s.onStaged f).net = s.net := rfl
@[simp] theorem State.onStaged_regions (s : State) (f : Staged → Staged) : (s.onStaged f).regions = s.regions := rfl
@[simp] theorem State.onStaged_parts (s : State) (f : Staged → Staged) : (s.onStaged f).parts = s.parts := rfl
@[simp] theorem State.onStaged_ports (s : State) (f : Staged → Staged) : (s.onStaged f).ports = s.ports := rfl
@[simp] theorem State.onStaged_out (s : State) (f : Staged → Staged) : (s.onStaged f).out = s.out := rfl
@[simp] theorem State.onStaged_free (s : State) (f : Staged → Staged) : (s.onStaged f).free = s.free := rfl
@[simp] theorem State.onStaged_dev_boot (s : State) (f : Staged → Staged) : (s.onStaged f).dev.boot = s.dev.boot := rfl
@[simp] theorem State.onStaged_dev_power (s : State) (f : Staged → Staged) : (s.onStaged f).dev.power = s.dev.power := rfl
@[simp] theorem State.onStaged_dev_tm (s : State) (f : Staged → Staged) : (s.onStaged f).dev.tm = s.dev.tm := rfl
@[simp] theorem State.onStaged_dev_bulk (s : State) (f : Staged → Staged) : (s.onStaged f).dev.bulk = s.dev.bulk := rfl
@[simp] theorem State.onStaged_dev_link (s : State) (f : Staged → Staged) : (s.onStaged f).dev.link = s.dev.link := rfl
@[simp] theorem State.onStaged_dev_blot (s : State) (f : Staged → Staged) : (s.onStaged f).dev.blot = s.dev.blot := rfl
@[simp] theorem State.onStaged_dev_sec (s : State) (f : Staged → Staged) : (s.onStaged f).dev.sec = s.dev.sec := rfl
@[simp] theorem State.onStaged_dev_trace (s : State) (f : Staged → Staged) : (s.onStaged f).dev.trace = s.dev.trace := rfl
@[simp] theorem State.onStaged_dev_align (s : State) (f : Staged → Staged) : (s.onStaged f).dev.align = s.dev.align := rfl
@[simp] theorem State.onStaged_dev_mgmt (s : State) (f : Staged → Staged) : (s.onStaged f).dev.mgmt = s.dev.mgmt := rfl
@[simp] theorem State.onStaged_dev_pcie (s : State) (f : Staged → Staged) : (s.onStaged f).dev.pcie = s.dev.pcie := rfl
@[simp] theorem State.onStaged_dev_staged (s : State) (f : Staged → Staged) : (s.onStaged f).dev.staged = f s.dev.staged := rfl
@[simp] theorem State.onStaged_dev_root (s : State) (f : Staged → Staged) : (s.onStaged f).dev.root = s.dev.root := rfl
@[simp] theorem State.onLink_pending (s : State) (f : LinkCfg → LinkCfg) : (s.onLink f).pending = s.pending := rfl
@[simp] theorem State.onLink_tiles (s : State) (f : LinkCfg → LinkCfg) : (s.onLink f).tiles = s.tiles := rfl
@[simp] theorem State.onLink_mem (s : State) (f : LinkCfg → LinkCfg) : (s.onLink f).mem = s.mem := rfl
@[simp] theorem State.onLink_bad (s : State) (f : LinkCfg → LinkCfg) : (s.onLink f).bad = s.bad := rfl
@[simp] theorem State.onLink_hub (s : State) (f : LinkCfg → LinkCfg) : (s.onLink f).hub = s.hub := rfl
@[simp] theorem State.onLink_net (s : State) (f : LinkCfg → LinkCfg) : (s.onLink f).net = s.net := rfl
@[simp] theorem State.onLink_regions (s : State) (f : LinkCfg → LinkCfg) : (s.onLink f).regions = s.regions := rfl
@[simp] theorem State.onLink_parts (s : State) (f : LinkCfg → LinkCfg) : (s.onLink f).parts = s.parts := rfl
@[simp] theorem State.onLink_ports (s : State) (f : LinkCfg → LinkCfg) : (s.onLink f).ports = s.ports := rfl
@[simp] theorem State.onLink_out (s : State) (f : LinkCfg → LinkCfg) : (s.onLink f).out = s.out := rfl
@[simp] theorem State.onLink_free (s : State) (f : LinkCfg → LinkCfg) : (s.onLink f).free = s.free := rfl
@[simp] theorem State.onLink_dev_boot (s : State) (f : LinkCfg → LinkCfg) : (s.onLink f).dev.boot = s.dev.boot := rfl
@[simp] theorem State.onLink_dev_power (s : State) (f : LinkCfg → LinkCfg) : (s.onLink f).dev.power = s.dev.power := rfl
@[simp] theorem State.onLink_dev_tm (s : State) (f : LinkCfg → LinkCfg) : (s.onLink f).dev.tm = s.dev.tm := rfl
@[simp] theorem State.onLink_dev_bulk (s : State) (f : LinkCfg → LinkCfg) : (s.onLink f).dev.bulk = s.dev.bulk := rfl
@[simp] theorem State.onLink_dev_link (s : State) (f : LinkCfg → LinkCfg) : (s.onLink f).dev.link = f s.dev.link := rfl
@[simp] theorem State.onLink_dev_blot (s : State) (f : LinkCfg → LinkCfg) : (s.onLink f).dev.blot = s.dev.blot := rfl
@[simp] theorem State.onLink_dev_sec (s : State) (f : LinkCfg → LinkCfg) : (s.onLink f).dev.sec = s.dev.sec := rfl
@[simp] theorem State.onLink_dev_trace (s : State) (f : LinkCfg → LinkCfg) : (s.onLink f).dev.trace = s.dev.trace := rfl
@[simp] theorem State.onLink_dev_align (s : State) (f : LinkCfg → LinkCfg) : (s.onLink f).dev.align = s.dev.align := rfl
@[simp] theorem State.onLink_dev_mgmt (s : State) (f : LinkCfg → LinkCfg) : (s.onLink f).dev.mgmt = s.dev.mgmt := rfl
@[simp] theorem State.onLink_dev_pcie (s : State) (f : LinkCfg → LinkCfg) : (s.onLink f).dev.pcie = s.dev.pcie := rfl
@[simp] theorem State.onLink_dev_staged (s : State) (f : LinkCfg → LinkCfg) : (s.onLink f).dev.staged = s.dev.staged := rfl
@[simp] theorem State.onLink_dev_root (s : State) (f : LinkCfg → LinkCfg) : (s.onLink f).dev.root = s.dev.root := rfl
@[simp] theorem State.onRc_pending (s : State) (r : Nat) (f : RcSlice → RcSlice) : (s.onRc r f).pending = s.pending := rfl
@[simp] theorem State.onRc_tiles (s : State) (r : Nat) (f : RcSlice → RcSlice) : (s.onRc r f).tiles = s.tiles := rfl
@[simp] theorem State.onRc_mem (s : State) (r : Nat) (f : RcSlice → RcSlice) : (s.onRc r f).mem = s.mem := rfl
@[simp] theorem State.onRc_bad (s : State) (r : Nat) (f : RcSlice → RcSlice) : (s.onRc r f).bad = s.bad := rfl
@[simp] theorem State.onRc_hub (s : State) (r : Nat) (f : RcSlice → RcSlice) : (s.onRc r f).hub = s.hub := rfl
@[simp] theorem State.onRc_net (s : State) (r : Nat) (f : RcSlice → RcSlice) : (s.onRc r f).net = s.net := rfl
@[simp] theorem State.onRc_parts (s : State) (r : Nat) (f : RcSlice → RcSlice) : (s.onRc r f).parts = s.parts := rfl
@[simp] theorem State.onRc_ports (s : State) (r : Nat) (f : RcSlice → RcSlice) : (s.onRc r f).ports = s.ports := rfl
@[simp] theorem State.onRc_out (s : State) (r : Nat) (f : RcSlice → RcSlice) : (s.onRc r f).out = s.out := rfl
@[simp] theorem State.onRc_free (s : State) (r : Nat) (f : RcSlice → RcSlice) : (s.onRc r f).free = s.free := rfl
@[simp] theorem State.onRc_dev (s : State) (r : Nat) (f : RcSlice → RcSlice) : (s.onRc r f).dev = s.dev := rfl
@[simp] theorem State.onNet_net (s : State) (f : Net → Net) : (s.onNet f).net = f s.net := rfl
@[simp] theorem State.onHub_hub (s : State) (f : Hub → Hub) : (s.onHub f).hub = f s.hub := rfl
@[simp] theorem State.onDev_dev (s : State) (f : Dev → Dev) : (s.onDev f).dev = f s.dev := rfl
@[simp] theorem State.onOut_out (s : State) (f : Out → Out) : (s.onOut f).out = f s.out := rfl
@[simp] theorem Tile.onUn_ctx (x : Tile) (f : Units → Units) : (x.onUn f).ctx = x.ctx := rfl
@[simp] theorem Tile.onUnit_ctx (x : Tile) (u : Nat) (f : UnitSt → UnitSt) : (x.onUnit u f).ctx = x.ctx := rfl
@[simp] theorem Tile.onCx_flags (x : Tile) (c : Nat) (f : Ctx → Ctx) : (x.onCx c f).flags = x.flags := rfl
@[simp] theorem Tile.onUn_flags (x : Tile) (f : Units → Units) : (x.onUn f).flags = x.flags := rfl
@[simp] theorem Tile.onUnit_flags (x : Tile) (u : Nat) (f : UnitSt → UnitSt) : (x.onUnit u f).flags = x.flags := rfl
@[simp] theorem Tile.onCx_fe (x : Tile) (c : Nat) (f : Ctx → Ctx) : (x.onCx c f).fe = x.fe := rfl
@[simp] theorem Tile.onUn_fe (x : Tile) (f : Units → Units) : (x.onUn f).fe = x.fe := rfl
@[simp] theorem Tile.onUnit_fe (x : Tile) (u : Nat) (f : UnitSt → UnitSt) : (x.onUnit u f).fe = x.fe := rfl
@[simp] theorem Tile.onCx_rlb (x : Tile) (c : Nat) (f : Ctx → Ctx) : (x.onCx c f).rlb = x.rlb := rfl
@[simp] theorem Tile.onUn_rlb (x : Tile) (f : Units → Units) : (x.onUn f).rlb = x.rlb := rfl
@[simp] theorem Tile.onUnit_rlb (x : Tile) (u : Nat) (f : UnitSt → UnitSt) : (x.onUnit u f).rlb = x.rlb := rfl
@[simp] theorem Tile.onCx_phaseStep (x : Tile) (c : Nat) (f : Ctx → Ctx) : (x.onCx c f).phaseStep = x.phaseStep := rfl
@[simp] theorem Tile.onUn_phaseStep (x : Tile) (f : Units → Units) : (x.onUn f).phaseStep = x.phaseStep := rfl
@[simp] theorem Tile.onUnit_phaseStep (x : Tile) (u : Nat) (f : UnitSt → UnitSt) : (x.onUnit u f).phaseStep = x.phaseStep := rfl
@[simp] theorem Tile.onCx_phasePc (x : Tile) (c : Nat) (f : Ctx → Ctx) : (x.onCx c f).phasePc = x.phasePc := rfl
@[simp] theorem Tile.onUn_phasePc (x : Tile) (f : Units → Units) : (x.onUn f).phasePc = x.phasePc := rfl
@[simp] theorem Tile.onUnit_phasePc (x : Tile) (u : Nat) (f : UnitSt → UnitSt) : (x.onUnit u f).phasePc = x.phasePc := rfl
@[simp] theorem Tile.onCx_nf (x : Tile) (c : Nat) (f : Ctx → Ctx) : (x.onCx c f).nf = x.nf := rfl
@[simp] theorem Tile.onUn_nf (x : Tile) (f : Units → Units) : (x.onUn f).nf = x.nf := rfl
@[simp] theorem Tile.onUnit_nf (x : Tile) (u : Nat) (f : UnitSt → UnitSt) : (x.onUnit u f).nf = x.nf := rfl
@[simp] theorem Tile.onCx_fenced (x : Tile) (c : Nat) (f : Ctx → Ctx) : (x.onCx c f).fenced = x.fenced := rfl
@[simp] theorem Tile.onUn_fenced (x : Tile) (f : Units → Units) : (x.onUn f).fenced = x.fenced := rfl
@[simp] theorem Tile.onUnit_fenced (x : Tile) (u : Nat) (f : UnitSt → UnitSt) : (x.onUnit u f).fenced = x.fenced := rfl
@[simp] theorem Tile.onCx_clearing (x : Tile) (c : Nat) (f : Ctx → Ctx) : (x.onCx c f).clearing = x.clearing := rfl
@[simp] theorem Tile.onUn_clearing (x : Tile) (f : Units → Units) : (x.onUn f).clearing = x.clearing := rfl
@[simp] theorem Tile.onUnit_clearing (x : Tile) (u : Nat) (f : UnitSt → UnitSt) : (x.onUnit u f).clearing = x.clearing := rfl
@[simp] theorem Tile.onCx_faulted (x : Tile) (c : Nat) (f : Ctx → Ctx) : (x.onCx c f).faulted = x.faulted := rfl
@[simp] theorem Tile.onUn_faulted (x : Tile) (f : Units → Units) : (x.onUn f).faulted = x.faulted := rfl
@[simp] theorem Tile.onUnit_faulted (x : Tile) (u : Nat) (f : UnitSt → UnitSt) : (x.onUnit u f).faulted = x.faulted := rfl
@[simp] theorem Tile.onCx_epochs (x : Tile) (c : Nat) (f : Ctx → Ctx) : (x.onCx c f).epochs = x.epochs := rfl
@[simp] theorem Tile.onUn_epochs (x : Tile) (f : Units → Units) : (x.onUn f).epochs = x.epochs := rfl
@[simp] theorem Tile.onUnit_epochs (x : Tile) (u : Nat) (f : UnitSt → UnitSt) : (x.onUnit u f).epochs = x.epochs := rfl
@[simp] theorem Tile.onCx_barPending (x : Tile) (c : Nat) (f : Ctx → Ctx) : (x.onCx c f).barPending = x.barPending := rfl
@[simp] theorem Tile.onUn_barPending (x : Tile) (f : Units → Units) : (x.onUn f).barPending = x.barPending := rfl
@[simp] theorem Tile.onUnit_barPending (x : Tile) (u : Nat) (f : UnitSt → UnitSt) : (x.onUnit u f).barPending = x.barPending := rfl
@[simp] theorem Tile.onCx_un (x : Tile) (c : Nat) (f : Ctx → Ctx) : (x.onCx c f).un = x.un := rfl
@[simp] theorem Tile.onCx_mail (x : Tile) (c : Nat) (f : Ctx → Ctx) : (x.onCx c f).mail = x.mail := rfl
@[simp] theorem Tile.onUn_mail (x : Tile) (f : Units → Units) : (x.onUn f).mail = x.mail := rfl
@[simp] theorem Tile.onUnit_mail (x : Tile) (u : Nat) (f : UnitSt → UnitSt) : (x.onUnit u f).mail = x.mail := rfl
@[simp] theorem Tile.onCx_cnt (x : Tile) (c : Nat) (f : Ctx → Ctx) : (x.onCx c f).cnt = x.cnt := rfl
@[simp] theorem Tile.onUn_cnt (x : Tile) (f : Units → Units) : (x.onUn f).cnt = x.cnt := rfl
@[simp] theorem Tile.onUnit_cnt (x : Tile) (u : Nat) (f : UnitSt → UnitSt) : (x.onUnit u f).cnt = x.cnt := rfl
@[simp] theorem Tile.onCx_dbg (x : Tile) (c : Nat) (f : Ctx → Ctx) : (x.onCx c f).dbg = x.dbg := rfl
@[simp] theorem Tile.onUn_dbg (x : Tile) (f : Units → Units) : (x.onUn f).dbg = x.dbg := rfl
@[simp] theorem Tile.onUnit_dbg (x : Tile) (u : Nat) (f : UnitSt → UnitSt) : (x.onUnit u f).dbg = x.dbg := rfl
@[simp] theorem Tile.onUn_un (x : Tile) (f : Units → Units) : (x.onUn f).un = f x.un := rfl
@[simp] theorem Ctx.setReg_descs (k : Ctx) (i : Nat) (v : Word) : (k.setReg i v).descs = k.descs := by
  simp only [Ctx.setReg]; split <;> rfl
@[simp] theorem Ctx.setReg_pc (k : Ctx) (i : Nat) (v : Word) : (k.setReg i v).pc = k.pc := by
  simp only [Ctx.setReg]; split <;> rfl
@[simp] theorem Ctx.setDesc_pc (k : Ctx) (i : Nat) (v : BitVec 256) : (k.setDesc i v).pc = k.pc := rfl
@[simp] theorem Ctx.setReg_st (k : Ctx) (i : Nat) (v : Word) : (k.setReg i v).st = k.st := by
  simp only [Ctx.setReg]; split <;> rfl
@[simp] theorem Ctx.setDesc_st (k : Ctx) (i : Nat) (v : BitVec 256) : (k.setDesc i v).st = k.st := rfl
@[simp] theorem Ctx.setReg_wait (k : Ctx) (i : Nat) (v : Word) : (k.setReg i v).wait = k.wait := by
  simp only [Ctx.setReg]; split <;> rfl
@[simp] theorem Ctx.setDesc_wait (k : Ctx) (i : Nat) (v : BitVec 256) : (k.setDesc i v).wait = k.wait := rfl
@[simp] theorem Ctx.setReg_fetch (k : Ctx) (i : Nat) (v : Word) : (k.setReg i v).fetch = k.fetch := by
  simp only [Ctx.setReg]; split <;> rfl
@[simp] theorem Ctx.setDesc_fetch (k : Ctx) (i : Nat) (v : BitVec 256) : (k.setDesc i v).fetch = k.fetch := rfl
@[simp] theorem Ctx.setReg_bypass (k : Ctx) (i : Nat) (v : Word) : (k.setReg i v).bypass = k.bypass := by
  simp only [Ctx.setReg]; split <;> rfl
@[simp] theorem Ctx.setDesc_bypass (k : Ctx) (i : Nat) (v : BitVec 256) : (k.setDesc i v).bypass = k.bypass := rfl
@[simp] theorem Ctx.setReg_haltedInWait (k : Ctx) (i : Nat) (v : Word) : (k.setReg i v).haltedInWait = k.haltedInWait := by
  simp only [Ctx.setReg]; split <;> rfl
@[simp] theorem Ctx.setDesc_haltedInWait (k : Ctx) (i : Nat) (v : BitVec 256) : (k.setDesc i v).haltedInWait = k.haltedInWait := rfl
@[simp] theorem Ctx.setReg_stepGrant (k : Ctx) (i : Nat) (v : Word) : (k.setReg i v).stepGrant = k.stepGrant := by
  simp only [Ctx.setReg]; split <;> rfl
@[simp] theorem Ctx.setDesc_stepGrant (k : Ctx) (i : Nat) (v : BitVec 256) : (k.setDesc i v).stepGrant = k.stepGrant := rfl
@[simp] theorem Ctx.setDesc_regs (k : Ctx) (i : Nat) (v : BitVec 256) : (k.setDesc i v).regs = k.regs := rfl
/-! ### Parts by their numbers -/

@[simp] theorem State.onTile_tile (s : State) (t : Nat) (f : Tile → Tile) : (s.onTile t f).tile t = f (s.tile t) := Map.get_mod_self _ _ _ _
theorem State.onTile_tile_ne (s : State) (t : Nat) (f : Tile → Tile) {u : Nat} (h : u ≠ t) : (s.onTile t f).tile u = s.tile u :=
  Map.get_mod_ne _ _ _ h
@[simp] theorem State.onRegion_region (s : State) (t : Nat) (f : Reg → Reg) : (s.onRegion t f).region t = f (s.region t) := Map.get_mod_self _ _ _ _
theorem State.onRegion_region_ne (s : State) (t : Nat) (f : Reg → Reg) {u : Nat} (h : u ≠ t) : (s.onRegion t f).region u = s.region u :=
  Map.get_mod_ne _ _ _ h
@[simp] theorem State.onRc_region_rc (s : State) (r : Nat) (f : RcSlice → RcSlice) : ((s.onRc r f).region r).rc = f (s.region r).rc := by
  simp [State.onRc]
theorem State.onRc_region_ne (s : State) (r : Nat) (f : RcSlice → RcSlice) {u : Nat} (h : u ≠ r) : (s.onRc r f).region u = s.region u :=
  State.onRegion_region_ne _ _ _ h
@[simp] theorem State.onPart_part (s : State) (t : Nat) (f : Part → Part) : (s.onPart t f).part t = f (s.part t) := Map.get_mod_self _ _ _ _
theorem State.onPart_part_ne (s : State) (t : Nat) (f : Part → Part) {u : Nat} (h : u ≠ t) : (s.onPart t f).part u = s.part u :=
  Map.get_mod_ne _ _ _ h
@[simp] theorem State.onPort_port (s : State) (t : Nat) (f : PortSt → PortSt) : (s.onPort t f).port t = f (s.port t) := Map.get_mod_self _ _ _ _
theorem State.onPort_port_ne (s : State) (t : Nat) (f : PortSt → PortSt) {u : Nat} (h : u ≠ t) : (s.onPort t f).port u = s.port u :=
  Map.get_mod_ne _ _ _ h
@[simp] theorem State.onFn_fn (s : State) (k : Nat) (f : Fn → Fn) : (s.onFn k f).fn k = f (s.fn k) := Map.get_mod_self _ _ _ _
theorem State.onFn_fn_ne (s : State) (k : Nat) (f : Fn → Fn) {u : Nat} (h : u ≠ k) : (s.onFn k f).fn u = s.fn u :=
  Map.get_mod_ne _ _ _ h
@[simp] theorem Tile.onCx_cx (x : Tile) (c : Nat) (f : Ctx → Ctx) : (x.onCx c f).cx c = f (x.cx c) := Map.get_mod_self _ _ _ _
theorem Tile.onCx_cx_ne (x : Tile) (c : Nat) (f : Ctx → Ctx) {u : Nat} (h : u ≠ c) : (x.onCx c f).cx u = x.cx u :=
  Map.get_mod_ne _ _ _ h
@[simp] theorem Tile.onUnit_unit (x : Tile) (c : Nat) (f : UnitSt → UnitSt) : (x.onUnit c f).unit c = f (x.unit c) :=
  Map.get_mod_self _ _ _ _
theorem Tile.onUnit_unit_ne (x : Tile) (c : Nat) (f : UnitSt → UnitSt) {u : Nat} (h : u ≠ c) : (x.onUnit c f).unit u = x.unit u :=
  Map.get_mod_ne _ _ _ h
@[simp] theorem State.onCx_cx (s : State) (t c : Nat) (f : Ctx → Ctx) : (s.onCx t c f).cx t c = f (s.cx t c) := by
  simp [State.onCx, State.cx]
@[simp] theorem State.onSem_sem (s : State) (n : Nat) (f : SemSt → SemSt) : (s.onSem n f).hub.sem n = f (s.hub.sem n) :=
  Map.get_mod_self _ _ _ _
theorem State.onSem_sem_ne (s : State) (n : Nat) (f : SemSt → SemSt) {u : Nat} (h : u ≠ n) : (s.onSem n f).hub.sem u = s.hub.sem u :=
  Map.get_mod_ne _ _ _ h
@[simp] theorem State.onBar_bar (s : State) (n : Nat) (f : BarSt → BarSt) : (s.onBar n f).hub.bar n = f (s.hub.bar n) :=
  Map.get_mod_self _ _ _ _
theorem State.onBar_bar_ne (s : State) (n : Nat) (f : BarSt → BarSt) {u : Nat} (h : u ≠ n) : (s.onBar n f).hub.bar u = s.hub.bar u :=
  Map.get_mod_ne _ _ _ h

/-! ### Registers (03 R62) -/

/-- g0 reads 0. -/
@[simp] theorem Ctx.reg_zero (k : Ctx) : k.reg 0 = 0 := rfl

/-- A write to g0 is discarded. -/
@[simp] theorem Ctx.setReg_zero (k : Ctx) (v : Word) : k.setReg 0 v = k := rfl

theorem Ctx.reg_setReg (k : Ctx) (i j : Nat) (v : Word) :
    (k.setReg i v).reg j = if j = i ∧ i ≠ 0 then v else k.reg j := by
  by_cases hi : i = 0
  · simp [hi]
  · by_cases hj : j = 0
    · simp [Ctx.reg, hj, Ne.symm hi]
    · simp [Ctx.reg, Ctx.setReg, hi, hj, Map.get_set]

theorem Ctx.desc_setDesc (k : Ctx) (i j : Nat) (v : BitVec 256) :
    (k.setDesc i v).desc j = if j = i then v else k.desc j := by simp [Ctx.desc, Ctx.setDesc, Map.get_set]

end Sys2Proof.Machine
end

