-- ==== Sys2Proof/Laws/Issue.lean ====
section
/-!
SUPPORT. Issuing an instruction: what a fetch leaves, and what a context that is ready does.
-/
namespace Sys2Proof.Machine

/-! ### Ends of an instruction -/

/-- A fetch changes the context's fetch line and nothing else. -/
theorem fetched_eq (t c : Nat) (s : State) :
    fetched t c s = s ∨ ∃ f, fetched t c s = s.onCx t c (fun k => { k with fetch := some f }) := by
  unfold fetched
  dsimp only
  split
  · split
    · exact Or.inl rfl
    · exact Or.inr ⟨_, rfl⟩
  · exact Or.inr ⟨_, rfl⟩

theorem Tile.ext_cx {x : Tile} {c : Nat} {f : Ctx → Ctx} {d : Nat} :
    (x.onCx c f).cx d = if d = c then f (x.cx c) else x.cx d := Map.get_mod _ _ _ _ _

theorem State.tile_onTile (s : State) (t u : Nat) (f : Tile → Tile) :
    (s.onTile t f).tile u = if u = t then f (s.tile t) else s.tile u := Map.get_mod _ _ _ _ _

theorem State.region_onRegion (s : State) (r q : Nat) (f : Reg → Reg) :
    (s.onRegion r f).region q = if q = r then f (s.region r) else s.region q := Map.get_mod _ _ _ _ _

theorem State.cx_onTile (s : State) (t u c : Nat) (f : Tile → Tile) :
    (s.onTile t f).cx u c = if u = t then (f (s.tile t)).cx c else s.cx u c := by
  simp only [State.cx, State.tile_onTile]; split <;> rfl

/-- A field of a context that a fetch cannot change. -/
theorem fetched_field {α : Type} (g : Ctx → α) (hg : ∀ k f, g { k with fetch := f } = g k) (t c u d : Nat) (s : State) :
    g ((fetched t c s).cx u d) = g (s.cx u d) := by
  rcases fetched_eq t c s with h | ⟨f, h⟩
  · rw [h]
  · rw [h, State.onCx, State.cx_onTile]
    by_cases hu : u = t
    · subst hu; rw [if_pos rfl, Tile.ext_cx]
      by_cases hd : d = c
      · subst hd; rw [if_pos rfl, hg]; rfl
      · rw [if_neg hd]; rfl
    · rw [if_neg hu]

@[simp] theorem fetched_regs (t c u d : Nat) (s : State) : ((fetched t c s).cx u d).regs = (s.cx u d).regs :=
  fetched_field (·.regs) (fun _ _ => rfl) t c u d s
@[simp] theorem fetched_descs (t c u d : Nat) (s : State) : ((fetched t c s).cx u d).descs = (s.cx u d).descs :=
  fetched_field (·.descs) (fun _ _ => rfl) t c u d s
@[simp] theorem fetched_pc (t c u d : Nat) (s : State) : ((fetched t c s).cx u d).pc = (s.cx u d).pc :=
  fetched_field (·.pc) (fun _ _ => rfl) t c u d s
@[simp] theorem fetched_st (t c u d : Nat) (s : State) : ((fetched t c s).cx u d).st = (s.cx u d).st :=
  fetched_field (·.st) (fun _ _ => rfl) t c u d s
@[simp] theorem fetched_wait (t c u d : Nat) (s : State) : ((fetched t c s).cx u d).wait = (s.cx u d).wait :=
  fetched_field (·.wait) (fun _ _ => rfl) t c u d s
@[simp] theorem fetched_bypass (t c u d : Nat) (s : State) : ((fetched t c s).cx u d).bypass = (s.cx u d).bypass :=
  fetched_field (·.bypass) (fun _ _ => rfl) t c u d s

@[simp] theorem fetched_reg (t c u d r : Nat) (s : State) : ((fetched t c s).cx u d).reg r = (s.cx u d).reg r := by
  simp [Ctx.reg]

@[simp] theorem fetched_desc (t c u d r : Nat) (s : State) : ((fetched t c s).cx u d).desc r = (s.cx u d).desc r := by
  simp [Ctx.desc]

@[simp] theorem fetched_rv (t c u d : Nat) (r : BitVec 5) (s : State) : rv (fetched t c s) u d r = rv s u d r :=
  fetched_reg t c u d r.toNat s

theorem KeepsTile.refl (x : Tile) : KeepsTile x x := by simp [KeepsTile]
theorem KeepsTile.trans {x y z : Tile} (h : KeepsTile x y) (h' : KeepsTile y z) : KeepsTile x z := by
  unfold KeepsTile at *; simp_all
theorem KeepsDevice.refl (s : State) : KeepsDevice s s := by simp [KeepsDevice]
theorem KeepsDevice.trans {x y z : State} (h : KeepsDevice x y) (h' : KeepsDevice y z) : KeepsDevice x z := by
  unfold KeepsDevice at *; simp_all
theorem KeepsRest.refl (t c : Nat) (s : State) : KeepsRest t c s s :=
  ⟨KeepsDevice.refl s, KeepsTile.refl _, fun _ _ => rfl, fun _ _ => rfl⟩
theorem KeepsRest.trans {t c : Nat} {x y z : State} (h : KeepsRest t c x y) (h' : KeepsRest t c y z) : KeepsRest t c x z :=
  ⟨h.1.trans h'.1, h.2.1.trans h'.2.1, fun u hu => (h'.2.2.1 u hu).trans (h.2.2.1 u hu),
    fun d hd => (h'.2.2.2 d hd).trans (h.2.2.2 d hd)⟩

/-- A change of one context keeps the rest. -/
theorem KeepsRest.onCx (t c : Nat) (f : Ctx → Ctx) (s : State) : KeepsRest t c s (s.onCx t c f) := by
  refine ⟨by simp [KeepsDevice], ?_, ?_, ?_⟩
  · rw [State.onCx, State.onTile_tile]; simp [KeepsTile]
  · intro u hu; exact State.onTile_tile_ne s t _ hu
  · intro d hd; rw [State.onCx, State.cx_onTile, if_pos rfl, Tile.ext_cx, if_neg hd]; rfl

/-- A fetch keeps everything but the context's fetch line. -/
theorem KeepsRest.fetched (t c : Nat) (s : State) : KeepsRest t c s (fetched t c s) := by
  rcases fetched_eq t c s with h | ⟨f, h⟩ <;> rw [h]
  · exact KeepsRest.refl t c s
  · exact KeepsRest.onCx t c _ s

/-! ### Event counters and the end of an instruction -/

/-- Counting events changes only the counters. -/
theorem Tile.count_eq (x : Tile) (code k : Nat) :
    ∃ m, x.count code k = { x with cnt := { x.cnt with evcnt := m } } := by
  unfold Tile.count
  split
  · exact ⟨x.cnt.evcnt, rfl⟩
  · generalize List.range 8 = l
    suffices h : ∀ (l : List Nat) (y : Tile), (∃ m, y = { x with cnt := { x.cnt with evcnt := m } }) →
        ∃ m, l.foldl (fun x n => if fld x.cnt.evsel.toNat (8 * n) 8 = code then
          { x with cnt := { x.cnt with evcnt := Map.mod 0 x.cnt.evcnt n (fun v => v + BitVec.ofNat 32 k) } }
          else x) y = { x with cnt := { x.cnt with evcnt := m } } from h l x ⟨x.cnt.evcnt, rfl⟩
    intro l
    induction l with
    | nil => intro y h; exact h
    | cons n l ih =>
      intro y ⟨m, hy⟩
      refine ih _ ?_
      subst hy
      dsimp only
      split
      · exact ⟨_, rfl⟩
      · exact ⟨m, rfl⟩

/-- What an instruction's end changes in its context. -/
def Ctx.retired (npc : BitVec 32) (k : Ctx) : Ctx :=
  { k with pc := npc, stepGrant := false, st := if k.st = .run ∧ k.stepGrant then .halt else k.st }

/-- What an instruction's end changes: its context's PC, step grant and state, PHASE_PC and the event counters. -/
theorem Tile.retire_eq (x : Tile) (c : Nat) (npc : BitVec 32) :
    ∃ y : Tile, y.ctx = x.ctx ∧ KeepsTile x y ∧ y.phasePc = BitVec.ofNat 34 (c * 2 ^ 32 + (x.cx c).pc.toNat) ∧
      x.retire c npc = y.onCx c (Ctx.retired npc) := by
  generalize hp : BitVec.ofNat 34 (c * 2 ^ 32 + (x.cx c).pc.toNat) = p
  obtain ⟨m, hm⟩ := Tile.count_eq { x with phasePc := p } 0x02 1
  obtain ⟨m', hm'⟩ := Tile.count_eq ({ x with phasePc := p }.count 0x02 1) (0x03 + c) 1
  refine ⟨({ x with phasePc := p }.count 0x02 1).count (0x03 + c) 1, ?_, ?_, ?_, ?_⟩
  · rw [hm', hm]
  · rw [hm', hm]; simp [KeepsTile]
  · rw [hm', hm]
  · rw [← hp]; rfl

theorem KeepsTile.retire (x : Tile) (c : Nat) (npc : BitVec 32) : KeepsTile x (x.retire c npc) := by
  obtain ⟨y, -, hk, -, h⟩ := Tile.retire_eq x c npc
  rw [h]; exact hk.trans (by simp [KeepsTile])

theorem Tile.retire_cx_ne (x : Tile) (c d : Nat) (npc : BitVec 32) (hd : d ≠ c) : (x.retire c npc).cx d = x.cx d := by
  obtain ⟨y, hc, -, -, h⟩ := Tile.retire_eq x c npc
  rw [h, Tile.ext_cx, if_neg hd]; simp only [Tile.cx, hc]

theorem Tile.retire_cx (x : Tile) (c : Nat) (npc : BitVec 32) : (x.retire c npc).cx c = (x.cx c).retired npc := by
  obtain ⟨y, hc, -, -, h⟩ := Tile.retire_eq x c npc
  rw [h, Tile.ext_cx, if_pos rfl]; simp only [Tile.cx, hc]

theorem Tile.retire_phasePc (x : Tile) (c : Nat) (npc : BitVec 32) :
    (x.retire c npc).phasePc = BitVec.ofNat 34 (c * 2 ^ 32 + (x.cx c).pc.toNat) := by
  obtain ⟨y, -, -, hp, h⟩ := Tile.retire_eq x c npc
  rw [h, ← hp]; simp only [Tile.onCx_phasePc]

theorem KeepsRest.retire (t c : Nat) (npc : BitVec 32) (s : State) :
    KeepsRest t c s (s.onTile t (fun x => x.retire c npc)) := by
  refine ⟨by simp [KeepsDevice], ?_, ?_, ?_⟩
  · rw [State.onTile_tile]; exact KeepsTile.retire _ _ _
  · intro u hu; exact State.onTile_tile_ne s t _ hu
  · intro d hd; rw [State.cx_onTile, if_pos rfl, Tile.retire_cx_ne _ _ _ _ hd, State.cx]

/-! ### Issue -/

/-- What a ready context's instruction does: its effect on the fetched state, ended as the effect says. -/
theorem issue_ready {s : State} {t c : Nat} {u : Uses} (h : Ready s t c u) (body : State → Eff) :
    issue t c u body s = finish t c (fetched t c s) (body (fetched t c s)) := by
  obtain ⟨h1, h2, h3, h4, _⟩ := h
  simp [issue, h1, h2, h3, h4]

/-- An effect that is done moves the PC to the next word. -/
theorem finish_done {s : State} {t c : Nat} {u : Uses} (h : Ready s t c u) (s' : State) :
    finish t c (fetched t c s) (.done s') = retired t c s s' := by
  have hp : ¬ (s.cx t c).pc = lastPc := h.2.2.2.2
  simp [finish, retired, hp]

theorem finish_jump (s : State) (t c : Nat) (s' : State) (npc : BitVec 32) :
    finish t c s (.jump s' npc) = jumped t c npc s' := rfl

theorem finish_fault (s : State) (t c : Nat) (code daddr : Nat) :
    finish t c s (.fault code daddr) = issueFault t c code s daddr := rfl

theorem finish_wait {s : State} {t c : Nat} {u : Uses} (h : Ready s t c u) (w : WaitFor) :
    finish t c (fetched t c s) (.wait w) = waiting t c w (fetched t c s) := by
  have hp : ¬ (s.cx t c).pc = lastPc := h.2.2.2.2
  simp [finish, waiting, hp]

theorem finish_left {s : State} {t c : Nat} {u : Uses} (h : Ready s t c u) (s' : State) :
    finish t c (fetched t c s) (.left s') = s' := by
  have hp : ¬ (s.cx t c).pc = lastPc := h.2.2.2.2
  simp [finish, hp]

/-- A ready context that only writes rd. -/
theorem issue_writes {s : State} {t c : Nat} {u : Uses} (h : Ready s t c u) (rd : BitVec 5) (v : State → Word)
    (hv : v (fetched t c s) = v s) :
    issue t c u (fun s => writes t c rd (v s) s) s = wrote t c rd (v s) s := by
  rw [issue_ready h]
  show finish t c (fetched t c s) (.done _) = _
  rw [finish_done h, hv]; rfl

end Sys2Proof.Machine
end

