-- ==== Sys2Proof/Laws/Counters.lean ====
section
/-!
SUPPORT. What the counters of beats can do as time passes (18 R496).
-/
namespace Sys2Proof.Machine

/-- All of a state but its tiles, its regions and its free values is as in another state. -/
def SameButTiles (s u : State) : Prop :=
  u.mem = s.mem ∧ u.bad = s.bad ∧ u.pending = s.pending ∧ u.hub = s.hub ∧ u.net = s.net ∧ u.parts = s.parts ∧
    u.ports = s.ports ∧ u.dev = s.dev ∧ u.out = s.out

/-- A tile is as another but for its counters of beats. -/
def SameButBeats (x y : Tile) : Prop :=
  y = { x with cnt := { x.cnt with evcnt := y.cnt.evcnt } } ∧
    ∀ n, timedEvent (fld x.cnt.evsel.toNat (8 * n) 8) = false → Map.get 0 y.cnt.evcnt n = Map.get 0 x.cnt.evcnt n

/-- A region is as another but for the beats in which its tiles waited for tokens. -/
def SameButGated (x y : Reg) : Prop :=
  y = { x with pool := { x.pool with gated := y.pool.gated } } ∧ (x.inService = false → y = x)

/-- Only counters of beats differ between two states. -/
def OnlyBeats (s u : State) : Prop :=
  SameButTiles s u ∧ (∀ t, SameButBeats (s.tile t) (u.tile t)) ∧ ∀ r, SameButGated (s.region r) (u.region r)

theorem SameButBeats.refl (x : Tile) : SameButBeats x x := ⟨rfl, fun _ _ => rfl⟩

theorem SameButGated.refl (x : Reg) : SameButGated x x := ⟨rfl, fun _ => rfl⟩

theorem OnlyBeats.refl (s : State) : OnlyBeats s s := ⟨by simp [SameButTiles], fun _ => .refl _, fun _ => .refl _⟩

theorem SameButBeats.trans {x y z : Tile} (h : SameButBeats x y) (k : SameButBeats y z) : SameButBeats x z := by
  obtain ⟨e, f⟩ := h
  obtain ⟨e', f'⟩ := k
  have hs : y.cnt.evsel = x.cnt.evsel := by rw [e]
  refine ⟨by rw [e', e], fun n hn => ?_⟩
  rw [f' n (by rw [hs]; exact hn), f n hn]

theorem SameButGated.trans {x y z : Reg} (h : SameButGated x y) (k : SameButGated y z) : SameButGated x z := by
  obtain ⟨e, f⟩ := h
  obtain ⟨e', f'⟩ := k
  exact ⟨by rw [e', e], fun hx => by have hy := f hx; rw [f' (by rw [hy]; exact hx), hy]⟩

theorem SameButTiles.trans {s u v : State} (h : SameButTiles s u) (k : SameButTiles u v) : SameButTiles s v := by
  simp only [SameButTiles] at *
  simp_all

theorem OnlyBeats.trans {s u v : State} (h : OnlyBeats s u) (k : OnlyBeats u v) : OnlyBeats s v :=
  ⟨h.1.trans k.1, fun t => (h.2.1 t).trans (k.2.1 t), fun r => (h.2.2 r).trans (k.2.2 r)⟩

theorem OnlyBeats.foldl {α : Type} (g : State → α → State) (h : ∀ s x, OnlyBeats s (g s x)) (l : List α) (s : State) :
    OnlyBeats s (l.foldl g s) := by
  induction l generalizing s with
  | nil => exact .refl s
  | cons x l ih => exact (h s x).trans (ih _)

theorem countFree_onlyBeats (t n : Nat) (s : State) : OnlyBeats s (countFree t n s) := by
  unfold countFree
  split
  · rename_i ht
    refine ⟨by simp [SameButTiles, drawFree], fun u => ?_, fun _ => .refl _⟩
    simp only [State.tile_onTile]
    split
    · subst t
      refine ⟨rfl, fun m hm => ?_⟩
      have : m ≠ n := fun e => by subst e; simp_all
      exact Map.get_mod_ne (0 : BitVec 32) (s.tile u).cnt.evcnt (fun v => v + (drawFree 32 s).1) this
    · exact .refl _
  · exact .refl s

theorem gateFree_onlyBeats (r : Nat) (s : State) : OnlyBeats s (gateFree r s) := by
  unfold gateFree
  split
  · exact .refl s
  · rename_i hr
    refine ⟨by simp [SameButTiles, drawFree], fun _ => .refl _, fun q => ?_⟩
    simp only [State.region_onRegion]
    split
    · subst q
      exact ⟨rfl, fun h => absurd h (by simpa using hr)⟩
    · exact .refl _

/-- As time passes, only counters of beats move. -/
theorem countBeats_onlyBeats (s : State) : OnlyBeats s (countBeats s) :=
  (OnlyBeats.foldl _ (fun s t => OnlyBeats.foldl _ (fun s n => countFree_onlyBeats t n s) _ s) _ s).trans
    (OnlyBeats.foldl _ (fun s r => gateFree_onlyBeats r s) _ _)

end Sys2Proof.Machine
end

