-- ==== Sys2Proof/Laws/MemFrames.lean ====
section
/-! SUPPORT. Memory frames: the operations of the machine that write no memory leave `State.mem` as it was, one
lemma each, named after the operation. -/

namespace Sys2Proof.Machine

/-- A fold of an operation that leaves memory leaves memory. -/
theorem foldl_mem {α : Type} (g : State → α → State) (l : List α) (h : ∀ s x, (g s x).mem = s.mem) (s : State) :
    (l.foldl g s).mem = s.mem := by
  induction l generalizing s with
  | nil => rfl
  | cons x l ih => rw [List.foldl_cons, ih, h]

theorem drawFree_mem (w : Nat) (s : State) : (drawFree w s).2.mem = s.mem := by rfl
theorem drawBytes_mem (n : Nat) (s : State) : (drawBytes n s).2.mem = s.mem := by rfl
theorem markBad_mem (a : Nat) (s : State) : (markBad a s).mem = s.mem := by rfl
theorem raiseRec_mem (r : Rec) (s : State) : (raiseRec r s).mem = s.mem := by
  simp [raiseRec, State.onBlot_mem, State.onNet_mem, apply_ite State.mem]
theorem putFlag_mem (t : Nat) (f : Nat) (b : Bool) (s : State) : (putFlag t f b s).mem = s.mem := by rfl
theorem serveSem_mem (n : Nat) (s : State) : (serveSem n s).mem = s.mem := by rfl
theorem leaveHub_mem (t : Nat) (c : Nat) (s : State) : (leaveHub t c s).mem = s.mem := by
  simp only [leaveHub]
  (repeat' split) <;> simp_all [State.onHub_mem, serveSem_mem, State.onSem_mem]
theorem stopTile_mem (t : Nat) (s : State) : (stopTile t s).mem = s.mem := by
  simp [stopTile, leaveHub_mem, State.onTile_mem, apply_ite State.mem]
theorem tileFault_mem (t : Nat) (fi : FaultInfo) (s : State) : (tileFault t fi s).mem = s.mem := by
  simp [tileFault, raiseRec_mem, stopTile_mem, State.onTile_mem, State.onCx_mem, apply_ite State.mem]
theorem issueFault_mem (t : Nat) (c : Nat) (code : Nat) (s : State) (daddr : optParam Nat 0) (src : optParam Nat 0) : (issueFault t c code s daddr src).mem = s.mem := by
  simp [issueFault, tileFault_mem]
theorem stopRegion_mem (r : Nat) (cause : Nat) (s : State) : (stopRegion r cause s).mem = s.mem := by
  simp [stopRegion, stopTile_mem, raiseRec_mem, State.onRegion_mem, foldl_mem, apply_ite State.mem]
theorem signalMsi_mem (k : Nat) (i : Nat) (s : State) : (signalMsi k i s).mem = s.mem := by
  simp [signalMsi, State.onFn_mem, State.onOut_mem, apply_ite State.mem]
theorem raiseCause_mem (k : Nat) (i : Nat) (s : State) : (raiseCause k i s).mem = s.mem := by
  simp [raiseCause, State.onFn_mem, signalMsi_mem, apply_ite State.mem]
theorem causePart_mem (n : Nat) (i : Nat) (s : State) : (causePart n i s).mem = s.mem := by
  simp [causePart, raiseCause_mem, foldl_mem]
theorem causeAll_mem (i : Nat) (s : State) : (causeAll i s).mem = s.mem := by
  simp [causeAll, raiseCause_mem, foldl_mem]
theorem setDevState_mem (st : Nat) (s : State) : (setDevState st s).mem = s.mem := by
  simp [setDevState, causeAll_mem, State.onBoot_mem, apply_ite State.mem]
theorem onMesh_mem (leg : Option (Node × Node)) (f : Sent → Net → Net) (s : State) : (onMesh leg f s).mem = s.mem := by
  rfl
theorem newIdle_mem (s : State) : (newIdle s).mem = s.mem := by rfl
theorem settleDevState_mem (s : State) : (settleDevState s).mem = s.mem := by
  simp [settleDevState, setDevState_mem, apply_ite State.mem]
theorem endLoadRequest_mem (n : Nat) (st : Nat) (s : State) : (endLoadRequest n st s).mem = s.mem := by rfl
theorem setLoad_mem (n : Nat) (st : Nat) (s : State) : (setLoad n st s).mem = s.mem := by
  simp [setLoad, endLoadRequest_mem, State.onPart_mem, settleDevState_mem, causePart_mem, newIdle_mem, apply_ite State.mem]
theorem dropTokens_mem (r : Nat) (s : State) : (dropTokens r s).mem = s.mem := by
  grind [dropTokens, State.onTile_mem, State.onRegion_mem, foldl_mem]
theorem settleTokens_mem (r : Nat) (s : State) : (settleTokens r s).mem = s.mem := by
  simp [settleTokens, dropTokens_mem, apply_ite State.mem]
theorem returnTokens_mem (r : Nat) (s : State) : (returnTokens r s).mem = s.mem := by
  simp [returnTokens, settleTokens_mem, State.onRegion_mem]
theorem stopPartition_mem (n : Nat) (cause : Nat) (s : State) : (stopPartition n cause s).mem = s.mem := by
  grind [stopPartition, stopRegion_mem, State.onTile_mem, returnTokens_mem, setLoad_mem, foldl_mem]
theorem stopAllPartitions_mem (cause : Nat) (s : State) : (stopAllPartitions cause s).mem = s.mem := by
  simp [stopAllPartitions, stopPartition_mem, foldl_mem]
theorem openRow_mem (a : Nat) (s : State) : (openRow a s).mem = s.mem := by rfl
theorem openGranule_mem (g : Nat) (s : State) : (openGranule g s).mem = s.mem := by rfl
theorem rekey_mem (lo : Nat) (hi : Nat) (key : BitVec 512) (s : State) : (rekey lo hi key s).mem = s.mem := by rfl
theorem bulkReadLine_mem (l : Nat) (s : State) : (bulkReadLine l s).2.mem = s.mem := by
  simp only [bulkReadLine]
  (repeat' split) <;> simp_all [openRow_mem, State.onBulk_mem]
theorem countRc_mem (r : Nat) (hit : Bool) (s : State) : (countRc r hit s).mem = s.mem := by rfl
theorem zeroSlice_mem (r : Nat) (s : State) : (zeroSlice r s).mem = s.mem := by rfl
theorem correctRc_mem (r : Nat) (s : State) : (correctRc r s).mem = s.mem := by rfl
theorem strikeLine_mem (a : Nat) (s : State) : (strikeLine a s).mem = s.mem := by
  grind [strikeLine, raiseRec_mem, State.onRc_mem, bulkReadLine_mem, correctRc_mem, foldl_mem]
theorem strikeLineOne_mem (a : Nat) (s : State) : (strikeLineOne a s).mem = s.mem := by
  simp [strikeLineOne, correctRc_mem, apply_ite State.mem]
theorem dropTrace_mem (s : State) : (dropTrace s).mem = s.mem := by rfl
theorem stopTrace_mem (s : State) : (stopTrace s).mem = s.mem := by
  simp [stopTrace, causeAll_mem, State.onTrace_mem]
theorem triggerTrace_mem (s : State) : (triggerTrace s).mem = s.mem := by
  simp only [triggerTrace]
  (repeat' split) <;> simp_all [State.onTrace_mem, stopTrace_mem]
theorem wakeFences_mem (t : Nat) (s : State) : (wakeFences t s).mem = s.mem := by
  simp [wakeFences, State.onTile_mem, apply_ite State.mem]
theorem haltCtx_mem (t : Nat) (c : Nat) (s : State) : (haltCtx t c s).mem = s.mem := by rfl
theorem fetched_mem (t : Nat) (c : Nat) (s : State) : (fetched t c s).mem = s.mem := by
  simp only [fetched]
  (repeat' split) <;> simp_all [State.onCx_mem]
theorem setRv_mem (t : Nat) (c : Nat) (r : BitVec 5) (v : Word) (s : State) : (setRv t c r v s).mem = s.mem := by rfl
theorem mapReqs_mem (f : MemReq → MemReq) (s : State) : (mapReqs f s).mem = s.mem := by rfl
theorem dropLines_mem (t : Nat) (p : Nat → Bool) (s : State) : (dropLines t p s).mem = s.mem := by rfl
theorem invalidateRlb_mem (t : Nat) (s : State) : (invalidateRlb t s).mem = s.mem := by rfl
theorem acquire_mem (t : Nat) (c : Nat) (s : State) : (acquire t c s).mem = s.mem := by rfl
theorem putBlock_mem (t : Nat) (o : Nat) (v : Word) (s : State) : (putBlock t o v s).mem = s.mem := by
  simp [putBlock, State.onTile_mem, invalidateRlb_mem, apply_ite State.mem]
theorem hostAnswer_mem (ok : Bool) (d : Bytes) (s : State) : (hostAnswer ok d s).mem = s.mem := by rfl
theorem refuseHost_mem (h : HostHdr) (s : State) : (refuseHost h s).mem = s.mem := by
  simp [refuseHost, State.onPcie_mem, hostAnswer_mem, apply_ite State.mem]
theorem refuseWrite_mem (w : Writer) (code : Nat) (daddr : Nat) (s : State) : (refuseWrite w code daddr s).mem = s.mem := by
  simp only [refuseWrite]
  (repeat' split) <;> simp_all [issueFault_mem, raiseRec_mem, refuseHost_mem, stopRegion_mem]
theorem writeBlock_mem (w : Writer) (t : Nat) (o : Nat) (v : Word) (s : State) : (writeBlock w t o v s).mem = s.mem := by
  simp only [writeBlock]
  (repeat' split) <;> simp_all [refuseWrite_mem, putBlock_mem]
theorem drain_mem (p : Nat) (s : State) : (drain p s).mem = s.mem := by rfl
theorem enqueue_mem (p : Nat) (k : Nat) (q : Packet) (s : State) : (enqueue p k q s).mem = s.mem := by rfl
theorem holdSys_mem (f : Nat) (q : Packet) (s : State) : (holdSys f q s).mem = s.mem := by
  rfl
theorem sendOut_mem (f : Nat) (dl : Bool) (q : Packet) (s : State) : ∀ r, (sendOut f dl q s) = some r → r.mem = s.mem := by
  simp only [sendOut]
  (repeat' split) <;> simp_all [enqueue_mem, holdSys_mem]
theorem freeLines_mem (p : Nat) (k : Nat) (n : Nat) (s : State) : (freeLines p k n s).mem = s.mem := by rfl
theorem routeOut_mem (dim : Option Nat) (q : Packet) (s : State) : ∀ r, (routeOut dim q s) = .ok r → r.mem = s.mem := by
  grind [routeOut, sendOut_mem, foldl_mem]
theorem originate_mem (q : Packet) (s : State) : ∀ r, (originate q s) = .ok r → r.mem = s.mem := by
  grind [originate, routeOut_mem, foldl_mem]
theorem updateLevel_mem (s : State) : (updateLevel s).mem = s.mem := by
  simp [updateLevel, State.onBoot_mem, causeAll_mem, raiseRec_mem, apply_ite State.mem]
theorem failHost_mem (p : HostReq → Bool) (s : State) : (failHost p s).mem = s.mem := by rfl
theorem dropPosted_mem (p : Posted → Bool) (s : State) : (dropPosted p s).mem = s.mem := by rfl
theorem leavePosted_mem (k : Nat) (s : State) : (leavePosted k s).mem = s.mem := by rfl
theorem dropHeld_mem (p : Nat → Bool) (s : State) : (dropHeld p s).mem = s.mem := by
  rfl
theorem resetFn_mem (f : Nat) (s : State) : (resetFn f s).mem = s.mem := by
  simp [resetFn, State.onFn_mem, State.onMgmt_mem, State.onPart_mem, dropHeld_mem, dropPosted_mem, failHost_mem, apply_ite State.mem]
theorem resetVfs_mem (s : State) : (resetVfs s).mem = s.mem := by
  simp [resetVfs, State.onPcie_mem, resetFn_mem]
theorem resetFns_mem (s : State) : (resetFns s).mem = s.mem := by
  simp [resetFns, resetVfs_mem, resetFn_mem]
theorem linkDown_mem (s : State) : (linkDown s).mem = s.mem := by rfl
theorem failHub_mem (s : State) : (failHub s).mem = s.mem := by
  simp [failHub, updateLevel_mem, State.onBoot_mem, stopAllPartitions_mem]
theorem strike_mem (u : Upset) (s : State) : (strike u s).mem = s.mem := by
  simp only [strike]
  (repeat' split) <;> simp_all [markBad_mem, State.onTile_mem, strikeLine_mem, strikeLineOne_mem, State.onBulk_mem]
theorem stopMm_mem (t : Nat) (op : RunOp) (s : State) : (stopMm t op s).mem = s.mem := by
  simp [stopMm, drawFree_mem, tileFault_mem, State.onUnit_mem]
theorem tileParity_mem (t : Nat) (c : Nat) (n : Nat) (s : State) : (tileParity t c n s).mem = s.mem := by
  simp only [tileParity]
  (repeat' split) <;> simp_all [stopMm_mem, State.onTile_mem, tileFault_mem]
theorem deviceParity_mem (n : Nat) (s : State) : (deviceParity n s).mem = s.mem := by
  simp [deviceParity, stopRegion_mem, raiseRec_mem, State.onHub_mem, stopAllPartitions_mem, updateLevel_mem, State.onPort_mem, linkDown_mem, resetFns_mem, apply_ite State.mem]
theorem parity_mem (n : Nat) (t : Nat) (c : Nat) (s : State) : (parity n t c s).mem = s.mem := by
  simp [parity, tileParity_mem, deviceParity_mem, apply_ite State.mem]
theorem touchWrite_mem (a : Nat) (n : Nat) (s : State) (own : optParam Bool Bool.false) : (touchWrite a n s own).mem = s.mem := by
  simp [touchWrite, apply_ite State.mem]
theorem readShared_mem (a : Nat) (n : Nat) (s : State) : (readShared a n s).2.mem = s.mem := by
  simp only [readShared]
  (repeat' split) <;> simp_all [drawBytes_mem]
theorem setFull_mem (t : Nat) (w : Nat) (b : Bool) (s : State) : (setFull t w b s).mem = s.mem := by rfl
theorem serveFull_mem (t : Nat) (w : Nat) (s : State) : (serveFull t w s).mem = s.mem := by
  grind [serveFull, readShared_mem, State.onTile_mem, setFull_mem, foldl_mem]
theorem dropOwnLine_mem (t : Nat) (g : Target) (s : State) : (dropOwnLine t g s).mem = s.mem := by
  simp only [dropOwnLine]
  (repeat' split) <;> simp_all [dropLines_mem]
theorem answerHub_mem (o : HubOp) (v : Option Word) (s : State) : (answerHub o v s).mem = s.mem := by rfl
theorem putGf_mem (obj : Nat) (b : Bool) (s : State) : (putGf obj b s).mem = s.mem := by
  simp [putGf, State.onHub_mem, answerHub_mem, foldl_mem]
theorem hubFault_mem (o : HubOp) (code : Nat) (s : State) : (hubFault o code s).mem = s.mem := by
  simp [hubFault, tileFault_mem]
theorem semSignal_mem (o : HubOp) (s : State) : (semSignal o s).mem = s.mem := by
  simp [semSignal, hubFault_mem, answerHub_mem, serveSem_mem, State.onSem_mem, apply_ite State.mem]
theorem applyHub_mem (o : HubOp) (s : State) : (applyHub o s).mem = s.mem := by
  simp only [applyHub]
  (repeat' split) <;> simp_all [hubFault_mem, answerHub_mem, putGf_mem, State.onHub_mem, semSignal_mem, State.onSem_mem]
theorem takeHubAnswer_mem (a : HubAns) (s : State) : (takeHubAnswer a s).mem = s.mem := by
  simp only [takeHubAnswer]
  (repeat' split) <;> simp_all [State.onCx_mem, acquire_mem, State.onTile_mem]
theorem countArrival_mem (a : RowArr) (s : State) : (countArrival a s).mem = s.mem := by
  simp [countArrival, tileFault_mem, State.onBar_mem, State.onNet_mem, apply_ite State.mem]
theorem pulseNear_mem (s : State) : (pulseNear s).2.mem = s.mem := by
  simp only [pulseNear]
  (repeat' split) <;> simp_all [drawFree_mem]
theorem eventPulse_mem (b : Nat) (s : State) : (eventPulse b s).mem = s.mem := by
  grind [eventPulse, State.onOut_mem, State.onTrace_mem, pulseNear_mem, foldl_mem]
theorem sendSetpoint_mem (mv : Nat) (s : State) : (sendSetpoint mv s).mem = s.mem := by rfl
theorem stepTrims_mem (s : State) : (stepTrims s).mem = s.mem := by
  grind [stepTrims, State.onTime_mem, State.onRegion_mem, foldl_mem]
theorem signalRelease_mem (n : Nat) (b : Nat) (s : State) : (signalRelease n b s).mem = s.mem := by
  grind [signalRelease, State.onRegion_mem, stepTrims_mem, newIdle_mem, State.onTime_mem, State.onPart_mem, foldl_mem]
theorem epochStep_mem (b : Nat) (s : State) : (epochStep b s).mem = s.mem := by
  simp [epochStep, State.onBar_mem, signalRelease_mem, eventPulse_mem, apply_ite State.mem]
theorem countRow_mem (b : Nat) (y : Nat) (s : State) : (countRow b y s).mem = s.mem := by
  simp [countRow, State.onBar_mem, State.onNet_mem, epochStep_mem, apply_ite State.mem]
theorem discardSys_mem (port : Option Nat) (s : State) : (discardSys port s).mem = s.mem := by
  simp only [discardSys]
  (repeat' split) <;> simp_all [State.onPort_mem]
theorem barUnreach_mem (b : Nat) (dst : Nat) (port : Nat) (s : State) : (barUnreach b dst port s).mem = s.mem := by
  simp only [barUnreach]
  (repeat' split) <;> simp_all [tileFault_mem]
theorem sendArrival_mem (dst : Nat) (b : Nat) (epoch : Nat) (count : Nat) (s : State) : (sendArrival dst b epoch count s).mem = s.mem := by
  grind [sendArrival, originate_mem, barUnreach_mem, foldl_mem]
theorem countRoot_mem (b : Nat) (k : Nat) (s : State) : (countRoot b k s).mem = s.mem := by
  simp only [countRoot]
  (repeat' split) <;> simp_all [State.onBar_mem, State.onPart_mem, State.onNet_mem]
theorem countHead_mem (b : Nat) (k : Nat) (s : State) : (countHead b k s).mem = s.mem := by
  simp [countHead, State.onBar_mem, countRoot_mem, sendArrival_mem, apply_ite State.mem]
theorem systemArrival_mem (a : SysPkt) (s : State) : (systemArrival a s).mem = s.mem := by
  simp [systemArrival, discardSys_mem, sendArrival_mem, countHead_mem, countRoot_mem, apply_ite State.mem]
theorem loseRange_mem (t : Nat) (c : Nat) (r : Nat × Nat) (s : State) : (loseRange t c r s).mem = s.mem := by
  simp [loseRange, State.onTile_mem, State.onUnit_mem, apply_ite State.mem]
theorem releaseEntry_mem (t : Nat) (c : Nat) (s : State) : (releaseEntry t c s).mem = s.mem := by
  simp only [releaseEntry]
  (repeat' split) <;> simp_all [loseRange_mem, touchWrite_mem]
theorem onRd_mem (p : Nat) (n : Nat) (f : RdCtx → RdCtx) (s : State) : (onRd p n f s).mem = s.mem := by rfl
theorem rdPost_mem (p : Nat) (n : Nat) (s : State) : ∀ r, (rdPost p n s) = .ok r → r.mem = s.mem := by
  grind [rdPost, onRd_mem, foldl_mem]
theorem markNf_mem (k : Ring) (nf : Bool) (s : State) : (markNf k nf s).mem = s.mem := by
  simp [markNf, State.onPart_mem, onRd_mem, apply_ite State.mem]
theorem freeRing_mem (p : Nat) (q : Packet) (s : State) : (freeRing p q s).mem = s.mem := by
  simp [freeRing, freeLines_mem, apply_ite State.mem]
theorem putGfs_mem (n : Nat) (v : Word) (b : Bool) (s : State) : (putGfs n v b s).mem = s.mem := by
  simp [putGfs, putGf_mem, foldl_mem, apply_ite State.mem]
theorem semWrite_mem (n : Nat) (v : Word) (s : State) : (semWrite n v s).mem = s.mem := by rfl
theorem startRc_mem (r : Nat) (op : RcOp) (s : State) : (startRc r op s).mem = s.mem := by rfl
theorem writeRcBlock_mem (w : Writer) (o : Nat) (v : Word) (s : State) : ∀ r, (writeRcBlock w o v s) = .ok r → r.mem = s.mem := by
  grind [writeRcBlock, startRc_mem, foldl_mem]
theorem clearRdnf_mem (w : Writer) (v : Word) (s : State) : ∀ r, (clearRdnf w v s) = .ok r → r.mem = s.mem := by
  grind [clearRdnf, State.onPart_mem, foldl_mem]
theorem writeBsBlock_mem (w : Writer) (o : Nat) (s : State) : ∀ r, (writeBsBlock w o s) = .ok r → r.mem = s.mem := by
  intro r h
  simp only [writeBsBlock] at h
  (repeat' split at h) <;> simp_all
theorem giveTokens_mem (r : Nat) (m : BitVec 1024) (s : State) : (giveTokens r m s).mem = s.mem := by
  grind [giveTokens, State.onTile_mem, foldl_mem]
theorem onPool_mem (r : Nat) (f : Pool → Pool) (s : State) : (onPool r f s).mem = s.mem := by rfl
theorem noteBulk_mem (nib : Option Nat) (code : Nat) (a : Nat) (n : Nat) (s : State) : (noteBulk nib code a n s).mem = s.mem := by
  simp only [noteBulk]
  (repeat' split) <;> simp_all [raiseRec_mem]
theorem nibFault_mem (r : Nat) (code : Nat) (a : Nat) (s : State) : (nibFault r code a s).mem = s.mem := by
  simp [nibFault, stopRegion_mem, raiseRec_mem]
theorem setClaims_mem (r : Nat) (n : Nat) (ph : PhaseRec) (s : State) : (setClaims r n ph s).mem = s.mem := by rfl
theorem waitPool_mem (r : Nat) (s : State) : (waitPool r s).mem = s.mem := by rfl
theorem finishLoad_mem (n : Nat) (s : State) : (finishLoad n s).mem = s.mem := by
  grind [finishLoad, State.onTile_mem, drawFree_mem, State.onSec_mem, State.onPart_mem, setLoad_mem, foldl_mem]
theorem foldTile_mem (t : Nat) (s : State) : (foldTile t s).mem = s.mem := by rfl
theorem onCommit_mem (n : Nat) (f : CommitSt → CommitSt) (s : State) : (onCommit n f s).mem = s.mem := by rfl
theorem loadSeeds_mem (n : Nat) (v : Word) (s : State) : (loadSeeds n v s).mem = s.mem := by
  grind [loadSeeds, State.onTile_mem, foldl_mem]
theorem biasValue_mem (rule : BitVec 3) (beta : BitVec 32) (t : Word) (s : State) : (biasValue rule beta t s).2.mem = s.mem := by
  simp only [biasValue]
  (repeat' split) <;> simp_all [drawFree_mem]
theorem growScale_mem (d : Commit) (c : CommitSt) (s : State) : (growScale d c s).2.2.mem = s.mem := by
  simp only [growScale]
  (repeat' split) <;> simp_all [drawFree_mem]
theorem takeTurn_mem (t : Nat) (id : Nat) (cost : Nat) (s : State) : (takeTurn t id cost s).2.mem = s.mem := by
  simp only [takeTurn]
  (repeat' split) <;> simp_all [State.onTile_mem]
theorem unwait_mem (t : Nat) (id : Nat) (s : State) : (unwait t id s).mem = s.mem := by rfl
theorem clearFlag_mem (t : Nat) (tf : BitVec 8) (s : State) : (clearFlag t tf s).mem = s.mem := by rfl
theorem wakeQueue_mem (t : Nat) (u : Nat) (s : State) : (wakeQueue t u s).mem = s.mem := by
  simp [wakeQueue, State.onTile_mem, apply_ite State.mem]
theorem popQueue_mem (t : Nat) (u : Nat) (s : State) : (popQueue t u s).mem = s.mem := by
  simp [popQueue, wakeQueue_mem, State.onUnit_mem]
theorem touchOps_mem (t : Nat) (op : RunOp) (s : State) : (touchOps t op s).2.mem = s.mem := by
  simp [touchOps, touchWrite_mem, foldl_mem]
theorem refuseStart_mem (t : Nat) (q : StartReq) (d : Denial) (s : State) : (refuseStart t q d s).mem = s.mem := by
  simp [refuseStart, tileFault_mem]
theorem readFor_mem (q : StartReq) (a : Nat) (n : Nat) (s : State) : (readFor q a n s).2.mem = s.mem := by
  simp only [readFor]
  (repeat' split) <;> simp_all [drawBytes_mem]
theorem readList_mem (q : StartReq) (s : State) : (readList q s).2.mem = s.mem := by
  simp only [readList]
  (repeat' split) <;> simp_all [drawBytes_mem, readFor_mem]
theorem onList_mem (t : Nat) (f : RunList → RunList) (s : State) : (onList t f s).mem = s.mem := by rfl
theorem stopList_mem (t : Nat) (l : RunList) (code : Nat) (daddr : Nat) (s : State) : (stopList t l code daddr s).mem = s.mem := by
  simp [stopList, tileFault_mem, onList_mem]
theorem replySeg_mem (g : Segment) (ok : Bool) (s : State) : (replySeg g ok s).mem = s.mem := by
  grind [replySeg, onMesh_mem, originate_mem, tileFault_mem, foldl_mem]
theorem dropOutstanding_mem (r : SegReply) (s : State) : (dropOutstanding r s).mem = s.mem := by rfl
theorem countLine_mem (code : Nat) (x : Option Node) (s : State) : (countLine code x s).mem = s.mem := by
  simp only [countLine]
  (repeat' split) <;> simp_all [State.onTile_mem]
theorem answer_mem (r : MemReq) (v : MemRes) (s : State) : (answer r v s).mem = s.mem := by
  simp [answer, countLine_mem, onMesh_mem]
theorem onTraceQ_mem (r : Nat) (f : List Bytes → List Bytes) (s : State) : (onTraceQ r f s).mem = s.mem := by
  rfl
theorem noteForeign_mem (r : MemReq) (v : MemRes) (s : State) : (noteForeign r v s).mem = s.mem := by
  simp only [noteForeign]
  (repeat' split) <;> simp_all [raiseRec_mem]
theorem joinFill_mem (r : MemReq) (s : State) : (joinFill r s).mem = s.mem := by rfl
theorem hostRequest_mem (r : MemReq) (o : Nat) (s : State) : (hostRequest r o s).mem = s.mem := by
  simp only [hostRequest]
  (repeat' split) <;> simp_all [answer_mem, State.onNet_mem]
theorem answerFar_mem (dev : Nat) (tile : Nat) (txn : Nat) (a : MemAns) (s : State) : (answerFar dev tile txn a s).mem = s.mem := by
  grind [answerFar, originate_mem, tileFault_mem, foldl_mem]
theorem takeData_mem (t : Nat) (c : Nat) (r : MemReq) (d : Bytes) (s : State) : (takeData t c r d s).mem = s.mem := by
  simp only [takeData]
  (repeat' split) <;> simp_all [State.onTile_mem, State.onCx_mem, acquire_mem]
theorem takeXfer_mem (t : Nat) (a : MemAns) (s : State) : (takeXfer t a s).mem = s.mem := by rfl
theorem onMovt_mem (t : Nat) (f : RunOp → RunOp) (s : State) : (onMovt t f s).mem = s.mem := by rfl
theorem onBranch_mem (b : Option RegionId) (f : EnlBranch → EnlBranch) (s : State) : (onBranch b f s).mem = s.mem := by
  simp only [onBranch]
  (repeat' split) <;> simp_all [State.onRegion_mem, State.onDev_mem]
theorem countLines_mem (q : EnlReq) (s : State) : (countLines q s).mem = s.mem := by
  grind [countLines, State.onRegion_mem, foldl_mem]
theorem enlAdmit_mem (q : EnlReq) (s : State) : (enlAdmit q s).2.mem = s.mem := by
  grind [enlAdmit, takeTurn_mem, State.onTile_mem, foldl_mem]
theorem beginWaits_mem (t : Nat) (s : State) : (beginWaits t s).mem = s.mem := by
  simp [beginWaits, State.onTile_mem, apply_ite State.mem]
theorem handXstart_mem (t : Nat) (q : StartReq) (s : State) : (handXstart t q s).mem = s.mem := by
  simp [handXstart, State.onTile_mem, popQueue_mem, apply_ite State.mem]
theorem onSend_mem (t : Nat) (k : Nat) (v : Option SendSlot) (s : State) : (onSend t k v s).mem = s.mem := by rfl
theorem sendMsg_mem (t : Nat) (m : SendSlot) (k : Nat) (data : Bytes) (s : State) : ∀ r, (sendMsg t m k data s) = .ok r → r.mem = s.mem := by
  grind [sendMsg, onMesh_mem, originate_mem, foldl_mem]
theorem sendFault_mem (t : Nat) (m : SendSlot) (code : Nat) (daddr : Nat) (s : State) : (sendFault t m code daddr s).mem = s.mem := by
  simp [sendFault, tileFault_mem]
theorem wakeSend_mem (t : Nat) (s : State) : (wakeSend t s).mem = s.mem := by
  simp [wakeSend, State.onTile_mem, apply_ite State.mem]
theorem freeSlot_mem (t : Nat) (k : Nat) (s : State) : (freeSlot t k s).mem = s.mem := by
  simp [freeSlot, wakeFences_mem, wakeSend_mem, onSend_mem]
theorem injectSlot_mem (t : Nat) (k : Nat) (m : SendSlot) (s : State) : (injectSlot t k m s).mem = s.mem := by
  grind [injectSlot, sendFault_mem, freeSlot_mem, drawBytes_mem, sendMsg_mem, State.onTile_mem, onSend_mem, foldl_mem]
theorem tryInject_mem (t : Nat) (k : Nat) (s : State) : (tryInject t k s).mem = s.mem := by
  grind [tryInject, takeTurn_mem, injectSlot_mem, foldl_mem]
theorem replyMsg_mem (g : Message) (o : MsgOut) (s : State) : (replyMsg g o s).mem = s.mem := by
  grind [replyMsg, onMesh_mem, originate_mem, tileFault_mem, foldl_mem]
theorem onQueue_mem (t : Nat) (q1 : Bool) (f : RecvQ → RecvQ) (s : State) : (onQueue t q1 f s).mem = s.mem := by rfl
theorem dropKey_mem (t : Nat) (m : SendSlot) (s : State) : (dropKey t m s).mem = s.mem := by rfl
theorem exhausted_mem (t : Nat) (m : SendSlot) (s : State) : (exhausted t m s).mem = s.mem := by
  simp [exhausted, State.onMail_mem, sendFault_mem]
theorem startHandler_mem (t : Nat) (c : Nat) (r : BitVec 2176) (q1 : Bool) (e : QEntry) (s : State) : (startHandler t c r q1 e s).mem = s.mem := by
  simp [startHandler, invalidateRlb_mem, State.onMail_mem, State.onTile_mem]
theorem fence_mem (n : Nat) (b : Bool) (s : State) : (fence n b s).mem = s.mem := by
  grind [fence, State.onTile_mem, foldl_mem]
theorem installSync_mem (p : Plate) (s : State) : (installSync p s).mem = s.mem := by
  grind [installSync, State.onHub_mem, State.onSem_mem, State.onBar_mem, foldl_mem]
theorem beginDeclarations_mem (p : Plate) (s : State) : (beginDeclarations p s).mem = s.mem := by
  grind [beginDeclarations, State.onPart_mem, State.onRegion_mem, foldl_mem]
theorem noteSuspect_mem (r : Rec) (s : State) : (noteSuspect r s).mem = s.mem := by
  simp [noteSuspect, State.onBoot_mem, apply_ite State.mem]
theorem storeRec_mem (r : Rec) (s : State) : (storeRec r s).mem = s.mem := by rfl
theorem clearBlotter_mem (s : State) : (clearBlotter s).mem = s.mem := by rfl
theorem tornRec_mem (t : Nat) (src : Nat) (c : Nat) (iaddr : BitVec 32) (daddr : Nat) (progress : Nat) (s : State) : (tornRec t src c iaddr daddr progress s).mem = s.mem := by
  simp [tornRec, raiseRec_mem, apply_ite State.mem]
theorem tearOp_mem (t : Nat) (c : Nat) (s : State) : (tearOp t c s).mem = s.mem := by
  simp only [tearOp]
  (repeat' split) <;> simp_all [State.onNet_mem, State.onHub_mem, State.onSem_mem, tornRec_mem, State.onTile_mem]
theorem haltAll_mem (t : Nat) (s : State) : (haltAll t s).mem = s.mem := by rfl
theorem resumeTile_mem (t : Nat) (s : State) : (resumeTile t s).mem = s.mem := by rfl
theorem stepCtx_mem (t : Nat) (c : Nat) (s : State) : (stepCtx t c s).mem = s.mem := by rfl
theorem resumePart_mem (n : Nat) (s : State) : (resumePart n s).mem = s.mem := by
  simp [resumePart, resumeTile_mem, foldl_mem]
theorem windowAnswer_mem (p : DbgPath) (s : State) : (windowAnswer p s).mem = s.mem := by
  simp only [windowAnswer]
  (repeat' split) <;> simp_all [hostAnswer_mem]
theorem endUnlock_mem (n : Nat) (s : State) : (endUnlock n s).mem = s.mem := by rfl
theorem onTenant_mem (n : Nat) (f : Tenant → Tenant) (s : State) : (onTenant n f s).mem = s.mem := by rfl
theorem newKey_mem (s : State) : (newKey s).2.mem = s.mem := by rfl
theorem freshObjects_mem (n : Nat) (s : State) : (freshObjects n s).mem = s.mem := by rfl
theorem openPart_mem (n : Nat) (s : State) : (openPart n s).mem = s.mem := by
  simp [openPart, fence_mem, onTenant_mem]
theorem stopAll_mem (s : State) : (stopAll s).mem = s.mem := by
  simp [stopAll, stopPartition_mem, foldl_mem, apply_ite State.mem]
theorem writeSlot_mem (off : Nat) (d : Bytes) (s : State) : (writeSlot off d s).mem = s.mem := by rfl
theorem verifySlot_mem (s : State) : (verifySlot s).2.mem = s.mem := by rfl
theorem makeChallenge_mem (scope : Byte) (s : State) : (makeChallenge scope s).mem = s.mem := by
  simp [makeChallenge, drawFree_mem, State.onSec_mem]
theorem failResponse_mem (s : State) : (failResponse s).mem = s.mem := by rfl
theorem answerChallenge_mem (sig : Bytes) (s : State) : (answerChallenge sig s).2.mem = s.mem := by
  simp only [answerChallenge]
  (repeat' split) <;> simp_all [failResponse_mem, State.onSec_mem]
theorem relockAll_mem (s : State) : (relockAll s).mem = s.mem := by rfl
theorem spdmAnswer_mem (f : Nat) (st : Nat) (d : Bytes) (s : State) : (spdmAnswer f st d s).mem = s.mem := by rfl
theorem startDump_mem (s : State) : (startDump s).mem = s.mem := by
  simp [startDump, State.onHub_mem, apply_ite State.mem]
theorem captureRegion_mem (r : Nat) (s : State) : (captureRegion r s).mem = s.mem := by
  rfl
theorem dumpReady_mem (s : State) : (dumpReady s).mem = s.mem := by
  simp [dumpReady, State.onHub_mem, apply_ite State.mem]
theorem serveDump_mem (r : Nat) (s : State) : (serveDump r s).mem = s.mem := by
  simp [serveDump, captureRegion_mem, dumpReady_mem, apply_ite State.mem]
theorem endDump_mem (s : State) : (endDump s).mem = s.mem := by
  simp [endDump, foldl_mem, serveDump_mem, apply_ite State.mem]
theorem passPower_mem (ns : Nat) (s : State) : (passPower ns s).mem = s.mem := by
  grind [passPower, State.onPower_mem, State.onRegion_mem, foldl_mem]
theorem advanceTime_mem (ns : Nat) (s : State) : (advanceTime ns s).mem = s.mem := by
  simp [advanceTime, passPower_mem, State.onTime_mem]
theorem dropLimits_mem (s : State) : (dropLimits s).mem = s.mem := by
  grind [dropLimits, State.onRegion_mem, foldl_mem]
theorem countBeats_mem (s : State) : (countBeats s).mem = s.mem := by
  simp [(countBeats_onlyBeats s).1.1]
theorem publishBeats_mem (beats : List Nat) (hops : List Nat) (s : State) : (publishBeats beats hops s).mem = s.mem := by
  grind [publishBeats, State.onRegion_mem, State.onTime_mem, dropLimits_mem, foldl_mem]
theorem publishPools_mem (s : State) : (publishPools s).mem = s.mem := by
  grind [publishPools, State.onRegion_mem, foldl_mem]
theorem cutLink_mem (s : State) : (cutLink s).mem = s.mem := by
  rfl
theorem thermalTrip_mem (at' : Nat) (s : State) : (thermalTrip at' s).mem = s.mem := by
  simp [thermalTrip, State.onBoot_mem, State.onPower_mem, cutLink_mem, raiseRec_mem, setDevState_mem, updateLevel_mem]
theorem readHeat_mem (temps : List (List Int)) (per : List Int) (s : State) : (readHeat temps per s).mem = s.mem := by
  grind [readHeat, State.onRegion_mem, State.onPower_mem, State.onBoot_mem, thermalTrip_mem, foldl_mem]
theorem lowerFor_mem (mv : Nat) (s : State) : (lowerFor mv s).mem = s.mem := by
  grind [lowerFor, State.onRegion_mem, foldl_mem]
theorem endLowering_mem (s : State) : (endLowering s).mem = s.mem := by
  simp [endLowering, dropLimits_mem, apply_ite State.mem]
theorem replan_mem (s : State) : (replan s).mem = s.mem := by
  simp [replan, State.onPower_mem, endLowering_mem]
theorem logAgeing_mem (rows : List Int) (regions : List Int) (s : State) : (logAgeing rows regions s).mem = s.mem := by
  simp [logAgeing, State.onPower_mem, apply_ite State.mem]
theorem measure_mem (rowCounts : List Nat) (regionCounts : List Nat) (s : State) : (measure rowCounts regionCounts s).mem = s.mem := by
  grind [measure, State.onRegion_mem, State.onPower_mem, logAgeing_mem, replan_mem, stepTrims_mem, foldl_mem]
theorem addHours_mem (hours : Nat) (s : State) : (addHours hours s).mem = s.mem := by rfl
theorem patrol_mem (a : Nat) (s : State) : (patrol a s).mem = s.mem := by
  simp [patrol, openRow_mem, raiseRec_mem, State.onBulk_mem, apply_ite State.mem]
theorem settleFar_mem (port : Option Nat) (txn : Nat) (v : MemReq → MemRes) (s : State) :
    (settleFar port txn v s).mem = s.mem := by
  simp only [settleFar]
  (repeat' split) <;> simp_all [onMesh_mem]
theorem foreign_mem (p : Nat) (q : Packet) (s : State) : (foreign p q s).mem = s.mem := by rfl
theorem landSegment_mem (p : Nat) (q : Packet) (s : State) : (landSegment p q s).mem = s.mem := by
  rfl
theorem prepareRead_mem (idx : Nat) (sub : Nat) (s : State) : (prepareRead idx sub s).mem = s.mem := by
  simp [prepareRead, foldTile_mem, apply_ite State.mem]
theorem applyStaged_mem (sub : BitVec 8) (s : State) : (applyStaged sub s).mem = s.mem := by
  simp only [applyStaged]
  (repeat' split) <;> simp_all [State.onMgmt_mem]
theorem deliver_mem (a : IdpAns) (s : State) : (deliver a s).mem = s.mem := by
  simp only [deliver]
  (repeat' split) <;> simp_all [State.onMgmt_mem, applyStaged_mem, raiseCause_mem, State.onFn_mem]
theorem remember_mem (a : IdpAns) (s : State) : (remember a s).mem = s.mem := by rfl
theorem refuseBar0_mem (f : FnId) (o : Nat) (s : State) : (refuseBar0 f o s).mem = s.mem := by
  simp [refuseBar0, refuseHost_mem, apply_ite State.mem]
theorem writeMask_mem (f : Nat) (v : Word) (s : State) : (writeMask f v s).mem = s.mem := by
  simp [writeMask, State.onFn_mem, signalMsi_mem, foldl_mem, apply_ite State.mem]
theorem writeMsix_mem (f : Nat) (i : Nat) (high : Bool) (v : Word) (s : State) : (writeMsix f i high v s).mem = s.mem := by
  simp [writeMsix, State.onFn_mem, signalMsi_mem, apply_ite State.mem]
theorem installEntry_mem (f : FnId) (slot : Nat) (low : Word) (s : State) : (installEntry f slot low s).mem = s.mem := by
  simp only [installEntry]
  (repeat' split) <;> simp_all [refuseBar0_mem, State.onPart_mem]
theorem stageEntry_mem (f : FnId) (slot : Nat) (high : Word) (s : State) : (stageEntry f slot high s).mem = s.mem := by
  simp only [stageEntry]
  (repeat' split) <;> simp_all [refuseBar0_mem, State.onPart_mem]
theorem formP0_mem (s : State) : (formP0 s).mem = s.mem := by
  simp only [formP0]
  (repeat' split) <;> simp_all [State.onPart_mem, State.onHub_mem]
theorem bistSteps_mem (si : Silicon) (s : State) : (bistSteps si s).mem = s.mem := by
  grind [bistSteps, State.onBoot_mem, State.onBulk_mem, State.onRegion_mem, State.onPort_mem, foldl_mem]
theorem powerSteps_mem (si : Silicon) (s : State) : (powerSteps si s).mem = s.mem := by
  grind [powerSteps, readHeat_mem, State.onRegion_mem, publishBeats_mem, measure_mem, sendSetpoint_mem, foldl_mem]
theorem State.withFetchWord_mem (s : State) (nbits : Nat) (w : Nat) : (State.withFetchWord s nbits w).mem = s.mem := by
  rfl

theorem onRegion_fold_mem (f : Nat → Reg → Reg) (l : List Nat) (s : State) :
    (l.foldl (fun s r => s.onRegion r (f r)) s).mem = s.mem := by
  induction l generalizing s with
  | nil => rfl
  | cons r l ih => rw [List.foldl_cons, ih]; rfl
theorem emptyTraceQs_mem (s : State) : (emptyTraceQs s).mem = s.mem := by
  unfold emptyTraceQs
  exact onRegion_fold_mem _ _ _

end Sys2Proof.Machine
end

