-- ==== Sys2Proof/Laws/Memory.lean ====
section
/-!
SUPPORT. Laws of memory: what a write reads back, that it leaves every other byte alone, and that each of the five
operations that write memory keeps its canonical form (log 4).
-/
namespace Sys2Proof.Machine

/-- A byte after a write: a byte of the write within it, what it was elsewhere. -/
theorem poke_get (s : State) (a j : Nat) (bs : Bytes) :
    Map.get 0#8 (s.poke a bs).mem j = if h : a ≤ j ∧ j < a + bs.length then bs[j - a]'(by omega) else Map.get 0#8 s.mem j :=
  Map.get_fill 0#8 bs s.mem a j

/-- A byte outside a write is unchanged. -/
theorem poke_get_out (s : State) {a j : Nat} (bs : Bytes) (h : j < a ∨ a + bs.length ≤ j) :
    Map.get 0#8 (s.poke a bs).mem j = Map.get 0#8 s.mem j := by
  rw [poke_get, dif_neg (by omega)]

/-- A read of what was written gives it back. -/
theorem bytes_poke (s : State) (a : Nat) (bs : Bytes) : (s.poke a bs).bytes a bs.length = bs := by
  apply List.ext_getElem
  · simp [State.bytes, Map.range]
  · intro i h1 h2
    have h3 : i < bs.length := h2
    simp only [State.bytes, Map.range, List.getElem_map, List.getElem_range, poke_get]
    rw [dif_pos ⟨by omega, by omega⟩]
    simp

/-- A read outside a write is unchanged. -/
theorem bytes_poke_out (s : State) {a b n : Nat} (bs : Bytes) (h : b + n ≤ a ∨ a + bs.length ≤ b) :
    (s.poke a bs).bytes b n = s.bytes b n := by
  refine List.map_congr_left (fun i hi => ?_)
  have : i < n := by simpa using hi
  exact poke_get_out s bs (by omega)

theorem length_bytes (s : State) (a n : Nat) : (s.bytes a n).length = n := by simp [State.bytes, Map.range]

/-! ### The canonical form -/

theorem reset_wf : Memory.wf State.reset.mem := rfl

theorem poke_wf (s : State) (a : Nat) (bs : Bytes) (h : Memory.wf s.mem) : Memory.wf (s.poke a bs).mem :=
  Map.wf_fill 0#8 bs s.mem a h

theorem clearSram_wf (t : Nat) (s : State) (h : Memory.wf s.mem) : Memory.wf (clearSram t s).mem :=
  Map.wf_sublist 0#8 List.filter_sublist h

theorem scrubGranule_wf (g : Nat) (s : State) (h : Memory.wf s.mem) : Memory.wf (scrubGranule g s).mem :=
  Map.wf_sublist 0#8 List.filter_sublist h

theorem unscrub_wf (lo hi : Nat) (s : State) (h : Memory.wf s.mem) : Memory.wf (unscrub lo hi s).mem :=
  Map.wf_sublist 0#8 List.filter_sublist h

theorem clearBand_wf (n : Nat) (s : State) (h : Memory.wf s.mem) : Memory.wf (clearBand n s).mem :=
  Map.wf_sublist 0#8 List.filter_sublist h

end Sys2Proof.Machine
end

