-- ==== Sys2Proof/Laws/Canonical.lean ====
section
/-! SUPPORT. The operations of the machine that write memory keep its canonical form (log 4), one lemma each, named
after the operation; a caller cites the lemma of what it calls. Those of an operation that leaves memory as it was are in
Sys2Proof/Laws/MemFrames.lean. -/

namespace Sys2Proof.Machine

/-- A fold of an operation that keeps the canonical form keeps it. -/
theorem foldl_wf {α : Type} (g : State → α → State) (l : List α) (h : ∀ s x, Memory.wf s.mem → Memory.wf (g s x).mem) (s : State) :
    Memory.wf s.mem → Memory.wf (l.foldl g s).mem := by
  induction l generalizing s with
  | nil => exact id
  | cons x l ih => exact fun w => ih _ (h _ _ w)

/-- `poke_wf` under the operation's full name, for the lemmas below. -/
theorem State.poke_wf (s : State) (a : Nat) (bs : Bytes) : Memory.wf s.mem → Memory.wf (State.poke s a bs).mem :=
  Sys2Proof.Machine.poke_wf s a bs

theorem settleLine_wf (l : Nat) (s : State) : Memory.wf s.mem → Memory.wf (settleLine l s).mem := by
  grind [settleLine, State.poke_wf, State.onBulk_mem]
theorem bulkPut_wf (a : Nat) (bs : Bytes) (s : State) : Memory.wf s.mem → Memory.wf (bulkPut a bs s).mem := by
  grind [bulkPut, scrubGranule_wf, settleLine_wf, State.poke_wf, openRow_mem, State.onBulk_mem]
theorem bulkWrite_wf (a : Nat) (bs : Bytes) (s : State) : Memory.wf s.mem → Memory.wf (bulkWrite a bs s).2.mem := by
  grind [bulkWrite, bulkPut_wf, State.onBulk_mem, openRow_mem]
theorem writeBack_wf (x : CLine) (s : State) : Memory.wf s.mem → Memory.wf (writeBack x s).mem := by
  grind [writeBack, bulkPut_wf]
theorem allocate_wf (r : Nat) (l : Nat) (set : Nat) (data : Bytes) (dirty : Bool) (s : State) :
    Memory.wf s.mem → Memory.wf (allocate r l set data dirty s).2.mem := by
  grind [allocate, writeBack_wf, State.onRc_mem]
theorem homeRead_wf (n : Nat) (a : Nat) (len : Nat) (alloc : Bool) (s : State) :
    Memory.wf s.mem → Memory.wf (homeRead n a len alloc s).2.mem := by
  grind [homeRead, allocate_wf, bulkReadLine_mem, countRc_mem, State.onRc_mem]
theorem homeWrite_wf (n : Nat) (a : Nat) (bs : Bytes) (alloc : Bool) (s : State) :
    Memory.wf s.mem → Memory.wf (homeWrite n a bs alloc s).2.mem := by
  grind [homeWrite, bulkWrite_wf, allocate_wf, countRc_mem, State.onRc_mem, bulkReadLine_mem]
theorem scanSets_wf (op : RcOp) (r lo hi : Nat) (s : State) : Memory.wf s.mem → Memory.wf (scanSets op r lo hi s).mem := by
  intro w
  simp only [scanSets, State.onRc_mem]
  split
  · exact w
  · exact foldl_wf _ _ (fun s x w => writeBack_wf x s w) s w
theorem scanOn_wf (r : Nat) (s : State) : Memory.wf s.mem → Memory.wf (scanOn r s).mem := by
  grind [scanOn, scanSets_wf, drawFree_mem, State.onRc_mem]
theorem scanEnd_wf (r : Nat) (s : State) : Memory.wf s.mem → Memory.wf (scanEnd r s).mem := by
  grind [scanEnd, scanSets_wf, State.onRc_mem]
theorem invalSlice_wf (r : Nat) (s : State) : Memory.wf s.mem → Memory.wf (invalSlice r s).mem := scanSets_wf _ _ _ _ s
theorem emptyWays_wf (r : Nat) (p : Nat → Bool) (s : State) : Memory.wf s.mem → Memory.wf (emptyWays r p s).mem := by
  simp only [emptyWays]
  (repeat' split) <;> first | (simp_all; done) | grind [foldl_wf, writeBack_wf, State.onRc_mem] | (refine foldl_wf _ _ (fun s x w => ?_) _; grind [emptyWays, writeBack_wf, State.onRc_mem])
theorem putTrace_wf (bs : Bytes) (s : State) : Memory.wf s.mem → Memory.wf (putTrace bs s).mem := by
  grind [putTrace, homeWrite_wf, dropTrace_mem, State.onTrace_mem, stopTrace_mem]
theorem noteLost_mem (r : Nat) (s : State) : (noteLost r s).mem = s.mem := by
  simp [noteLost, onTraceQ_mem, State.onRegion_mem, apply_ite State.mem]
theorem drainTrace_wf (fuel r : Nat) (s : State) : Memory.wf s.mem → Memory.wf (drainTrace fuel r s).mem := by
  induction fuel generalizing s with
  | zero => exact id
  | succ n ih =>
    intro w
    unfold drainTrace
    split
    · exact w
    · split
      · exact w
      · refine ih _ ?_
        rw [noteLost_mem]
        exact putTrace_wf _ _ w
theorem drainTraces_wf (s : State) : Memory.wf s.mem → Memory.wf (drainTraces s).mem :=
  foldl_wf _ _ (fun s r w => by grind [drainTrace_wf]) s
theorem pushTrace_wf (r : Nat) (bs : Bytes) (s : State) : Memory.wf s.mem → Memory.wf (pushTrace r bs s).mem := by
  intro w
  unfold pushTrace
  split
  · exact w
  · exact drainTrace_wf _ _ _ w
theorem traceTile_wf (t : Nat) (kind : Nat) (ctx : Nat) (iaddr : Nat) (payload : Bytes) (s : State) :
    Memory.wf s.mem → Memory.wf (traceTile t kind ctx iaddr payload s).mem := by
  grind [traceTile, pushTrace_wf]
theorem traceHub_wf (r n : Nat) (kind : Nat) (payload : Bytes) (s : State) :
    Memory.wf s.mem → Memory.wf (traceHub r n kind payload s).mem := by
  grind [traceHub, pushTrace_wf]
theorem marker_wf (t c f : Nat) (s : State) : Memory.wf s.mem → Memory.wf (marker t c f s).mem := by
  grind [marker, traceTile_wf]
theorem markWrite_wf (t c o : Nat) (v : Word) (s : State) : Memory.wf s.mem → Memory.wf (markWrite t c o v s).mem := by
  unfold markWrite
  split
  · exact foldl_wf _ _ (fun s i w => by grind [marker_wf]) s
  · exact id

/-- The memory an instruction's effect leaves, where it leaves a state of its own, is in the canonical form. -/
def Eff.Canonical : Eff → Prop
  | .done s | .jump s _ | .left s => Memory.wf s.mem
  | .fault _ _ | .wait _ => True

theorem finish_wf (t c : Nat) (s : State) (e : Eff) (w : Memory.wf s.mem) (he : e.Canonical) :
    Memory.wf (finish t c s e).mem := by
  cases e <;> simp only [Eff.Canonical] at he <;> simp only [finish] <;> grind [issueFault_mem, State.onTile_mem]


/-- What an issue can do to memory is what the instruction's body does to it. -/
theorem issue_wf (t c : Nat) (u : Uses) (body : State → Eff) (hb : ∀ s, Memory.wf s.mem → (body s).Canonical) (s : State) :
    Memory.wf s.mem → Memory.wf (issue t c u body s).mem := by
  intro w
  have hf : Memory.wf (fetched t c s).mem := by grind [fetched_mem]
  have := finish_wf t c _ _ hf (hb _ hf)
  grind [issue, haltCtx_mem, State.onTile_mem, issueFault_mem]

theorem legal_canonical (ok : Bool) (body : State → Eff) (s : State) (hb : Memory.wf s.mem → (body s).Canonical) :
    Memory.wf s.mem → (legal ok body s).Canonical := by
  intro w; unfold legal; split
  · exact hb w
  · trivial


theorem sForm_wf (op : Nat → Word → Word → Option Word) (unary : Nat → Bool) (t c : Nat) (rd rs1 rs2 : BitVec 5) (fn : BitVec 11)
    (s : State) : Memory.wf s.mem → Memory.wf (sForm op unary t c rd rs1 rs2 fn s).mem := by
  refine issue_wf _ _ _ _ (fun s w => ?_) s
  split
  · exact legal_canonical _ _ _ (fun w => by simpa [writes, Eff.Canonical, setRv] using w) w
  · trivial


theorem iForm_wf (op : Word → Word → Word) (t c : Nat) (rd rs1 : BitVec 5) (imm : BitVec 16) (s : State) :
    Memory.wf s.mem → Memory.wf (iForm op t c rd rs1 imm s).mem :=
  issue_wf _ _ _ _ (fun s w => by simpa [writes, Eff.Canonical, setRv] using w) s


theorem branch_wf (k : Cond) (t c : Nat) (rd rs1 : BitVec 5) (imm : BitVec 16) (s : State) :
    Memory.wf s.mem → Memory.wf (branch k t c rd rs1 imm s).mem := by
  refine issue_wf _ _ _ _ (fun s w => ?_) s
  split
  · unfold jumpTo; split
    · exact w
    · trivial
  · exact w


theorem sendFar_mem (t dev : Nat) (r : MemReq) (s : State) : ∀ r', sendFar t dev r s = .ok r' → r'.mem = s.mem := by
  intro r' h
  simp only [sendFar] at h
  split at h
  · cases h
  · rename_i hs
    have := originate_mem _ _ _ hs
    cases h; exact this

theorem writeShared_wf (a : Nat) (bs : Bytes) (s : State) : Memory.wf s.mem → Memory.wf (writeShared a bs s).mem := by
  grind [writeShared, State.poke_wf, touchWrite_mem]
theorem accumulate_wf (t : Nat) (a : Nat) (ty : BitVec 2) (new : Bytes) (s : State) :
    ∀ r, (accumulate t a ty new s) = .ok r → Memory.wf s.mem → Memory.wf r.mem := by
  grind [accumulate, writeShared_wf, readShared_mem, State.onTile_mem]
theorem fillStore_wf (t : Nat) (w : Nat) (bs : Bytes) (s : State) :
    ∀ r, (fillStore t w bs s) = .ok r → Memory.wf s.mem → Memory.wf r.mem := by
  grind [fillStore, writeShared_wf, serveFull_mem, setFull_mem]

theorem mForm_wf (t c : Nat) (u : Nat → Uses) (width : BitVec 3) (ok : Nat → Bool) (body : Nat → State → Eff)
    (hb : ∀ n s, Memory.wf s.mem → (body n s).Canonical) (s : State) :
    Memory.wf s.mem → Memory.wf (mForm t c u width ok body s).mem := by
  unfold mForm; split
  · exact issue_wf _ _ _ _ (fun s w => legal_canonical _ _ _ (hb _ s) w) s
  · exact issue_wf _ _ _ (fun _ => .fault 0x0B 0) (fun _ _ => trivial) s

theorem arrive_wf (t : Nat) (c : Nat) (b : Nat) (s : State) : Memory.wf s.mem → Memory.wf (arrive t c b s).mem := by
  grind [arrive, traceTile_wf, State.onTile_mem, State.onNet_mem]
theorem releaseHeld_wf (t : Nat) (b : Nat) (s : State) : Memory.wf s.mem → Memory.wf (releaseHeld t b s).mem := by
  simp only [releaseHeld]
  (repeat' split) <;> first | (simp_all; done) | grind [foldl_wf, arrive_wf, State.onCx_mem, State.onTile_mem] | (refine foldl_wf _ _ (fun s x w => ?_) _; grind [releaseHeld, arrive_wf, State.onCx_mem, State.onTile_mem])
theorem releaseAt_wf (t : Nat) (b : Nat) (s : State) : Memory.wf s.mem → Memory.wf (releaseAt t b s).mem := by
  grind [releaseAt, traceTile_wf, State.onBar_mem, State.onTile_mem]

theorem systemRelease_wf (a : SysPkt) (s : State) : Memory.wf s.mem → Memory.wf (systemRelease a s).mem := by
  intro w
  have h : ((releasePorts s a.port).foldl (fun s p =>
      (sendOut p false (barPacket s 10 (neighbour s p) a.b a.epoch.toNat 0) s).getD
        (barUnreach a.b (barPacket s 10 (neighbour s p) a.b a.epoch.toNat 0).dst p s)) s).mem = s.mem := foldl_mem _ _ (fun s p => by
    cases h : sendOut p false (barPacket s 10 (neighbour s p) a.b a.epoch.toNat 0) s with
    | none => exact barUnreach_mem _ _ _ _
    | some r => exact sendOut_mem _ _ _ _ _ h) s
  simp only [systemRelease]
  split
  · grind [epochStep_mem]
  · grind [discardSys_mem]
theorem withUpset_wf (u : Upset) (t : Nat) (body : State → State) (hb : ∀ s, Memory.wf s.mem → Memory.wf (body s).mem) (s : State) :
    Memory.wf s.mem → Memory.wf (withUpset u t body s).mem := by
  intro w
  unfold withUpset; split
  · rw [parity_mem]; exact w
  · rw [failHub_mem]; exact w
  · exact hb _ (by rw [strike_mem]; exact w)
theorem tfForm_wf (usesRd writesFlag : Bool) (t c : Nat) (rd rs1 : BitVec 5) (obj : BitVec 12) (body : State → Eff)
    (hb : ∀ s, Memory.wf s.mem → (body s).Canonical) (s : State) :
    Memory.wf s.mem → Memory.wf (tfForm usesRd writesFlag t c rd rs1 obj body s).mem :=
  issue_wf _ _ _ _ (fun s w => legal_canonical _ _ _ (hb s) w) s

theorem tfWait_wf (want : Bool) (t c : Nat) (rd rs1 : BitVec 5) (obj : BitVec 12) (s : State) :
    Memory.wf s.mem → Memory.wf (tfWait want t c rd rs1 obj s).mem :=
  tfForm_wf _ _ _ _ _ _ _ _ (fun s w => by split <;> first | exact w | trivial) s


theorem toHub_canonical (t c : Nat) (w : WaitFor) (op : HubOp) (s : State) (h : Memory.wf s.mem) : (toHub t c w op s).Canonical := by
  simpa [toHub, Eff.Canonical] using h

theorem gfForm_wf (kind : HubKind) (rel acq : Bool) (t c : Nat) (rd rs1 : BitVec 5) (obj : BitVec 12) (s : State) :
    Memory.wf s.mem → Memory.wf (gfForm kind rel acq t c rd rs1 obj s).mem := by
  refine issue_wf _ _ _ _ (fun s w => legal_canonical _ _ _ (fun w => ?_) w) s
  split
  · trivial
  · exact toHub_canonical _ _ _ _ _ w


theorem semForm_wf (kind : HubKind) (rel acq : Bool) (t c : Nat) (rd rs1 : BitVec 5) (obj : BitVec 12) (s : State) :
    Memory.wf s.mem → Memory.wf (semForm kind rel acq t c rd rs1 obj s).mem := by
  refine issue_wf _ _ _ _ (fun s w => legal_canonical _ _ _ (fun w => ?_) w) s
  dsimp only
  split
  · trivial
  · split
    · simp only [Eff.Canonical]; split
      · grind [acquire_mem]
      · exact w
    · exact toHub_canonical _ _ _ _ _ w


theorem barForm_wf (t c : Nat) (rd rs1 : BitVec 5) (obj : BitVec 12) (body : State → Eff)
    (hb : ∀ s, Memory.wf s.mem → (body s).Canonical) (s : State) :
    Memory.wf s.mem → Memory.wf (barForm t c rd rs1 obj body s).mem :=
  issue_wf _ _ _ _ (fun s w => legal_canonical _ _ _ (fun w => by split <;> first | exact hb s w | trivial) w) s

theorem stopRing_wf (k : Ring) (s : State) : Memory.wf s.mem → Memory.wf (stopRing k s).mem := by
  simp only [stopRing]
  (repeat' split) <;> first | (simp_all; done) | grind [foldl_wf, writeShared_wf, onRd_mem, drawBytes_mem] | (refine foldl_wf _ _ (fun s x w => ?_) _; grind [stopRing, writeShared_wf, onRd_mem, drawBytes_mem])
theorem ringFault_wf (k : Ring) (piece : Nat) (code : Nat) (daddr : Nat) (s : State) :
    Memory.wf s.mem → Memory.wf (ringFault k piece code daddr s).mem := by
  grind [ringFault, stopRing_wf, tileFault_mem]
theorem sendRing_wf (k : Ring) (dl : Bool) (nf : Bool) (ag : Bool) (j : Nat) (piece : Nat) (off : Nat) (data : Bytes) (s : State) :
    Memory.wf s.mem → Memory.wf (sendRing k dl nf ag j piece off data s).mem := by
  grind [sendRing, ringFault_wf, sendOut_mem]
theorem sendPiece_wf (k : Ring) (ag : Bool) (j : Nat) (piece : Nat) (s : State) :
    Memory.wf s.mem → Memory.wf (sendPiece k ag j piece s).mem := by
  simp only [sendPiece]
  (repeat' split) <;> first | (simp_all; done) | grind [foldl_wf, ringFault_wf, sendRing_wf, readShared_mem, markNf_mem] | (refine foldl_wf _ _ (fun s x w => ?_) _; grind [sendPiece, ringFault_wf, sendRing_wf, readShared_mem, markNf_mem])
theorem sendChunk_wf (k : Ring) (ag : Bool) (j : Nat) (s : State) :
    Memory.wf s.mem → Memory.wf (sendChunk k ag j s).mem := by
  simp only [sendChunk]
  (repeat' split) <;> first | (simp_all; done) | grind [foldl_wf, sendPiece_wf] | (refine foldl_wf _ _ (fun s x w => ?_) _; grind [sendChunk, sendPiece_wf])
theorem beginGather_wf (k : Ring) (s : State) : Memory.wf s.mem → Memory.wf (beginGather k s).mem := by
  grind [beginGather, sendChunk_wf, onRd_mem]
theorem takePartial_wf (k : Ring) (q : Packet) (s : State) : Memory.wf s.mem → Memory.wf (takePartial k q s).mem := by
  grind [takePartial, ringFault_wf, writeShared_wf, sendRing_wf, readShared_mem, onRd_mem, markNf_mem]
theorem takeResult_wf (k : Ring) (q : Packet) (s : State) : Memory.wf s.mem → Memory.wf (takeResult k q s).mem := by
  grind [takeResult, writeShared_wf, sendRing_wf, markNf_mem, onRd_mem]
theorem takeRing_wf (p : Nat) (q : Packet) (s : State) : Memory.wf s.mem → Memory.wf (takeRing p q s).mem := by
  grind [takeRing, takeResult_wf, takePartial_wf, beginGather_wf, raiseRec_mem, markNf_mem]
theorem writeHubBlock_wf (w : Writer) (o : Nat) (v : Word) (s : State) :
    ∀ r, (writeHubBlock w o v s) = .ok r → Memory.wf s.mem → Memory.wf r.mem := by
  simp only [writeHubBlock]
  (repeat' split) <;> first | (simp_all; done) | grind [foldl_wf, putGfs_mem, semWrite_mem, State.onBar_mem] | (refine foldl_wf _ _ (fun s x w => ?_) _; grind [writeHubBlock, putGfs_mem, semWrite_mem, State.onBar_mem])
theorem writePortBlock_wf (w : Writer) (o : Nat) (v : Word) (s : State) :
    ∀ r, (writePortBlock w o v s) = .ok r → Memory.wf s.mem → Memory.wf r.mem := by
  simp only [writePortBlock]
  (repeat' split) <;> first | (simp_all; done) | grind [foldl_wf, clearRdnf_mem, onRd_mem, rdPost_mem] | (refine foldl_wf _ _ (fun s x w => ?_) _; grind [writePortBlock, clearRdnf_mem, onRd_mem, rdPost_mem])
theorem latch_wf (r : Nat) (phase : Nat) (s : State) : Memory.wf s.mem → Memory.wf (latch r phase s).mem := by
  grind [latch, traceHub_wf, onPool_mem, giveTokens_mem]
theorem writePoolBlock_wf (w : Writer) (o : Nat) (v : Word) (s : State) :
    ∀ r, (writePoolBlock w o v s) = .ok r → Memory.wf s.mem → Memory.wf r.mem := by
  grind [writePoolBlock, latch_wf, onPool_mem]
theorem devWrite_wf (w : Writer) (o : Nat) (v : Word) (s : State) :
    ∀ r, (devWrite w o v s) = .ok r → Memory.wf s.mem → Memory.wf r.mem := by
  grind [devWrite, writeHubBlock_wf, writePortBlock_wf, writePoolBlock_wf, writeRcBlock_mem, writeBsBlock_mem]
theorem writeDev_wf (w : Writer) (o : Nat) (v : Word) (s : State) :
    Memory.wf s.mem → Memory.wf (writeDev w o v s).mem := by
  intro w; simp only [writeDev]; (repeat' split) <;> grind [writeDev, devWrite_wf, refuseWrite_mem]

theorem atBulk_wf (alloc : Bool) (r : MemReq) (s : State) : Memory.wf s.mem → Memory.wf (atBulk alloc r s).2.mem := by
  grind [atBulk, homeRead_wf, homeWrite_wf, drawBytes_mem, touchWrite_mem]
theorem serveWaiting_wf (l : List MemReq) (s : State) : Memory.wf s.mem → Memory.wf (serveWaiting l s).mem :=
  foldl_wf _ _ (fun s r w => by have := atBulk_wf true r s w; simpa [answer_mem] using this) s
theorem endFill_wf (i : Nat) (s : State) : Memory.wf s.mem → Memory.wf (endFill i s).mem := by
  intro w
  unfold endFill
  split
  · exact w
  · exact serveWaiting_wf _ _ w
theorem awaitLine_wf (a : Nat) (s : State) : Memory.wf s.mem → Memory.wf (awaitLine a s).mem := by
  intro w
  have h : Memory.wf (if sliceBusy s (shareOwner s a) a then scanEnd (homeOf s (shareOwner s a) a).1 s else s).mem := by
    split
    · exact scanEnd_wf _ _ w
    · exact w
  simp only [awaitLine]
  split
  · exact endFill_wf _ _ h
  · exact h
theorem awaitRead_wf (a len : Nat) (s : State) : Memory.wf s.mem → Memory.wf (awaitRead a len s).2.mem :=
  fun w => homeRead_wf _ _ _ _ _ (awaitLine_wf a s w)
theorem awaitWrite_wf (a : Nat) (d : Bytes) (s : State) : Memory.wf s.mem → Memory.wf (awaitWrite a d s).2.mem :=
  fun w => homeWrite_wf _ _ _ _ _ (awaitLine_wf a s w)
theorem readThen_wf (p : Nat × Nat) (r : Except Nat Bytes × State) (k : State → Except (Nat × Nat) Bytes × State)
    (h : Memory.wf r.2.mem) (hk : ∀ s, Memory.wf s.mem → Memory.wf (k s).2.mem) : Memory.wf (readThen p r k).2.mem := by
  obtain ⟨e | d, s1⟩ := r
  · exact h
  · have hx : Memory.wf (if ownedResult s1 p.1 p.2 = true then drawBytes p.2 s1 else (d, s1)).2.mem := by split <;> exact h
    simp only [readThen]
    generalize (if ownedResult s1 p.1 p.2 = true then drawBytes p.2 s1 else (d, s1)) = x at hx ⊢
    have := hk x.2 hx
    obtain ⟨d', s2⟩ := x
    dsimp only at this ⊢
    generalize k s2 = r at this ⊢
    obtain ⟨e | e, s3⟩ := r <;> exact this
theorem readPieces_wf (l : List (Nat × Nat)) (s : State) : Memory.wf s.mem → Memory.wf (readPieces l s).2.mem := by
  induction l generalizing s with
  | nil => exact id
  | cons p ps ih => intro w; rw [readPieces]; exact readThen_wf _ _ _ (awaitRead_wf _ _ _ w) ih
theorem writeThen_wf (p : Nat × Nat) (r : Except Nat Unit × State) (k : State → Except (Nat × Nat) Unit × State)
    (h : Memory.wf r.2.mem) (hk : ∀ s, Memory.wf s.mem → Memory.wf (k s).2.mem) : Memory.wf (writeThen p r k).2.mem := by
  obtain ⟨e | d, s1⟩ := r
  · exact h
  · exact hk _ h
theorem writePieces_wf (l : List (Nat × Nat)) (d : Bytes) (s : State) : Memory.wf s.mem → Memory.wf (writePieces l d s).2.mem := by
  induction l generalizing d s with
  | nil => exact id
  | cons p ps ih =>
    intro w; rw [writePieces]
    exact writeThen_wf _ _ _ (awaitWrite_wf _ _ _ (by rw [touchWrite_mem]; exact w)) (ih _)

theorem assign_wf (r : Nat) (ri : Nat) (v : Nat) (at' : Nat) (o : TiledOp) (id : Nat) (h : Shape) (s : State) :
    Memory.wf s.mem → Memory.wf (assign r ri v at' o id h s).mem := by
  simp only [assign]
  (repeat' split) <;> first | (simp_all; done) | grind [foldl_wf, writeShared_wf] | (refine foldl_wf _ _ (fun s x w => ?_) _; grind [assign, writeShared_wf])
theorem declare_wf (r : Nat) (n : Nat) (ri : Nat) (p : PlateInfo) (loading : Bool) (d : Declared) (s : State) :
    Memory.wf s.mem → Memory.wf (declare r n ri p loading d s).mem := by
  simp only [declare]
  (repeat' split) <;> first | (simp_all; done) | grind [foldl_wf, assign_wf, latch_wf, waitPool_mem, State.onRegion_mem, setClaims_mem, putFlag_mem] | (refine foldl_wf _ _ (fun s x w => ?_) _; grind [declare, assign_wf, latch_wf, waitPool_mem, State.onRegion_mem, setClaims_mem, putFlag_mem])
theorem declareRegion_wf (r : Nat) (s : State) : Memory.wf s.mem → Memory.wf (declareRegion r s).mem := by
  grind [declareRegion, declare_wf, nibFault_mem]
theorem nibFetch_wf (n : Nat) (a : Nat) (len : Nat) (s : State) :
    Memory.wf s.mem → Memory.wf (nibFetch n a len s).2.mem := by
  grind [nibFetch, readPieces_wf, drawBytes_mem, noteBulk_mem]
theorem nibPut_wf (n : Nat) (a : Nat) (d : Bytes) (s : State) : Memory.wf s.mem → Memory.wf (nibPut n a d s).mem := by
  grind [nibPut, writePieces_wf, noteBulk_mem]
theorem writeStep_wf (n : Nat) (d : Commit) (s : State) : Memory.wf s.mem → Memory.wf (writeStep n d s).mem := by
  grind [writeStep, nibPut_wf, biasValue_mem]
theorem stampStep_wf (n : Nat) (d : Commit) (s : State) : Memory.wf s.mem → Memory.wf (stampStep n d s).mem := by
  grind [stampStep, nibPut_wf, nibFetch_wf, putGf_mem, onCommit_mem, putFlag_mem]
theorem applyStep_wf (n : Nat) (d : Commit) (t : Word) (written : Bool) (s : State) :
    Memory.wf s.mem → Memory.wf (applyStep n d t written s).mem := by
  grind [applyStep, writeStep_wf, growScale_mem, onCommit_mem, State.onPart_mem, loadSeeds_mem, causePart_mem, putGf_mem]
theorem slicesMatch_wf (n : Nat) (tab : Bytes) (k : Nat) (l : List (Nat × Nat)) (s : State) :
    Memory.wf s.mem → Memory.wf (slicesMatch n tab k l s).2.mem := by
  induction l generalizing k s with
  | nil => exact id
  | cons x l ih =>
    intro w
    have h := readPieces_wf (hostPieces x.1 x.2) s w
    simp only [slicesMatch]
    split
    · exact w
    · split
      · rename_i hr; rw [hr] at h; exact h
      · rename_i d s1 hr
        rw [hr] at h
        have := ih (k + 1) s1 h
        split
        · rename_i hm; rw [hm] at this; exact this
        · exact this
theorem forward_wf (n : Nat) (d : Commit) (s : State) : Memory.wf s.mem → Memory.wf (forward n d s).2.mem := by
  intro w
  have h := readPieces_wf (hostPieces (stampAt d (!(s.part n).commit.active)) 32) s w
  unfold forward
  dsimp only
  generalize readPieces (hostPieces (stampAt d (!(s.part n).commit.active)) 32) s = r at h ⊢
  obtain ⟨e | st, s1⟩ := r
  · simpa [noteBulk_mem] using h
  · dsimp only at h ⊢
    by_cases c1 : (fieldOf st 0 32 96 8 ≠ 1 ∧ fieldOf st 0 32 96 8 ≠ 2) ∨
        (BitVec.ofNat 64 (fieldOf st 0 8 0 64)).toInt ≤ (s.part n).commit.committed.toInt
    · rw [if_pos c1]; exact h
    rw [if_neg c1]
    by_cases c2 : fieldOf st 0 32 96 8 = 2
    · rw [if_pos c2]
      have := applyStep_wf n d (BitVec.ofNat 64 (fieldOf st 0 8 0 64)) false s1 h
      exact this
    rw [if_neg c2]
    have h2 := readPieces_wf (hostPieces (tableAt d (!(s.part n).commit.active)) (tableLen d)) s1 h
    generalize readPieces (hostPieces (tableAt d (!(s.part n).commit.active)) (tableLen d)) s1 = r at h2 ⊢
    obtain ⟨e | tab, s2⟩ := r
    · simpa [noteBulk_mem] using h2
    · dsimp only at h2 ⊢
      have key (dg : BitVec 384) : Memory.wf (match slicesMatch n tab 0 (bankSlices dg d (!(s.part n).commit.active)) s2 with
          | (.error e, s) => ((4 : Nat), noteBulk (some (leadRegion s n)) e.1 e.2 n s)
          | (.ok ok, s) =>
            if !ok || crc32 tab != fieldOf st 0 32 64 32 then (3, s)
            else (1, applyStep n d (BitVec.ofNat 64 (fieldOf st 0 8 0 64)) true s)).2.mem := by
        have h3 := slicesMatch_wf n tab 0 (bankSlices dg d (!(s.part n).commit.active)) s2 h2
        generalize slicesMatch n tab 0 (bankSlices dg d (!(s.part n).commit.active)) s2 = r at h3 ⊢
        obtain ⟨e | ok, s3⟩ := r
        · simpa [noteBulk_mem] using h3
        · dsimp only at h3 ⊢
          generalize (!ok || crc32 tab != fieldOf st 0 32 64 32) = bad
          cases bad
          · have := applyStep_wf n d (BitVec.ofNat 64 (fieldOf st 0 8 0 64)) true s3 h3
            exact this
          · exact h3
      exact key _
theorem back_wf (n : Nat) (d : Commit) (s : State) : Memory.wf s.mem → Memory.wf (back n d s).2.mem := by
  grind [back, writeStep_wf, onCommit_mem, State.onPart_mem]
theorem traceFault_wf (r : Rec) (s : State) : Memory.wf s.mem → Memory.wf (traceFault r s).mem := by
  grind [traceFault, pushTrace_wf]
theorem atSram_wf (r : MemReq) (t : Nat) (o : Nat) (s : State) :
    Memory.wf s.mem → Memory.wf (atSram r t o s).2.mem := by
  grind [atSram, writeShared_wf, accumulate_wf, fillStore_wf, readShared_mem]
theorem devReadAt_wf (w : Writer) (o : Nat) (s : State) : Memory.wf s.mem → Memory.wf (devReadAt w o s).2.mem := by
  grind [devReadAt, scanOn_wf]
theorem atDevice_wf (r : MemReq) (o : Nat) (s : State) : Memory.wf s.mem → Memory.wf (atDevice r o s).2.mem := by
  intro h
  have hr (w : Writer) := devReadAt_wf w o s h
  unfold atDevice
  split
  · exact h
  · rename_i w _ _ _ _ _ _; have := hr w; grind
  · rename_i w _ _ _; have := hr w; grind
  all_goals grind [devWrite_wf]
theorem atBlock_wf (r : MemReq) (t o : Nat) (s : State) : Memory.wf s.mem → Memory.wf (atBlock r t o s).2.mem := by
  intro w
  simp only [atBlock]
  (repeat' split) <;> first | exact w | (rw [putBlock_mem]; exact markWrite_wf _ _ _ _ _ w) | (rw [putBlock_mem]; exact w)
theorem arriveAt_wf (r : MemReq) (s : State) : Memory.wf s.mem → Memory.wf (arriveAt r s).2.mem := by
  grind [arriveAt, atSram_wf, atDevice_wf, atBlock_wf]
theorem sliceRequest_wf (r : MemReq) (s : State) : Memory.wf s.mem → Memory.wf (sliceRequest r s).mem := by
  grind [sliceRequest, atBulk_wf, answer_mem, noteForeign_mem, joinFill_mem, State.onNet_mem]
theorem flightRequest_wf (i : Nat) (s : State) : Memory.wf s.mem → Memory.wf (flightRequest i s).mem := by
  grind [flightRequest, sliceRequest_wf, State.onNet_mem, hostRequest_mem, answer_mem]
theorem hostRead_wf (f : Nat) (o : Nat) (len : Nat) (s : State) :
    Memory.wf s.mem → Memory.wf (hostRead f o len s).mem := by
  grind [hostRead, readPieces_wf, refuseHost_mem, hostAnswer_mem, noteBulk_mem]
theorem hostWrite_wf (f : Nat) (o : Nat) (d : Bytes) (s : State) :
    Memory.wf s.mem → Memory.wf (hostWrite f o d s).mem := by
  grind [hostWrite, writePieces_wf, refuseHost_mem, noteBulk_mem]
theorem nibNear_wf (r : Nat) (q : MemReq) (s : State) : Memory.wf s.mem → Memory.wf (nibNear r q s).mem := by
  intro w
  have h := arriveAt_wf q s w
  simp only [nibNear]
  split <;> split <;> first
    | (simpa [nibFault_mem] using w)
    | (split
       · rename_i hr; rw [hr] at h; split <;> simpa [noteBulk_mem, nibFault_mem] using h
       · rename_i hr; rw [hr] at h; exact h)
theorem nibAccess_wf (r a : Nat) (op : MemOp) (body : State → State) (hb : ∀ s, Memory.wf s.mem → Memory.wf (body s).mem) (s : State) :
    Memory.wf s.mem → Memory.wf (nibAccess r a op body s).mem := by
  intro w
  have := nibNear_wf r { iss := .nib r, part := partOfRegion s r, addr := a, op := op } s w
  have := hb s w
  simp only [nibAccess]
  grind [nibFault_mem, hostRequest_mem]
theorem nibRead_wf (r : Nat) (a : Nat) (len : Nat) (s : State) :
    Memory.wf s.mem → Memory.wf (nibRead r a len s).mem :=
  nibAccess_wf _ _ _ _ (fun s w => by
    have := readPieces_wf (hostPieces a len) s w
    grind [noteBulk_mem]) s
theorem nibWrite_wf (r : Nat) (a : Nat) (d : Bytes) (s : State) :
    Memory.wf s.mem → Memory.wf (nibWrite r a d s).mem :=
  nibAccess_wf _ _ _ _ (fun s w => by
    have := writePieces_wf (linePieces a d.length) d s w
    grind [noteBulk_mem]) s
theorem Desc.putRaw_wf (d : Desc) (i0 : Nat) (i1 : Nat) (i2 : Nat) (raws : List Nat) (s : State) :
    Memory.wf s.mem → Memory.wf (Desc.putRaw d i0 i1 i2 raws s).mem := by
  grind [Desc.putRaw, State.poke_wf]

theorem dForm_wf (kind : OpKind) (sub : Nat) (ok : Bool) (t c : Nat) (dd da db : BitVec 3) (gp : BitVec 5) (tf : BitVec 8) (s : State) :
    Memory.wf s.mem → Memory.wf (dForm kind sub ok t c dd da db gp tf s).mem := by
  refine issue_wf _ _ _ _ (fun s w => legal_canonical _ _ _ (fun w => ?_) w) s
  simp only [enqueueStart]
  grind [Eff.Canonical, State.onUnit_mem, State.onTile_mem]

theorem traceStart_wf (t : Nat) (q : StartReq) (tokens : Nat) (s : State) :
    Memory.wf s.mem → Memory.wf (traceStart t q tokens s).mem := by
  grind [traceStart, traceTile_wf]
theorem traceDone_wf (t : Nat) (q : StartReq) (beats : Nat) (progress : Nat) (s : State) :
    Memory.wf s.mem → Memory.wf (traceDone t q beats progress s).mem := by
  grind [traceDone, traceTile_wf]
theorem startOp_wf (t : Nat) (u : Nat) (op : RunOp) (s : State) :
    Memory.wf s.mem → Memory.wf (startOp t u op s).mem := by
  grind [startOp, traceStart_wf, clearFlag_mem, popQueue_mem, touchOps_mem, State.onUnit_mem]

theorem endOp_wf (t u : Nat) (op : RunOp) (e : OpEnd) : Memory.wf e.s.mem → Memory.wf (endOp t u op e).mem := by
  intro w
  simp only [endOp]
  grind [settleTokens_mem, tileFault_mem, traceDone_wf, putFlag_mem, State.onTile_mem, State.onUnit_mem]

theorem complete_wf (t u : Nat) (run : RunOp → State → OpEnd) (hr : ∀ op s, Memory.wf s.mem → Memory.wf (run op s).s.mem) (s : State) :
    Memory.wf s.mem → Memory.wf (complete t u run s).mem := by
  intro w
  simp only [complete, selfTimed]
  grind [endOp_wf]

theorem traceDoneFree_wf (t : Nat) (q : StartReq) (progress : Nat) (s : State) :
    Memory.wf s.mem → Memory.wf (traceDoneFree t q progress s).mem := by
  grind [traceDoneFree, traceDone_wf, drawFree_mem]
theorem finishList_wf (t : Nat) (l : RunList) (s : State) : Memory.wf s.mem → Memory.wf (finishList t l s).mem := by
  grind [finishList, traceDoneFree_wf, State.onTile_mem, putFlag_mem]
theorem startList_wf (t : Nat) (q : StartReq) (l : RunList) (s : State) :
    Memory.wf s.mem → Memory.wf (startList t q l s).mem := by
  simp only [startList]
  (repeat' split) <;> first | (simp_all; done) | grind [foldl_wf, State.poke_wf, traceStart_wf, releaseHeld_wf, finishList_wf, State.onTile_mem, clearFlag_mem, touchWrite_mem] | (refine foldl_wf _ _ (fun s x w => ?_) _; grind [startList, State.poke_wf, traceStart_wf, releaseHeld_wf, finishList_wf, State.onTile_mem, clearFlag_mem, touchWrite_mem])
theorem slotDone_wf (t : Nat) (j : Nat) (s : State) : Memory.wf s.mem → Memory.wf (slotDone t j s).mem := by
  grind [slotDone, State.poke_wf, traceTile_wf, finishList_wf, stopList_mem, onList_mem]

theorem sendAll_mem (l : List Packet) (s : State) : ∀ r, sendAll l s = .ok r → r.mem = s.mem := by
  induction l generalizing s with
  | nil => intro r h; cases h; rfl
  | cons q l ih => grind [sendAll, originate_mem]

theorem sendSlotNow_wf (t : Nat) (j : Nat) (l : RunList) (s : State) :
    Memory.wf s.mem → Memory.wf (sendSlotNow t j l s).mem := by
  intro w
  simp only [sendSlotNow]
  (repeat' split) <;> grind [stopList_mem, drawBytes_mem, State.onTile_mem, onList_mem, onMesh_mem, sendAll_mem]
theorem blurOverlaps_wf (t : Nat) (l : RunList) (j : Nat) (s : State) :
    Memory.wf s.mem → Memory.wf (blurOverlaps t l j s).mem := by
  simp only [blurOverlaps]
  (repeat' split) <;> first | (simp_all; done) | grind [foldl_wf, State.poke_wf, drawBytes_mem] | (refine foldl_wf _ _ (fun s x w => ?_) _; grind [blurOverlaps, State.poke_wf, drawBytes_mem])
theorem landRecv_wf (t : Nat) (j : Nat) (l : RunList) (data : Bytes) (s : State) :
    Memory.wf s.mem → Memory.wf (landRecv t j l data s).mem := by
  intro w
  simp only [landRecv]
  apply slotDone_wf; apply blurOverlaps_wf; apply State.poke_wf; split
  · simpa [drawBytes_mem] using w
  · exact w
theorem addRecv_wf (t : Nat) (j : Nat) (l : RunList) (data : Bytes) (src : Option (Nat × Nat)) (s : State) :
    Memory.wf s.mem → Memory.wf (addRecv t j l data src s).mem := by
  intro w
  have h (c : Bool) (n a : Nat) : Memory.wf (if c = true then drawBytes n s else (s.bytes a n, s)).2.mem := by
    cases c
    · exact w
    · exact w
  unfold addRecv
  dsimp only
  split
  · rw [stopList_mem]; exact State.poke_wf _ _ _ (h _ _ _)
  · exact slotDone_wf _ _ _ (blurOverlaps_wf _ _ _ _ (State.poke_wf _ _ _ (h _ _ _)))
theorem addPrefix_wf (t j : Nat) (l : RunList) (data : Bytes) (n : Nat) (s : State) :
    Memory.wf s.mem → Memory.wf (addPrefix t j l data n s).mem := by
  intro w
  simp only [addPrefix]
  split <;> exact State.poke_wf _ _ _ w
theorem tearSlot_wf (t : Nat) (l : RunList) (s : State) (j : Nat) : Memory.wf s.mem → Memory.wf (tearSlot t l s j).mem := by
  intro w
  have h : Memory.wf (stagedData t j l s).2.mem := by unfold stagedData; dsimp only; split <;> exact w
  exact blurOverlaps_wf _ _ _ _ (addPrefix_wf _ _ _ _ _ _ h)
theorem tearCommit_wf (t : Nat) (s : State) : Memory.wf s.mem → Memory.wf (tearCommit t s).mem := by
  intro w
  unfold tearCommit
  split
  · exact w
  · rename_i l _ _
    have := foldl_wf (tearSlot t l) (l.staged.filter (hasTurn l)) (fun s j w => tearSlot_wf t l s j w) s w
    grind [State.onTile_mem, State.onBar_mem, tornRec_mem]
theorem haltTile_wf (force : Bool) (t : Nat) (s : State) : Memory.wf s.mem → Memory.wf (haltTile force t s).mem := by
  grind [haltTile, tearCommit_wf, State.onTile_mem, haltAll_mem, tearOp_mem, State.onCx_mem]
theorem haltPart_wf (force : Bool) (n : Nat) (s : State) : Memory.wf s.mem → Memory.wf (haltPart force n s).mem := by
  simp only [haltPart]
  (repeat' split) <;> first | (simp_all; done) | grind [foldl_wf, haltTile_wf] | (refine foldl_wf _ _ (fun s x w => ?_) _; grind [haltPart, haltTile_wf])
theorem dbgCtl_wf (t : Nat) (v : Word) (s : State) : Memory.wf s.mem → Memory.wf (dbgCtl t v s).mem := by
  grind [dbgCtl, haltTile_wf, resumeTile_mem, stepCtx_mem]

theorem writeCtxReg_mem (t c : Nat) (r : CtxReg) (v : Word) (s : State) : ∀ s', writeCtxReg t c r v s = some s' → s'.mem = s.mem := by
  intro s' h
  simp only [writeCtxReg] at h
  grind [State.onCx_mem]

theorem writeTileDbg_wf (t : Nat) (o : Nat) (v : Word) (s : State) :
    ∀ r, (writeTileDbg t o v s) = some r → Memory.wf s.mem → Memory.wf r.mem := by
  simp only [writeTileDbg]
  (repeat' split) <;> first | (simp_all; done) | grind [foldl_wf, dbgCtl_wf, State.onTile_mem, writeCtxReg_mem] | (refine foldl_wf _ _ (fun s x w => ?_) _; grind [writeTileDbg, dbgCtl_wf, State.onTile_mem, writeCtxReg_mem])
theorem releaseTraceWays_wf (s : State) : Memory.wf s.mem → Memory.wf (releaseTraceWays s).mem := by
  simp only [releaseTraceWays]
  (repeat' split) <;> first | (simp_all; done) | grind [foldl_wf, emptyWays_wf, State.onRc_mem] | (refine foldl_wf _ _ (fun s x w => ?_) _; grind [releaseTraceWays, emptyWays_wf, State.onRc_mem])
theorem reserveTraceWays_wf (s : State) : Memory.wf s.mem → Memory.wf (reserveTraceWays s).mem := by
  simp only [reserveTraceWays]
  (repeat' split) <;> first | (simp_all; done) | grind [foldl_wf, emptyWays_wf, State.onRc_mem] | (refine foldl_wf _ _ (fun s x w => ?_) _; grind [reserveTraceWays, emptyWays_wf, State.onRc_mem])
theorem traceOff_wf (s : State) : Memory.wf s.mem → Memory.wf (traceOff s).mem := by
  grind [traceOff, releaseTraceWays_wf, State.onTrace_mem, emptyTraceQs_mem, drainTraces_wf]
theorem traceOn_wf (s : State) : ∀ r, (traceOn s) = some r → Memory.wf s.mem → Memory.wf r.mem := by
  grind [traceOn, releaseTraceWays_wf, reserveTraceWays_wf, State.onTrace_mem, emptyTraceQs_mem]
theorem countXfer_wf (t : Nat) (a : Nat) (n : Nat) (s : State) :
    Memory.wf s.mem → Memory.wf (countXfer t a n s).mem := by
  grind [countXfer, State.onTile_mem]
theorem xferRead_wf (t : Nat) (a : Nat) (n : Nat) (s : State) :
    Memory.wf s.mem → Memory.wf (xferRead t a n s).2.mem := by
  grind [xferRead, countXfer_wf, homeRead_wf]
theorem xferWrite_wf (t : Nat) (a : Nat) (bs : Bytes) (s : State) :
    Memory.wf s.mem → Memory.wf (xferWrite t a bs s).2.mem := by
  grind [xferWrite, State.poke_wf, countXfer_wf, homeWrite_wf]
theorem pieceData_wf (t : Nat) (op : RunOp) (ps : List Piece) (p : Piece) (s : State) :
    Memory.wf s.mem → Memory.wf (pieceData t op ps p s).2.mem := by
  grind [pieceData, drawBytes_mem, xferRead_wf]
theorem movePieces_wf (t : Nat) (op : RunOp) (all l : List Piece) (n : Nat) (s : State) :
    Memory.wf s.mem → Memory.wf (movePieces t op all l n s).2.2.mem := by
  induction l generalizing n s with
  | nil => exact id
  | cons p ps ih => grind [movePieces, pieceData_wf, xferWrite_wf]


theorem endMovt_wf (t : Nat) (op : RunOp) (lines : Nat) (err : Option (Nat × Nat)) (s : State) :
    Memory.wf s.mem → Memory.wf (endMovt t op lines err s).mem := by
  grind [endMovt, drawFree_mem, endOp_wf, unwait_mem]
theorem xferSend_mem (t : Nat) (w : XferAt) (op : MemOp) (s : State) : ∀ r, xferSend t w op s = .ok r → r.mem = s.mem := by
  intro r h
  simp only [xferSend] at h
  split at h
  · split at h
    · rename_i s1 hs
      cases h
      exact (State.onTile_mem _ _ _).trans (sendFar_mem _ _ _ _ _ hs)
    · cases h
  · cases h; simp [State.onTile_mem, onMesh_mem]
  · cases h; simp [State.onTile_mem, onMesh_mem]
theorem sendLoads_mem (t a n : Nat) (s : State) : ∀ r, sendLoads t a n s = .ok r → r.mem = s.mem := by
  have (l : List (Nat × Nat)) (r0 : Except (Nat × Nat) State) (m : List Host.Cell) (h0 : ∀ r, r0 = .ok r → r.mem = m) :
      ∀ r, l.foldl (fun r p => match r with
        | .error e => .error e
        | .ok s => xferSend t (xferAt s p.1) (.load 0 p.2 false false) s) r0 = .ok r → r.mem = m := by
    induction l generalizing r0 with
    | nil => exact h0
    | cons p l ih =>
      refine ih _ (fun r h => ?_)
      cases r0 with
      | error e => cases h
      | ok s => exact (xferSend_mem _ _ _ _ _ h).trans (h0 s rfl)
  exact this _ _ _ (fun r h => by cases h; rfl)


theorem pump_wf (t : Nat) (op : RunOp) (s : State) : Memory.wf s.mem → Memory.wf (pump t op s).mem := by
  intro w
  simp only [pump]
  (repeat' split) <;> grind [endMovt_wf, onMovt_mem, drawBytes_mem, pieceData_wf, sendLoads_mem, xferWrite_wf, xferSend_mem]

theorem startEnl_wf (t : Nat) (q : StartReq) (s : State) : Memory.wf s.mem → Memory.wf (startEnl t q s).mem := by
  simp only [startEnl]
  (repeat' split) <;> first | (simp_all; done) | grind [foldl_wf, traceStart_wf, traceDone_wf, clearFlag_mem, popQueue_mem, putFlag_mem, touchWrite_mem, State.onDev_mem, State.onRegion_mem] | (refine foldl_wf _ _ (fun s x w => ?_) _; grind [startEnl, traceStart_wf, traceDone_wf, clearFlag_mem, popQueue_mem, putFlag_mem, touchWrite_mem, State.onDev_mem, State.onRegion_mem])
theorem takeEnl_wf (t : Nat) (q : StartReq) (s : State) : Memory.wf s.mem → Memory.wf (takeEnl t q s).mem := by
  grind [takeEnl, startEnl_wf, refuseStart_mem]
theorem enlLine_wf (q : EnlReq) (k : Nat) (s : State) : Memory.wf s.mem → Memory.wf (enlLine q k s).2.mem := by
  grind [enlLine, homeRead_wf, drawBytes_mem]
theorem landLine_wf (q : EnlReq) (k : Nat) (d : Bytes) (t : Nat) (s : State) :
    Memory.wf s.mem → Memory.wf (landLine q k d t s).mem := by
  grind [landLine, State.poke_wf, putFlag_mem]
theorem acceptEngine_wf (t : Nat) (u : Nat) (q : StartReq) (s : State) :
    Memory.wf s.mem → Memory.wf (acceptEngine t u q s).mem := by
  intro w
  unfold acceptEngine
  generalize acceptView s t q = v
  dsimp only
  generalize hs : { s with free := v.free } = s' 
  have w : Memory.wf s'.mem := by rw [← hs]; exact w
  clear hs
  generalize s' = s at w ⊢
  cases acceptOp v t q with
  | error d => simpa [refuseStart_mem] using w
  | ok op =>
    dsimp only
    split
    · simpa [refuseStart_mem] using w
    · split
      · rename_i s1 h
        have := takeTurn_mem t u (op.tokens - ((s.tile t).unit u).draw) s
        rw [h] at this
        exact startOp_wf _ _ _ _ (by rw [this]; exact w)
      · rw [takeTurn_mem, beginWaits_mem]; exact w
theorem acceptLigBehind_wf (t : Nat) (q : StartReq) (s : State) : Memory.wf s.mem → Memory.wf (acceptLigBehind t q s).mem := by
  intro w
  simp only [acceptLigBehind]
  split
  · exact w
  · exact acceptEngine_wf _ _ _ _ w
theorem allocPieces_wf (l : List (Nat × Nat)) (s : State) : Memory.wf s.mem → Memory.wf (allocPieces l s).2.mem := by
  induction l generalizing s with
  | nil => exact id
  | cons p ps ih => grind [allocPieces, homeRead_wf]
theorem bulkFor_wf (q : StartReq) (a n : Nat) (s : State) : Memory.wf s.mem → Memory.wf (bulkFor q a n s).2.mem := by
  intro w
  have h := allocPieces_wf (hostPieces a n) s w
  unfold bulkFor
  split
  · exact w
  · grind [drawBytes_mem]
theorem gatherList_wf (t : Nat) (q : StartReq) (s : State) : Memory.wf s.mem → Memory.wf (gatherList t q s).2.mem := by
  grind [gatherList, bulkFor_wf, readFor_mem, drawBytes_mem]
theorem acceptXfer_wf (t : Nat) (q : StartReq) (s : State) : Memory.wf s.mem → Memory.wf (acceptXfer t q s).mem := by
  intro w
  have h := gatherList_wf t q s w
  unfold acceptXfer
  generalize gatherList t q s = g at h ⊢
  obtain ⟨list, s1⟩ := g
  rcases list with d | _ | list
  · simpa [refuseStart_mem] using h
  · exact h
  · dsimp only at h ⊢
    split
    · simpa [refuseStart_mem] using h
    · split
      · simpa [refuseStart_mem] using h
      · exact startOp_wf _ _ _ _ h
theorem takeHead_wf (t : Nat) (u : Nat) (s : State) : Memory.wf s.mem → Memory.wf (takeHead t u s).mem := by
  grind [takeHead, handXstart_mem, takeEnl_wf, acceptXfer_wf, beginWaits_mem, acceptLigBehind_wf, acceptEngine_wf]
theorem accumulateLines_wf (t : Nat) (ty : BitVec 2) (a : Nat) (d : Bytes) (l : List Nat) (s : State) :
    Memory.wf s.mem → Memory.wf (accumulateLines t ty a d l s).mem := by
  induction l generalizing a d s with
  | nil => intro w; cases d <;> exact w
  | cons n ns ih =>
    intro w
    cases d with
    | nil => exact w
    | cons b d => grind [accumulateLines, accumulate_wf, tileFault_mem]

theorem landMsg_wf (g : Message) (r : BitVec 2176) (s : State) : Memory.wf s.mem → Memory.wf (landMsg g r s).mem := by
  grind [landMsg, writeShared_wf, onQueue_mem]
theorem traceMsg_wf (t : Nat) (m : SendSlot) (out : Nat) (s : State) :
    Memory.wf s.mem → Memory.wf (traceMsg t m out s).mem := by
  grind [traceMsg, traceTile_wf]
theorem settleBars_mem (l : List Nat) (s : State) : (settleBars l s).mem = s.mem := by
  grind [settleBars, State.onBar_mem, foldl_mem]
theorem quiesce_wf (n : Nat) (s : State) : Memory.wf s.mem → Memory.wf (quiesce n s).mem := by
  intro w
  refine foldl_wf _ _ (fun s r w => ?_) _ ?_
  · split
    · split
      · exact atBulk_wf _ _ _ (awaitLine_wf _ _ w)
      · exact w
    · exact w
  · rw [foldl_mem _ _ (fun s o => applyHub_mem o s)]
    exact w
theorem clearTiles_wf (n : Nat) (s : State) : Memory.wf s.mem → Memory.wf (clearTiles n s).mem := by
  intro w
  unfold clearTiles
  dsimp only
  rw [State.onDev_mem]
  refine foldl_wf _ _ (fun s r w => ?_) _ (foldl_wf _ _ (fun s t w => ?_) _ (clearBand_wf _ _ ?_))
  · rw [State.onRegion_mem]
    exact w
  · rw [State.onTile_mem]
    exact w
  rw [settleBars_mem]
  exact quiesce_wf _ _ w
theorem refuseLoad_wf (n : Nat) (verify : Bool) (r : Refuse) (s : State) :
    Memory.wf s.mem → Memory.wf (refuseLoad n verify r s).mem := by
  intro w
  unfold refuseLoad
  simp only [setLoad_mem, State.onPart_mem, fence_mem]
  exact clearTiles_wf _ _ (by simpa only [State.onPart_mem, raiseRec_mem] using w)
theorem endLoad_wf (n : Nat) (s : State) : Memory.wf s.mem → Memory.wf (endLoad n s).mem := by
  simp only [endLoad]
  (repeat' split) <;> first | (simp_all; done) | grind [foldl_wf, refuseLoad_wf, onPool_mem] | (refine foldl_wf _ _ (fun s x w => ?_) _; grind [endLoad, refuseLoad_wf, onPool_mem])
theorem enforce_wf (g : Staged) (s : State) : Memory.wf s.mem → Memory.wf (enforce g s).mem := by
  intro w
  unfold enforce
  dsimp only
  rw [settleBars_mem, State.onHub_mem]
  refine foldl_wf _ _ (fun s x w => ?_) _ (foldl_wf _ _ (fun s r w => invalSlice_wf r s w) _ w)
  exact w
theorem applyTable_wf (s : State) : Memory.wf s.mem → Memory.wf (applyTable s).2.mem := by
  grind [applyTable, enforce_wf, State.onStaged_mem]
theorem wipe_wf (n : Nat) (s : State) : Memory.wf s.mem → Memory.wf (wipe n s).mem := by
  simp only [wipe]
  (repeat' split) <;> first | (simp_all; done) | grind [foldl_wf, clearTiles_wf, quiesce_wf, unscrub_wf, endUnlock_mem, freshObjects_mem, State.onTile_mem, zeroSlice_mem, State.onPort_mem, State.onPart_mem, setLoad_mem] | (refine foldl_wf _ _ (fun s x w => ?_) _; grind [wipe, clearTiles_wf, quiesce_wf, unscrub_wf, endUnlock_mem, freshObjects_mem, State.onTile_mem, zeroSlice_mem, State.onPort_mem, State.onPart_mem, setLoad_mem])

theorem spdmFail_mem (f code data : Nat) (s : State) : (spdmFail f code data s).mem = s.mem := by
  rfl
theorem spdmRequest_wf (f lo hi code len : Nat) (q : SpdmReq) (answer : State → State)
    (ha : ∀ s, Memory.wf s.mem → Memory.wf (answer s).mem) (s : State) :
    Memory.wf s.mem → Memory.wf (spdmRequest f lo hi code len q answer s).mem := by
  intro w
  unfold spdmRequest
  grind [spdmFail_mem, State.onFn_mem]

theorem unreachAt_wf (t dst port kind tag : Nat) (s : State) : Memory.wf s.mem → Memory.wf (unreachAt t dst port kind tag s).mem := by
  intro w
  simp only [unreachAt]
  (repeat' split) <;> simpa [stopList_mem, tileFault_mem, sendFault_mem, freeSlot_mem, settleFar_mem] using (by grind [ringFault_wf])
theorem undeliverable_wf (port : Nat) (q : Packet) (s : State) : Memory.wf s.mem → Memory.wf (undeliverable port q s).mem := by
  grind [undeliverable, unreachAt_wf, originate_mem]
theorem landPacket_wf (p : Nat) (q : Packet) (s : State) : Memory.wf s.mem → Memory.wf (landPacket p q s).mem := by
  intro w
  simp only [landPacket]
  (repeat' split) <;> first
    | exact unreachAt_wf _ _ _ _ _ _ w
    | simpa only [foreign_mem, replyMsg_mem, landSegment_mem, onMesh_mem, settleFar_mem, State.onNet_mem] using w
theorem passOn_wf (p : Nat) (q : Packet) (s : State) : Memory.wf s.mem → Memory.wf (passOn p q s).mem := by
  grind [passOn, State.onPort_mem, landPacket_wf, routeOut_mem, undeliverable_wf]
theorem detourLeg_wf (q : Packet) (s : State) : Memory.wf s.mem → Memory.wf (detourLeg q s).mem := by
  grind [detourLeg, enqueue_mem, undeliverable_wf, passOn_wf]
theorem receivePacket_wf (p k : Nat) (q : Packet) (s : State) : Memory.wf s.mem → Memory.wf (receivePacket p k q s).mem := by
  grind [receivePacket, freeLines_mem, detourLeg_wf, passOn_wf]
theorem takeLines_wf (p k : Nat) (d : Bytes) (s : State) : Memory.wf s.mem → Memory.wf (takeLines p k d s).mem := by
  grind [takeLines, receivePacket_wf, State.onPort_mem]
theorem takeFlit_wf (p : Nat) (h : FlitHead) (b : Bytes) (s : State) : Memory.wf s.mem → Memory.wf (takeFlit p h b s).mem := by
  grind [takeFlit, takeLines_wf, State.onPort_mem]
theorem releaseSys_wf (s : State) : Memory.wf s.mem → Memory.wf (releaseSys s).mem := by
  intro w
  unfold releaseSys
  split
  · exact w
  · dsimp only
    refine foldl_wf _ _ (fun s p w => ?_) _ (foldl_wf _ _ (fun s e w => ?_) _ w)
    · split
      · exact w
      · exact w
    · cases h : sendOut e.1 e.2.dl e.2 s with
      | none => exact undeliverable_wf _ _ _ w
      | some r => simpa [sendOut_mem _ _ _ _ _ h] using w
theorem giveUp_wf (p : Nat) (s : State) : Memory.wf s.mem → Memory.wf (giveUp p s).mem := by
  intro w
  exact foldl_wf _ _ (fun s q w => undeliverable_wf p q s w) _ w
theorem overDetour_wf (f g k : Nat) (q : Packet) (s : State) : Memory.wf s.mem → Memory.wf (overDetour f g k q s).mem := by
  grind [overDetour, undeliverable_wf, enqueue_mem, holdSys_mem]
theorem reroute_wf (p g : Nat) (s : State) : Memory.wf s.mem → Memory.wf (reroute p g s).mem := by
  intro w
  exact foldl_wf _ _ (fun s e w => overDetour_wf _ _ _ _ _ w) _ (foldl_wf _ _ (fun s e w => overDetour_wf _ _ _ _ _ w) _ w)
theorem mismatch_wf (p : Nat) (s : State) : Memory.wf s.mem → Memory.wf (mismatch p s).mem := by
  intro w
  unfold mismatch
  refine releaseSys_wf _ ?_
  split
  · exact reroute_wf _ _ _ w
  · exact giveUp_wf _ _ w
theorem markDown_wf (p : Nat) (s : State) : Memory.wf s.mem → Memory.wf (markDown p s).mem := by
  intro w
  unfold markDown
  extract_lets s'
  have w : Memory.wf s'.mem := w
  split
  · exact w
  · exact releaseSys_wf _ (giveUp_wf _ _ w)
theorem dropTileless_wf (s : State) : Memory.wf s.mem → Memory.wf (dropTileless s).mem := by
  intro w
  refine foldl_wf _ _ (fun s p w => ?_) _ w
  grind [markDown_wf, State.onPort_mem]
theorem leaveService_wf (r cause : Nat) (s : State) : Memory.wf s.mem → Memory.wf (leaveService r cause s).mem := by
  intro w
  simp only [leaveService, updateLevel_mem]
  refine dropTileless_wf _ ?_
  split <;> simpa [stopPartition_mem, stopRegion_mem, State.onRegion_mem, State.onBoot_mem] using w
theorem settlePorts_wf (s : State) : Memory.wf s.mem → Memory.wf (settlePorts s).mem := by
  intro w
  simp only [settlePorts, updateLevel_mem]
  refine releaseSys_wf _ (foldl_wf _ _ (fun s p w => ?_) _ w)
  grind [markDown_wf, giveUp_wf, State.onPort_mem]

theorem freePairs_mem (n : Nat) (s : State) : (freePairs n s).2.mem = s.mem := by
  have h (l : List Nat) (x : List ProbePair × State) :
      (l.foldl (fun (x : List ProbePair × State) _ => let (p, s) := freePair x.2; (p :: x.1, s)) x).2.mem = x.2.mem := by
    induction l generalizing x with
    | nil => rfl
    | cons i l ih => rw [List.foldl_cons, ih]; rfl
  unfold freePairs
  exact h _ _
theorem freeProbes_mem (s : State) : (freeProbes s).2.mem = s.mem := by
  simp [freeProbes, freePairs_mem]

theorem keepAon_wf (s : State) : Memory.wf (keepAon s).mem := reset_wf

theorem formPartitions_wf (s : State) : Memory.wf s.mem → Memory.wf (formPartitions s).mem := by
  grind [formPartitions, enforce_wf, formP0_mem, State.onStaged_mem]
theorem trainLink_mem (s : State) : (trainLink s).mem = s.mem := rfl
theorem romSteps_wf (si : Silicon) (s : State) : Memory.wf s.mem → Memory.wf (romSteps si s).mem := by
  intro _
  have := keepAon_wf s
  unfold romSteps
  dsimp only
  split <;> exact this
theorem initSteps_wf (si : Silicon) (slotB : Bool) (s : State) :
    Memory.wf s.mem → Memory.wf (initSteps si slotB s).mem := by
  grind [initSteps, formPartitions_wf, State.onSec_mem, settlePorts_wf, powerSteps_mem, bistSteps_mem, setDevState_mem, State.onBoot_mem]
theorem startUp_wf (si : Silicon) (s : State) : Memory.wf s.mem → Memory.wf (startUp si s).mem := by
  intro w
  have := romSteps_wf si s w
  simp only [startUp]
  split
  · exact this
  · split
    · simpa [setDevState_mem] using this
    · exact initSteps_wf _ _ _ this
theorem endStopped_wf (t : Nat) (op : RunOp) (s : State) (hr : Memory.wf (runMm t op s).s.mem) : Memory.wf (endStopped t op s).mem := by
  simp only [endStopped, settleTokens_mem, State.onTile_mem, State.onUnit_mem]
  exact hr

theorem receiveRec_wf (r : Rec) (s : State) : Memory.wf s.mem → Memory.wf (receiveRec r s).mem := by
  intro w
  unfold receiveRec
  dsimp only
  generalize (if r.scope = 2 ∨ r.scope = 3 then stamp s r else r) = q
  have h : Memory.wf (traceFault q (if r.part.toNat < 6 then causePart r.part.toNat 4 (noteSuspect q (storeRec q s))
      else noteSuspect q (storeRec q s))).mem := by
    refine traceFault_wf _ _ ?_
    split <;> simpa [causePart_mem, noteSuspect_mem, storeRec_mem] using w
  generalize traceFault q (if r.part.toNat < 6 then causePart r.part.toNat 4 (noteSuspect q (storeRec q s))
      else noteSuspect q (storeRec q s)) = s1 at h ⊢
  have e := endLoad_wf r.part.toNat s1 h
  split <;> split <;> grind [updateLevel_mem, stopPartition_mem]

theorem serveFaults_wf (n : Nat) (s : State) : Memory.wf s.mem → Memory.wf (serveFaults n s).mem := by
  intro w
  unfold serveFaults
  dsimp only
  split
  · exact w
  · exact foldl_wf _ _ (fun s r w => receiveRec_wf r s w) _ w

end Sys2Proof.Machine
end

