-- ==== Sys2Proof/Laws/HubFrames.lean ====
section
/-! SUPPORT. Hub frames: the operations of the machine that do not act at the Sync Hub leave `State.hub` as it was, one
lemma each, named after the operation. -/

namespace Sys2Proof.Machine

/-- A fold of an operation that leaves the hub leaves the hub. -/
theorem foldl_hub {α : Type} (g : State → α → State) (l : List α) (h : ∀ s x, (g s x).hub = s.hub) (s : State) :
    (l.foldl g s).hub = s.hub := by
  induction l generalizing s with
  | nil => rfl
  | cons x l ih => rw [List.foldl_cons, ih, h]

theorem drawFree_hub (w : Nat) (s : State) : (drawFree w s).2.hub = s.hub := by rfl
theorem drawBytes_hub (n : Nat) (s : State) : (drawBytes n s).2.hub = s.hub := by rfl
theorem State.poke_hub (s : State) (a : Nat) (bs : Bytes) : (State.poke s a bs).hub = s.hub := by rfl
theorem markBad_hub (a : Nat) (s : State) : (markBad a s).hub = s.hub := by rfl
theorem clearSram_hub (t : Nat) (s : State) : (clearSram t s).hub = s.hub := by rfl
theorem raiseRec_hub (r : Rec) (s : State) : (raiseRec r s).hub = s.hub := by
  simp [raiseRec, State.onBlot_hub, State.onNet_hub, apply_ite State.hub]
theorem putFlag_hub (t : Nat) (f : Nat) (b : Bool) (s : State) : (putFlag t f b s).hub = s.hub := by rfl
theorem signalMsi_hub (k : Nat) (i : Nat) (s : State) : (signalMsi k i s).hub = s.hub := by
  simp [signalMsi, State.onFn_hub, State.onOut_hub, apply_ite State.hub]
theorem raiseCause_hub (k : Nat) (i : Nat) (s : State) : (raiseCause k i s).hub = s.hub := by
  simp [raiseCause, State.onFn_hub, signalMsi_hub, apply_ite State.hub]
theorem causePart_hub (n : Nat) (i : Nat) (s : State) : (causePart n i s).hub = s.hub := by
  simp [causePart, raiseCause_hub, foldl_hub]
theorem causeAll_hub (i : Nat) (s : State) : (causeAll i s).hub = s.hub := by
  simp [causeAll, raiseCause_hub, foldl_hub]
theorem setDevState_hub (st : Nat) (s : State) : (setDevState st s).hub = s.hub := by
  simp [setDevState, causeAll_hub, State.onBoot_hub, apply_ite State.hub]
theorem onMesh_hub (leg : Option (Node × Node)) (f : Sent → Net → Net) (s : State) : (onMesh leg f s).hub = s.hub := by
  rfl
theorem newIdle_hub (s : State) : (newIdle s).hub = s.hub := by rfl
theorem settleDevState_hub (s : State) : (settleDevState s).hub = s.hub := by
  simp [settleDevState, setDevState_hub, apply_ite State.hub]
theorem endLoadRequest_hub (n : Nat) (st : Nat) (s : State) : (endLoadRequest n st s).hub = s.hub := by rfl
theorem setLoad_hub (n : Nat) (st : Nat) (s : State) : (setLoad n st s).hub = s.hub := by
  simp [setLoad, endLoadRequest_hub, State.onPart_hub, settleDevState_hub, causePart_hub, newIdle_hub, apply_ite State.hub]
theorem dropTokens_hub (r : Nat) (s : State) : (dropTokens r s).hub = s.hub := by
  grind [dropTokens, State.onTile_hub, State.onRegion_hub, foldl_hub]
theorem settleTokens_hub (r : Nat) (s : State) : (settleTokens r s).hub = s.hub := by
  simp [settleTokens, dropTokens_hub, apply_ite State.hub]
theorem returnTokens_hub (r : Nat) (s : State) : (returnTokens r s).hub = s.hub := by
  simp [returnTokens, settleTokens_hub, State.onRegion_hub]
theorem openRow_hub (a : Nat) (s : State) : (openRow a s).hub = s.hub := by rfl
theorem openGranule_hub (g : Nat) (s : State) : (openGranule g s).hub = s.hub := by rfl
theorem scrubGranule_hub (g : Nat) (s : State) : (scrubGranule g s).hub = s.hub := by rfl
theorem unscrub_hub (lo : Nat) (hi : Nat) (s : State) : (unscrub lo hi s).hub = s.hub := by rfl
theorem rekey_hub (lo : Nat) (hi : Nat) (key : BitVec 512) (s : State) : (rekey lo hi key s).hub = s.hub := by rfl
theorem settleLine_hub (l : Nat) (s : State) : (settleLine l s).hub = s.hub := by
  simp [settleLine, State.onBulk_hub, State.poke_hub, apply_ite State.hub]
theorem bulkReadLine_hub (l : Nat) (s : State) : (bulkReadLine l s).2.hub = s.hub := by
  simp only [bulkReadLine]
  (repeat' split) <;> simp_all [openRow_hub, State.onBulk_hub]
theorem bulkPut_hub (a : Nat) (bs : Bytes) (s : State) : (bulkPut a bs s).hub = s.hub := by
  simp [bulkPut, scrubGranule_hub, openRow_hub, settleLine_hub, State.onBulk_hub, State.poke_hub, apply_ite State.hub]
theorem bulkWrite_hub (a : Nat) (bs : Bytes) (s : State) : (bulkWrite a bs s).2.hub = s.hub := by
  simp only [bulkWrite]
  (repeat' split) <;> simp_all [State.onBulk_hub, openRow_hub, bulkPut_hub]
theorem writeBack_hub (x : CLine) (s : State) : (writeBack x s).hub = s.hub := by
  simp [writeBack, bulkPut_hub, apply_ite State.hub]
theorem allocate_hub (r : Nat) (l : Nat) (set : Nat) (data : Bytes) (dirty : Bool) (s : State) : (allocate r l set data dirty s).2.hub = s.hub := by
  simp only [allocate]
  (repeat' split) <;> simp_all [State.onRc_hub, writeBack_hub]
theorem countRc_hub (r : Nat) (hit : Bool) (s : State) : (countRc r hit s).hub = s.hub := by rfl
theorem homeRead_hub (n : Nat) (a : Nat) (len : Nat) (alloc : Bool) (s : State) : (homeRead n a len alloc s).2.hub = s.hub := by
  grind [homeRead, bulkReadLine_hub, countRc_hub, State.onRc_hub, allocate_hub, foldl_hub]
theorem homeWrite_hub (n : Nat) (a : Nat) (bs : Bytes) (alloc : Bool) (s : State) : (homeWrite n a bs alloc s).2.hub = s.hub := by
  grind [homeWrite, bulkWrite_hub, countRc_hub, State.onRc_hub, allocate_hub, bulkReadLine_hub, foldl_hub]
theorem scanSets_hub (op : RcOp) (r : Nat) (lo : Nat) (hi : Nat) (s : State) : (scanSets op r lo hi s).hub = s.hub := by
  simp [scanSets, writeBack_hub, State.onRc_hub, foldl_hub, apply_ite State.hub]
theorem scanOn_hub (r : Nat) (s : State) : (scanOn r s).hub = s.hub := by
  simp only [scanOn]
  (repeat' split) <;> simp_all [drawFree_hub, State.onRc_hub, scanSets_hub]
theorem scanEnd_hub (r : Nat) (s : State) : (scanEnd r s).hub = s.hub := by
  simp only [scanEnd]
  (repeat' split) <;> simp_all [State.onRc_hub, scanSets_hub]
theorem invalSlice_hub (r : Nat) (s : State) : (invalSlice r s).hub = s.hub := by
  simp [invalSlice, scanSets_hub]
theorem zeroSlice_hub (r : Nat) (s : State) : (zeroSlice r s).hub = s.hub := by rfl
theorem emptyWays_hub (r : Nat) (p : Nat → Bool) (s : State) : (emptyWays r p s).hub = s.hub := by
  simp [emptyWays, State.onRc_hub, writeBack_hub, foldl_hub]
theorem correctRc_hub (r : Nat) (s : State) : (correctRc r s).hub = s.hub := by rfl
theorem strikeLine_hub (a : Nat) (s : State) : (strikeLine a s).hub = s.hub := by
  grind [strikeLine, raiseRec_hub, State.onRc_hub, bulkReadLine_hub, correctRc_hub, foldl_hub]
theorem strikeLineOne_hub (a : Nat) (s : State) : (strikeLineOne a s).hub = s.hub := by
  simp [strikeLineOne, correctRc_hub, apply_ite State.hub]
theorem dropTrace_hub (s : State) : (dropTrace s).hub = s.hub := by rfl
theorem stopTrace_hub (s : State) : (stopTrace s).hub = s.hub := by
  simp [stopTrace, causeAll_hub, State.onTrace_hub]
theorem putTrace_hub (bs : Bytes) (s : State) : (putTrace bs s).hub = s.hub := by
  grind [putTrace, dropTrace_hub, homeWrite_hub, State.onTrace_hub, stopTrace_hub, foldl_hub]
theorem onTraceQ_hub (r : Nat) (f : List Bytes → List Bytes) (s : State) : (onTraceQ r f s).hub = s.hub := by
  rfl
theorem noteLost_hub (r : Nat) (s : State) : (noteLost r s).hub = s.hub := by
  simp [noteLost, onTraceQ_hub, State.onRegion_hub, apply_ite State.hub]
theorem drainTrace_hub (fuel r : Nat) (s : State) : (drainTrace fuel r s).hub = s.hub := by
  induction fuel generalizing s with
  | zero => rfl
  | succ n ih =>
    unfold drainTrace
    split
    · rfl
    · split
      · rfl
      · rw [ih, noteLost_hub, putTrace_hub, onTraceQ_hub]
theorem drainTraces_hub (s : State) : (drainTraces s).hub = s.hub := by
  grind [drainTraces, drainTrace_hub, foldl_hub]
theorem pushTrace_hub (r : Nat) (bs : Bytes) (s : State) : (pushTrace r bs s).hub = s.hub := by
  simp [pushTrace, dropTrace_hub, State.onRegion_hub, drainTrace_hub, onTraceQ_hub, apply_ite State.hub]
theorem traceTile_hub (t : Nat) (kind : Nat) (ctx : Nat) (iaddr : Nat) (payload : Bytes) (s : State) :
    (traceTile t kind ctx iaddr payload s).hub = s.hub := by
  simp [traceTile, pushTrace_hub, apply_ite State.hub]
theorem traceHub_hub (r n kind : Nat) (payload : Bytes) (s : State) : (traceHub r n kind payload s).hub = s.hub := by
  simp [traceHub, pushTrace_hub, apply_ite State.hub]
theorem triggerTrace_hub (s : State) : (triggerTrace s).hub = s.hub := by
  simp only [triggerTrace]
  (repeat' split) <;> simp_all [State.onTrace_hub, stopTrace_hub]
theorem wakeFences_hub (t : Nat) (s : State) : (wakeFences t s).hub = s.hub := by
  simp [wakeFences, State.onTile_hub, apply_ite State.hub]
theorem haltCtx_hub (t : Nat) (c : Nat) (s : State) : (haltCtx t c s).hub = s.hub := by rfl
theorem fetched_hub (t : Nat) (c : Nat) (s : State) : (fetched t c s).hub = s.hub := by
  simp only [fetched]
  (repeat' split) <;> simp_all [State.onCx_hub]
theorem setRv_hub (t : Nat) (c : Nat) (r : BitVec 5) (v : Word) (s : State) : (setRv t c r v s).hub = s.hub := by rfl
theorem mapReqs_hub (f : MemReq → MemReq) (s : State) : (mapReqs f s).hub = s.hub := by rfl
theorem dropLines_hub (t : Nat) (p : Nat → Bool) (s : State) : (dropLines t p s).hub = s.hub := by rfl
theorem invalidateRlb_hub (t : Nat) (s : State) : (invalidateRlb t s).hub = s.hub := by rfl
theorem acquire_hub (t : Nat) (c : Nat) (s : State) : (acquire t c s).hub = s.hub := by rfl
theorem putBlock_hub (t : Nat) (o : Nat) (v : Word) (s : State) : (putBlock t o v s).hub = s.hub := by
  simp [putBlock, State.onTile_hub, invalidateRlb_hub, apply_ite State.hub]
theorem drain_hub (p : Nat) (s : State) : (drain p s).hub = s.hub := by rfl
theorem enqueue_hub (p : Nat) (k : Nat) (q : Packet) (s : State) : (enqueue p k q s).hub = s.hub := by rfl
theorem holdSys_hub (f : Nat) (q : Packet) (s : State) : (holdSys f q s).hub = s.hub := by
  rfl
theorem sendOut_hub (f : Nat) (dl : Bool) (q : Packet) (s : State) : ∀ r, (sendOut f dl q s) = some r → r.hub = s.hub := by
  simp only [sendOut]
  (repeat' split) <;> simp_all [enqueue_hub, holdSys_hub]
theorem freeLines_hub (p : Nat) (k : Nat) (n : Nat) (s : State) : (freeLines p k n s).hub = s.hub := by rfl
theorem routeOut_hub (dim : Option Nat) (q : Packet) (s : State) : ∀ r, (routeOut dim q s) = .ok r → r.hub = s.hub := by
  grind [routeOut, sendOut_hub, foldl_hub]
theorem originate_hub (q : Packet) (s : State) : ∀ r, (originate q s) = .ok r → r.hub = s.hub := by
  grind [originate, routeOut_hub, foldl_hub]
theorem updateLevel_hub (s : State) : (updateLevel s).hub = s.hub := by
  simp [updateLevel, State.onBoot_hub, causeAll_hub, raiseRec_hub, apply_ite State.hub]
theorem failHost_hub (p : HostReq → Bool) (s : State) : (failHost p s).hub = s.hub := by rfl
theorem dropPosted_hub (p : Posted → Bool) (s : State) : (dropPosted p s).hub = s.hub := by rfl
theorem leavePosted_hub (k : Nat) (s : State) : (leavePosted k s).hub = s.hub := by rfl
theorem dropHeld_hub (p : Nat → Bool) (s : State) : (dropHeld p s).hub = s.hub := by
  rfl
theorem resetFn_hub (f : Nat) (s : State) : (resetFn f s).hub = s.hub := by
  simp [resetFn, State.onFn_hub, State.onMgmt_hub, State.onPart_hub, dropHeld_hub, dropPosted_hub, failHost_hub, apply_ite State.hub]
theorem resetVfs_hub (s : State) : (resetVfs s).hub = s.hub := by
  simp [resetVfs, State.onPcie_hub, resetFn_hub]
theorem resetFns_hub (s : State) : (resetFns s).hub = s.hub := by
  simp [resetFns, resetVfs_hub, resetFn_hub]
theorem linkDown_hub (s : State) : (linkDown s).hub = s.hub := by rfl
theorem strike_hub (u : Upset) (s : State) : (strike u s).hub = s.hub := by
  simp only [strike]
  (repeat' split) <;> simp_all [markBad_hub, State.onTile_hub, strikeLine_hub, strikeLineOne_hub, State.onBulk_hub]
theorem touchWrite_hub (a : Nat) (n : Nat) (s : State) (own : optParam Bool Bool.false) : (touchWrite a n s own).hub = s.hub := by
  simp [touchWrite, apply_ite State.hub]
theorem readShared_hub (a : Nat) (n : Nat) (s : State) : (readShared a n s).2.hub = s.hub := by
  simp only [readShared]
  (repeat' split) <;> simp_all [drawBytes_hub]
theorem writeShared_hub (a : Nat) (bs : Bytes) (s : State) (own : optParam Bool Bool.false) : (writeShared a bs s own).hub = s.hub := by
  simp [writeShared, State.poke_hub, touchWrite_hub]
theorem accumulate_hub (t : Nat) (a : Nat) (ty : BitVec 2) (new : Bytes) (s : State) (own : optParam Bool Bool.false) : ∀ r, (accumulate t a ty new s own) = .ok r → r.hub = s.hub := by
  grind [accumulate, readShared_hub, writeShared_hub, State.onTile_hub, foldl_hub]
theorem setFull_hub (t : Nat) (w : Nat) (b : Bool) (s : State) : (setFull t w b s).hub = s.hub := by rfl
theorem serveFull_hub (t : Nat) (w : Nat) (s : State) : (serveFull t w s).hub = s.hub := by
  grind [serveFull, readShared_hub, State.onTile_hub, setFull_hub, foldl_hub]
theorem fillStore_hub (t : Nat) (w : Nat) (bs : Bytes) (s : State) (own : optParam Bool Bool.false) : ∀ r, (fillStore t w bs s own) = .ok r → r.hub = s.hub := by
  grind [fillStore, serveFull_hub, setFull_hub, writeShared_hub, foldl_hub]
theorem dropOwnLine_hub (t : Nat) (g : Target) (s : State) : (dropOwnLine t g s).hub = s.hub := by
  simp only [dropOwnLine]
  (repeat' split) <;> simp_all [dropLines_hub]
theorem answerHub_hub (o : HubOp) (v : Option Word) (s : State) : (answerHub o v s).hub = s.hub := by rfl
theorem takeHubAnswer_hub (a : HubAns) (s : State) : (takeHubAnswer a s).hub = s.hub := by
  simp only [takeHubAnswer]
  (repeat' split) <;> simp_all [State.onCx_hub, acquire_hub, State.onTile_hub]
theorem arrive_hub (t : Nat) (c : Nat) (b : Nat) (s : State) : (arrive t c b s).hub = s.hub := by
  simp [arrive, State.onTile_hub, State.onNet_hub, traceTile_hub]
theorem pulseNear_hub (s : State) : (pulseNear s).2.hub = s.hub := by
  simp only [pulseNear]
  (repeat' split) <;> simp_all [drawFree_hub]
theorem eventPulse_hub (b : Nat) (s : State) : (eventPulse b s).hub = s.hub := by
  grind [eventPulse, State.onOut_hub, State.onTrace_hub, pulseNear_hub, foldl_hub]
theorem sendSetpoint_hub (mv : Nat) (s : State) : (sendSetpoint mv s).hub = s.hub := by rfl
theorem stepTrims_hub (s : State) : (stepTrims s).hub = s.hub := by
  grind [stepTrims, State.onTime_hub, State.onRegion_hub, foldl_hub]
theorem signalRelease_hub (n : Nat) (b : Nat) (s : State) : (signalRelease n b s).hub = s.hub := by
  grind [signalRelease, State.onRegion_hub, stepTrims_hub, newIdle_hub, State.onTime_hub, State.onPart_hub, foldl_hub]
theorem discardSys_hub (port : Option Nat) (s : State) : (discardSys port s).hub = s.hub := by
  simp only [discardSys]
  (repeat' split) <;> simp_all [State.onPort_hub]
theorem Desc.putRaw_hub (d : Desc) (i0 : Nat) (i1 : Nat) (i2 : Nat) (raws : List Nat) (s : State) : (Desc.putRaw d i0 i1 i2 raws s).hub = s.hub := by
  rfl
theorem marker_hub (t : Nat) (c : Nat) (f : Nat) (s : State) : (marker t c f s).hub = s.hub := by
  simp [marker, traceTile_hub, apply_ite State.hub]
theorem loseRange_hub (t : Nat) (c : Nat) (r : Nat × Nat) (s : State) : (loseRange t c r s).hub = s.hub := by
  simp [loseRange, State.onTile_hub, State.onUnit_hub, apply_ite State.hub]
theorem releaseEntry_hub (t : Nat) (c : Nat) (s : State) : (releaseEntry t c s).hub = s.hub := by
  simp only [releaseEntry]
  (repeat' split) <;> simp_all [loseRange_hub, touchWrite_hub]
theorem onRd_hub (p : Nat) (n : Nat) (f : RdCtx → RdCtx) (s : State) : (onRd p n f s).hub = s.hub := by rfl
theorem rdPost_hub (p : Nat) (n : Nat) (s : State) : ∀ r, (rdPost p n s) = .ok r → r.hub = s.hub := by
  grind [rdPost, onRd_hub, foldl_hub]
theorem markNf_hub (k : Ring) (nf : Bool) (s : State) : (markNf k nf s).hub = s.hub := by
  simp [markNf, State.onPart_hub, onRd_hub, apply_ite State.hub]
theorem stopRing_hub (k : Ring) (s : State) : (stopRing k s).hub = s.hub := by
  simp [stopRing, onRd_hub, drawBytes_hub, writeShared_hub, foldl_hub]
theorem freeRing_hub (p : Nat) (q : Packet) (s : State) : (freeRing p q s).hub = s.hub := by
  simp [freeRing, freeLines_hub, apply_ite State.hub]
theorem startRc_hub (r : Nat) (op : RcOp) (s : State) : (startRc r op s).hub = s.hub := by rfl
theorem writeRcBlock_hub (w : Writer) (o : Nat) (v : Word) (s : State) : ∀ r, (writeRcBlock w o v s) = .ok r → r.hub = s.hub := by
  grind [writeRcBlock, startRc_hub, foldl_hub]
theorem clearRdnf_hub (w : Writer) (v : Word) (s : State) : ∀ r, (clearRdnf w v s) = .ok r → r.hub = s.hub := by
  grind [clearRdnf, State.onPart_hub, foldl_hub]
theorem writeBsBlock_hub (w : Writer) (o : Nat) (s : State) : ∀ r, (writeBsBlock w o s) = .ok r → r.hub = s.hub := by
  intro r h
  simp only [writeBsBlock] at h
  (repeat' split at h) <;> simp_all
theorem giveTokens_hub (r : Nat) (m : BitVec 1024) (s : State) : (giveTokens r m s).hub = s.hub := by
  grind [giveTokens, State.onTile_hub, foldl_hub]
theorem onPool_hub (r : Nat) (f : Pool → Pool) (s : State) : (onPool r f s).hub = s.hub := by rfl
theorem latch_hub (r : Nat) (phase : Nat) (s : State) : (latch r phase s).hub = s.hub := by
  simp [latch, onPool_hub, giveTokens_hub, traceHub_hub, apply_ite State.hub]
theorem writePoolBlock_hub (w : Writer) (o : Nat) (v : Word) (s : State) : ∀ r, (writePoolBlock w o v s) = .ok r → r.hub = s.hub := by
  grind [writePoolBlock, latch_hub, onPool_hub, foldl_hub]
theorem devReadAt_hub (w : Writer) (o : Nat) (s : State) : (devReadAt w o s).2.hub = s.hub := by
  simp [devReadAt, scanOn_hub, apply_ite State.hub]
theorem noteBulk_hub (nib : Option Nat) (code : Nat) (a : Nat) (n : Nat) (s : State) : (noteBulk nib code a n s).hub = s.hub := by
  simp only [noteBulk]
  (repeat' split) <;> simp_all [raiseRec_hub]
theorem assign_hub (r : Nat) (ri : Nat) (v : Nat) (at' : Nat) (o : TiledOp) (id : Nat) (h : Shape) (s : State) : (assign r ri v at' o id h s).hub = s.hub := by
  simp [assign, writeShared_hub, foldl_hub]
theorem setClaims_hub (r : Nat) (n : Nat) (ph : PhaseRec) (s : State) : (setClaims r n ph s).hub = s.hub := by rfl
theorem waitPool_hub (r : Nat) (s : State) : (waitPool r s).hub = s.hub := by rfl
theorem declare_hub (r : Nat) (n : Nat) (ri : Nat) (p : PlateInfo) (loading : Bool) (d : Declared) (s : State) : (declare r n ri p loading d s).hub = s.hub := by
  simp only [declare]
  (repeat' split) <;> simp_all [waitPool_hub, assign_hub, State.onRegion_hub, setClaims_hub, latch_hub, putFlag_hub, foldl_hub]
theorem finishLoad_hub (n : Nat) (s : State) : (finishLoad n s).hub = s.hub := by
  grind [finishLoad, State.onTile_hub, drawFree_hub, State.onSec_hub, State.onPart_hub, setLoad_hub, foldl_hub]
theorem foldTile_hub (t : Nat) (s : State) : (foldTile t s).hub = s.hub := by rfl
theorem onCommit_hub (n : Nat) (f : CommitSt → CommitSt) (s : State) : (onCommit n f s).hub = s.hub := by rfl
theorem loadSeeds_hub (n : Nat) (v : Word) (s : State) : (loadSeeds n v s).hub = s.hub := by
  grind [loadSeeds, State.onTile_hub, foldl_hub]
theorem biasValue_hub (rule : BitVec 3) (beta : BitVec 32) (t : Word) (s : State) : (biasValue rule beta t s).2.hub = s.hub := by
  simp only [biasValue]
  (repeat' split) <;> simp_all [drawFree_hub]
theorem growScale_hub (d : Commit) (c : CommitSt) (s : State) : (growScale d c s).2.2.hub = s.hub := by
  simp only [growScale]
  (repeat' split) <;> simp_all [drawFree_hub]
theorem takeTurn_hub (t : Nat) (id : Nat) (cost : Nat) (s : State) : (takeTurn t id cost s).2.hub = s.hub := by
  simp only [takeTurn]
  (repeat' split) <;> simp_all [State.onTile_hub]
theorem unwait_hub (t : Nat) (id : Nat) (s : State) : (unwait t id s).hub = s.hub := by rfl
theorem clearFlag_hub (t : Nat) (tf : BitVec 8) (s : State) : (clearFlag t tf s).hub = s.hub := by rfl
theorem wakeQueue_hub (t : Nat) (u : Nat) (s : State) : (wakeQueue t u s).hub = s.hub := by
  simp [wakeQueue, State.onTile_hub, apply_ite State.hub]
theorem popQueue_hub (t : Nat) (u : Nat) (s : State) : (popQueue t u s).hub = s.hub := by
  simp [popQueue, wakeQueue_hub, State.onUnit_hub]
theorem touchOps_hub (t : Nat) (op : RunOp) (s : State) : (touchOps t op s).2.hub = s.hub := by
  simp [touchOps, touchWrite_hub, foldl_hub]
theorem traceStart_hub (t : Nat) (q : StartReq) (tokens : Nat) (s : State) : (traceStart t q tokens s).hub = s.hub := by
  simp [traceStart, traceTile_hub]
theorem traceDone_hub (t : Nat) (q : StartReq) (beats : Nat) (progress : Nat) (s : State) : (traceDone t q beats progress s).hub = s.hub := by
  simp [traceDone, traceTile_hub]
theorem startOp_hub (t : Nat) (u : Nat) (op : RunOp) (s : State) : (startOp t u op s).hub = s.hub := by
  simp [startOp, clearFlag_hub, popQueue_hub, touchOps_hub, State.onUnit_hub, traceStart_hub]
theorem readFor_hub (q : StartReq) (a : Nat) (n : Nat) (s : State) : (readFor q a n s).2.hub = s.hub := by
  simp only [readFor]
  (repeat' split) <;> simp_all [drawBytes_hub]
theorem readList_hub (q : StartReq) (s : State) : (readList q s).2.hub = s.hub := by
  simp only [readList]
  (repeat' split) <;> simp_all [drawBytes_hub, readFor_hub]
theorem onList_hub (t : Nat) (f : RunList → RunList) (s : State) : (onList t f s).hub = s.hub := by rfl
theorem traceDoneFree_hub (t : Nat) (q : StartReq) (progress : Nat) (s : State) : (traceDoneFree t q progress s).hub = s.hub := by
  simp [traceDoneFree, drawFree_hub, traceDone_hub]
theorem finishList_hub (t : Nat) (l : RunList) (s : State) : (finishList t l s).hub = s.hub := by
  simp [finishList, State.onTile_hub, traceDoneFree_hub, putFlag_hub]
theorem blurOverlaps_hub (t : Nat) (l : RunList) (j : Nat) (s : State) : (blurOverlaps t l j s).hub = s.hub := by
  simp [blurOverlaps, drawBytes_hub, State.poke_hub, foldl_hub]
theorem dropOutstanding_hub (r : SegReply) (s : State) : (dropOutstanding r s).hub = s.hub := by rfl
theorem countLine_hub (code : Nat) (x : Option Node) (s : State) : (countLine code x s).hub = s.hub := by
  simp only [countLine]
  (repeat' split) <;> simp_all [State.onTile_hub]
theorem answer_hub (r : MemReq) (v : MemRes) (s : State) : (answer r v s).hub = s.hub := by
  simp [answer, countLine_hub, onMesh_hub]
theorem atSram_hub (r : MemReq) (t : Nat) (o : Nat) (s : State) : (atSram r t o s).2.hub = s.hub := by
  grind [atSram, readShared_hub, writeShared_hub, accumulate_hub, fillStore_hub, foldl_hub]
theorem markWrite_hub (t : Nat) (c : Nat) (o : Nat) (v : Word) (s : State) : (markWrite t c o v s).hub = s.hub := by
  simp [markWrite, foldl_hub, marker_hub, apply_ite State.hub]
theorem atBlock_hub (r : MemReq) (t : Nat) (o : Nat) (s : State) : (atBlock r t o s).2.hub = s.hub := by
  simp only [atBlock]
  (repeat' split) <;> simp_all [markWrite_hub, putBlock_hub]
theorem noteForeign_hub (r : MemReq) (v : MemRes) (s : State) : (noteForeign r v s).hub = s.hub := by
  simp only [noteForeign]
  (repeat' split) <;> simp_all [raiseRec_hub]
theorem atBulk_hub (alloc : Bool) (r : MemReq) (s : State) : (atBulk alloc r s).2.hub = s.hub := by
  grind [atBulk, homeRead_hub, drawBytes_hub, homeWrite_hub, touchWrite_hub, foldl_hub]
theorem joinFill_hub (r : MemReq) (s : State) : (joinFill r s).hub = s.hub := by rfl
theorem sliceRequest_hub (r : MemReq) (s : State) : (sliceRequest r s).hub = s.hub := by
  simp [sliceRequest, answer_hub, noteForeign_hub, joinFill_hub, atBulk_hub, State.onNet_hub, apply_ite State.hub]
theorem hostRequest_hub (r : MemReq) (o : Nat) (s : State) : (hostRequest r o s).hub = s.hub := by
  simp only [hostRequest]
  (repeat' split) <;> simp_all [answer_hub, State.onNet_hub]
theorem flightRequest_hub (i : Nat) (s : State) : (flightRequest i s).hub = s.hub := by
  simp only [flightRequest]
  (repeat' split) <;> simp_all [State.onNet_hub, sliceRequest_hub, hostRequest_hub, answer_hub]
theorem hostAnswer_hub (ok : Bool) (d : Bytes) (s : State) : (hostAnswer ok d s).hub = s.hub := by rfl
theorem refuseHost_hub (h : HostHdr) (s : State) : (refuseHost h s).hub = s.hub := by
  simp [refuseHost, State.onPcie_hub, hostAnswer_hub, apply_ite State.hub]
theorem serveWaiting_hub (l : List MemReq) (s : State) : (serveWaiting l s).hub = s.hub := by
  simp [serveWaiting, atBulk_hub, answer_hub, foldl_hub]
theorem takeData_hub (t : Nat) (c : Nat) (r : MemReq) (d : Bytes) (s : State) : (takeData t c r d s).hub = s.hub := by
  simp only [takeData]
  (repeat' split) <;> simp_all [State.onTile_hub, State.onCx_hub, acquire_hub]
theorem takeXfer_hub (t : Nat) (a : MemAns) (s : State) : (takeXfer t a s).hub = s.hub := by rfl
theorem allocPieces_hub (l : List (Nat × Nat)) (s : State) : (allocPieces l s).2.hub = s.hub := by
  induction l generalizing s with
  | nil => rfl
  | cons p ps ih => grind [allocPieces, homeRead_hub]
theorem bulkFor_hub (q : StartReq) (a n : Nat) (s : State) : (bulkFor q a n s).2.hub = s.hub := by
  have h := allocPieces_hub (hostPieces a n) s
  unfold bulkFor
  split
  · rfl
  · split <;> simp_all [apply_ite State.hub, apply_ite Prod.snd, drawBytes_hub]
theorem gatherList_hub (t : Nat) (q : StartReq) (s : State) : (gatherList t q s).2.hub = s.hub := by
  grind [gatherList, bulkFor_hub, readFor_hub, drawBytes_hub]
theorem countXfer_hub (t : Nat) (a : Nat) (n : Nat) (s : State) : (countXfer t a n s).hub = s.hub := by
  simp only [countXfer]
  (repeat' split) <;> simp_all [State.onTile_hub]
theorem xferRead_hub (t : Nat) (a : Nat) (n : Nat) (s : State) : (xferRead t a n s).2.hub = s.hub := by
  grind [xferRead, countXfer_hub, homeRead_hub, foldl_hub]
theorem xferWrite_hub (t : Nat) (a : Nat) (bs : Bytes) (s : State) : (xferWrite t a bs s).2.hub = s.hub := by
  grind [xferWrite, State.poke_hub, countXfer_hub, homeWrite_hub, foldl_hub]
theorem pieceData_hub (t : Nat) (op : RunOp) (ps : List Piece) (p : Piece) (s : State) :
    (pieceData t op ps p s).2.hub = s.hub := by
  grind [pieceData, drawBytes_hub, xferRead_hub, foldl_hub]
theorem onMovt_hub (t : Nat) (f : RunOp → RunOp) (s : State) : (onMovt t f s).hub = s.hub := by rfl
theorem startEnl_hub (t : Nat) (q : StartReq) (s : State) : (startEnl t q s).hub = s.hub := by
  simp [startEnl, traceStart_hub, clearFlag_hub, popQueue_hub, traceDone_hub, putFlag_hub, touchWrite_hub, State.onDev_hub, State.onRegion_hub, foldl_hub, apply_ite State.hub]
theorem onBranch_hub (b : Option RegionId) (f : EnlBranch → EnlBranch) (s : State) : (onBranch b f s).hub = s.hub := by
  simp only [onBranch]
  (repeat' split) <;> simp_all [State.onRegion_hub, State.onDev_hub]
theorem enlLine_hub (q : EnlReq) (k : Nat) (s : State) : (enlLine q k s).2.hub = s.hub := by
  grind [enlLine, drawBytes_hub, homeRead_hub, foldl_hub]
theorem landLine_hub (q : EnlReq) (k : Nat) (d : Bytes) (t : Nat) (s : State) : (landLine q k d t s).hub = s.hub := by
  simp [landLine, State.poke_hub, putFlag_hub, apply_ite State.hub]
theorem countLines_hub (q : EnlReq) (s : State) : (countLines q s).hub = s.hub := by
  grind [countLines, State.onRegion_hub, foldl_hub]
theorem enlAdmit_hub (q : EnlReq) (s : State) : (enlAdmit q s).2.hub = s.hub := by
  grind [enlAdmit, takeTurn_hub, State.onTile_hub, foldl_hub]
theorem beginWaits_hub (t : Nat) (s : State) : (beginWaits t s).hub = s.hub := by
  simp [beginWaits, State.onTile_hub, apply_ite State.hub]
theorem handXstart_hub (t : Nat) (q : StartReq) (s : State) : (handXstart t q s).hub = s.hub := by
  simp [handXstart, State.onTile_hub, popQueue_hub, apply_ite State.hub]
theorem onSend_hub (t : Nat) (k : Nat) (v : Option SendSlot) (s : State) : (onSend t k v s).hub = s.hub := by rfl
theorem sendMsg_hub (t : Nat) (m : SendSlot) (k : Nat) (data : Bytes) (s : State) : ∀ r, (sendMsg t m k data s) = .ok r → r.hub = s.hub := by
  grind [sendMsg, onMesh_hub, originate_hub, foldl_hub]
theorem wakeSend_hub (t : Nat) (s : State) : (wakeSend t s).hub = s.hub := by
  simp [wakeSend, State.onTile_hub, apply_ite State.hub]
theorem freeSlot_hub (t : Nat) (k : Nat) (s : State) : (freeSlot t k s).hub = s.hub := by
  simp [freeSlot, wakeFences_hub, wakeSend_hub, onSend_hub]
theorem onQueue_hub (t : Nat) (q1 : Bool) (f : RecvQ → RecvQ) (s : State) : (onQueue t q1 f s).hub = s.hub := by rfl
theorem landMsg_hub (g : Message) (r : BitVec 2176) (s : State) : (landMsg g r s).hub = s.hub := by
  simp [landMsg, writeShared_hub, onQueue_hub]
theorem traceMsg_hub (t : Nat) (m : SendSlot) (out : Nat) (s : State) : (traceMsg t m out s).hub = s.hub := by
  simp [traceMsg, traceTile_hub]
theorem dropKey_hub (t : Nat) (m : SendSlot) (s : State) : (dropKey t m s).hub = s.hub := by rfl
theorem startHandler_hub (t : Nat) (c : Nat) (r : BitVec 2176) (q1 : Bool) (e : QEntry) (s : State) : (startHandler t c r q1 e s).hub = s.hub := by
  simp [startHandler, invalidateRlb_hub, State.onMail_hub, State.onTile_hub]
theorem clearBand_hub (n : Nat) (s : State) : (clearBand n s).hub = s.hub := by rfl
theorem fence_hub (n : Nat) (b : Bool) (s : State) : (fence n b s).hub = s.hub := by
  grind [fence, State.onTile_hub, foldl_hub]
theorem beginDeclarations_hub (p : Plate) (s : State) : (beginDeclarations p s).hub = s.hub := by
  grind [beginDeclarations, State.onPart_hub, State.onRegion_hub, foldl_hub]
theorem noteSuspect_hub (r : Rec) (s : State) : (noteSuspect r s).hub = s.hub := by
  simp [noteSuspect, State.onBoot_hub, apply_ite State.hub]
theorem storeRec_hub (r : Rec) (s : State) : (storeRec r s).hub = s.hub := by rfl
theorem traceFault_hub (r : Rec) (s : State) : (traceFault r s).hub = s.hub := by
  simp [traceFault, pushTrace_hub, apply_ite State.hub]
theorem clearBlotter_hub (s : State) : (clearBlotter s).hub = s.hub := by rfl
theorem tornRec_hub (t : Nat) (src : Nat) (c : Nat) (iaddr : BitVec 32) (daddr : Nat) (progress : Nat) (s : State) : (tornRec t src c iaddr daddr progress s).hub = s.hub := by
  simp [tornRec, raiseRec_hub, apply_ite State.hub]
theorem haltAll_hub (t : Nat) (s : State) : (haltAll t s).hub = s.hub := by rfl
theorem resumeTile_hub (t : Nat) (s : State) : (resumeTile t s).hub = s.hub := by rfl
theorem stepCtx_hub (t : Nat) (c : Nat) (s : State) : (stepCtx t c s).hub = s.hub := by rfl
theorem resumePart_hub (n : Nat) (s : State) : (resumePart n s).hub = s.hub := by
  simp [resumePart, resumeTile_hub, foldl_hub]
theorem windowAnswer_hub (p : DbgPath) (s : State) : (windowAnswer p s).hub = s.hub := by
  simp only [windowAnswer]
  (repeat' split) <;> simp_all [hostAnswer_hub]
theorem releaseTraceWays_hub (s : State) : (releaseTraceWays s).hub = s.hub := by
  simp [releaseTraceWays, State.onRc_hub, emptyWays_hub, foldl_hub]
theorem reserveTraceWays_hub (s : State) : (reserveTraceWays s).hub = s.hub := by
  simp [reserveTraceWays, State.onRc_hub, emptyWays_hub, foldl_hub]
theorem emptyTraceQs_hub (s : State) : (emptyTraceQs s).hub = s.hub := by
  grind [emptyTraceQs, State.onRegion_hub, foldl_hub]
theorem traceOff_hub (s : State) : (traceOff s).hub = s.hub := by
  simp [traceOff, State.onTrace_hub, drainTraces_hub, emptyTraceQs_hub, releaseTraceWays_hub]
theorem traceOn_hub (s : State) : ∀ r, (traceOn s) = some r → r.hub = s.hub := by
  simp [traceOn, State.onTrace_hub, emptyTraceQs_hub, releaseTraceWays_hub, reserveTraceWays_hub, apply_ite State.hub]
theorem endUnlock_hub (n : Nat) (s : State) : (endUnlock n s).hub = s.hub := by rfl
theorem onTenant_hub (n : Nat) (f : Tenant → Tenant) (s : State) : (onTenant n f s).hub = s.hub := by rfl
theorem newKey_hub (s : State) : (newKey s).2.hub = s.hub := by rfl
theorem openPart_hub (n : Nat) (s : State) : (openPart n s).hub = s.hub := by
  simp [openPart, fence_hub, onTenant_hub]
theorem writeSlot_hub (off : Nat) (d : Bytes) (s : State) : (writeSlot off d s).hub = s.hub := by rfl
theorem verifySlot_hub (s : State) : (verifySlot s).2.hub = s.hub := by rfl
theorem makeChallenge_hub (scope : Byte) (s : State) : (makeChallenge scope s).hub = s.hub := by
  simp [makeChallenge, drawFree_hub, State.onSec_hub]
theorem failResponse_hub (s : State) : (failResponse s).hub = s.hub := by rfl
theorem answerChallenge_hub (sig : Bytes) (s : State) : (answerChallenge sig s).2.hub = s.hub := by
  simp only [answerChallenge]
  (repeat' split) <;> simp_all [failResponse_hub, State.onSec_hub]
theorem relockAll_hub (s : State) : (relockAll s).hub = s.hub := by rfl
theorem spdmAnswer_hub (f : Nat) (st : Nat) (d : Bytes) (s : State) : (spdmAnswer f st d s).hub = s.hub := by rfl
theorem passPower_hub (ns : Nat) (s : State) : (passPower ns s).hub = s.hub := by
  grind [passPower, State.onPower_hub, State.onRegion_hub, foldl_hub]
theorem advanceTime_hub (ns : Nat) (s : State) : (advanceTime ns s).hub = s.hub := by
  simp [advanceTime, passPower_hub, State.onTime_hub]
theorem dropLimits_hub (s : State) : (dropLimits s).hub = s.hub := by
  grind [dropLimits, State.onRegion_hub, foldl_hub]
theorem countBeats_hub (s : State) : (countBeats s).hub = s.hub := by
  simp [(countBeats_onlyBeats s).1.2.2.2.1]
theorem publishBeats_hub (beats : List Nat) (hops : List Nat) (s : State) : (publishBeats beats hops s).hub = s.hub := by
  grind [publishBeats, State.onRegion_hub, State.onTime_hub, dropLimits_hub, foldl_hub]
theorem publishPools_hub (s : State) : (publishPools s).hub = s.hub := by
  grind [publishPools, State.onRegion_hub, foldl_hub]
theorem cutLink_hub (s : State) : (cutLink s).hub = s.hub := by
  rfl
theorem thermalTrip_hub (at' : Nat) (s : State) : (thermalTrip at' s).hub = s.hub := by
  simp [thermalTrip, State.onBoot_hub, State.onPower_hub, cutLink_hub, raiseRec_hub, setDevState_hub, updateLevel_hub]
theorem readHeat_hub (temps : List (List Int)) (per : List Int) (s : State) : (readHeat temps per s).hub = s.hub := by
  grind [readHeat, State.onRegion_hub, State.onPower_hub, State.onBoot_hub, thermalTrip_hub, foldl_hub]
theorem lowerFor_hub (mv : Nat) (s : State) : (lowerFor mv s).hub = s.hub := by
  grind [lowerFor, State.onRegion_hub, foldl_hub]
theorem endLowering_hub (s : State) : (endLowering s).hub = s.hub := by
  simp [endLowering, dropLimits_hub, apply_ite State.hub]
theorem replan_hub (s : State) : (replan s).hub = s.hub := by
  simp [replan, State.onPower_hub, endLowering_hub]
theorem logAgeing_hub (rows : List Int) (regions : List Int) (s : State) : (logAgeing rows regions s).hub = s.hub := by
  simp [logAgeing, State.onPower_hub, apply_ite State.hub]
theorem measure_hub (rowCounts : List Nat) (regionCounts : List Nat) (s : State) : (measure rowCounts regionCounts s).hub = s.hub := by
  grind [measure, State.onRegion_hub, State.onPower_hub, logAgeing_hub, replan_hub, stepTrims_hub, foldl_hub]
theorem addHours_hub (hours : Nat) (s : State) : (addHours hours s).hub = s.hub := by rfl
theorem patrol_hub (a : Nat) (s : State) : (patrol a s).hub = s.hub := by
  simp [patrol, openRow_hub, raiseRec_hub, State.onBulk_hub, apply_ite State.hub]
theorem settleFar_hub (port : Option Nat) (txn : Nat) (v : MemReq → MemRes) (s : State) :
    (settleFar port txn v s).hub = s.hub := by
  simp only [settleFar]
  (repeat' split) <;> simp_all [onMesh_hub]
theorem foreign_hub (p : Nat) (q : Packet) (s : State) : (foreign p q s).hub = s.hub := by rfl
theorem landSegment_hub (p : Nat) (q : Packet) (s : State) : (landSegment p q s).hub = s.hub := by
  rfl
theorem prepareRead_hub (idx : Nat) (sub : Nat) (s : State) : (prepareRead idx sub s).hub = s.hub := by
  simp [prepareRead, foldTile_hub, apply_ite State.hub]
theorem applyStaged_hub (sub : BitVec 8) (s : State) : (applyStaged sub s).hub = s.hub := by
  simp only [applyStaged]
  (repeat' split) <;> simp_all [State.onMgmt_hub]
theorem deliver_hub (a : IdpAns) (s : State) : (deliver a s).hub = s.hub := by
  simp only [deliver]
  (repeat' split) <;> simp_all [State.onMgmt_hub, applyStaged_hub, raiseCause_hub, State.onFn_hub]
theorem remember_hub (a : IdpAns) (s : State) : (remember a s).hub = s.hub := by rfl
theorem refuseBar0_hub (f : FnId) (o : Nat) (s : State) : (refuseBar0 f o s).hub = s.hub := by
  simp [refuseBar0, refuseHost_hub, apply_ite State.hub]
theorem writeMask_hub (f : Nat) (v : Word) (s : State) : (writeMask f v s).hub = s.hub := by
  simp [writeMask, State.onFn_hub, signalMsi_hub, foldl_hub, apply_ite State.hub]
theorem writeMsix_hub (f : Nat) (i : Nat) (high : Bool) (v : Word) (s : State) : (writeMsix f i high v s).hub = s.hub := by
  simp [writeMsix, State.onFn_hub, signalMsi_hub, apply_ite State.hub]
theorem installEntry_hub (f : FnId) (slot : Nat) (low : Word) (s : State) : (installEntry f slot low s).hub = s.hub := by
  simp only [installEntry]
  (repeat' split) <;> simp_all [refuseBar0_hub, State.onPart_hub]
theorem stageEntry_hub (f : FnId) (slot : Nat) (high : Word) (s : State) : (stageEntry f slot high s).hub = s.hub := by
  simp only [stageEntry]
  (repeat' split) <;> simp_all [refuseBar0_hub, State.onPart_hub]
theorem bistSteps_hub (si : Silicon) (s : State) : (bistSteps si s).hub = s.hub := by
  grind [bistSteps, State.onBoot_hub, State.onBulk_hub, State.onRegion_hub, State.onPort_hub, foldl_hub]
theorem powerSteps_hub (si : Silicon) (s : State) : (powerSteps si s).hub = s.hub := by
  grind [powerSteps, readHeat_hub, State.onRegion_hub, publishBeats_hub, measure_hub, sendSetpoint_hub, foldl_hub]
theorem State.withFetchWord_hub (s : State) (nbits : Nat) (w : Nat) : (State.withFetchWord s nbits w).hub = s.hub := by
  rfl

end Sys2Proof.Machine
end

