-- ==== Sys2Proof/Laws/TileFrames.lean ====
section
/-! SUPPORT. Tile frames: the operations of the machine that change no tile leave `State.tiles` as it was, one
lemma each, named after the operation. -/

namespace Sys2Proof.Machine

/-- A fold of an operation that leaves the tiles leaves the tiles. -/
theorem foldl_tiles {α : Type} (g : State → α → State) (l : List α) (h : ∀ s x, (g s x).tiles = s.tiles) (s : State) :
    (l.foldl g s).tiles = s.tiles := by
  induction l generalizing s with
  | nil => rfl
  | cons x l ih => rw [List.foldl_cons, ih, h]

theorem drawFree_tiles (w : Nat) (s : State) : (drawFree w s).2.tiles = s.tiles := by rfl
theorem drawBytes_tiles (n : Nat) (s : State) : (drawBytes n s).2.tiles = s.tiles := by rfl
theorem State.poke_tiles (s : State) (a : Nat) (bs : Bytes) : (State.poke s a bs).tiles = s.tiles := by rfl
theorem markBad_tiles (a : Nat) (s : State) : (markBad a s).tiles = s.tiles := by rfl
theorem clearSram_tiles (t : Nat) (s : State) : (clearSram t s).tiles = s.tiles := by rfl
theorem raiseRec_tiles (r : Rec) (s : State) : (raiseRec r s).tiles = s.tiles := by
  simp [raiseRec, State.onBlot_tiles, State.onNet_tiles, apply_ite State.tiles]
theorem serveSem_tiles (n : Nat) (s : State) : (serveSem n s).tiles = s.tiles := by rfl
theorem leaveHub_tiles (t : Nat) (c : Nat) (s : State) : (leaveHub t c s).tiles = s.tiles := by
  simp only [leaveHub]
  (repeat' split) <;> simp_all [State.onHub_tiles, serveSem_tiles, State.onSem_tiles]
theorem signalMsi_tiles (k : Nat) (i : Nat) (s : State) : (signalMsi k i s).tiles = s.tiles := by
  simp [signalMsi, State.onFn_tiles, State.onOut_tiles, apply_ite State.tiles]
theorem raiseCause_tiles (k : Nat) (i : Nat) (s : State) : (raiseCause k i s).tiles = s.tiles := by
  simp [raiseCause, State.onFn_tiles, signalMsi_tiles, apply_ite State.tiles]
theorem causePart_tiles (n : Nat) (i : Nat) (s : State) : (causePart n i s).tiles = s.tiles := by
  simp [causePart, raiseCause_tiles, foldl_tiles]
theorem causeAll_tiles (i : Nat) (s : State) : (causeAll i s).tiles = s.tiles := by
  simp [causeAll, raiseCause_tiles, foldl_tiles]
theorem setDevState_tiles (st : Nat) (s : State) : (setDevState st s).tiles = s.tiles := by
  simp [setDevState, causeAll_tiles, State.onBoot_tiles, apply_ite State.tiles]
theorem onMesh_tiles (leg : Option (Node × Node)) (f : Sent → Net → Net) (s : State) : (onMesh leg f s).tiles = s.tiles := by
  rfl
theorem newIdle_tiles (s : State) : (newIdle s).tiles = s.tiles := by rfl
theorem settleDevState_tiles (s : State) : (settleDevState s).tiles = s.tiles := by
  simp [settleDevState, setDevState_tiles, apply_ite State.tiles]
theorem endLoadRequest_tiles (n : Nat) (st : Nat) (s : State) : (endLoadRequest n st s).tiles = s.tiles := by rfl
theorem setLoad_tiles (n : Nat) (st : Nat) (s : State) : (setLoad n st s).tiles = s.tiles := by
  simp [setLoad, endLoadRequest_tiles, State.onPart_tiles, settleDevState_tiles, causePart_tiles, newIdle_tiles, apply_ite State.tiles]
theorem openRow_tiles (a : Nat) (s : State) : (openRow a s).tiles = s.tiles := by rfl
theorem openGranule_tiles (g : Nat) (s : State) : (openGranule g s).tiles = s.tiles := by rfl
theorem scrubGranule_tiles (g : Nat) (s : State) : (scrubGranule g s).tiles = s.tiles := by rfl
theorem unscrub_tiles (lo : Nat) (hi : Nat) (s : State) : (unscrub lo hi s).tiles = s.tiles := by rfl
theorem rekey_tiles (lo : Nat) (hi : Nat) (key : BitVec 512) (s : State) : (rekey lo hi key s).tiles = s.tiles := by
  rfl
theorem settleLine_tiles (l : Nat) (s : State) : (settleLine l s).tiles = s.tiles := by
  simp [settleLine, State.onBulk_tiles, State.poke_tiles, apply_ite State.tiles]
theorem bulkReadLine_tiles (l : Nat) (s : State) : (bulkReadLine l s).2.tiles = s.tiles := by
  simp only [bulkReadLine]
  (repeat' split) <;> simp_all [openRow_tiles, State.onBulk_tiles]
theorem bulkPut_tiles (a : Nat) (bs : Bytes) (s : State) : (bulkPut a bs s).tiles = s.tiles := by
  simp [bulkPut, scrubGranule_tiles, openRow_tiles, settleLine_tiles, State.onBulk_tiles, State.poke_tiles, apply_ite State.tiles]
theorem bulkWrite_tiles (a : Nat) (bs : Bytes) (s : State) : (bulkWrite a bs s).2.tiles = s.tiles := by
  simp only [bulkWrite]
  (repeat' split) <;> simp_all [State.onBulk_tiles, openRow_tiles, bulkPut_tiles]
theorem writeBack_tiles (x : CLine) (s : State) : (writeBack x s).tiles = s.tiles := by
  simp [writeBack, bulkPut_tiles, apply_ite State.tiles]
theorem allocate_tiles (r : Nat) (l : Nat) (set : Nat) (data : Bytes) (dirty : Bool) (s : State) : (allocate r l set data dirty s).2.tiles = s.tiles := by
  simp only [allocate]
  (repeat' split) <;> simp_all [State.onRc_tiles, writeBack_tiles]
theorem countRc_tiles (r : Nat) (hit : Bool) (s : State) : (countRc r hit s).tiles = s.tiles := by rfl
theorem homeRead_tiles (n : Nat) (a : Nat) (len : Nat) (alloc : Bool) (s : State) : (homeRead n a len alloc s).2.tiles = s.tiles := by
  grind [homeRead, bulkReadLine_tiles, countRc_tiles, State.onRc_tiles, allocate_tiles, foldl_tiles]
theorem homeWrite_tiles (n : Nat) (a : Nat) (bs : Bytes) (alloc : Bool) (s : State) : (homeWrite n a bs alloc s).2.tiles = s.tiles := by
  grind [homeWrite, bulkWrite_tiles, countRc_tiles, State.onRc_tiles, allocate_tiles, bulkReadLine_tiles, foldl_tiles]
theorem scanSets_tiles (op : RcOp) (r : Nat) (lo : Nat) (hi : Nat) (s : State) : (scanSets op r lo hi s).tiles = s.tiles := by
  simp [scanSets, writeBack_tiles, State.onRc_tiles, foldl_tiles, apply_ite State.tiles]
theorem scanOn_tiles (r : Nat) (s : State) : (scanOn r s).tiles = s.tiles := by
  simp only [scanOn]
  (repeat' split) <;> simp_all [drawFree_tiles, State.onRc_tiles, scanSets_tiles]
theorem scanEnd_tiles (r : Nat) (s : State) : (scanEnd r s).tiles = s.tiles := by
  simp only [scanEnd]
  (repeat' split) <;> simp_all [State.onRc_tiles, scanSets_tiles]
theorem invalSlice_tiles (r : Nat) (s : State) : (invalSlice r s).tiles = s.tiles := by
  simp [invalSlice, scanSets_tiles]
theorem zeroSlice_tiles (r : Nat) (s : State) : (zeroSlice r s).tiles = s.tiles := by rfl
theorem emptyWays_tiles (r : Nat) (p : Nat → Bool) (s : State) : (emptyWays r p s).tiles = s.tiles := by
  simp [emptyWays, State.onRc_tiles, writeBack_tiles, foldl_tiles]
theorem correctRc_tiles (r : Nat) (s : State) : (correctRc r s).tiles = s.tiles := by rfl
theorem strikeLine_tiles (a : Nat) (s : State) : (strikeLine a s).tiles = s.tiles := by
  grind [strikeLine, raiseRec_tiles, State.onRc_tiles, bulkReadLine_tiles, correctRc_tiles, foldl_tiles]
theorem strikeLineOne_tiles (a : Nat) (s : State) : (strikeLineOne a s).tiles = s.tiles := by
  simp [strikeLineOne, correctRc_tiles, apply_ite State.tiles]
theorem dropTrace_tiles (s : State) : (dropTrace s).tiles = s.tiles := by rfl
theorem stopTrace_tiles (s : State) : (stopTrace s).tiles = s.tiles := by
  simp [stopTrace, causeAll_tiles, State.onTrace_tiles]
theorem putTrace_tiles (bs : Bytes) (s : State) : (putTrace bs s).tiles = s.tiles := by
  grind [putTrace, dropTrace_tiles, homeWrite_tiles, State.onTrace_tiles, stopTrace_tiles, foldl_tiles]
theorem onTraceQ_tiles (r : Nat) (f : List Bytes → List Bytes) (s : State) : (onTraceQ r f s).tiles = s.tiles := by
  rfl
theorem noteLost_tiles (r : Nat) (s : State) : (noteLost r s).tiles = s.tiles := by
  simp [noteLost, onTraceQ_tiles, State.onRegion_tiles, apply_ite State.tiles]
theorem drainTrace_tiles (fuel r : Nat) (s : State) : (drainTrace fuel r s).tiles = s.tiles := by
  induction fuel generalizing s with
  | zero => rfl
  | succ n ih =>
    unfold drainTrace
    split
    · rfl
    · split
      · rfl
      · rw [ih, noteLost_tiles, putTrace_tiles, onTraceQ_tiles]
theorem drainTraces_tiles (s : State) : (drainTraces s).tiles = s.tiles := by
  grind [drainTraces, drainTrace_tiles, foldl_tiles]
theorem pushTrace_tiles (r : Nat) (bs : Bytes) (s : State) : (pushTrace r bs s).tiles = s.tiles := by
  simp [pushTrace, dropTrace_tiles, State.onRegion_tiles, drainTrace_tiles, onTraceQ_tiles, apply_ite State.tiles]
theorem traceTile_tiles (t : Nat) (kind : Nat) (ctx : Nat) (iaddr : Nat) (payload : Bytes) (s : State) :
    (traceTile t kind ctx iaddr payload s).tiles = s.tiles := by
  simp [traceTile, pushTrace_tiles, apply_ite State.tiles]
theorem traceHub_tiles (r n kind : Nat) (payload : Bytes) (s : State) : (traceHub r n kind payload s).tiles = s.tiles := by
  simp [traceHub, pushTrace_tiles, apply_ite State.tiles]
theorem triggerTrace_tiles (s : State) : (triggerTrace s).tiles = s.tiles := by
  simp only [triggerTrace]
  (repeat' split) <;> simp_all [State.onTrace_tiles, stopTrace_tiles]
theorem mapReqs_tiles (f : MemReq → MemReq) (s : State) : (mapReqs f s).tiles = s.tiles := by rfl
theorem drain_tiles (p : Nat) (s : State) : (drain p s).tiles = s.tiles := by rfl
theorem enqueue_tiles (p : Nat) (k : Nat) (q : Packet) (s : State) : (enqueue p k q s).tiles = s.tiles := by rfl
theorem holdSys_tiles (f : Nat) (q : Packet) (s : State) : (holdSys f q s).tiles = s.tiles := by
  rfl
theorem sendOut_tiles (f : Nat) (dl : Bool) (q : Packet) (s : State) : ∀ r, (sendOut f dl q s) = some r → r.tiles = s.tiles := by
  simp only [sendOut]
  (repeat' split) <;> simp_all [enqueue_tiles, holdSys_tiles]
theorem freeLines_tiles (p : Nat) (k : Nat) (n : Nat) (s : State) : (freeLines p k n s).tiles = s.tiles := by rfl
theorem routeOut_tiles (dim : Option Nat) (q : Packet) (s : State) : ∀ r, (routeOut dim q s) = .ok r → r.tiles = s.tiles := by
  grind [routeOut, sendOut_tiles, foldl_tiles]
theorem originate_tiles (q : Packet) (s : State) : ∀ r, (originate q s) = .ok r → r.tiles = s.tiles := by
  grind [originate, routeOut_tiles, foldl_tiles]
theorem updateLevel_tiles (s : State) : (updateLevel s).tiles = s.tiles := by
  simp [updateLevel, State.onBoot_tiles, causeAll_tiles, raiseRec_tiles, apply_ite State.tiles]
theorem failHost_tiles (p : HostReq → Bool) (s : State) : (failHost p s).tiles = s.tiles := by rfl
theorem dropPosted_tiles (p : Posted → Bool) (s : State) : (dropPosted p s).tiles = s.tiles := by rfl
theorem leavePosted_tiles (k : Nat) (s : State) : (leavePosted k s).tiles = s.tiles := by rfl
theorem dropHeld_tiles (p : Nat → Bool) (s : State) : (dropHeld p s).tiles = s.tiles := by
  rfl
theorem resetFn_tiles (f : Nat) (s : State) : (resetFn f s).tiles = s.tiles := by
  simp [resetFn, State.onFn_tiles, State.onMgmt_tiles, State.onPart_tiles, dropHeld_tiles, dropPosted_tiles, failHost_tiles, apply_ite State.tiles]
theorem resetVfs_tiles (s : State) : (resetVfs s).tiles = s.tiles := by
  simp [resetVfs, State.onPcie_tiles, resetFn_tiles]
theorem resetFns_tiles (s : State) : (resetFns s).tiles = s.tiles := by
  simp [resetFns, resetVfs_tiles, resetFn_tiles]
theorem linkDown_tiles (s : State) : (linkDown s).tiles = s.tiles := by rfl
theorem readShared_tiles (a : Nat) (n : Nat) (s : State) : (readShared a n s).2.tiles = s.tiles := by
  simp only [readShared]
  (repeat' split) <;> simp_all [drawBytes_tiles]
theorem answerHub_tiles (o : HubOp) (v : Option Word) (s : State) : (answerHub o v s).tiles = s.tiles := by rfl
theorem putGf_tiles (obj : Nat) (b : Bool) (s : State) : (putGf obj b s).tiles = s.tiles := by
  simp [putGf, State.onHub_tiles, answerHub_tiles, foldl_tiles]
theorem pulseNear_tiles (s : State) : (pulseNear s).2.tiles = s.tiles := by
  simp only [pulseNear]
  (repeat' split) <;> simp_all [drawFree_tiles]
theorem eventPulse_tiles (b : Nat) (s : State) : (eventPulse b s).tiles = s.tiles := by
  grind [eventPulse, State.onOut_tiles, State.onTrace_tiles, pulseNear_tiles, foldl_tiles]
theorem sendSetpoint_tiles (mv : Nat) (s : State) : (sendSetpoint mv s).tiles = s.tiles := by rfl
theorem stepTrims_tiles (s : State) : (stepTrims s).tiles = s.tiles := by
  grind [stepTrims, State.onTime_tiles, State.onRegion_tiles, foldl_tiles]
theorem signalRelease_tiles (n : Nat) (b : Nat) (s : State) : (signalRelease n b s).tiles = s.tiles := by
  grind [signalRelease, State.onRegion_tiles, stepTrims_tiles, newIdle_tiles, State.onTime_tiles, State.onPart_tiles, foldl_tiles]
theorem epochStep_tiles (b : Nat) (s : State) : (epochStep b s).tiles = s.tiles := by
  simp [epochStep, State.onBar_tiles, signalRelease_tiles, eventPulse_tiles, apply_ite State.tiles]
theorem countRow_tiles (b : Nat) (y : Nat) (s : State) : (countRow b y s).tiles = s.tiles := by
  simp [countRow, State.onBar_tiles, State.onNet_tiles, epochStep_tiles, apply_ite State.tiles]
theorem discardSys_tiles (port : Option Nat) (s : State) : (discardSys port s).tiles = s.tiles := by
  simp only [discardSys]
  (repeat' split) <;> simp_all [State.onPort_tiles]
theorem countRoot_tiles (b : Nat) (k : Nat) (s : State) : (countRoot b k s).tiles = s.tiles := by
  simp only [countRoot]
  (repeat' split) <;> simp_all [State.onBar_tiles, State.onPart_tiles, State.onNet_tiles]
theorem Desc.putRaw_tiles (d : Desc) (i0 : Nat) (i1 : Nat) (i2 : Nat) (raws : List Nat) (s : State) : (Desc.putRaw d i0 i1 i2 raws s).tiles = s.tiles := by
  rfl
theorem marker_tiles (t : Nat) (c : Nat) (f : Nat) (s : State) : (marker t c f s).tiles = s.tiles := by
  simp [marker, traceTile_tiles, apply_ite State.tiles]
theorem onRd_tiles (p : Nat) (n : Nat) (f : RdCtx → RdCtx) (s : State) : (onRd p n f s).tiles = s.tiles := by rfl
theorem rdPost_tiles (p : Nat) (n : Nat) (s : State) : ∀ r, (rdPost p n s) = .ok r → r.tiles = s.tiles := by
  grind [rdPost, onRd_tiles, foldl_tiles]
theorem markNf_tiles (k : Ring) (nf : Bool) (s : State) : (markNf k nf s).tiles = s.tiles := by
  simp [markNf, State.onPart_tiles, onRd_tiles, apply_ite State.tiles]
theorem freeRing_tiles (p : Nat) (q : Packet) (s : State) : (freeRing p q s).tiles = s.tiles := by
  simp [freeRing, freeLines_tiles, apply_ite State.tiles]
theorem putGfs_tiles (n : Nat) (v : Word) (b : Bool) (s : State) : (putGfs n v b s).tiles = s.tiles := by
  simp [putGfs, putGf_tiles, foldl_tiles, apply_ite State.tiles]
theorem semWrite_tiles (n : Nat) (v : Word) (s : State) : (semWrite n v s).tiles = s.tiles := by rfl
theorem startRc_tiles (r : Nat) (op : RcOp) (s : State) : (startRc r op s).tiles = s.tiles := by rfl
theorem writeRcBlock_tiles (w : Writer) (o : Nat) (v : Word) (s : State) : ∀ r, (writeRcBlock w o v s) = .ok r → r.tiles = s.tiles := by
  grind [writeRcBlock, startRc_tiles, foldl_tiles]
theorem clearRdnf_tiles (w : Writer) (v : Word) (s : State) : ∀ r, (clearRdnf w v s) = .ok r → r.tiles = s.tiles := by
  grind [clearRdnf, State.onPart_tiles, foldl_tiles]
theorem writeBsBlock_tiles (w : Writer) (o : Nat) (s : State) : ∀ r, (writeBsBlock w o s) = .ok r → r.tiles = s.tiles := by
  intro r h
  simp only [writeBsBlock] at h
  (repeat' split at h) <;> simp_all
theorem onPool_tiles (r : Nat) (f : Pool → Pool) (s : State) : (onPool r f s).tiles = s.tiles := by rfl
theorem devReadAt_tiles (w : Writer) (o : Nat) (s : State) : (devReadAt w o s).2.tiles = s.tiles := by
  simp [devReadAt, scanOn_tiles, apply_ite State.tiles]
theorem noteBulk_tiles (nib : Option Nat) (code : Nat) (a : Nat) (n : Nat) (s : State) : (noteBulk nib code a n s).tiles = s.tiles := by
  simp only [noteBulk]
  (repeat' split) <;> simp_all [raiseRec_tiles]
theorem setClaims_tiles (r : Nat) (n : Nat) (ph : PhaseRec) (s : State) : (setClaims r n ph s).tiles = s.tiles := by
  rfl
theorem waitPool_tiles (r : Nat) (s : State) : (waitPool r s).tiles = s.tiles := by rfl
theorem onCommit_tiles (n : Nat) (f : CommitSt → CommitSt) (s : State) : (onCommit n f s).tiles = s.tiles := by rfl
theorem biasValue_tiles (rule : BitVec 3) (beta : BitVec 32) (t : Word) (s : State) : (biasValue rule beta t s).2.tiles = s.tiles := by
  simp only [biasValue]
  (repeat' split) <;> simp_all [drawFree_tiles]
theorem growScale_tiles (d : Commit) (c : CommitSt) (s : State) : (growScale d c s).2.2.tiles = s.tiles := by
  simp only [growScale]
  (repeat' split) <;> simp_all [drawFree_tiles]
theorem traceStart_tiles (t : Nat) (q : StartReq) (tokens : Nat) (s : State) : (traceStart t q tokens s).tiles = s.tiles := by
  simp [traceStart, traceTile_tiles]
theorem traceDone_tiles (t : Nat) (q : StartReq) (beats : Nat) (progress : Nat) (s : State) : (traceDone t q beats progress s).tiles = s.tiles := by
  simp [traceDone, traceTile_tiles]
theorem readFor_tiles (q : StartReq) (a : Nat) (n : Nat) (s : State) : (readFor q a n s).2.tiles = s.tiles := by
  simp only [readFor]
  (repeat' split) <;> simp_all [drawBytes_tiles]
theorem readList_tiles (q : StartReq) (s : State) : (readList q s).2.tiles = s.tiles := by
  simp only [readList]
  (repeat' split) <;> simp_all [drawBytes_tiles, readFor_tiles]
theorem traceDoneFree_tiles (t : Nat) (q : StartReq) (progress : Nat) (s : State) : (traceDoneFree t q progress s).tiles = s.tiles := by
  simp [traceDoneFree, drawFree_tiles, traceDone_tiles]
theorem blurOverlaps_tiles (t : Nat) (l : RunList) (j : Nat) (s : State) : (blurOverlaps t l j s).tiles = s.tiles := by
  simp [blurOverlaps, drawBytes_tiles, State.poke_tiles, foldl_tiles]
theorem noteForeign_tiles (r : MemReq) (v : MemRes) (s : State) : (noteForeign r v s).tiles = s.tiles := by
  simp only [noteForeign]
  (repeat' split) <;> simp_all [raiseRec_tiles]
theorem joinFill_tiles (r : MemReq) (s : State) : (joinFill r s).tiles = s.tiles := by rfl
theorem hostAnswer_tiles (ok : Bool) (d : Bytes) (s : State) : (hostAnswer ok d s).tiles = s.tiles := by rfl
theorem refuseHost_tiles (h : HostHdr) (s : State) : (refuseHost h s).tiles = s.tiles := by
  simp [refuseHost, State.onPcie_tiles, hostAnswer_tiles, apply_ite State.tiles]
theorem allocPieces_tiles (l : List (Nat × Nat)) (s : State) : (allocPieces l s).2.tiles = s.tiles := by
  induction l generalizing s with
  | nil => rfl
  | cons p ps ih => grind [allocPieces, homeRead_tiles]
theorem bulkFor_tiles (q : StartReq) (a n : Nat) (s : State) : (bulkFor q a n s).2.tiles = s.tiles := by
  have h := allocPieces_tiles (hostPieces a n) s
  unfold bulkFor
  split
  · rfl
  · split <;> simp_all [apply_ite State.tiles, apply_ite Prod.snd, drawBytes_tiles]
theorem gatherList_tiles (t : Nat) (q : StartReq) (s : State) : (gatherList t q s).2.tiles = s.tiles := by
  grind [gatherList, bulkFor_tiles, readFor_tiles, drawBytes_tiles]
theorem onBranch_tiles (b : Option RegionId) (f : EnlBranch → EnlBranch) (s : State) : (onBranch b f s).tiles = s.tiles := by
  simp only [onBranch]
  (repeat' split) <;> simp_all [State.onRegion_tiles, State.onDev_tiles]
theorem enlLine_tiles (q : EnlReq) (k : Nat) (s : State) : (enlLine q k s).2.tiles = s.tiles := by
  grind [enlLine, drawBytes_tiles, homeRead_tiles, foldl_tiles]
theorem countLines_tiles (q : EnlReq) (s : State) : (countLines q s).tiles = s.tiles := by
  grind [countLines, State.onRegion_tiles, foldl_tiles]
theorem sendMsg_tiles (t : Nat) (m : SendSlot) (k : Nat) (data : Bytes) (s : State) : ∀ r, (sendMsg t m k data s) = .ok r → r.tiles = s.tiles := by
  grind [sendMsg, onMesh_tiles, originate_tiles, foldl_tiles]
theorem traceMsg_tiles (t : Nat) (m : SendSlot) (out : Nat) (s : State) : (traceMsg t m out s).tiles = s.tiles := by
  simp [traceMsg, traceTile_tiles]
theorem clearBand_tiles (n : Nat) (s : State) : (clearBand n s).tiles = s.tiles := by rfl
theorem installSync_tiles (p : Plate) (s : State) : (installSync p s).tiles = s.tiles := by
  grind [installSync, State.onHub_tiles, State.onSem_tiles, State.onBar_tiles, foldl_tiles]
theorem beginDeclarations_tiles (p : Plate) (s : State) : (beginDeclarations p s).tiles = s.tiles := by
  grind [beginDeclarations, State.onPart_tiles, State.onRegion_tiles, foldl_tiles]
theorem noteSuspect_tiles (r : Rec) (s : State) : (noteSuspect r s).tiles = s.tiles := by
  simp [noteSuspect, State.onBoot_tiles, apply_ite State.tiles]
theorem storeRec_tiles (r : Rec) (s : State) : (storeRec r s).tiles = s.tiles := by rfl
theorem traceFault_tiles (r : Rec) (s : State) : (traceFault r s).tiles = s.tiles := by
  simp [traceFault, pushTrace_tiles, apply_ite State.tiles]
theorem clearBlotter_tiles (s : State) : (clearBlotter s).tiles = s.tiles := by rfl
theorem tornRec_tiles (t : Nat) (src : Nat) (c : Nat) (iaddr : BitVec 32) (daddr : Nat) (progress : Nat) (s : State) : (tornRec t src c iaddr daddr progress s).tiles = s.tiles := by
  simp [tornRec, raiseRec_tiles, apply_ite State.tiles]
theorem windowAnswer_tiles (p : DbgPath) (s : State) : (windowAnswer p s).tiles = s.tiles := by
  simp only [windowAnswer]
  (repeat' split) <;> simp_all [hostAnswer_tiles]
theorem releaseTraceWays_tiles (s : State) : (releaseTraceWays s).tiles = s.tiles := by
  simp [releaseTraceWays, State.onRc_tiles, emptyWays_tiles, foldl_tiles]
theorem reserveTraceWays_tiles (s : State) : (reserveTraceWays s).tiles = s.tiles := by
  simp [reserveTraceWays, State.onRc_tiles, emptyWays_tiles, foldl_tiles]
theorem emptyTraceQs_tiles (s : State) : (emptyTraceQs s).tiles = s.tiles := by
  grind [emptyTraceQs, State.onRegion_tiles, foldl_tiles]
theorem traceOff_tiles (s : State) : (traceOff s).tiles = s.tiles := by
  simp [traceOff, State.onTrace_tiles, drainTraces_tiles, emptyTraceQs_tiles, releaseTraceWays_tiles]
theorem traceOn_tiles (s : State) : ∀ r, (traceOn s) = some r → r.tiles = s.tiles := by
  simp [traceOn, State.onTrace_tiles, emptyTraceQs_tiles, releaseTraceWays_tiles, reserveTraceWays_tiles, apply_ite State.tiles]
theorem settleBars_tiles (l : List Nat) (s : State) : (settleBars l s).tiles = s.tiles := by
  grind [settleBars, State.onBar_tiles, foldl_tiles]
theorem enforce_tiles (g : Staged) (s : State) : (enforce g s).tiles = s.tiles := by
  grind [enforce, State.onHub_tiles, State.onPart_tiles, invalSlice_tiles, settleBars_tiles, foldl_tiles]
theorem applyTable_tiles (s : State) : (applyTable s).2.tiles = s.tiles := by
  grind [applyTable, State.onStaged_tiles, enforce_tiles, foldl_tiles]
theorem endUnlock_tiles (n : Nat) (s : State) : (endUnlock n s).tiles = s.tiles := by rfl
theorem onTenant_tiles (n : Nat) (f : Tenant → Tenant) (s : State) : (onTenant n f s).tiles = s.tiles := by rfl
theorem newKey_tiles (s : State) : (newKey s).2.tiles = s.tiles := by rfl
theorem freshObjects_tiles (n : Nat) (s : State) : (freshObjects n s).tiles = s.tiles := by rfl
theorem writeSlot_tiles (off : Nat) (d : Bytes) (s : State) : (writeSlot off d s).tiles = s.tiles := by rfl
theorem verifySlot_tiles (s : State) : (verifySlot s).2.tiles = s.tiles := by rfl
theorem makeChallenge_tiles (scope : Byte) (s : State) : (makeChallenge scope s).tiles = s.tiles := by
  simp [makeChallenge, drawFree_tiles, State.onSec_tiles]
theorem failResponse_tiles (s : State) : (failResponse s).tiles = s.tiles := by rfl
theorem answerChallenge_tiles (sig : Bytes) (s : State) : (answerChallenge sig s).2.tiles = s.tiles := by
  simp only [answerChallenge]
  (repeat' split) <;> simp_all [failResponse_tiles, State.onSec_tiles]
theorem relockAll_tiles (s : State) : (relockAll s).tiles = s.tiles := by rfl
theorem spdmAnswer_tiles (f : Nat) (st : Nat) (d : Bytes) (s : State) : (spdmAnswer f st d s).tiles = s.tiles := by
  rfl
theorem startDump_tiles (s : State) : (startDump s).tiles = s.tiles := by
  simp [startDump, State.onHub_tiles, apply_ite State.tiles]
theorem captureRegion_tiles (r : Nat) (s : State) : (captureRegion r s).tiles = s.tiles := by
  rfl
theorem dumpReady_tiles (s : State) : (dumpReady s).tiles = s.tiles := by
  simp [dumpReady, State.onHub_tiles, apply_ite State.tiles]
theorem serveDump_tiles (r : Nat) (s : State) : (serveDump r s).tiles = s.tiles := by
  simp [serveDump, captureRegion_tiles, dumpReady_tiles, apply_ite State.tiles]
theorem endDump_tiles (s : State) : (endDump s).tiles = s.tiles := by
  simp [endDump, foldl_tiles, serveDump_tiles, apply_ite State.tiles]
theorem passPower_tiles (ns : Nat) (s : State) : (passPower ns s).tiles = s.tiles := by
  grind [passPower, State.onPower_tiles, State.onRegion_tiles, foldl_tiles]
theorem advanceTime_tiles (ns : Nat) (s : State) : (advanceTime ns s).tiles = s.tiles := by
  simp [advanceTime, passPower_tiles, State.onTime_tiles]
theorem dropLimits_tiles (s : State) : (dropLimits s).tiles = s.tiles := by
  grind [dropLimits, State.onRegion_tiles, foldl_tiles]
theorem publishBeats_tiles (beats : List Nat) (hops : List Nat) (s : State) : (publishBeats beats hops s).tiles = s.tiles := by
  grind [publishBeats, State.onRegion_tiles, State.onTime_tiles, dropLimits_tiles, foldl_tiles]
theorem publishPools_tiles (s : State) : (publishPools s).tiles = s.tiles := by
  grind [publishPools, State.onRegion_tiles, foldl_tiles]
theorem cutLink_tiles (s : State) : (cutLink s).tiles = s.tiles := by
  rfl
theorem thermalTrip_tiles (at' : Nat) (s : State) : (thermalTrip at' s).tiles = s.tiles := by
  simp [thermalTrip, State.onBoot_tiles, State.onPower_tiles, cutLink_tiles, raiseRec_tiles, setDevState_tiles, updateLevel_tiles]
theorem readHeat_tiles (temps : List (List Int)) (per : List Int) (s : State) : (readHeat temps per s).tiles = s.tiles := by
  grind [readHeat, State.onRegion_tiles, State.onPower_tiles, State.onBoot_tiles, thermalTrip_tiles, foldl_tiles]
theorem lowerFor_tiles (mv : Nat) (s : State) : (lowerFor mv s).tiles = s.tiles := by
  grind [lowerFor, State.onRegion_tiles, foldl_tiles]
theorem endLowering_tiles (s : State) : (endLowering s).tiles = s.tiles := by
  simp [endLowering, dropLimits_tiles, apply_ite State.tiles]
theorem replan_tiles (s : State) : (replan s).tiles = s.tiles := by
  simp [replan, State.onPower_tiles, endLowering_tiles]
theorem logAgeing_tiles (rows : List Int) (regions : List Int) (s : State) : (logAgeing rows regions s).tiles = s.tiles := by
  simp [logAgeing, State.onPower_tiles, apply_ite State.tiles]
theorem measure_tiles (rowCounts : List Nat) (regionCounts : List Nat) (s : State) : (measure rowCounts regionCounts s).tiles = s.tiles := by
  grind [measure, State.onRegion_tiles, State.onPower_tiles, logAgeing_tiles, replan_tiles, stepTrims_tiles, foldl_tiles]
theorem addHours_tiles (hours : Nat) (s : State) : (addHours hours s).tiles = s.tiles := by rfl
theorem patrol_tiles (a : Nat) (s : State) : (patrol a s).tiles = s.tiles := by
  simp [patrol, openRow_tiles, raiseRec_tiles, State.onBulk_tiles, apply_ite State.tiles]
theorem settleFar_tiles (port : Option Nat) (txn : Nat) (v : MemReq → MemRes) (s : State) :
    (settleFar port txn v s).tiles = s.tiles := by
  simp only [settleFar]
  (repeat' split) <;> simp_all [onMesh_tiles]
theorem foreign_tiles (p : Nat) (q : Packet) (s : State) : (foreign p q s).tiles = s.tiles := by rfl
theorem landSegment_tiles (p : Nat) (q : Packet) (s : State) : (landSegment p q s).tiles = s.tiles := by
  rfl
theorem applyStaged_tiles (sub : BitVec 8) (s : State) : (applyStaged sub s).tiles = s.tiles := by
  simp only [applyStaged]
  (repeat' split) <;> simp_all [State.onMgmt_tiles]
theorem deliver_tiles (a : IdpAns) (s : State) : (deliver a s).tiles = s.tiles := by
  simp only [deliver]
  (repeat' split) <;> simp_all [State.onMgmt_tiles, applyStaged_tiles, raiseCause_tiles, State.onFn_tiles]
theorem remember_tiles (a : IdpAns) (s : State) : (remember a s).tiles = s.tiles := by rfl
theorem refuseBar0_tiles (f : FnId) (o : Nat) (s : State) : (refuseBar0 f o s).tiles = s.tiles := by
  simp [refuseBar0, refuseHost_tiles, apply_ite State.tiles]
theorem writeMask_tiles (f : Nat) (v : Word) (s : State) : (writeMask f v s).tiles = s.tiles := by
  simp [writeMask, State.onFn_tiles, signalMsi_tiles, foldl_tiles, apply_ite State.tiles]
theorem writeMsix_tiles (f : Nat) (i : Nat) (high : Bool) (v : Word) (s : State) : (writeMsix f i high v s).tiles = s.tiles := by
  simp [writeMsix, State.onFn_tiles, signalMsi_tiles, apply_ite State.tiles]
theorem installEntry_tiles (f : FnId) (slot : Nat) (low : Word) (s : State) : (installEntry f slot low s).tiles = s.tiles := by
  simp only [installEntry]
  (repeat' split) <;> simp_all [refuseBar0_tiles, State.onPart_tiles]
theorem stageEntry_tiles (f : FnId) (slot : Nat) (high : Word) (s : State) : (stageEntry f slot high s).tiles = s.tiles := by
  simp only [stageEntry]
  (repeat' split) <;> simp_all [refuseBar0_tiles, State.onPart_tiles]
theorem formP0_tiles (s : State) : (formP0 s).tiles = s.tiles := by
  simp only [formP0]
  (repeat' split) <;> simp_all [State.onPart_tiles, State.onHub_tiles]
theorem formPartitions_tiles (s : State) : (formPartitions s).tiles = s.tiles := by
  simp [formPartitions, formP0_tiles, enforce_tiles, apply_ite State.tiles]
theorem bistSteps_tiles (si : Silicon) (s : State) : (bistSteps si s).tiles = s.tiles := by
  grind [bistSteps, State.onBoot_tiles, State.onBulk_tiles, State.onRegion_tiles, State.onPort_tiles, foldl_tiles]
theorem powerSteps_tiles (si : Silicon) (s : State) : (powerSteps si s).tiles = s.tiles := by
  grind [powerSteps, readHeat_tiles, State.onRegion_tiles, publishBeats_tiles, measure_tiles, sendSetpoint_tiles, foldl_tiles]
theorem State.withFetchWord_tiles (s : State) (nbits : Nat) (w : Nat) : (State.withFetchWord s nbits w).tiles = s.tiles := by
  rfl

end Sys2Proof.Machine
end

