-- ==== Sys2Proof/Laws/Time.lean ====
section
/-!
SUPPORT. What the passing of time leaves as it is (02 R53, R56; 17 R465).
-/
namespace Sys2Proof.Machine

theorem foldl_dev {α : Type} (g : State → α → State) (h : ∀ s x, (g s x).dev = s.dev) (l : List α) (s : State) :
    (l.foldl g s).dev = s.dev := by
  induction l generalizing s with
  | nil => rfl
  | cons x l ih => rw [List.foldl_cons, ih, h]

theorem serveDump_dev (r : Nat) (s : State) : (serveDump r s).dev = s.dev := by
  unfold serveDump
  split
  · unfold dumpReady; split <;> rfl
  · rfl

theorem endDump_dev (s : State) : (endDump s).dev = s.dev := by
  simp only [endDump, apply_ite State.dev, foldl_dev _ (fun s r => serveDump_dev r s), ite_self]

theorem foldl_boot {α : Type} (g : State → α → State) (h : ∀ s x, (g s x).dev.boot = s.dev.boot) (l : List α) (s : State) :
    (l.foldl g s).dev.boot = s.dev.boot := by
  induction l generalizing s with
  | nil => rfl
  | cons x l ih => rw [List.foldl_cons, ih, h]

theorem advanceTime_boot (ns : Nat) (s : State) : (advanceTime ns s).dev.boot = s.dev.boot := by
  unfold advanceTime passPower
  refine (foldl_boot _ ?_ _ _).trans rfl
  intro s r
  rfl

/-- The state in which a window's counts are taken: time has moved, and what a window completes is complete. -/
def windowEnd (s : State) : State :=
  leavePosted (endDump (advanceTime 65536 s)).net.posted.length (endDump (advanceTime 65536 s))

theorem windowEnd_tiles (s : State) : (windowEnd s).tiles = s.tiles := by
  rw [windowEnd, leavePosted_tiles, endDump_tiles, advanceTime_tiles]

theorem windowEnd_boot (s : State) : (windowEnd s).dev.boot = s.dev.boot := by
  have : (windowEnd s).dev = (endDump (advanceTime 65536 s)).dev := rfl
  rw [this, endDump_dev, advanceTime_boot]

/-- What a publication does in a device that runs. -/
theorem execTbeatPublication_eq (b h : List Nat) (s : State) (hp : s.dev.boot.pwronN = true) (ht : s.dev.boot.trip = false) :
    execTbeatPublication b h s = .next (countBeats (publishBeats b h (windowEnd s))) := by
  have : execTbeatPublication b h s = .next (if (windowEnd s).dev.boot.pwronN && !(windowEnd s).dev.boot.trip then
      countBeats (publishBeats b h (windowEnd s)) else windowEnd s) := rfl
  rw [this, windowEnd_boot, hp, ht]
  rfl

/-- A publication changes nothing of a tile but its counters of beats. -/
theorem execTbeatPublication_tile (b h : List Nat) (s : State) (t : Nat) :
    SameButBeats (s.tile t) ((countBeats (publishBeats b h (windowEnd s))).tile t) := by
  have k := (countBeats_onlyBeats (publishBeats b h (windowEnd s))).2.1 t
  rwa [show (publishBeats b h (windowEnd s)).tile t = s.tile t by
    simp only [State.tile, publishBeats_tiles, windowEnd_tiles]] at k

end Sys2Proof.Machine
end

