-- ==== Sys2Proof/Machine/Package.lean ====
section
/-!
DEFINITION. What the device shows outside its commands: the TAP and the identities of the PCIe functions (18 R487, R488; 19
R508), and its package: balls, rails, clocks, pins, flash and heat (19 R525–R536). Lengths of time are in ns, voltages in µV,
currents in mA.
-/
namespace Sys2Proof.Machine

/-! ### The TAP (18 R487, R488) -/

/-- Instructions of the TAP. -/
inductive TapInstr where
  | bypass | idcode | samplePreload | extest | dbgacc
  deriving DecidableEq, Repr

/-- The instructions that the TAP offers: DBGACC after an unlock only. -/
def tapOffers (s : State) : List TapInstr := [.bypass, .idcode, .samplePreload, .extest] ++ (if s.dev.sec.unlock = 0 then [] else [.dbgacc])

/-- IDCODE: version, part, manufacturer and 1. -/
def idcode : BitVec 32 := 0x1#4 ++ 0x4608#16 ++ 0x5B3#11 ++ 1#1

/-- What Capture-DR of DBGACC returns after an access: DONE, ERR and the read data. -/
def captureDr (s : State) : BitVec 130 :=
  BitVec.ofNat 130 (1 + b2n (Map.get false s.dev.trace.dbgErr (dbgNum .jtag)) * 2
    + (Map.get 0#64 s.dev.trace.dbgData (dbgNum .jtag)).toNat * 2 ^ 66)

/-! ### Configuration space (19 R508) -/

/-- How configuration space names a function. -/
structure Identity where
  vendor : BitVec 16 := 0x1F6A
  device : BitVec 16
  revision : BitVec 8 := 0xB1
  cls : BitVec 24 := 0x120000
  subVendor : BitVec 16 := 0x1F6A
  subsystem : BitVec 16 := 0x0001
  totalVfs : Nat := 0
  initialVfs : Nat := 0
  firstOffset : Nat := 0
  stride : Nat := 0
  deriving DecidableEq, Repr

/-- The identity of function `f`; the SR-IOV fields are the physical function's. -/
def identity (f : FnId) : Identity :=
  if f.val = 0 then { device := 0x4608, totalVfs := 6, initialVfs := 6, firstOffset := 1, stride := 1 } else { device := 0x4609 }

/-- The routing number of function `f` beside the physical function's, with ARI (19 R508). -/
def fnOffset (f : FnId) : Nat := if f.val = 0 then 0 else (identity 0).firstOffset + (f.val - 1) * (identity 0).stride

/-- What the port can do beside the rate and the width that it trained (19 R507). -/
structure PcieCaps where
  generation : Nat := 6
  flitMode : Bool := true
  widths : List Nat := [16, 8, 4, 2, 1]
  laneReversal : Bool := true
  polarityInversion : Bool := true
  commonClock : Bool := true
  srns : Bool := true
  sris : Bool := false
  maxPayload : Nat := 512
  tagBits : Nat := 10
  nonPosted : Nat := maxNonPosted
  /-- Advanced error reporting, alternative routing, virtual functions, message interrupts and data objects. -/
  aer : Bool := true
  ari : Bool := true
  sriov : Bool := true
  msix : Bool := true
  doe : Bool := true
  /-- Address translation, page requests, PASIDs, access control, active-state power management, L1 substates and INTx. -/
  ats : Bool := false
  pri : Bool := false
  pasid : Bool := false
  acs : Bool := false
  aspm : Bool := false
  l1Substates : Bool := false
  intx : Bool := false
  deriving DecidableEq, Repr

/-- The capabilities of every function. -/
def capabilities : PcieCaps := {}

/-! ### Rails (19 R528–R531) -/

/-- The supply rails. -/
inductive Rail where
  | core | sram | ser09 | ser12 | vdd2h | vdd2l | vddq | io | aon
  deriving DecidableEq, Repr

/-- What a rail must meet at its balls: its range in µV, the current that the device draws at 350 W in mA, and the absolute
maximum in µV. Every absolute minimum is −0.3 V. -/
structure RailSpec where
  low : Nat
  high : Nat
  current : Nat
  absMax : Nat
  deriving DecidableEq, Repr

/-- The rails' requirements (19 R529). VDD_CORE's range is that of every setpoint with its transients. -/
def Rail.spec : Rail → RailSpec
  | .core => ⟨600000, 900000, 372000, 1000000⟩
  | .sram => ⟨727500, 772500, 10700, 900000⟩
  | .ser09 => ⟨873000, 927000, 31100, 1050000⟩
  | .ser12 => ⟨1164000, 1236000, 8300, 1400000⟩
  | .vdd2h => ⟨1010000, 1120000, 12400, 1300000⟩
  | .vdd2l => ⟨870000, 970000, 6700, 1200000⟩
  | .vddq => ⟨470000, 570000, 8000, 800000⟩
  | .io => ⟨1710000, 1890000, 830, 2100000⟩
  | .aon => ⟨776000, 824000, 630, 1000000⟩

/-- The absolute minimum of every rail, in µV. -/
def railAbsMin : Int := -300000

/-- Whether VDD_CORE stays in its range with a setpoint in mV and an error in µV: 30 mV at rest, 50 mV with transients (19
R529; 15 R420). -/
def coreOk (setpoint : Nat) (error : Int) (transient : Bool) : Bool :=
  let v : Int := 1000 * setpoint + error
  decide (650 ≤ setpoint) && decide (setpoint ≤ 850) && decide (error.natAbs ≤ if transient then 50000 else 30000)
    && decide ((Rail.spec .core).low ≤ v) && decide (v ≤ (Rail.spec .core).high)

/-- The order of power-up; rails of one step rise together (19 R531). -/
def powerUpOrder : List (List Rail) := [[.aon], [.io], [.vdd2h, .vdd2l], [.vddq], [.sram], [.core], [.ser09], [.ser12]]

/-- Whether a set of rails that are up is one that power-up and power-down pass through: whole steps from the first on, and a
part of the next one. -/
def railsLegal (up : Rail → Bool) : List (List Rail) → Bool
  | [] => true
  | g :: l => if g.all up then railsLegal up l else l.all (fun g => g.all (fun r => !up r))

/-- Whether only the always-on island is powered: it keeps its state and serves nothing (19 R531). -/
def islandOnly (up : Rail → Bool) : Bool := up .aon && powerUpOrder.flatten.all (fun r => r == .aon || !up r)

/-- How long a rail takes to rise. -/
def railRise : Nat × Nat := (100000, 10000000)

/-- PWRON_RST_N is low for this long before power-down starts. -/
def downAfter : Nat := 10000

/-! ### Balls (19 R525–R528) -/

/-- Which of a pair, and which way. -/
structure PairEnd where
  rx : Bool
  neg : Bool
  deriving DecidableEq, Repr

/-- What a ball carries. -/
inductive Ball where
  | signal (name : String)
  | link (port lane : Nat) (e : PairEnd)
  | pcie (lane : Nat) (e : PairEnd)
  | gnd
  | supply (r : Rail)
  | reserved
  deriving DecidableEq, Repr

/-- The letters of the rows, in order. -/
def rowLetters : String := "ABCDEFGHJKLMNPTUVWY"

/-- The name of row `r`, counted from 1: one letter, then A, B or C before it. -/
def rowName (r : Nat) : String :=
  let k := (r - 1) / 19
  let last := String.ofList ((rowLetters.toList.drop ((r - 1) % 19)).take 1)
  if k = 0 then last else String.ofList ((rowLetters.toList.drop (k - 1)).take 1) ++ last

/-- The edge depth of the ball at row `r` and column `c`. -/
def edgeDepth (r c : Nat) : Nat := min (min (r - 1) (72 - r)) (min (c - 1) (72 - c))

/-- Balls with a name of their own: row, column, signal (19 R526). -/
def namedBalls : List (Nat × Nat × String) :=
  [(1, 3, "T1S_P"), (1, 4, "T1S_N"), (3, 3, "REFCLK_TS"), (3, 5, "PWRON_RST_N"), (4, 3, "BOOT_SEL[0]"), (4, 5, "BOOT_SEL[1]"),
   (5, 3, "MGT_ID[0]"), (5, 5, "MGT_ID[1]"), (5, 7, "MGT_ID[2]"), (6, 3, "MGT_ID[3]"), (6, 5, "MGT_ID[4]")] ++
  [(2, 7, "FL_SCK"), (2, 9, "FL_CS_N"), (2, 11, "FL_DS"), (3, 7, "FL_IO[0]"), (3, 9, "FL_IO[1]"), (3, 11, "FL_IO[2]"),
   (4, 7, "FL_IO[3]"), (4, 9, "FL_IO[4]"), (4, 11, "FL_IO[5]"), (5, 9, "FL_IO[6]"), (5, 11, "FL_IO[7]")] ++
  [(7, 3, "TCK"), (7, 5, "TMS"), (7, 7, "TDI"), (8, 3, "TDO"), (8, 5, "TRST_N"), (9, 3, "THERM_TRIP_N"), (9, 5, "ALERT_N"),
   (9, 7, "EVENT"), (10, 3, "AVS_CLK"), (10, 5, "AVS_MDATA"), (10, 7, "AVS_SDATA")] ++
  [(1, 34, "REFCLK_LINK_P"), (1, 35, "REFCLK_LINK_N"), (72, 4, "REFCLK_PCIE_P"), (72, 5, "REFCLK_PCIE_N"), (72, 7, "PERST_N"),
   (36, 36, "VDD_CORE_SENSE_P"), (36, 37, "VDD_CORE_SENSE_N")]

/-- Whether a ball is left unconnected (19 R526). -/
def reservedBall (r c : Nat) : Bool :=
  ([1, 72].contains r && [1, 72].contains c) || (r == 9 && decide (20 ≤ c) && decide (c ≤ 31))

/-- A group of lanes along an edge, of a link port or of PCIe: its first lane at `b`, one every three balls, and the row or
column of its TX and of its RX. -/
structure LaneRun where
  port : Option Nat
  alongRow : Bool
  b : Nat
  first : Nat
  count : Nat
  tx : Nat
  rx : Nat
  deriving DecidableEq, Repr

/-- The lanes of the links and of PCIe (19 R527). -/
def laneRuns : List LaneRun :=
  [⟨some 3, false, 12, 0, 4, 2, 5⟩, ⟨some 5, false, 48, 0, 4, 2, 5⟩, ⟨some 2, false, 38, 0, 4, 71, 68⟩, ⟨some 4, false, 54, 0, 4, 71, 68⟩,
   ⟨some 1, true, 14, 0, 4, 2, 5⟩, ⟨some 7, true, 28, 0, 4, 2, 5⟩, ⟨some 0, true, 14, 0, 4, 71, 68⟩, ⟨some 6, true, 48, 0, 4, 71, 68⟩,
   ⟨none, false, 10, 0, 8, 71, 68⟩, ⟨none, true, 46, 8, 8, 2, 5⟩]

/-- The ball of a run at `along` its edge and `across` it: P, N, then GND. -/
def LaneRun.ball (g : LaneRun) (along across : Nat) : Option Ball :=
  let k := along - g.b
  if g.b ≤ along ∧ k < 3 * g.count ∧ (across = g.tx ∨ across = g.rx) then
    let e : PairEnd := ⟨decide (across = g.rx), decide (k % 3 = 1)⟩
    some (if k % 3 = 2 then .gnd else match g.port with
      | some p => .link p (g.first + k / 3) e
      | none => .pcie (g.first + k / 3) e)
  else none

/-- The rail of the zone that holds a supply ball (19 R528). -/
def zoneRail (r c : Nat) : Rail :=
  let d := edgeDepth r c
  if r ≤ 11 ∧ c ≤ 11 then (if r ≤ 5 then .aon else .io)
  else if d ≤ 1 then .ser12
  else if d ≤ 7 then .ser09
  else if d = 8 then .vddq
  else if d = 9 then .vdd2l
  else if d ≤ 11 then .vdd2h
  else if d ≤ 13 then .sram
  else .core

/-- What the ball at row `r` and column `c` carries, each from 1 to 72. -/
def ballAt (r c : Nat) : Ball :=
  if reservedBall r c then .reserved
  else match namedBalls.find? (fun x => x.1 == r && x.2.1 == c) with
    | some x => .signal x.2.2
    | none => match laneRuns.findSome? (fun g => if g.alongRow then g.ball r c else g.ball c r) with
      | some b => b
      | none => if (r + c) % 2 = 0 then .gnd else .supply (zoneRail r c)

/-! ### Single-ended pins (19 R530) -/

/-- The highest low input and the lowest high input of every single-ended input, in µV. -/
def inputLow : Nat := 630000
def inputHigh : Nat := 1170000

/-- The level that an input reads: unknown between the two thresholds. -/
def inputLevel (v : Nat) : Option Bool := if v ≤ inputLow then some false else if inputHigh ≤ v then some true else none

/-- The level that a pull gives an input that nothing drives: low for MGT_ID, BOOT_SEL and TRST_N, high for TMS and TDI. -/
def pulledTo (name : String) : Option Bool :=
  if ["TMS", "TDI"].contains name then some true
  else if ["TRST_N", "BOOT_SEL[0]", "BOOT_SEL[1]", "MGT_ID[0]", "MGT_ID[1]", "MGT_ID[2]", "MGT_ID[3]", "MGT_ID[4]"].contains name then some false
  else none

/-! ### Clocks and resets (19 R532, R533) -/

/-- A reference clock: its frequency in Hz, and its accuracy in ppm where the manual gives one. -/
structure ClockSpec where
  hz : Nat
  ppm : Option Nat
  deriving DecidableEq, Repr

/-- REFCLK_PCIE, REFCLK_LINK and REFCLK_TS. -/
def refclkPcie : ClockSpec := ⟨100000000, none⟩
def refclkLink : ClockSpec := ⟨156250000, some 50⟩
def refclkTs : ClockSpec := ⟨25000000, some 20⟩

/-- The least times that resets and straps keep, in ns: rails and REFCLK_TS before power-good; a low pulse of PWRON_RST_N;
straps on each side of its rise; REFCLK_PCIE before PERST_N rises; a low pulse of PERST_N; and the most that VDD_CORE stays on
after THERM_TRIP_N. -/
def railsBeforePower : Nat := 1000000
def pwronPulse : Nat := 10000
def strapHold : Nat := 100000
def pcieClockBefore : Nat := 100000
def perstPulse : Nat := 100000
def tripOff : Nat := 1000000

/-! ### The boot flash (19 R534) -/

/-- What a byte of the flash holds. -/
inductive FlashPart where
  | slotA (off : Nat)
  | slotB (off : Nat)
  | store (off : Nat)
  | ageing (entry off : Nat)
  | reserved
  deriving DecidableEq, Repr

/-- The layout of the flash: two slots, the Steward's store, and 512 entries of 48 B of the ageing log. -/
def flashAt (a : Nat) : FlashPart :=
  if a < 0x800000 then .slotA a
  else if a < 0x1000000 then .slotB (a - 0x800000)
  else if a < 0x1100000 then .store (a - 0x1000000)
  else if a < 0x1106000 then .ageing ((a - 0x1100000) / 48) ((a - 0x1100000) % 48)
  else .reserved

/-- Bytes per second at which the Steward reads the flash: with 8D-8D-8D and a strobe in the SFDP tables, or without. -/
def flashRate (octal : Bool) : Nat := if octal then 400000000 else 3125000

/-! ### Heat (19 R536) -/

/-- The most that the hottest sensor lies above the lid's top at a power in W, in thousandths of a degree. -/
def junctionRise (watts : Nat) : Nat := 45 * watts

/-- The highest lid that keeps full pools at a power in W, in thousandths of a degree. -/
def lidLimit (watts : Nat) : Int := 85000 - junctionRise watts

end Sys2Proof.Machine
end

