-- ==== Sys2Proof/Machine/Words.lean ====
section
/-!
DEFINITION. What issuing a 32-bit word does: its instruction, or the fault of a word that is none (03 R70, R72). No row of the
opcode table has bits, so no command carries a word (log 38).
-/
namespace Sys2Proof.Machine

/-- A word with a reserved opcode or sub-operation issues: fault 0x0B (03 R70, R72; 07 R194, R203). -/
def reservedWord (t : TileId) (c : CtxId) (s : State) : Host.Outcome State Fault Refusal :=
  .next (issue t c {} (legal false .done) s)

/-- Context `c` of tile `t` issues the word `w`. -/
def issueWord (t : TileId) (c : CtxId) (w : BitVec 32) (s : State) : Host.Outcome State Fault Refusal :=
  match decodeTile t c w with
  | some i => exec i s
  | none => reservedWord t c s

end Sys2Proof.Machine
end

