-- ==== Sys2Proof/WellFormed.lean ====
section
/-!
DEFINITION. The checks that a command's data must meet to be one that the outside world can give: sizes that the
manual fixes for flits, frames and accesses. A command that fails one is not of any interface of the device.
-/
namespace Sys2Proof

/-- A flit is 272 B: a 16 B header and four 64 B lines with their check (12 R315). -/
def flitSizeOk (flit : Bytes) : Bool := decide (flit.length = 272)

/-- An IDP frame carries at most 1,484 B of data (17 R457). -/
def idpDataOk (data : Bytes) : Bool := decide (data.length ≤ 1484)

/-- A piece of a host request lies within one aligned 64 B block (19 R519). -/
def hostPieceOk (off len : Nat) : Bool := decide (0 < len) && decide (off % 64 + len ≤ 64)

/-- A Nib core's access to a slice is one to 128 B within one line (08 R212). -/
def nibPieceOk (addr len : Nat) : Bool := decide (0 < len) && decide (addr % 128 + len ≤ 128)

/-- A time measurement exchanges 16 probe pairs at a hop, or none where the exchange failed (18 R503). -/
def Probes.wf (e : Probes) : Bool :=
  (e.pos ++ e.neg ++ e.above).all (fun l => l.length == 16 || l.isEmpty) && decide (e.pos.length = 4) && decide (e.neg.length = 4)

/-- A list of one value a region (02 R53). -/
def perRegionOk {α : Type} (l : List α) : Bool := decide (l.length = 18)

/-- A request to a home slice. -/
def SliceReq.wf : SliceReq → Bool
  | .flight _ => true
  | .hostRead _ off len => hostPieceOk off len
  | .hostWrite _ off data => hostPieceOk off data.length || (off % 128 == 0 && decide (data.length = 128))
  | .nibRead _ addr len => nibPieceOk addr len
  | .nibWrite _ addr data => nibPieceOk addr data.length

/-- Whether a command's data is of the sizes its interface gives. -/
def Instr.wf : Instr → Bool
  | .homeSliceRequest q _ => q.wf
  | .flitReceived _ _ flit _ => flitSizeOk flit
  | .idpWrite _ _ _ data => idpDataOk data
  | .blockWrite _ _ _ _ data => idpDataOk data
  | .slotWrite _ _ data => idpDataOk data
  | .subscribe _ _ _ data => idpDataOk data
  | .signedResponse _ sig => idpDataOk sig
  | .timeMeasure _ _ pos neg above => (⟨pos, neg, above⟩ : Probes).wf
  | .tbeatPublication beats hops => perRegionOk beats && perRegionOk hops
  | .thermalRead temps periphery => perRegionOk temps && decide (periphery.length = 4)
  | .fadeMeasurement rows regions _ => decide (rows.length = 72) && perRegionOk regions
  | _ => true

end Sys2Proof
end

