-- ==== Sys2Proof/Tests/Slice0.lean ====
section
/-!
SUPPORT. Checks of the model on small states: the sizes that a command's data must have, words of the tile's
instructions written out from 03 R67 to R72, for each statement a state that meets its hypotheses, and few effects whose
expected values come from the manual's rules by hand.
-/
namespace Sys2Proof.Tests
open Sys2Proof Sys2Proof.Machine
set_option Elab.async false

/-! ### Small states -/

/-- Context 0 of tile 0 at the byte address 0x40 of its code, with registers set: two numbers, an address of its own
SRAM, one of tile 1's and one of the Bulk Store. -/
def ctx0 : Ctx := { st := .run, pc := 0x40#32, regs := [(1, 5#64), (2, 7#64), (3, 0x1000#64), (4, 0x101000#64), (5, 0x4000000000#64)] }

/-- Tile 0 runs one context. -/
def tile0 : Tile := { ctx := [(0, ctx0)] }

/-- A device in STOPPED with regions 0 and 1 in service, each a partition with 1 GiB of Bulk Store; P0 owns flags 0 and
1023, semaphores 0 and 255 and barriers 0 and 31; tile 0 runs. -/
def base : State := { State.reset with
  tiles := [(0, tile0)],
  regions := [(0, { inService := true, nib := { alive := true } }), (1, { inService := true, nib := { alive := true } })],
  parts := [(0, { band := some (0, 1), share := (0, 1) }), (1, { band := some (1, 1), share := (1, 1) })],
  hub := { ownGf := [(0, 1), (1023, 1)], ownSem := [(0, 1), (255, 1)], ownBar := [(0, 1), (31, 1)] },
  dev := { State.reset.dev with
    boot := { State.reset.dev.boot with pwronN := true, perstN := true, st := 5 },
    bulk := { State.reset.dev.bulk with gib := 186, used := 0xFF } } }

/-- `base` with tile 0's context 0 changed. -/
def withCtx (f : Ctx → Ctx) : State := base.onCx 0 0 f
/-- `base` with tile 0 changed. -/
def withTile (f : Tile → Tile) : State := base.onTile 0 f
/-- `base` with its traffic changed. -/
def withNet (f : Net → Net) : State := base.onNet f
/-- The state that a command leaves. -/
def after (r : Res) : State :=
  match r with
  | .next s => s
  | .fault _ => State.reset
  | .refused _ => State.reset

/-! ### Sizes of a command's data: one just right and one not, for each check -/

theorem test_wf_flit : (Instr.flitReceived 0 (some 0) (zeros 272) .none).wf = true ∧
    (Instr.flitReceived 0 (some 0) (zeros 271) .none).wf = false := by decide +kernel

theorem test_wf_host_piece : (Instr.homeSliceRequest (.hostRead 0 60 4) .none).wf = true ∧
    (Instr.homeSliceRequest (.hostRead 0 60 5) .none).wf = false ∧ (Instr.homeSliceRequest (.hostRead 0 60 0) .none).wf = false ∧
    (Instr.homeSliceRequest (.hostWrite 0 63 [1]) .none).wf = true ∧
    (Instr.homeSliceRequest (.hostWrite 0 63 [1, 2]) .none).wf = false := by decide +kernel

theorem test_wf_nib_piece : (Instr.homeSliceRequest (.nibRead 0 0 128) .none).wf = true ∧
    (Instr.homeSliceRequest (.nibRead 0 1 128) .none).wf = false ∧ (Instr.homeSliceRequest (.nibWrite 0 127 [1]) .none).wf = true ∧
    (Instr.homeSliceRequest (.nibWrite 0 127 [1, 2]) .none).wf = false := by decide +kernel

/-- A request from the management port. -/
def mgmtHdr : ReqHdr := { path := .mgmt 0x1#48, ver := 1, txn := 9 }

theorem test_wf_idp_data : (Instr.idpWrite mgmtHdr 0 0 (zeros 1484)).wf = true ∧ (Instr.idpWrite mgmtHdr 0 0 (zeros 1485)).wf = false ∧
    (Instr.blockWrite mgmtHdr 0 0 0 (zeros 1485)).wf = false ∧ (Instr.slotWrite mgmtHdr 0 (zeros 1485)).wf = false ∧
    (Instr.subscribe mgmtHdr 0 0 (zeros 1485)).wf = false ∧ (Instr.signedResponse mgmtHdr (zeros 1485)).wf = false := by
  decide +kernel

/-- The probe pairs of one hop. -/
def pair0 : ProbePair := { t1 := 0, t2 := 60, t3 := 70, t4 := 100 }

theorem test_wf_probes : let l := List.replicate 4 (List.replicate 16 pair0)
    (Instr.timeMeasure mgmtHdr 1 l l [[]]).wf = true ∧ (Instr.timeMeasure mgmtHdr 1 l l [[pair0]]).wf = false ∧
    (Instr.timeMeasure mgmtHdr 1 [] l []).wf = false ∧ (Instr.timeMeasure mgmtHdr 1 l [] []).wf = false := by decide +kernel

theorem test_wf_sensors : (Instr.tbeatPublication (List.replicate 18 1) (List.replicate 18 1)).wf = true ∧
    (Instr.tbeatPublication (List.replicate 17 1) (List.replicate 18 1)).wf = false ∧
    (Instr.tbeatPublication (List.replicate 18 1) (List.replicate 19 1)).wf = false ∧
    (Instr.thermalRead (List.replicate 17 []) [0, 0, 0, 0]).wf = false ∧
    (Instr.thermalRead (List.replicate 18 []) [0, 0, 0]).wf = false ∧
    (Instr.fadeMeasurement (List.replicate 71 0) (List.replicate 18 0) 1).wf = false ∧
    (Instr.fadeMeasurement (List.replicate 72 0) (List.replicate 17 0) 1).wf = false := by decide +kernel

/-! ### Words of the tile's instructions, field by field from 03 R67, R68, R70 and R72 -/

theorem test_words_register_and_immediate : ∀ (t : TileId) (c : CtxId),
    decodeTile t c (0b000000#6 ++ 0b00001#5 ++ 0b00010#5 ++ 0b00011#5 ++ 0b00000000001#11) = some (.alu t c 1 2 3 1) ∧
    decodeTile t c (0b000001#6 ++ 0b11111#5 ++ 0b00010#5 ++ 0b00000#5 ++ 0b00000001000#11) = some (.fpu t c 31 2 0 8) ∧
    decodeTile t c (0b000010#6 ++ 0b00001#5 ++ 0b00000#5 ++ 0xFFFF#16) = some (.addi t c 1 0 0xFFFF) ∧
    decodeTile t c (0b001010#6 ++ 0b00001#5 ++ 0b00000#5 ++ 0x8000#16) = some (.lui t c 1 0 0x8000) ∧
    decodeTile t c (0b010001#6 ++ 0b00001#5 ++ 0b00010#5 ++ 0xFFFE#16) = some (.bgeu t c 1 2 0xFFFE) ∧
    decodeTile t c (0b010010#6 ++ 0b00001#5 ++ 0b00000#5 ++ 0x0004#16) = some (.jal t c 1 0 4) := by
  intro t c; exact ⟨rfl, rfl, rfl, rfl, rfl, rfl⟩

/-- The first word is R69's worked example. -/
theorem test_words_memory : ∀ (t : TileId) (c : CtxId),
    decodeTile t c 0x5103C002#32 = some (.ld t c 8 3 6 0 2 .none) ∧
    decodeTile t c (0b010110#6 ++ 0b00001#5 ++ 0b00010#5 ++ 0b011#3 ++ 0b01#2 ++ 0b11111111111#11) = some (.sta t c 1 2 3 1 0x7FF) ∧
    decodeTile t c (0b010111#6 ++ 0b00001#5 ++ 0b00010#5 ++ 0b011#3 ++ 0b01#2 ++ 0b00000000000#11) = some (.ldf t c 1 2 3 1 0) ∧
    decodeTile t c (0b011001#6 ++ 0b00111#5 ++ 0b00010#5 ++ 0b101#3 ++ 0b00#2 ++ 0b00000000001#11) = some (.ldd t c 7 2 5 0 1) := by
  intro t c; exact ⟨rfl, rfl, rfl, rfl⟩

theorem test_words_engines : ∀ (t : TileId) (c : CtxId),
    decodeTile t c (0b011100#6 ++ 0b001#3 ++ 0b010#3 ++ 0b011#3 ++ 0b00100#5 ++ 0x05#8 ++ 0b0001#4) = some (.mmAcc t c 1 2 3 4 5) ∧
    decodeTile t c (0b011101#6 ++ 0b111#3 ++ 0b010#3 ++ 0b011#3 ++ 0b00100#5 ++ 0xFE#8 ++ 0b1101#4) = some (.vop t c 7 2 3 4 254 13) ∧
    decodeTile t c (0b100000#6 ++ 0b001#3 ++ 0b000#3 ++ 0b000#3 ++ 0b00100#5 ++ 0x05#8 ++ 0b0000#4) = some (.fill t c 1 0 0 4 5 0) ∧
    decodeTile t c (0b100001#6 ++ 0b001#3 ++ 0b010#3 ++ 0b000#3 ++ 0b00000#5 ++ 0x05#8 ++ 0b0000#4) = some (.movtCopy t c 1 2 0 0 5) ∧
    decodeTile t c (0b100010#6 ++ 0b001#3 ++ 0b010#3 ++ 0b011#3 ++ 0b00100#5 ++ 0x05#8 ++ 0b0001#4) = some (.ligUnion t c 1 2 3 4 5) ∧
    decodeTile t c (0b100011#6 ++ 0b001#3 ++ 0b000#3 ++ 0b000#3 ++ 0b00100#5 ++ 0x05#8 ++ 0b0010#4) = some (.grnMask t c 1 0 0 4 5) ∧
    decodeTile t c (0b100100#6 ++ 0b001#3 ++ 0b010#3 ++ 0b011#3 ++ 0b00100#5 ++ 0x05#8 ++ 0b0101#4) = some (.opt t c 1 2 3 4 5 5) := by
  intro t c; exact ⟨rfl, rfl, rfl, rfl, rfl, rfl, rfl⟩

theorem test_words_exchange_and_control : ∀ (t : TileId) (c : CtxId),
    decodeTile t c (0b100110#6 ++ 0b00001#5 ++ 0b00000#5 ++ 0b00000#5 ++ 0b00000000111#11) = some (.xstart t c 1 0 0 7) ∧
    decodeTile t c (0b100111#6 ++ 0b00001#5 ++ 0b00010#5 ++ 0b00011#5 ++ 0b10000010001#11) = some (.msg t c 1 2 3 0x411) ∧
    decodeTile t c (0b101000#6 ++ 0b00001#5 ++ 0b00010#5 ++ 0b00011#5 ++ 0b10000000001#11) = some (.enl t c 1 2 3 0x401) ∧
    decodeTile t c (0b101001#6 ++ 0b00001#5 ++ 0b00000#5 ++ 0b0011#4 ++ 0x0FF#12) = some (.tfTas t c 1 0 255) ∧
    decodeTile t c (0b101010#6 ++ 0b00000#5 ++ 0b00000#5 ++ 0b1000#4 ++ 0x3FF#12) = some (.gfWaitAcq t c 0 0 1023) ∧
    decodeTile t c (0b101011#6 ++ 0b00000#5 ++ 0b00010#5 ++ 0b0001#4 ++ 0x0FF#12) = some (.semSignalRel t c 0 2 255) ∧
    decodeTile t c (0b101100#6 ++ 0b00000#5 ++ 0b00000#5 ++ 0b0010#4 ++ 0x01F#12) = some (.barArriveWait t c 0 0 31) ∧
    decodeTile t c (0b101101#6 ++ 0#26) = some (.fenceFull t c 0 0 0) ∧
    decodeTile t c (0b101110#6 ++ 0b00000#5 ++ 0b00001#5 ++ 0b0001#4 ++ 0x00A#12) = some (.csrWrite t c 0 1 10) ∧
    decodeTile t c (0b101111#6 ++ 0b00000#5 ++ 0b00001#5 ++ 0b0000#4 ++ 0x003#12) = some (.ctxStart t c 0 1 3) ∧
    decodeTile t c (0b110000#6 ++ 0#26) = some (.hret t c 0 0 0) ∧ decodeTile t c (0b110001#6 ++ 0#26) = some (.bkpt t c 0 0 0) := by
  intro t c; exact ⟨rfl, rfl, rfl, rfl, rfl, rfl, rfl, rfl, rfl, rfl, rfl, rfl⟩

/-- Opcode 0x1B, opcodes from 0x32 on and a sub-operation without a row are no instruction (03 R70, R72). -/
theorem test_words_reserved : ∀ (t : TileId) (c : CtxId), decodeTile t c (0x1B#6 ++ 0#26) = none ∧
    decodeTile t c (0x32#6 ++ 0#26) = none ∧ decodeTile t c (0x3F#6 ++ 0#26) = none ∧
    decodeTile t c (0x2A#6 ++ 0#10 ++ 10#4 ++ 0#12) = none ∧ decodeTile t c (0x1C#6 ++ 0#22 ++ 4#4) = none := by
  intro t c; exact ⟨rfl, rfl, rfl, rfl, rfl⟩

/-! ### Tile instructions: states that meet the hypotheses of the statements, and effects -/

/-- The context of `base` is ready for any instruction. -/
theorem wit_ready : ∀ u : Uses, Ready base 0 0 u := by
  intro u
  refine ⟨by decide +kernel, by decide +kernel, ?_, by decide +kernel, by decide +kernel⟩
  have h1 : ctxReqs base 0 0 = [] := by decide +kernel
  have h2 : queuedOf (base.tile 0) 0 = [] := by decide +kernel
  simp [interlocked, h1, h2]

/-- ImmediateResults, AluResults, FpuResults, BranchAndJumpResults: the ranges' ends. -/
theorem wit_results : Ready base 0 0 { reads := [1, 2], writes := [6] } ∧ (0x1FF#12).toNat ≤ 511 ∧ (0#5 : BitVec 5) = 0 ∧
    (16, BitVec.ofNat 64 (5 * 7 / 2 ^ 64)) ∈ [((0 : Nat), (5#64 + 7#64)), (16, BitVec.ofNat 64 (5 * 7 / 2 ^ 64))] :=
  ⟨wit_ready _, by decide +kernel, rfl, by decide +kernel⟩

/-- 5 - 7 wraps; SLT and SLTU of it differ (03 R71). -/
theorem test_alu_sub : rv (after (exec (.alu 0 0 6 1 2 1) base)) 0 0 6 = 0xFFFFFFFFFFFFFFFE#64 ∧
    rv (after (exec (.alu 0 0 6 6 1 8) (withCtx (fun k => k.setReg 6 (-2))))) 0 0 6 = 1 ∧
    rv (after (exec (.alu 0 0 6 6 1 9) (withCtx (fun k => k.setReg 6 (-2))))) 0 0 6 = 0 := by decide +kernel

/-- The high half of -2 x 5 is all ones; shift amounts take six bits (03 R71). -/
theorem test_alu_mulh_and_shift : rv (after (exec (.alu 0 0 6 6 1 15) (withCtx (fun k => k.setReg 6 (-2))))) 0 0 6 = -1 ∧
    rv (after (exec (.slli 0 0 6 1 0x0041) base)) 0 0 6 = 10 ∧ rv (after (exec (.srai 0 0 6 6 1) (withCtx (fun k => k.setReg 6 (-2))))) 0 0 6 = -1 := by
  decide +kernel

/-- 1.0 + 2^-24 ties to even, 1.0; 2.5 rounds to 2 (03 R71). -/
theorem test_fpu : rv (after (exec (.fpu 0 0 6 7 8 0) (withCtx (fun k => (k.setReg 7 0x3F800000).setReg 8 0x33800000)))) 0 0 6 = 0x3F800000 ∧
    rv (after (exec (.fpu 0 0 6 7 0 8) (withCtx (fun k => k.setReg 7 0x40200000)))) 0 0 6 = 2 := by decide +kernel

/-- A constant in pieces, and a write to g0 (03 R62, R70). -/
theorem test_lsh_and_g0 : rv (after (exec (.lsh 0 0 1 0 0x8001) base)) 0 0 1 = 0x58001 ∧
    rv (after (exec (.addi 0 0 0 1 1) base)) 0 0 0 = 0 ∧ ((after (exec (.addi 0 0 0 1 1) base)).cx 0 0).pc = 0x44 := by decide +kernel

/-- A taken branch back by two words, and a target that is no word (03 R65, R70). -/
theorem test_branch : ((after (exec (.blt 0 0 2 1 0xFFFE) base)).cx 0 0).pc = 0x38 ∧
    ((after (exec (.jalr 0 0 6 1 1) base)).cx 0 0).st = .fault ∧ rv (after (exec (.jalr 0 0 3 3 4) base)) 0 0 3 = 0x44 := by decide +kernel

/-- LocalLoads: a line into g8 to g15, a descriptor, and a full/empty word that is empty and one that is full. -/
theorem wit_local_loads : Ready base 0 0 { reads := [3], writes := regGroup 8 64 } ∧ accessSize 6 = some 64 ∧
    (rv base 0 0 3 + (0x7FF#11).signExtend 64 * BitVec.ofNat 64 64).toNat % 64 = 0 ∧ 8 % max 1 (64 / 8) = 0 ∧
    targetOf (fetched 0 0 base) 0 .load 64 (rv base 0 0 3 + (0x7FF#11).signExtend 64 * BitVec.ofNat 64 64) = .own 0xFC0 ∧
    base.badIn (tileBase 0 + 0xFC0) 64 = none ∧ ownedResult (fetched 0 0 base) (tileBase 0 + 0xFC0) 64 = false :=
  ⟨wit_ready _, by decide +kernel, by decide +kernel, by decide +kernel, by decide +kernel, by decide +kernel, by decide +kernel⟩

theorem wit_local_loads_desc : (7#5).toNat < 8 ∧ Ready base 0 0 { reads := [3], dwrites := [7 % 8] } ∧
    (rv base 0 0 3 + (1#11).signExtend 64 * 32).toNat % 32 = 0 ∧
    targetOf (fetched 0 0 base) 0 .load 32 (rv base 0 0 3 + (1#11).signExtend 64 * 32) = .own 0x1020 ∧
    base.badIn (tileBase 0 + 0x1020) 32 = none ∧ ownedResult (fetched 0 0 base) (tileBase 0 + 0x1020) 32 = false :=
  ⟨by decide, wit_ready _, by decide +kernel, by decide +kernel, by decide +kernel, by decide +kernel⟩

/-- `base` with the word at 0x1000 full, holding 9. -/
def baseFull : State := setFull 0 0x200 true (base.poke 0x1000 (toBytes 9 8))

theorem wit_local_loads_full_empty : Ready base 0 0 { reads := [3], writes := [6] } ∧ (1#2).toNat < 2 ∧
    (rv base 0 0 3 + (0#11).signExtend 64 * 8).toNat % 8 = 0 ∧ targetOf (fetched 0 0 base) 0 .fillLoad 8 0x1000 = .own 0x1000 ∧
    ((fetched 0 0 base).tile 0).full (0x1000 / 8) = false :=
  ⟨wit_ready _, by decide, by decide +kernel, by decide +kernel, by decide +kernel⟩

theorem wit_local_loads_full : Ready baseFull 0 0 { reads := [3], writes := [6] } ∧
    targetOf (fetched 0 0 baseFull) 0 .fillLoad 8 (rv baseFull 0 0 3 + (0#11).signExtend 64 * 8) = .own 0x1000 ∧
    ((fetched 0 0 baseFull).tile 0).full (0x1000 / 8) = true ∧ baseFull.badIn (tileBase 0 + 0x1000) 8 = none ∧
    ownedResult (fetched 0 0 baseFull) (tileBase 0 + 0x1000) 8 = false := by unfold Ready; decide +kernel

/-- LDF takes the value and leaves the word empty; with peek it stays full (03 R94). -/
theorem test_ldf : rv (after (exec (.ldf 0 0 6 3 3 0 0) baseFull)) 0 0 6 = 9 ∧
    ((after (exec (.ldf 0 0 6 3 3 0 0) baseFull)).tile 0).full 0x200 = false ∧
    ((after (exec (.ldf 0 0 6 3 3 1 0) baseFull)).tile 0).full 0x200 = true := by decide +kernel

/-- LocalStores: a line from g0 to g7, a descriptor and a fill. -/
theorem wit_local_stores : accessSize 6 = some 64 ∧ Ready base 0 0 { reads := 3 :: regGroup 0 64 } ∧ (0#5).toNat % max 1 (64 / 8) = 0 ∧
    (rv base 0 0 3 + (0#11).signExtend 64 * BitVec.ofNat 64 64).toNat % 64 = 0 ∧ writesOut (fetched 0 0 base) 0 0 = false ∧
    targetOf (fetched 0 0 base) 0 .store 64 0x1000 (BitVec.ofNat 64 (leNat (storeBytes base 0 0 0 64))) = .own 0x1000 ∧
    mergeBad base (tileBase 0 + 0x1000) 64 = none ∧ accSize 2 = some 4 ∧ targetOf (fetched 0 0 base) 0 .acc 64 0x1000 = .own 0x1000 ∧
    base.badIn (tileBase 0 + 0x1000) 64 = none ∧ ownedResult (fetched 0 0 base) (tileBase 0 + 0x1000) 64 = false :=
  ⟨by decide, wit_ready _, by decide, by decide +kernel, by decide +kernel, by decide +kernel, by decide +kernel, by decide,
    by decide +kernel, by decide +kernel, by decide +kernel⟩

theorem wit_local_stores_desc : Ready base 0 0 { reads := [3], dreads := [7 % 8] } ∧
    targetOf (fetched 0 0 base) 0 .store 32 (rv base 0 0 3 + (0#11).signExtend 64 * 32) = .own 0x1000 ∧
    mergeBad base (tileBase 0 + 0x1000) 32 = none := ⟨wit_ready _, by decide +kernel, by decide +kernel⟩

theorem wit_local_stores_fill : Ready base 0 0 { reads := [3, 1] } ∧
    targetOf (fetched 0 0 base) 0 .fillStore 8 (rv base 0 0 3 + (0#11).signExtend 64 * 8) = .own 0x1000 ∧
    (base.tile 0).full (0x1000 / 8) = false ∧ (∀ d, feWaiter (base.tile 0) d (0x1000 / 8) = none) ∧
    targetOf (fetched 0 0 baseFull) 0 .fillStore 8 0x1000 = .own 0x1000 ∧ (baseFull.tile 0).full (0x1000 / 8) = true := by
  refine ⟨wit_ready _, by decide +kernel, by decide +kernel, ?_, by decide +kernel, by decide +kernel⟩
  intro d
  cases d with
  | zero => decide +kernel
  | succ d => simp [base, State.tile, tile0, Map.get, Tile.cx, feWaiter]

/-- STA of INT32 adds g1 = 5 to each element and wraps within it (03 R87). -/
theorem test_sta : (after (exec (.sta 0 0 1 3 2 2 0) (base.poke 0x1000 [0xFE, 0xFF, 0xFF, 0xFF, 9]))).bytes 0x1000 5 = [3, 0, 0, 0, 9] := by
  decide +kernel

/-- RemoteAccesses: tile 1 over the mesh, the Bulk Store at a home slice. -/
theorem wit_remote_accesses : Ready base 0 0 { reads := [4], writes := regGroup 8 64 } ∧
    targetOf (fetched 0 0 base) 0 .load 64 (rv base 0 0 4 + (0#11).signExtend 64 * BitVec.ofNat 64 64) = .mesh 0x101000 ∧
    (∀ l ∈ (base.tile 0).rlb, l.addr ≠ lineKey none 0x101000) ∧
    targetOf (fetched 0 0 base) 0 .store 64 0x101000 (BitVec.ofNat 64 (leNat (storeBytes base 0 0 8 64))) = .mesh 0x101000 ∧
    targetOf (fetched 0 0 base) 0 .acc 64 0x101000 = .mesh 0x101000 ∧ targetOf (fetched 0 0 base) 0 .load 32 0x101000 = .mesh 0x101000 ∧
    targetOf (fetched 0 0 base) 0 .fillStore 8 0x101000 = .mesh 0x101000 :=
  ⟨wit_ready _, by decide +kernel, by decide +kernel, by decide +kernel, by decide +kernel, by decide +kernel, by decide +kernel⟩

theorem wit_remote_accesses_slice : Ready base 0 0 { reads := [5], writes := regGroup 8 64 } ∧
    targetOf (fetched 0 0 base) 0 .load 64 (rv base 0 0 5 + (0#11).signExtend 64 * BitVec.ofNat 64 64) = .slice 0x4000000000 ∧
    targetOf (fetched 0 0 base) 0 .store 64 0x4000000000 (BitVec.ofNat 64 (leNat (storeBytes base 0 0 8 64))) = .slice 0x4000000000 ∧
    targetOf (fetched 0 0 base) 0 .store 32 0x4000000000 = .slice 0x4000000000 :=
  ⟨wit_ready _, by decide +kernel, by decide +kernel, by decide +kernel⟩

theorem test_remote_store : (after (exec (.st 0 0 1 4 3 0 1) base)).net.reqs =
    [{ iss := .ctx 0 0 0x40, part := 0, addr := 0x101008, op := .store [5, 0, 0, 0, 0, 0, 0, 0], sent := { no := 0, leg := some (.tile 0, .tile 1) } }] := by decide +kernel

/-- MemoryFormFaults: each clause's operands. -/
theorem wit_memory_form_faults : Ready base 0 0 {} ∧ accessSize 3 = some 8 ∧ 2 ≤ (2#2).toNat ∧ (1#5).toNat % max 1 (16 / 8) ≠ 0 ∧
    (8 : Nat) ≠ 4 ∧ accessSize 2 = some 4 ∧ (8 ≤ (8#5).toNat) ∧ (rv base 0 0 1 + (0#11).signExtend 64 * BitVec.ofNat 64 8).toNat % 8 ≠ 0 :=
  ⟨wit_ready _, by decide, by decide, by decide, by decide, by decide, by decide, by decide +kernel⟩

/-- StaOutsideTileMemoryFaults: the Bulk Store of this device, and of another in a system of two. -/
theorem wit_sta_outside : accessSize 3 = some 8 ∧ accSize 0 = some 4 ∧ Ready base 0 0 { reads := 5 :: regGroup 1 8 } ∧
    (rv base 0 0 5 + (0#11).signExtend 64 * BitVec.ofNat 64 8).toNat % 8 = 0 ∧ routeOf base 0x4000000000 = .here 0x4000000000 ∧
    base.place 0x4000000000 = .bulk := ⟨by decide, by decide, wit_ready _, by decide +kernel, by decide +kernel, by decide +kernel⟩

theorem wit_sta_outside_far : routeOf (base.onDev (fun d => { d with link := { d.link with sizes := 1 } })) 0x8000804000000000#64
    = .far 1 0x4000000000 ∧ ∀ u o, placeOf 186 0x4000000000 ≠ .sram u o := by
  refine ⟨by decide +kernel, ?_⟩
  intro u o h
  have : placeOf 186 0x4000000000 = .bulk := by decide +kernel
  rw [this] at h; cases h

/-- RegisterGroupsMoveInOrder: the last register of a line, and the one before the group. -/
theorem wit_register_groups : 8 ∈ [1, 2, 4, 8] ∧ (zeros 64).length = 8 * 8 ∧ 7 < 8 ∧ 8 + 7 ≠ 0 ∧ (zeros 4).length ∈ [1, 2, 4] ∧
    (7 < 8 ∨ 8 + max 1 ((zeros 64).length / 8) ≤ 7) ∧ 64 ∈ [16, 32, 64] ∧ 7 < 64 / 8 := by decide +kernel

/-- TileFlagInstructions: the highest flag, and the highest that may be written. -/
theorem wit_tile_flags : (255#12).toNat ≤ 255 ∧ (254#12).toNat ≤ 255 ∧ (254#12).toNat ≠ 255 ∧ Ready base 0 0 { writes := [0] } :=
  ⟨by decide, by decide, by decide, wit_ready _⟩

theorem test_tf_tas : rv (after (exec (.tfTas 0 0 6 0 254) base)) 0 0 6 = 0 ∧ ((after (exec (.tfTas 0 0 6 0 254) base)).tile 0).flag 254 = true ∧
    rv (after (exec (.tfTas 0 0 6 0 254) (putFlag 0 254 true base))) 0 0 6 = 1 := by decide +kernel

/-- FlagWriteEffect: a context waits for the flag. -/
theorem wit_flag_write : let s := withCtx (fun k => { k with st := .wait, wait := some (.tf 255 true) })
    255 < 256 ∧ (s.cx 0 0).wait = some (.tf 255 true) ∧ (s.cx 0 0).st = .wait ∧ (s.cx 0 0).stepGrant = false ∧
    (s.cx 0 1).wait ≠ some (.tf 255 true) := by decide +kernel

/-- GlobalFlagInstructions and SemaphoreInstructions: the highest objects; no write outstanding, and one. -/
theorem wit_hub_instructions : (1023#12).toNat ≤ 1023 ∧ (255#12).toNat ≤ 255 ∧ Ready base 0 0 { reads := [1], writes := [0] } ∧
    writesOut (fetched 0 0 base) 0 0 = false := ⟨by decide, by decide, wit_ready _, by decide +kernel⟩

theorem wit_release_waits : let s := withNet (fun n => { n with reqs := [{ iss := .ctx 0 0 0x3C, part := 0, addr := 0x101000, op := .store [1] }] })
    Ready s 0 0 { writes := [0] } ∧ writesOut (fetched 0 0 s) 0 0 = true := by unfold Ready; decide +kernel

/-- BarrierAndFenceInstructions: the last barrier of P0, and the last that is not its own. -/
theorem wit_barriers : Ready base 0 0 {} ∧ (31#12).toNat ≤ 31 ∧ ownedBy base.hub.ownBar (partOf base 0) 31 = true ∧
    ownedBy base.hub.ownBar (partOf base 0) 30 = false := ⟨wit_ready _, by decide, by decide +kernel, by decide +kernel⟩

/-- BAR.ARRIVE sends the arrival with the tile's epoch (09 R248). -/
theorem test_bar_arrive : (after (exec (.barArrive 0 0 0 0 31) base)).net.rowArr = [{ t := 0, c := 0, iaddr := 0x40, b := 31, tag := 0 }] := by
  decide +kernel

/-- A message record whose handler context is 0. -/
def rec0 : BitVec 2176 := 0

/-- ContextInstructions: each clause's state. -/
theorem wit_contexts : Ready base 0 0 { reads := [3] } ∧ (3#12).toNat ≤ 3 ∧ ((fetched 0 0 base).cx 0 3).st = .off ∧
    (base.tile 0).mail.handler ≠ some 3 ∧ ((fetched 0 0 base).cx 0 0).st ≠ .off ∧ (base.tile 0).mail.handler ≠ some 0 ∧
    base.dev.trace.attach.getLsbD (partOf base 0) = false ∧ (511#12).toNat ≤ 511 ∧
    namesPhaseFlag ((511#12).toNat * 8) (rv base 0 0 3) = false :=
  ⟨wit_ready _, by decide, by decide +kernel, by decide +kernel, by decide +kernel, by decide +kernel, by decide +kernel, by decide,
    by decide +kernel⟩

theorem wit_hret : let s := withTile (fun x => { x with mail := { x.mail with record := some rec0, running := some (false, 0) } })
    Ready s 0 0 {} ∧ (s.tile 0).mail.handler = some 0 ∧ (s.tile 0).mail.running ≠ none := by unfold Ready; decide +kernel

theorem wit_bkpt : let s := base.onTrace (fun t => { t with attach := 1 })
    Ready s 0 0 {} ∧ partOf s 0 < 6 ∧ s.dev.trace.attach.getLsbD (partOf s 0) = true := by unfold Ready; decide +kernel

/-! ### Engines -/

/-- EngineStarts and ReservedFieldsFault: the ends of the ranges, with room in the queue and without. -/
theorem wit_engine_starts : (254#8 : BitVec 8) ≠ 255 ∧ Ready base 0 0 { reads := [0], dreads := [1, 2, 0] } ∧ (5#4).toNat ≤ 5 ∧
    ¬ 2 ≤ ((base.tile 0).unit 1).queue.length ∧ 14 ≤ (14#4).toNat ∧ 6 ≤ (6#4).toNat ∧ (6#4).toNat ≤ 11 ∧ 19 ≤ (19#11).toNat ∧
    10 ≤ (10#11).toNat ∧ 255 < (256#12).toNat ∧ 31 < (32#12).toNat :=
  ⟨by decide, wit_ready _, by decide, by decide +kernel, by decide, by decide, by decide, by decide, by decide, by decide, by decide⟩

/-- A GRN BITS over four FP32 elements at 0x2000, its parameters in g8 and g9. -/
def grnReq : StartReq := { kind := .grn, sub := 0, ctx := 0, iaddr := 0x3C, dd := 1, gp := 8, tf := 7 }
/-- Four FP32 elements at a local offset. -/
def four (a : Nat) : BitVec 256 := BitVec.ofNat 256 (a + 4 * 2 ^ 64 + 2 ^ 80 + 2 ^ 96 + 16 * 2 ^ 128 + 16 * 2 ^ 160)
/-- Tile 0 with a request at the head of unit `u`'s queue and a reservation of `n`. -/
def queued (u : Nat) (q : StartReq) (n : BitVec 4) : State := withTile (fun x =>
  { x.onCx 0 (fun k => { k with descs := [(1, four 0x2000), (2, four 0x1000)] }) with
    un := { units := [(u, { queue := [q] })], resv := n } })
/-- An acceptance's answer, by a test that can be evaluated. -/
theorem accepted {r : Except Denial RunOp} {o : RunOp}
    (h : (match r with | .ok x => decide (x = o) | .error _ => false) = true) : r = .ok o := by
  cases r with
  | ok x => simp at h; rw [h]
  | error e => simp at h
/-- A refusal's answer, by a test that can be evaluated. -/
theorem denied {r : Except Denial RunOp} {d : Denial}
    (h : (match r with | .ok _ => false | .error e => decide (e = d)) = true) : r = .error d := by
  cases r with
  | ok x => simp at h
  | error e => simp at h; rw [h]
/-- The operation it becomes. -/
def grnOp : RunOp := { req := grnReq, dC := four 0x2000, dX := four 0x2000, tokens := 1, res := [(0x2000, 16)] }

/-- HeadRequestIsAccepted: a request that is accepted, one that its reservation bars, and one that fails its checks. -/
theorem wit_head_accepted : let s := queued 3 grnReq 1
    s.dev.boot.trip = false ∧ ((s.tile 0).unit 3).queue = [grnReq] ∧ ((s.tile 0).unit 3).running = none ∧
    (s.region (regionOf 0)).pool.hold = false ∧ acceptOp s 0 grnReq = .ok grnOp ∧ grnOp.tokens ≤ (s.tile 0).un.resv.toNat ∧
    (takeTurn 0 3 grnOp.tokens s).1 = true :=
  ⟨by decide +kernel, by decide +kernel, by decide +kernel, by decide +kernel, accepted (by decide +kernel), by decide +kernel,
    by decide +kernel⟩

theorem wit_head_barred : acceptOp (queued 3 grnReq 0) 0 grnReq = .ok grnOp ∧
    ((queued 3 grnReq 0).tile 0).un.resv.toNat < grnOp.tokens := ⟨accepted (by decide +kernel), by decide +kernel⟩

/-- Its parameter register is odd. -/
def oddReq : StartReq := { grnReq with gp := 9 }

theorem wit_head_refused : ((queued 3 oddReq 1).tile 0 |>.unit 3).queue = [oddReq] ∧
    acceptOp (queued 3 oddReq 1) 0 oddReq = .error (0x09, 0) := ⟨by decide +kernel, denied (by decide +kernel)⟩

/-- A MOVT from 0x1000 to 0x2000. -/
def movtReq : StartReq := { kind := .movt, sub := 0, ctx := 0, iaddr := 0x3C, dd := 1, da := 2, tf := 7 }
def movtOp : RunOp := { req := movtReq, dC := four 0x2000, dA := four 0x1000, dX := four 0x2000, idx := 5, tokens := 1, res := [(0x2000, 16)], opnd := [(0x1000, 16)] }

theorem wit_head_movt : let g := fun n => gatherList 0 movtReq (queued 4 movtReq n)
    (match (g 1).1 with | .ok (some l) => (l == []) | _ => false) = true ∧
    (match (g 1).1 with | .ok (some l) => (match acceptMovt (g 1).2 0 movtReq l with | .ok x => decide (x = movtOp) | .error _ => false) | _ => false) = true ∧
    ((g 1).2.tile 0).un.resv ≠ 0 ∧ ((g 0).2.tile 0).un.resv = 0 := by decide +kernel

/-- A MOVT of an older request waits for its turn. -/
theorem wit_head_turn : (takeTurn 0 3 1 ((queued 3 grnReq 1).onTile 0 (fun x => x.onUn (fun n => { n with waiting := [4] })))).1 = false := by
  decide +kernel

theorem wit_head_xstart : let q : StartReq := { kind := .xstart, sub := 0, ctx := 0, iaddr := 0x3C, tf := 7, a := 0x1000 }
    let s := queued 4 q 1
    ((s.tile 0).unit 4).queue = [q] ∧ (s.tile 0).un.handed = none ∧ (s.tile 0).un.list = none := by decide +kernel

/-- AcceptanceEffect. -/
theorem wit_acceptance : ((queued 3 grnReq 1).tile 0 |>.unit 3).queue = grnOp.req :: [] := by decide +kernel

/-- Tile 0 with an operation running in unit `u`. -/
def running (u : Nat) (op : RunOp) : State :=
  withTile (fun x => { x with un := { units := [(u, { running := some op })], resv := 1 } })

/-- CompletionsEndTheOperation: each unit, and a MOVT whose turn it is. -/
theorem wit_completions : (∀ u ∈ [0, 1, 2, 3], (running u grnOp).dev.boot.trip = false ∧ (((running u grnOp).tile 0).unit u).oldest = some grnOp ∧
      (((running u grnOp).tile 0).unit u).running = some grnOp ∧ (((running u grnOp).tile 0).unit u).tail = none) ∧
    grnOp.stopAt = none ∧ mmOwnsLig ((running 0 grnOp).tile 0) = false ∧ (((running 0 grnOp).tile 0).unit 2).running = none ∧
    { grnOp with stopAt := some 1 }.stopAt ≠ none ∧ grnOp.req.kind ≠ .opt := by decide +kernel

/-- A LIG that reads a bitmap without error, and a MOVT whose turn it is, with both ends here. -/
theorem wit_completions_lig : let op := { grnOp with req := { grnReq with kind := .lig, sub := 2, da := 2 }, dA := four 0x1000 }
    (((running 2 op).tile 0).unit 2).running = some op ∧ (((running 2 op).tile 0).unit 2).tail = none ∧
    badInRanges (running 2 op) (ligReads (running 2 op) op) = none := by decide +kernel

theorem wit_completions_movt : let s := running 4 movtOp
    let ps := movtPieces s movtOp
    ((s.tile 0).unit 4).running = some movtOp ∧ ((s.tile 0).unit 4).tail = none ∧ injects s 0 movtOp = false ∧ movtHere s movtOp = true ∧
    ps.any (pieceWaits s) = false ∧ behindLines s 0 ps = false ∧ listBad s movtOp = none ∧ (movePieces 0 movtOp ps ps 0 s).2.1 = none := by
  decide +kernel

/-- An MM of 1 x 2 by four columns of 2, all FP32, and a VOP and a VTR over four elements. -/
def mmOp : RunOp :=
  let rows := fun (a n : Nat) => BitVec.ofNat 256 (a + 2 * 2 ^ 64 + n * 2 ^ 80 + 2 ^ 96 + 16 * 2 ^ 128 + 16 * 2 ^ 160)
  { grnOp with req := { grnReq with kind := .mm }, dC := four 0x2000, dA := rows 0x1000 1, dB := rows 0x1800 4 }

theorem wit_completions_mm : let s := running 0 mmOp
    let a := descOf mmOp.dA
    let b := descOf mmOp.dB
    let c := descOf mmOp.dC
    c.ext1 = 1 ∧ c.ext2 = 1 ∧ 0 < c.ext0 ∧ c.scl = 0 ∧ mmOp.tainted = false ∧ mmOp.stopAt = none ∧ badBlock s mmOp = none ∧ c.ext0 ≤ 16 ∧
    a.mta = 0 ∧ b.mta = 0 ∧ a.kExt ≠ 0 ∧ a.nExt = 1 ∧ a.ext2 = 1 ∧ b.nExt = c.ext0 ∧ b.ext2 = 1 := by decide +kernel

def vopOp : RunOp := { grnOp with req := { grnReq with kind := .vop, sub := 3 }, dA := four 0x1000, dB := four 0x1800 }

theorem wit_completions_ve : badInRanges (running 1 vopOp) vopOp.opnd = none ∧ (veParam vopOp.param).rnd = false ∧
    veClass vopOp.req = .elem 2 true ∧ veClass { grnReq with kind := .cvt } = .elem 1 false ∧ veClass { grnReq with kind := .fill } = .elem 0 false ∧
    veClass { grnReq with kind := .vtr } = .vtr ∧ ((descOf vopOp.dA).elems (running 1 vopOp)).length = (descOf vopOp.dC).ext0 := by
  decide +kernel

/-- 1 x 2 + 3 x 1 = 5 stands in C (05 R143). -/
theorem test_mm : ((runMm 0 mmOp ((running 0 mmOp).poke 0x1000 (toBytes 0x3F800000 4 ++ toBytes 0x40400000 4) |>.poke 0x1800
    (toBytes 0x40000000 4 ++ toBytes 0x3F800000 4))).s).bytes 0x2000 4 = toBytes 0x40A00000 4 := by decide +kernel

theorem wit_completions_opt : let op := { grnOp with req := { grnReq with kind := .opt } }
    (((running 1 op).tile 0).unit 1).oldest = some op ∧ op.req.kind = .opt := by decide +kernel

/-- EmptyOperationsComplete: no columns of C, and no parameters. -/
theorem wit_empty_operations : let mm := { grnOp with dC := 0, req := { grnReq with kind := .mm } }
    let op := { grnOp with dC := 0, req := { grnReq with kind := .opt } }
    (running 0 mm).dev.boot.trip = false ∧ (running 0 mm).dev.trace.on = 0 ∧ (((running 0 mm).tile 0).unit 0).running = some mm ∧
    (((running 0 mm).tile 0).unit 0).tail = none ∧ mm.stopAt = none ∧ (((running 1 op).tile 0).unit 1).tail = none ∧ op.stopAt = none ∧
    (blockGrid (descOf mm.dC)).2.2 = 0 ∧ (((running 1 op).tile 0).unit 1).running = some op ∧ (descOf op.dC).count = 0 := by
  decide +kernel

/-- MOVT_COMPLETION moves the bytes and sets its flag (10 R280). -/
theorem test_movt : let s := after (exec (.movtCompletion 0) ((running 4 movtOp).poke 0x1000 [1, 2, 3]))
    s.bytes 0x2000 4 = [1, 2, 3, 0] ∧ (s.tile 0).flag 7 = true := by decide +kernel

/-- GrainSequence: S1 = c, and the top of the positions. -/
theorem wit_grain : 0 + 1 < 2 ^ 64 ∧ 2 ^ 64 - 1 < 2 ^ 64 := by decide

theorem test_grain : grainState 1 = 0x6A09 ∧ grainState 2 = (0x9E6C63D0876A9A4D * 0x6A09 + 0x6A09) % 2 ^ 64 := by decide +kernel

/-- TileFaultEffect: a tile that has raised none, and one that has. -/
theorem wit_tile_fault : 3 < 4 ∧ 4607 < 4608 ∧ 255 < 256 ∧ (base.cx 0 0).st ≠ .off ∧ (base.cx 0 0).st ≠ .fault ∧
    (base.cx 0 3).st = .off ∧ (base.tile 0).faulted = false ∧ ((withTile (fun x => { x with faulted := true })).tile 0).faulted = true := by
  decide +kernel

/-- ExchangeAndMessageStarts: a list at 0x1000 without a gate, one with a gate that an unposted list holds, and a message
within the rules with a slot free and with none. -/
theorem wit_xstart : Ready base 0 0 { reads := [3] } ∧ (254#11).toNat < 255 ∧ inOwnWindow (base.poke 0x1000 [0, 0, 63, 0]) 0 0x1000 16 = true ∧
    (0x1000 : Nat) % 16 = 0 ∧ (base.poke 0x1000 [0, 0, 63, 0]).badIn 0x1000 4 = none ∧
    leNat ((base.poke 0x1000 [0, 0, 63, 0]).bytes 0x1000 4) / 2 ^ 16 % 64 = 63 ∧ gateBusy (base.tile 0) 0 = false ∧
    inOwnWindow base 0 0x101000 16 = false ∧ (0x1008 : Nat) % 16 ≠ 0 :=
  ⟨wit_ready _, by decide, by decide +kernel, by decide, by decide +kernel, by decide +kernel, by decide +kernel, by decide +kernel, by decide⟩

theorem wit_xstart_gate_held : let s := queued 4 { kind := .xstart, sub := 0, ctx := 0, iaddr := 0x3C, tf := 7, a := 0x1000, gate := some 0 } 1
    Ready s 0 0 { reads := [3] } ∧ leNat (s.bytes 0x1000 4) / 2 ^ 16 % 64 ≠ 63 ∧ gateBusy (s.tile 0) 0 = true := by
  unfold Ready; decide +kernel

theorem wit_enl : (0x4FE#11).toNat % 1024 < 255 ∧ (0x4FE#11).getLsbD 10 = true := by decide

/-- g1 = tile 1, g2 = payload at 0x1000, g3 = 64 bytes. -/
def msgState : State := withTile (fun x =>
  { x.onCx 0 (fun k => ((k.setReg 1 1).setReg 2 0x1000).setReg 3 64) with un := { resv := 1 } })

theorem wit_msg : Ready msgState 0 0 { reads := [1, 2, 3] } ∧ (0x0E#11).toNat % 16 ≠ 15 ∧
    msgCheck (fetched 0 0 msgState) 0 (rv msgState 0 0 1) (rv msgState 0 0 2) (rv msgState 0 0 3) = none ∧
    freeSend (msgState.tile 0).mail = some 0 := by unfold Ready; decide +kernel

/-- A message to tile 1 that waits in its slot. -/
def slot0 : SendSlot :=
  { dstTile := 1, dstDev := 0, remote := false, q := false, handler := 0, len := 64, payload := 0x1000, flag := 240, ctx := 1,
    iaddr := 0x3C, seq := 0, order := 0 }

theorem wit_msg_no_slot : let s := msgState.onMail 0 (fun m => { m with sends := (List.range 8).map (fun k => (k, some slot0)) })
    Ready s 0 0 { reads := [1, 2, 3] } ∧ msgCheck (fetched 0 0 s) 0 (rv s 0 0 1) (rv s 0 0 2) (rv s 0 0 3) = none ∧
    freeSend (s.tile 0).mail = none := by unfold Ready; decide +kernel

/-! ### Hub, barriers, remote accesses and home slices -/

/-- An operation of tile 0's context 0 on flag or semaphore 0. -/
def hubOp (k : HubKind) : HubOp := { t := 0, c := 0, iaddr := 0x40, kind := k, obj := 0, n := 3 }
/-- That operation at the head of the hub's traffic, its context waiting. -/
def atHub (k : HubKind) : State :=
  let w : WaitFor := if k.isFlag then .gf 0 false else .sem 0 true 3
  (withCtx (fun x => { x with st := .wait, wait := some w })).onNet (fun n => { n with hubOps := [hubOp k] })

/-- GlobalFlagOperationsAtTheHub: each kind, on a flag that is clear and one that is set. -/
theorem wit_flag_operations : ∀ k ∈ [HubKind.gfSet, .gfClr, .gfTst, .gfTas, .gfWait, .gfWaitc],
    (atHub k).dev.boot.trip = false ∧ (atHub k).net.hubOps[0]? = some (hubOp k) ∧ (hubOp k).obj < 1024 ∧
    ownedBy (atHub k).hub.ownGf (partOf (atHub k) 0) 0 = true ∧ (hubOp k).kind = k ∧ (atHub k).hub.gf.getLsbD 0 = false ∧
    ((atHub k).onHub (fun h => { h with gf := 1 })).hub.gf.getLsbD 0 = true ∧ (((atHub k).cx 0 0).wait).isSome := by decide +kernel

/-- A set answers the waiter first and then itself (09 R241). -/
theorem test_gf_set_answers_waiter : let w := { hubOp .gfWait with t := 1 }
    let s := (atHub .gfSet).onHub (fun h => { h with gfWait := [w] })
    (after (exec (.hubOperation 0 .none) s)).net.hubAns = [{ op := w, val := none }, { op := hubOp .gfSet, val := none }] := by decide +kernel

/-- SemaphoreOperationsAtTheHub: sums below 0, within and above, a wait that passes and two that do not. -/
theorem wit_semaphore_operations : ∀ k ∈ [HubKind.semSignal, .semWait, .semRead],
    (atHub k).dev.boot.trip = false ∧ (atHub k).net.hubOps[0]? = some (hubOp k) ∧ (hubOp k).obj < 256 ∧
    ownedBy (atHub k).hub.ownSem (partOf (atHub k) 0) 0 = true ∧ ((atHub k).hub.sem 0).queue = [] ∧
    (0 : Int) ≤ ((atHub k).hub.sem 0).count.toNat + (hubOp k).n.toInt ∧ ((atHub k).hub.sem 0).count.toNat < (hubOp k).n.toNat ∧
    (((atHub k).cx 0 0).wait).isSome := by decide +kernel

theorem wit_semaphore_sums : ((0#16).toNat : Int) + (0xFFFF#16).toInt < 0 ∧ 65535 < ((0xFFFF#16).toNat : Int) + (1#16).toInt ∧
    (3#16).toNat ≤ (((atHub .semWait).onSem 0 (fun m => { m with count := 3 })).hub.sem 0).count.toNat ∧
    (((atHub .semWait).onSem 0 (fun m => { m with queue := [hubOp .semWait] })).hub.sem 0).queue ≠ [] := by decide +kernel

/-- A signal to 5 serves a waiter for 3, and not the one for 3 behind it (09 R243). -/
theorem wit_semaphore_service : let w := { hubOp .semWait with t := 1 }
    let q := [w, { w with t := 2 }]
    let s := (atHub .semSignal).onSem 0 (fun m => { m with count := 2, queue := q })
    (s.hub.sem 0).queue = [w] ++ [{ w with t := 2 }] ∧ (0 : Int) ≤ (2 : Int) + (3#16).toInt ∧ (3 : Nat) ≤ 5 ∧ 5 - 3 < (3#16).toNat ∧
    (after (exec (.hubOperation 0 .none) s)).net.hubAns = [{ op := w, val := none }, { op := hubOp .semSignal, val := none }] ∧
    ((after (exec (.hubOperation 0 .none) s)).hub.sem 0).count = 2 := by decide +kernel

/-- ForeignHubObjectsFault: a flag that nobody owns. -/
theorem wit_foreign_objects : let s := withNet (fun n => { n with hubOps := [{ hubOp .gfSet with obj := 1 }] })
    s.net.hubOps[0]? = some { hubOp .gfSet with obj := 1 } ∧ ownedBy s.hub.ownGf (partOf s 0) 1 = false := by decide +kernel

/-- HubAnswerEndsTheWait: a flag's answer and a semaphore's. -/
theorem wit_hub_answer : let s := (atHub .gfTst).onNet (fun n => { n with hubAns := [{ op := hubOp .gfTst, val := some 1 }] })
    s.net.hubAns[0]? = some { op := hubOp .gfTst, val := some 1 } ∧ (hubOp .gfTst).drop = false ∧ (s.cx 0 0).st = .wait ∧
    (s.cx 0 0).wait = some (.gf 0 false) ∧ (hubOp .gfTst).kind.isFlag = true ∧ ((atHub .semRead).cx 0 0).wait = some (.sem 0 true 3) ∧
    (hubOp .semRead).kind.isFlag = false := by decide +kernel

/-- `base` with barrier 31 of tile 0 alone. -/
def barBase (n : Net) : State :=
  (base.onBar 31 (fun m => { m with masks := [(0, 1)] })).onNet (fun _ => n)
def rowArr0 : RowArr := { t := 0, c := 0, iaddr := 0x40, b := 31, tag := 0 }

/-- BarrierArrivalsAndReleases: an arrival that counts and one that does not, a last row of either scope and one that is
not the last, and a release of an ordinary barrier and of a boundary. -/
theorem wit_barrier_arrivals : let s := barBase { rowArr := [rowArr0], hubRows := [(31, 0)] }
    s.net.rowArr[0]? = some rowArr0 ∧ firstOfTile s.net.rowArr 0 0 = true ∧ participates (s.hub.bar 31) 0 = true ∧
    (Map.get {} (s.hub.bar 31).comb (tileY 0)).arrived.getLsbD (tileX 0) = false ∧ rowArr0.tag = (Map.get {} (s.hub.bar 31).comb (tileY 0)).epoch ∧
    s.net.hubRows[0]? = some (31, 0) ∧ 31 < 32 ∧ 0 < 72 ∧ rowsComplete { s.hub.bar 31 with rows := setBit (s.hub.bar 31).rows 0 true } = true ∧
    (s.hub.bar 31).scope = false ∧ participates (s.hub.bar 31) 1 = false := by decide +kernel

theorem wit_barrier_rows : let m : BarSt := { masks := [(0, 1), (71, 1)], scope := true }
    rowsComplete { m with rows := setBit m.rows 0 true } = false ∧ rowsComplete { m with rows := setBit (setBit m.rows 0 true) 71 true } = true ∧
    m.scope = true := by decide +kernel

theorem wit_barrier_release : let s := base.onBar 31 (fun m => { m with epoch := 1, due := [0] })
    let p : PlateInfo := { boundary := 31, timeout := 0, entry := 0, assign := 0, pword := 0, phase0 := 0, phases := [], tiling := [], digest := 0 }
    (s.hub.bar 31).due.contains 0 = true ∧ (Map.get {} (s.hub.bar 31).comb (tileY 0)).epoch + 1 = Map.get 0 (s.tile 0).epochs 31 + 1 ∧
    isBoundary s (partOf s 0) 31 = false ∧
    isBoundary (s.onPart 0 (fun n => { n with load := { n.load with plate := some p } })) 0 31 = true := by decide +kernel

/-- An arrival of this device's own. -/
def sysPkt0 : SysPkt := { b := 31, epoch := 0, count := 1, port := none, src := 0 }

/-- SystemBarrierPackets: alone in its system; a stale packet from a port; a release one ahead. -/
theorem wit_system_barrier : let s := withNet (fun n => { n with sysArr := [sysPkt0, { sysPkt0 with port := some 7, epoch := 9 }] })
    s.net.sysArr[0]? = some sysPkt0 ∧ s.dev.link.sizes = 0 ∧ s.dev.link.self = 0 ∧ s.dev.link.root = 0 ∧ (s.hub.bar 31).headCount = 0 ∧
    (s.hub.bar 31).rootCount = 0 ∧ s.net.sysArr[1]? = some { sysPkt0 with port := some 7, epoch := 9 } ∧ 9 ≠ (s.hub.bar 31).epoch := by
  decide +kernel

/-- Device `self` of two along Z, of which device 0 is the root, with arrivals. -/
def ofTwo (self : Nat) (dims : BitVec 16) (l : List SysPkt) : State :=
  (withNet (fun n => { n with sysArr := l })).onDev (fun d => { d with link := { d.link with sizes := dims, self := self, enabled := 0xFF } })

theorem wit_system_head : holdsSys (ofTwo 0 0 [sysPkt0]) = false ∧ lineHead (ofTwo 0 0 [sysPkt0]) = 0 ∧ ofMyLine (ofTwo 0 0 [sysPkt0]) 0 = true ∧
    dimSize (ofTwo 0 0 [sysPkt0]) 3 = 1 ∧ systemSize (ofTwo 0 0 [sysPkt0]) = 1 ∧
    (let s := ofTwo 0 0x1000 [sysPkt0]; dimSize s 3 = 2 ∧ lineHead s = 0 ∧ 0 + 1 < dimSize s 3 ∧ ofMyLine s 0 = true) ∧
    (let s := ofTwo 1 0x1000 [{ sysPkt0 with src := 1 }, { sysPkt0 with port := some 7 }];
      lineHead s ≠ s.dev.link.self ∧ s.net.sysArr[1]? = some { sysPkt0 with port := some 7 }) ∧
    (let s := ofTwo 0 1 [{ sysPkt0 with port := some 0, src := 1 }]; lineHead s = 0 ∧ ofMyLine s 1 = false ∧ s.dev.link.root = 0 ∧
      systemSize s = 2 ∧ 1 < systemSize s ∧ 2 ≤ 1 + 1) ∧
    (let s := ofTwo 1 1 [{ sysPkt0 with src := 1 }]; lineHead s = s.dev.link.self ∧ s.dev.link.self ≠ s.dev.link.root) := by decide +kernel

theorem wit_system_held : holdsSys ((ofTwo 0 1 []).onPort 0 (fun x => { x with st := pRetrain })) = true := by decide +kernel

theorem wit_system_merge : let s := ofTwo 1 1 []
    let q := barPacket s 9 0 31 7 2
    31 < 256 ∧ 7 < 2 ^ 32 ∧ 2 + 1 < 2 ^ 16 ∧ q = { barPacket s 9 0 31 7 2 with src := q.src, dl := q.dl } := by decide +kernel

theorem wit_system_release : let s := (base.onBar 31 (fun m => { m with sysWait := true })).onNet (fun n => { n with sysRel := [{ sysPkt0 with epoch := 1 }] })
    s.net.sysRel[0]? = some { sysPkt0 with epoch := 1 } ∧ (s.hub.bar 31).sysWait = true ∧ 1 = (s.hub.bar 31).epoch + 1 ∧ holdsSys s = false ∧
    releasePorts (s.onNet (fun n => { n with sysRel := dropAt 0 n.sysRel })) none = [] ∧ (base.hub.bar 31).sysWait = false := by decide +kernel

/-- An access of tile 0 to tile 1, at the last word of its SRAM. -/
def reqTo1 (op : MemOp) : MemReq := { iss := .ctx 0 0 0x40, part := 0, addr := 0x1FFFF8, op := op, sent := { leg := some (.tile 0, .tile 1) } }

/-- RemoteAccessTakesEffect: each kind of access, at a tile that serves it and at one that is fenced. -/
theorem wit_remote_access : ∀ op ∈ [MemOp.load 6 8 false false, .load 6 8 false true, .loadDesc 0, .store (zeros 8), .acc 0 (zeros 8)],
    let s := withNet (fun n => { n with reqs := [reqTo1 op] })
    let s0 := s.onNet (fun n => { n with reqs := dropAt 0 n.reqs })
    s.net.reqs[0]? = some (reqTo1 op) ∧ firstReq s.net.reqs 0 (reqTo1 op) = true ∧ arrives s (reqTo1 op).sent = true ∧ s.place 0x1FFFF8 = .sram 1 0xFFFF8 ∧
    (s.tile 1).fenced = false ∧ (s.tile 1).clearing = false ∧ partOf s 1 = 0 ∧ s.badIn 0x1FFFC0 64 = none ∧
    ownedResult s0 0x1FFFC0 64 = false ∧ mergeBad s 0x1FFFF8 8 = none ∧ ((s.onTile 1 (fun x => { x with fenced := true })).tile 1).fenced = true := by
  decide +kernel

theorem wit_remote_fill : let r := { reqTo1 (.fillStore (zeros 8)) with addr := 0x101000 }
    let s := withNet (fun n => { n with reqs := [r] })
    s.net.reqs[0]? = some r ∧ s.place 0x101000 = .sram 1 0x1000 ∧ 0x1000 % 8 = 0 ∧ 0x1000 < 0x10000 ∧ (s.tile 1).full (0x1000 / 8) = false ∧
    (∀ c < 4, feWaiter (s.tile 1) c (0x1000 / 8) = none) ∧ (zeros 8).length = 8 ∧ ((setFull 1 0x200 true s).tile 1).full (0x1000 / 8) = true ∧
    (let n := { reqTo1 (.load 6 8 false false) with iss := .nib 1 }; regionOf 1 ≠ 1 ∧ n.iss = .nib 1 ∧ ∀ k, (reqTo1 (.loadDesc 0)).iss ≠ .nib k) :=
  ⟨by decide +kernel, by decide +kernel, by decide, by decide, by decide +kernel, by decide +kernel, by decide +kernel, by decide +kernel,
    by decide +kernel, rfl, fun k h => by cases h⟩

theorem wit_remote_access_issuer : ∀ d k x p, (reqTo1 (.loadDesc 0)).iss ≠ .far d k x p := by intro d k x p h; cases h

theorem test_remote_load : (after (exec (.remoteAccessArrival 0)
      ((withNet (fun n => { n with reqs := [reqTo1 (.load 6 8 false false)] })).poke 0x1FFFF8 [1, 2]))).net.answers =
    [({ req := reqTo1 (.load 6 8 false false), res := .data [1, 2, 0, 0, 0, 0, 0, 0], sent := { leg := some (.tile 1, .tile 0) } } : MemAns)] := by
  decide +kernel

/-- Of two lines from tile 0 to tile 1 the earlier arrives first, whatever they are; the way back is another (10 R278). -/
theorem test_mesh_order : let leg := some (Node.tile 0, Node.tile 1)
    let seg : Segment := { srcDev := 0, srcTile := 0, srcIdx := 0, dstTile := 1, tag := 0, part := 0, len := 0, data := [], sent := { no := 1, leg := leg } }
    let s := withNet (fun n => { n with reqs := [reqTo1 (.load 6 8 false false)], segs := [seg] })
    arrives s { no := 1, leg := leg } = false ∧ arrives s { no := 0, leg := leg } = true ∧
    arrives s { no := 1, leg := some (.tile 1, .tile 0) } = true := by decide +kernel

/-- RemoteAnswerReachesItsContext: each form of answer. -/
theorem wit_remote_answer : ∀ a ∈ [({ req := reqTo1 (.load 6 8 true false), res := .data (zeros 8) } : MemAns),
      { req := reqTo1 (.load 6 8 false true), res := .data (zeros 64) }, { req := reqTo1 (.loadDesc 7), res := .data (zeros 32) },
      { req := reqTo1 (.store []), res := .ack }, { req := reqTo1 (.store []), res := .fault 0x0A 0x1FFFF8 }],
    (withNet (fun n => { n with answers := [a] })).net.answers[0]? = some a ∧ arrives (withNet (fun n => { n with answers := [a] })) a.sent = true ∧ a.req.iss = .ctx 0 0 0x40 ∧ (zeros 8).length = 8 ∧
    (zeros 64).length = 64 ∧ 8 < 64 := by decide +kernel

/-- A load of the last line of P0's share. -/
def bulkReq (a : Nat) : MemReq := { iss := .ctx 0 0 0x40, part := 0, addr := a, op := .load 6 8 false false }
def bulkLast : Nat := 0x4000000000 + 0x3FFFFF80

/-- HomeSliceRequests: outside the share, at its last line; the line held, on its way, and neither. -/
theorem wit_home_slice : let s := withNet (fun n => { n with slice := [bulkReq bulkLast, bulkReq (bulkLast + 0x80)] })
    s.net.slice[0]? = some (bulkReq bulkLast) ∧ arrives s (bulkReq bulkLast).sent = true ∧ firstReq s.net.slice 0 (bulkReq bulkLast) = true ∧ s.place bulkLast = .bulk ∧
    sliceBusy s (shareOwner s bulkLast) bulkLast = false ∧ inShare s 0 bulkLast = true ∧ held s (shareOwner s bulkLast) bulkLast = false ∧
    fillOf s (bulkLast / 128) = false ∧ s.net.slice[1]? = some (bulkReq (bulkLast + 0x80)) ∧
    firstReq s.net.slice 1 (bulkReq (bulkLast + 0x80)) = true ∧ s.place (bulkLast + 0x80) = .bulk ∧ inShare s 0 (bulkLast + 0x80) = false ∧
    sliceBusy s (shareOwner s (bulkLast + 0x80)) (bulkLast + 0x80) = false := by decide +kernel

theorem wit_home_slice_held : let f : Fill := { line := bulkLast / 128, waiting := [bulkReq bulkLast] }
    let s := withNet (fun n => { n with fills := [f] })
    fillOf s (bulkLast / 128) = true ∧ s.net.fills[0]? = some f ∧ held (after (exec (.bulkStoreFill 0) s)) 0 bulkLast = true := by
  decide +kernel

theorem wit_host_completion : let h : HostReq := { req := { bulkReq hostBase with op := .load 6 8 false false }, fn := 0, bus := 0, behind := 0 }
    let s := withNet (fun n => { n with hostq := [h] })
    s.net.hostq[0]? = some h ∧ h.req.op = .load 6 8 false false ∧ (zeros 8).length = 8 := by decide +kernel

theorem test_row_close : let s := base.onBulk (fun b => { b with openRows := [(127, some 5)] })
    Map.get none (after (exec (.rowClose 7 15) s)).dev.bulk.openRows 127 = none ∧
    Map.get none (after (exec (.bankRefresh 7 14) s)).dev.bulk.openRows 127 = some 5 := by decide +kernel

/-! ### Exchange, messages and the Enlarger -/

/-- A list at 0x3000 with a SEND of 64 B from 0x4000 to tile 1, a RECV of 64 B to 0x5000 and a RECV.ACC of 64 B to 0x6000
with staging at 0x7000, both from tile 1. -/
def sendSlot0 : BitVec 128 := BitVec.ofNat 128 (2 ^ 8 + 0x4000 * 2 ^ 64 + 64 * 2 ^ 84)
def recvSlot1 : BitVec 128 := BitVec.ofNat 128 (1 + 2 ^ 8 + 0x5000 * 2 ^ 64 + 64 * 2 ^ 84)
def accSlot2 : BitVec 128 := BitVec.ofNat 128 (2 + 2 ^ 8 + 2 ^ 48 + 0x6000 * 2 ^ 64 + 64 * 2 ^ 84 + 0x7000 * 2 ^ 104)
def list0 : RunList :=
  { req := { kind := .xstart, sub := 0, ctx := 0, iaddr := 0x3C, tf := 7, a := 0x3000 }, base := 0x3000, nslots := 3, gate := none,
    bitmap := 0x8000, slots := [sendSlot0, recvSlot1, accSlot2], epoch := 0 }
/-- Tile 0 runs a list, with a reservation. -/
def listing (l : RunList) : State := withTile (fun x => { x with un := { list := some l, resv := 1 } })

/-- ListsArePostedAndSent: a list of no slot and one of a SEND at 0x3000, one with a bad header, and a slot to send. -/
def handed0 (bs : Bytes) : State :=
  (withTile (fun x => { x with un := { handed := some list0.req, resv := 1 } })).poke 0x3000 bs

theorem wit_list_acceptance : let l := handed0 ([0, 0, 63, 0, 0, 0x80, 0] ++ zeros 9)
    (l.tile 0).un.handed = some list0.req ∧ (l.tile 0).un.list = none ∧
    let accepts := fun (s : State) => let r := readList list0.req s; acceptList r.2 0 list0.req r.1
    (match accepts l with | .ok x => x.nslots == 0 | .error _ => false) = true ∧
    (match accepts (handed0 ([1, 0, 63, 0, 0, 0x80, 0] ++ zeros 9 ++ toBytes sendSlot0.toNat 16)) with
      | .ok x => x.nslots == 1 | .error _ => false) = true ∧
    (match accepts (handed0 [1, 0, 63, 1]) with | .ok _ => false | .error _ => true) = true := by decide +kernel

theorem wit_send_slot : let s := listing list0
    (s.tile 0).un.list = some list0 ∧ list0.nextSend = some 0 ∧ list0.stopped = false ∧ gateOpen (s.tile 0) list0 = true ∧
    list0.outstanding.length < 16 ∧ (takeTurn 0 5 1 s).1 = true ∧ (list0.slot 0).peerDev s = s.dev.link.self ∧
    list0.tainted.contains 0 = false ∧ s.badIn (tileBase 0 + (list0.slot 0).loc) (list0.slot 0).len = none := by decide +kernel

/-- A segment from tile 1 to tile 0. -/
def seg (idx : Nat) : Segment :=
  { srcDev := 0, srcTile := 1, srcIdx := idx, dstTile := 0, tag := 0, part := 0, len := 64, data := List.replicate 64 7 }

/-- SegmentsArrive: a RECV, a RECV.ACC behind another of its group, and no slot. -/
theorem wit_segments : ∀ i ∈ [0, 1, 9], let s := (listing list0).onNet (fun n => { n with segs := [seg i] })
    s.net.segs[0]? = some (seg i) ∧ (seg i).whole = true ∧ firstSeg s.net.segs 0 (seg i) = true ∧ arrives s (seg i).sent = true ∧
    (s.tile 0).fenced = false ∧ (seg i).srcDev = s.dev.link.self ∧
    matchSlot s (seg i) = (if i = 0 then some 1 else if i = 1 then some 2 else none) ∧ (list0.slot 1).kind = 1 ∧
    overlaps { list0 with filled := [1] } 1 = [] ∧ s.dev.trace.on = 0 ∧ (list0.slot 1).len = (seg i).data.length ∧
    (list0.bitmap + 512 ≤ (list0.slot 1).loc ∨ (list0.slot 1).loc + (list0.slot 1).len ≤ list0.bitmap) := by decide +kernel

def twoAcc : RunList := { list0 with slots := [accSlot2, accSlot2 + BitVec.ofNat 128 (2 ^ 48)], nslots := 2 }

theorem wit_segment_staged : let s := (listing twoAcc).onNet (fun n => { n with segs := [seg 2] })
    matchSlot s (seg 2) = some 1 ∧ (twoAcc.slot 1).kind = 2 ∧ hasTurn { twoAcc with filled := [1] } 1 = false := by decide +kernel

theorem wit_segment_completes : let s := (listing list0).onNet (fun n => { n with segs := [seg 1] })
    let d := tileBase 0 + (list0.slot 2).loc
    matchSlot s (seg 1) = some 2 ∧ (list0.slot 2).kind = 2 ∧ hasTurn { list0 with filled := [2] } 2 = true ∧ ownedByOp s d 64 = false ∧
    s.badIn d 64 = none ∧ (accBytes (BitVec.ofNat 2 (list0.slot 2).acct) (s.bytes d 64) (seg 1).data).1.length = (list0.slot 2).len ∧
    list0.tainted.contains 2 = false ∧ overlaps { list0 with filled := [2] } 2 = [] ∧ list0.done.contains 2 = false ∧
    mergeBad s (tileBase 0 + list0.bitmap + 2 / 8) 1 = none ∧ (list0.slot 2).len = (seg 1).data.length ∧
    list0.done.length + 1 ≠ list0.nslots ∧ ({ list0 with done := [0, 1] } : RunList).done.length + 1 = list0.nslots := by decide +kernel

theorem test_segment_arrives : let s := after (exec (.segmentArrival 0) ((listing list0).onNet (fun n => { n with segs := [seg 0] })))
    s.bytes 0x503F 2 = [7, 0] ∧ s.net.segAcks.length = 1 := by decide +kernel

/-- SegmentRepliesAndTurns. -/
theorem wit_segment_replies : let l := { list0 with outstanding := [0], filled := [2], staged := [2] }
    let r : SegReply := { dstDev := 0, srcTile := 0, srcIdx := 0 }
    let s := (listing l).onNet (fun n => { n with segAcks := [r], segRefs := [r] })
    s.net.segAcks[0]? = some r ∧ s.net.segRefs[0]? = some r ∧ arrives s r.sent = true ∧ (s.tile r.srcTile).un.list = some l ∧ l.outstanding.contains r.srcIdx = true ∧
    l.stopped = false ∧ l.staged.contains 2 = true ∧ hasTurn l 2 = true ∧ l.tainted.contains 2 = false ∧
    ownedByOp s (tileBase 0 + (l.slot 2).stage) (l.slot 2).len = false ∧ s.badIn (tileBase 0 + (l.slot 2).stage) (l.slot 2).len = none := by
  decide +kernel

/-- A message record: handler context 3, Q0 of one entry of 2 lines, Q1 of none, handler 0 at PC 0x80 kind 1, handler 1 of
kind 0. -/
def rec1 : BitVec 2176 := BitVec.ofNat 2176 (3 + 1 * 2 ^ 8 + 2 * 2 ^ 16 + (0x80 + 2 ^ 30) * 2 ^ 128)
/-- The header of a message from tile 0 to tile 1. -/
def hdrTo1 (len h : Nat) : BitVec 128 := BitVec.ofNat 128 (1 + h * 2 ^ 14 + len * 2 ^ 20)
def msgTo1 (len h : Nat) : Message := { hdr := hdrTo1 len h, dstDev := 0, payload := zeros len, slot := 0 }
def receiver (f : Tile → Tile) (len h : Nat) : State :=
  (base.onTile 1 (fun x => f { x with mail := { x.mail with record := some rec1 } })).onNet (fun n => { n with msgs := [msgTo1 len h] })

/-- MessagesLeaveAndAreJudged: a message that leaves; and at its receiver each way it can end. -/
theorem wit_msg_injection : let s := withTile (fun x => { x with mail := { sends := [(7, some slot0)] }, un := { resv := 1 } })
    (s.tile 0).mail.slot 7 = some slot0 ∧ mayInject (s.tile 0).mail slot0 = true ∧ (takeTurn 0 6 1 s).1 = true ∧
    slot0.dstDev = s.dev.link.self ∧ slot0.tainted = false ∧ s.badIn (tileBase 0 + slot0.payload) slot0.len = none := by decide +kernel

theorem wit_msg_judged : let s := receiver id 64 0
    s.net.msgs[0]? = some (msgTo1 64 0) ∧ arrives s (msgTo1 64 0).sent = true ∧ (msgHeadOf (hdrTo1 64 0)).dev = s.dev.link.self ∧ (msgHeadOf (hdrTo1 64 0)).dst = 1 ∧
    (s.tile 1).mail.record = some rec1 ∧ (s.tile 1).clearing = false ∧ (s.tile 1).fenced = false ∧ (handlerEntry rec1 0).2.2 = 1 ∧
    (handlerEntry rec1 1).2.2 = 0 ∧ payloadMax (queueGeom rec1 false).2.1 = 112 ∧ (msgHeadOf (hdrTo1 120 0)).len = 120 ∧
    (queueGeom rec1 false).1 = 1 ∧ ((s.tile 1).mail.queue false).entries.length < 1 ∧ (base.tile 1).mail.record = none := by decide +kernel

theorem wit_msg_full : let e : QEntry := { idx := 0, hdr := hdrTo1 64 0, order := 0 }
    let s := receiver (fun x => { x with mail := { x.mail with q0 := { entries := [e] } } }) 64 0
    1 ≤ ((s.tile 1).mail.queue false).entries.length := by decide +kernel

theorem test_msg_accepted : (((after (exec (.messageHeaderArrival 0) (receiver id 112 0))).tile 1).mail.q0.entries.length = 1) ∧
    (after (exec (.messageHeaderArrival 0) (receiver id 120 0))).net.msgRejs.map (fun r => (r.hdr, r.slot, r.code)) = [(hdrTo1 120 0, 0, 0x09)] := by
  decide +kernel

/-- MessageRepliesAtTheSender: a slot in flight with few refusals and with 63, and one that backs off. -/
theorem wit_msg_replies : let m := { slot0 with st := .inFlight, refusals := 62 }
    let r : MsgReply := { hdr := hdrTo1 64 0, slot := 7 }
    let s := (withTile (fun x => { x with mail := { sends := [(7, some m)] } })).onNet (fun n =>
      { n with msgAcks := [r], msgNacks := [r], msgRejs := [r, { r with code := 7 }] })
    s.net.msgAcks[0]? = some r ∧ s.net.msgNacks[0]? = some r ∧ s.net.msgRejs[0]? = some r ∧ arrives s r.sent = true ∧ answeredSlot s r = some (0, 7, m) ∧
    m.refusals < 63 ∧ (s.tile 0).faulted = false ∧ r.code = 0 ∧ m.flag < 256 ∧ s.net.msgRejs[1]? = some { r with code := 7 } := by
  decide +kernel

theorem wit_msg_goes_on : let x : Tile := { faulted := true, mail := { goesOn := true } }
    x.faulted = true ∧ x.mail.goesOn = true ∧ ({ faulted := true } : Tile).mail.goesOn = false ∧ base.dev.trace.on = 0 ∧
    ({ slot0 with q := true }).key ≠ slot0.key := by decide +kernel

theorem wit_msg_retry : let m := { slot0 with st := .backingOff }
    ((withTile (fun x => { x with mail := { sends := [(7, some m)] } })).tile 0).mail.slot 7 = some m ∧ m.st = .backingOff := by decide +kernel

/-- A NACK as the 64th refusal is fault 0x08 (11 R299). -/
theorem test_nack_64 : let m := { slot0 with st := .inFlight, refusals := 63 }
    let s := (withTile (fun x => { x with mail := { sends := [(7, some m)] } })).onNet (fun n => { n with msgNacks := [{ hdr := hdrTo1 64 0, slot := 7 }] })
    ((after (exec (.nack 0) s)).net.recs.map (fun r => r.code)) = [0x08] := by decide +kernel

/-- HandlersAndTheEnlarger: a message waits in Q0 of a tile whose handler context is OFF. -/
theorem wit_handler : let e : QEntry := { idx := 0, hdr := hdrTo1 64 0, order := 0 }
    let s := withTile (fun x => { x with mail := { x.mail with record := some rec1, q0 := { entries := [e] } } })
    (s.tile 0).mail.record = some rec1 ∧ (s.tile 0).mail.handler = some 3 ∧ (s.cx 0 3).st = .off ∧ (s.tile 0).mail.running = none ∧
    (s.tile 0).clearing = false ∧ (s.tile 0).fenced = false ∧ (s.tile 0).faulted = false ∧ oldest (s.tile 0).mail.q1 = none ∧ oldest (s.tile 0).mail.q0 = some e ∧
    oldest ({ entries := [e] } : RecvQ) = some e ∧ interlocked s 0 3 { writes := [1, 2, 3, 4] } = false ∧ e.idx < 2 ^ 32 := by decide +kernel

theorem test_handler_runs : let e : QEntry := { idx := 0, hdr := hdrTo1 64 0, order := 0 }
    let s := after (exec (.handlerDispatch 0) (withTile (fun x => { x with mail := { x.mail with record := some rec1, q0 := { entries := [e] } } })))
    (s.cx 0 3).pc = 0x80 ∧ (s.cx 0 3).st = .run ∧ (s.cx 0 3).reg 2 = 64 := by decide +kernel

/-- A transfer of two lines from tile 0's 0x1000 to 0x2000 of the region, and one over the chip. -/
def enl0 (chip : Bool) : EnlReq := { t := 0, ctx := 0, iaddr := 0x3C, src := 0x1000, dst := 0x2000, lines := 2, tf := 7, chip := chip }

theorem wit_enl_start : let s := base.onRegion 0 (fun g => { g with enl := { queue := [enl0 false] } })
    (s.region 0).enl.cur = none ∧ (s.region 0).enl.queue = [enl0 false] ∧ chipWaits s 0 = false ∧
    (base.onDev (fun d => { d with root := { queue := [enl0 true] } })).dev.root.queue = [enl0 true] ∧
    (base.onDev (fun d => { d with root := { queue := [enl0 true] } })).dev.root.cur = none ∧
    (∀ r ∈ bandOf base (partOf base 0), (base.region r).enl.cur = none) := by decide +kernel

def enlBase : State := (withTile (fun x => { x with un := { resv := 1 } })).onRegion 0 (fun g => { g with enl := { cur := some (enl0 false, 0) } })

theorem wit_enl_landing : (branchOf enlBase (some 0)).cur = some (enl0 false, 0) ∧ xferWaits enlBase 0x1000 128 = false ∧ (enlAdmit (enl0 false) enlBase).1 = true ∧
    (match (enlLine (enl0 false) 0 (enlAdmit (enl0 false) enlBase).2).1 with | .ok d => d.length == 128 | .error _ => false) = true ∧
    0 + 1 < (enl0 false).lines ∧ (enl0 false).dst + 128 * (enl0 false).lines ≤ 0x100000 ∧ 255 ∈ enlTargets enlBase (enl0 false) ∧
    (enlBase.tile 255).clearing = false ∧ 1 + 1 = (enl0 false).lines ∧ enlBase.dev.trace.on = 0 ∧ 255 ≠ (enl0 false).t := by decide +kernel

/-! ### Links and reductions -/

/-- `base` as device 0 of two along X, with port 0 enabled in a state. -/
def linked (x : PortSt) : State :=
  ((base.onDev (fun d => { d with link := { d.link with sizes := 1, enabled := 0xFF, sizesSet := true, selfSet := true } })).onPort 0 (fun _ => x))

/-- The lines of a flit, the first of which begins a packet of two. -/
def lines0 : Bytes := toBytes (2 ^ 65) 16 ++ (zeros 30 ++ (zeros 30 ++ (zeros 30 ++ (zeros 30 ++ (zeros 30 ++ (zeros 30 ++ (zeros 30 ++ zeros 30)))))))
/-- A flit with a header of the given low 96 bits and a CRC. -/
def goodFlit (head crc : Nat) : Bytes := toBytes head 12 ++ (toBytes crc 4 ++ lines0)

/-- A fold that evaluates its sum at every step. -/
def eagerFold (f : Nat → Byte → Nat) : Bytes → Nat → Nat
  | [], c => c
  | b :: l, 0 => eagerFold f l (f 0 b)
  | b :: l, c + 1 => eagerFold f l (f (c + 1) b)

theorem eagerFold_eq (f : Nat → Byte → Nat) (l : Bytes) (c : Nat) : eagerFold f l c = l.foldl f c := by
  induction l generalizing c with
  | nil => rfl
  | cons b l ih => cases c <;> exact ih _

def crcByte (c : Nat) (b : Byte) : Nat := crcBits 8 (c ^^^ b.toNat)

theorem fold_chunk {a b : Bytes} {c c' r : Nat} (h : eagerFold crcByte a c = c') (hr : b.foldl crcByte c' = r) :
    (a ++ b).foldl crcByte c = r := by rw [List.foldl_append, ← eagerFold_eq crcByte a, h, hr]

theorem fold_last {a : Bytes} {c c' : Nat} (h : eagerFold crcByte a c = c') : a.foldl crcByte c = c' := by rw [← eagerFold_eq, h]

theorem crc_of {bs : Bytes} {r : Nat} (h : bs.foldl crcByte 0xFFFFFFFF = r) : crc32 bs = r ^^^ 0xFFFFFFFF := by rw [← h]; rfl

/-- The Ethernet CRC-32 of two headers with that line, as zlib's crc32 computes it (12 R316). -/
theorem test_crc0 : crc32 (toBytes (2 ^ 5) 12 ++ lines0) = 0x6f55338a :=
  crc_of (r := 0x90aacc75) (fold_chunk (c' := 0x9c1be268) (by decide +kernel) <|
    fold_chunk (c' := 0xb152ccb) (by decide +kernel) <|
    fold_chunk (c' := 0x17ecb90a) (by decide +kernel) <|
    fold_chunk (c' := 0x36c1b358) (by decide +kernel) <|
    fold_chunk (c' := 0xa0e9c723) (by decide +kernel) <|
    fold_chunk (c' := 0x63376e8c) (by decide +kernel) <|
    fold_chunk (c' := 0xe3ad184b) (by decide +kernel) <|
    fold_chunk (c' := 0x9966c941) (by decide +kernel) <|
    fold_chunk (c' := 0x409996e5) (by decide +kernel) <|
    fold_last (by decide +kernel))

theorem test_crc5 : crc32 (toBytes (2 ^ 5 + 5 * 2 ^ 8) 12 ++ lines0) = 0xb46b6188 :=
  crc_of (r := 0x4b949e77) (fold_chunk (c' := 0xed4c4e2a) (by decide +kernel) <|
    fold_chunk (c' := 0x4d85ccf) (by decide +kernel) <|
    fold_chunk (c' := 0x6ded22fe) (by decide +kernel) <|
    fold_chunk (c' := 0x415b743f) (by decide +kernel) <|
    fold_chunk (c' := 0xd8e9f77c) (by decide +kernel) <|
    fold_chunk (c' := 0x54da02d0) (by decide +kernel) <|
    fold_chunk (c' := 0xa02df556) (by decide +kernel) <|
    fold_chunk (c' := 0x50ad59) (by decide +kernel) <|
    fold_chunk (c' := 0xbb2cbe60) (by decide +kernel) <|
    fold_last (by decide +kernel))

/-- LinksTrainCarryAndFail: the expected partner at the fewest lanes, a wrong one, and each flit. -/
theorem wit_training : let s := linked { st := 1 }
    let a : Partner := { dev := 1, port := 1, lowLatency := false, lanes := 2 }
    canTrain s 0 = true ∧ (s.port 0).noTiles = false ∧ a.dev % 2 ^ 16 = a.dev ∧ a.dev = neighbour s 0 ∧ a.port = oppositePort 0 ∧
    a.lowLatency = s.dev.link.lowLat.getLsbD 0 ∧ 2 ≤ a.lanes ∧ (0 ≠ neighbour s 0) ∧ (s.port 0).egress = [] ∧ (s.port 0).replay = [] ∧
    s.dev.link.sysHeld = [] ∧ canTrain (linked { st := 1, noTiles := true }) 0 = true ∧ ((linked { st := 1, noTiles := true }).port 0).noTiles = true := by
  decide +kernel

/-- A flit with the CRC of its header and line is good. -/
theorem goodFlit_good (head : Nat) (crc : Nat) (h : crc32 (toBytes head 12 ++ lines0) = crc) :
    flitCrcOk (goodFlit head crc) = true := by
  have h1 : (goodFlit head crc).take 12 = toBytes head 12 := List.take_left' (by simp)
  have h2 : (goodFlit head crc).drop 16 = lines0 := by
    unfold goodFlit; rw [← List.append_assoc]; exact List.drop_left' (by simp)
  have h3 : ((goodFlit head crc).drop 12).take 4 = toBytes crc 4 := by
    unfold goodFlit; rw [List.drop_left' (by simp), List.take_left' (by simp)]
  have h4 : (goodFlit head crc).length = 272 := by simp [goodFlit, lines0]
  have h5 : crc < 2 ^ (8 * 4) := h ▸ crc32_lt _
  rw [flitCrcOk, h1, h2, h3, leNat_toBytes, h4, h, Nat.mod_eq_of_lt h5]
  simp

def flit0 : Bytes := goodFlit (2 ^ 5) 0x6f55338a
def flit5 : Bytes := goodFlit (2 ^ 5 + 5 * 2 ^ 8) 0xb46b6188

theorem wit_flits : let s := linked { st := pUp }
    (s.port 0).st = pUp ∧ ((some 2).isSome && flitCrcOk flit0) = true ∧ (flitHead flit0).ftype = 0 ∧ (flitHead flit0).seq = (s.port 0).expSeq ∧
    (flitHead flit0).cls < 6 ∧ 1 ≤ (flitHead flit0).lines ∧ (flitHead flit0).lines ≤ 4 ∧
    packetWhole (Map.get [] (s.port 0).partial' (flitHead flit0).cls ++ (List.range (flitHead flit0).lines).flatMap (flitLine flit0)) = false ∧
    ((some 0).isSome && flitCrcOk flit5) = true ∧ (flitHead flit5).seq ≠ (s.port 0).expSeq ∧
    ((none : Option Nat).isSome && flitCrcOk (zeros 272)) = false :=
  ⟨by decide +kernel, by rw [flit0, goodFlit_good _ _ test_crc0]; rfl, by decide +kernel, by decide +kernel, by decide +kernel,
    by decide +kernel, by decide +kernel, by decide +kernel, by rw [flit5, goodFlit_good _ _ test_crc5]; rfl, by decide +kernel, rfl⟩

/-- A flit without a codeword raises the NAK (12 R317). -/
theorem test_flit : ((after (exec (.flitReceived 0 none (zeros 272) .none) (linked { st := pUp }))).port 0).nak = true := by decide +kernel

theorem wit_port_states : ((linked { st := pUp, nak := true }).port 0).nak = true := by decide +kernel

theorem wit_retrain_and_detour : let s := (linked { st := pSetup }).onPort 2 (fun _ => { st := pUp })
    let d := s.onDev (fun d => { d with link := { d.link with detours := 0xA } })
    ((linked { st := pRetrain }).port 0).st = pRetrain ∧ s.dev.link.sysHeld = [] ∧ (d.port 0).st = pSetup ∧ detourOf d 0 = some 2 ∧ 2 ≠ 0 ∧
    legOpen d 2 = true ∧ (∀ e ∈ (d.port 0).egress, e.1 ≠ 5) ∧ (∀ r ∈ (d.port 0).replay, r.cls ≠ 5) := by decide +kernel

/-- A command of P0 at port 0 for tile 0: 32 elements a chunk, SUM, gate 28, flag 1023 at the end. -/
def rd0 : RdCtx := { cmd0 := BitVec.ofNat 64 (2 + 1023 * 2 ^ 8 + 2 ^ 18), cmd1 := BitVec.ofNat 64 (2 ^ 13), cmd2 := BitVec.ofNat 64 (0x1000 + 0x2000 * 2 ^ 20 + 32 * 2 ^ 40) }
def ringing (x : RdCtx) : State := ((linked { st := pUp, rd := [(0, x)] }).onBar 28 (fun m => { m with scope := true })).onHub
  (fun h => { h with ownBar := [(0, 1), (28, 1), (31, 1)] })
/-- `rd0` with flag 1022, which is another partition's. -/
def rdFar : RdCtx := { rd0 with cmd0 := BitVec.ofNat 64 (2 + 1022 * 2 ^ 8 + 2 ^ 18) }

/-- ReductionEngineRuns: a good command and a bad one; one whose gate has released; a segment that matches none and a result;
the end; and the clearing of RDNF. -/
theorem wit_rd_go : fullRights (.nib 0) = false ∧ actsFor (ringing rd0) (.nib 0) 0 = true ∧ (1#64).getLsbD 0 = true ∧
    rdOk (ringing rd0) 0 0 = true ∧ rdOk (ringing { rd0 with cmd1 := 0 }) 0 0 = false ∧ (2#64).getLsbD 0 = false ∧
    (∀ f, (Writer.nib 0) = .host f → hostServed (ringing rd0) f = true) ∧ rdOwns (ringing rd0) 0 (ringOf (ringing rd0) 0 0) = true ∧
    rdOk (ringing rdFar) 0 0 = true ∧ rdOwns (ringing rdFar) 0 (ringOf (ringing rdFar) 0 0) = false :=
  ⟨by decide +kernel, by decide +kernel, by decide, by decide +kernel, by decide +kernel, by decide, (fun f h => by cases h),
    by decide +kernel, by decide +kernel, by decide +kernel⟩

theorem wit_reduction_start : let s := (ringing { rd0 with busy := true }).onBar 28 (fun m => { m with epoch := 1 })
    s.dev.boot.trip = false ∧ (rdCtx s 0 0).busy = true ∧ (rdCtx s 0 0).started = false ∧ (s.hub.bar (ringOf s 0 0).gate).epoch ≠ (rdCtx s 0 0).epoch := by decide +kernel

/-- A result chunk 1 of 32 FP32 elements for the device before its owner. -/
def result1 (k : Ring) : Packet := { dst := 0, src := 1, part := 0, kind := 8, hdr := redHdr k false true 1 0 0, data := zeros 128 }

theorem wit_reduction_segment : let s0 := ringing { rd0 with busy := true, started := true, agOn := true }
    let k := ringOf s0 0 0
    let s := s0.onPort 0 (fun x => { x with rdIn := [result1 k, { result1 k with part := 6 }] })
    s.dev.boot.trip = false ∧ (s.port 0).rdIn[0]? = some (result1 k) ∧ ((s.port 0).rdIn.take 0).all (fun r => r.part ≠ (result1 k).part) = true ∧ (result1 k).part < 6 ∧
    segMatches s k (result1 k) = true ∧ nbit (result1 k).hdr.toNat 21 = true ∧ k.down = fld (result1 k).hdr.toNat 22 4 ∧
    6 ≤ ({ result1 k with part := 6 } : Packet).part := by decide +kernel

theorem wit_reduction_done : let s := ringing { rd0 with busy := true, started := true, rsGot := 32, agOn := true, agGot := 32 }
    let k := ringOf s 0 0
    s.dev.boot.trip = false ∧ (rdCtx s 0 0).busy = true ∧ (rdCtx s 0 0).started = true ∧ k.phaseElems ≤ (rdCtx s 0 0).rsGot ∧ (rdCtx s 0 0).agOn = true ∧
    k.phaseElems ≤ (rdCtx s 0 0).agGot ∧ ringUnacked s k.out 0 = false ∧ k.gfv = true ∧ ownedBy s.hub.ownGf 0 k.gf = true ∧ k.gf < 1024 ∧
    ownedBy s.hub.ownGf 0 1022 = false ∧ (ringOf (ringing rdFar) 0 0).gfv = true ∧ (ringOf (ringing rdFar) 0 0).gf = 1022 ∧
    (ringOf (ringing { rd0 with cmd0 := 2 }) 0 0).gfv = false := by
  decide +kernel

theorem wit_rdnf : writerPart base (.nib 0) < 6 ∧ (∀ k < 6, k ≠ writerPart base (.nib 0) → (1#64).getLsbD k = false) ∧
    (2#64).getLsbD 1 = true ∧ 1 ≠ writerPart base (.nib 0) := by decide +kernel

/-! ### Nib cores, power, commits -/

/-- A phase table of one phase with two variants: both maps give each tile 1 token; the entry at 64, the map at 96. -/
def phases0 : Bytes := toBytes (1 + 64 * 2 ^ 32) 64 ++ toBytes (96 * 2 ^ 96) 16 ++ zeros 16 ++ List.replicate 128 0x11
/-- P0 runs a Plate with these phases, boundary barrier 31. -/
def plate0 (ps : Bytes) : PlateInfo :=
  { boundary := 31, timeout := 0, entry := 0, assign := 0, pword := 0x800, phase0 := 0, phases := ps, tiling := [], digest := 0 }
def plated (ps : Bytes) (p : Pool) : State :=
  (base.onPart 0 (fun n => { n with load := { n.load with st := 2, plate := some (plate0 ps) } })).onRegion 0 (fun g =>
    { g with nib := { alive := true, declaring := true }, pool := p })

/-- NibCoresWatchAndDeclare. -/
theorem wit_timeout_scan : (base.region 0).nib.alive = true ∧ anyHalted base (partOfRegion base 0) = false ∧
    faultDue base 0 = false ∧ commitDue base 0 = false ∧ declareDue base 0 = false ∧
    (base.region 2).nib.alive = false ∧ waitTimeout base (partOfRegion base 0) = some 10000000 ∧
    (let s := withCtx (fun k => { k with st := .wait, wait := some (.tf 3 true) })
     (0, 0, WaitFor.tf 3 true) ∈ timedWaits s 0 ∧ s.net.cancels.all (fun k => !(k.t == 0 && k.c == 0)) = true) ∧
    waitTimeout (base.onPart 0 (fun n => { n with load := { n.load with plate := some { plate0 [] with timeout := 0xFFFFFFFF } } })) 0 = none := by
  decide +kernel

theorem wit_wait_cancel : let k : Cancel := { t := 0, c := 0, wait := .tf 3 true }
    let s := (withCtx (fun x => { x with st := .wait, wait := some (.tf 3 true) })).onNet (fun n => { n with cancels := [k] })
    s.net.cancels[0]? = some k ∧ (s.tile 0).waitsFor 0 (.tf 3 true) = true ∧ answered s 0 0 = false ∧ (s.tile 0).faulted = false ∧
    (base.tile 0).waitsFor 0 (.tf 3 true) = false := by decide +kernel

/-- A record of tile 0. -/
def rec2 : Rec :=
  { code := 0x05, severity := 1, scope := 0, tile := 0, ctx := 0, iaddr := 0, daddr := 0, step := 0, time := 0, tepoch := 0, part := 0,
    src := 0, aux := 0, progress := 0 }

theorem wit_fault_record : let s := (withNet (fun n => { n with recs := [rec2] })).onBlot (fun b => { b with policy := 0 })
    (base.region 0).inService = true ∧ (base.region 0).nib.alive = true ∧ s.net.recs[0]? = some rec2 ∧ recReady s 0 rec2 = true ∧
    policyStops s rec2.part.toNat = false ∧ s.dev.trace.on = 0 ∧ rec2.severity ≠ 4 ∧ rec2.severity ≠ 5 ∧ (s.part rec2.part.toNat).load.st ≠ 1 ∧ s.dev.blot.pinned.length < 64 ∧
    64 ≤ (s.onBlot (fun b => { b with pinned := List.replicate 64 rec2 })).dev.blot.pinned.length := by decide +kernel

theorem wit_phase_declaration : let s := plated phases0 { published := 256, hwBound := 256, window := true }
    (s.part 0).load.plate = some (plate0 phases0) ∧ partOfRegion s 0 = 0 ∧ (s.part 0).load.st = 2 ∧ (s.region 0).nib.alive = true ∧
    (s.region 0).nib.declaring = true ∧ boundaryReached s 0 31 = true ∧ faultDue s 0 = false ∧ commitDue s 0 = false ∧
    (s.region 0).pool.window = true ∧ (s.region 0).nib.stopped = false ∧ ((plated phases0 {}).region 0).pool.window = false ∧ s.dev.trace.on = 0 ∧
    (match readDecl s 0 (plate0 phases0) false (bandOf s 0).length with
      | .ok d => (chooseVariant s 0 (0 - leadRegion s 0) phases0 d.ph).isSome &&
          (chooseVariant (plated phases0 { published := 255, hwBound := 256 }) 0 0 phases0 d.ph).isNone
      | .error _ => false) = true ∧
    (match readDecl (plated [] { window := true }) 0 (plate0 []) false 1 with | .ok _ => false | .error e => decide (e = .invalid)) = true := by
  decide +kernel

/-- PowerHeatAndTime: a map of 256 tokens at a pool of 256 and at one of 255; the window closed. -/
def ones : BitVec 1024 := BitVec.ofNat 1024 (leNat (List.replicate 128 0x11))

theorem wit_ap_decl : let s := base.onRegion 0 (fun g => { g with pool := { published := 256, hwBound := 256, window := true, map := ones } })
    let p := (s.region 0).pool
    ownsPool (.nib 0) 0 = true ∧ p.window = true ∧ (1#64).getLsbD 0 = true ∧ s.dev.trace.on = 0 ∧ mapSum p.map ≤ p.published ∧
    mapSum p.map ≤ p.hwBound ∧ 255 < mapSum p.map ∧ ownsPool (.nib 1) 0 = false ∧ (base.region 0).pool.window = false := by decide +kernel

theorem wit_publications : base.dev.boot.pwronN = true ∧ base.dev.boot.trip = false ∧ (base.region 0).inService = true ∧
    trippedBy [[440]] [] = some 0 ∧ trippedBy [[439]] [0, 0, 0, 439] = none := by decide +kernel

theorem wit_setpoint_lowering : let s := (plated phases0 { published := 255, hwBound := 256, waiting := true, waitedNs := 999999 }).onPower (fun w => { w with setpoint := 760 })
    (s.region 0).pool.waiting = true ∧ 1000000 ≤ (s.region 0).pool.waitedNs + 1 ∧ capBars s 0 = false ∧ 750 < s.dev.power.setpoint ∧ s.dev.power.avsWait ≤ 1 ∧
    1 < (s.onPower (fun w => { w with avsWait := 2 })).dev.power.avsWait := by
  decide +kernel

theorem wit_setpoint_step : let s := base.onPower (fun w => { w with plan := 740 })
    exchangeIdle base = true ∧ s.dev.power.avsWait = 0 ∧ s.dev.power.plan < s.dev.power.setpoint ∧
    (base.onPower (fun w => { w with plan := 760 })).dev.power.setpoint < 760 ∧ mayReturn base = true ∧
    exchangeIdle (base.onPart 0 (fun n => { n with load := { n.load with st := 2 } })) = false ∧
    (let warm := (base.onRegion 0 (fun g => { g with pool := { g.pool with tj := 280 } })).onRegion 1 (fun g => { g with pool := { g.pool with tj := 280 } })
     fitsLimits (lowerFor 700 warm) = true ∧
     fitsLimits (lowerFor 700 (warm.onRegion 0 (fun g => { g with pool := { g.pool with reserved := 5000 } }))) = false) := by decide +kernel

/-- A measurement that is due 24 h after the last, and one that is not; 25 h after it one is deferred. -/
theorem wit_fade : fadeDue (addHours 24 base).dev.power = true ∧ fadeDue (addHours 23 base).dev.power = false ∧ exchangeIdle base = true ∧
    25 ≤ base.dev.power.sinceMeasured + 25 ∧ base.dev.power.sinceMeasured + 24 < 25 := by decide +kernel

/-- 110 C trips; 109.75 C holds; 106 C releases (15 R417, R418). -/
theorem test_thermal_read : let cool := List.replicate 17 [100, 100, 100, 100, 100]
    (after (exec (.thermalRead ([100, 440, 0, 0, 0] :: cool) [0, 0, 0, 0]) base)).dev.boot.trip = true ∧
    ((after (exec (.thermalRead ([100, 439, 0, 0, 0] :: cool) [0, 0, 0, 0]) base)).region 0).pool.hold = true ∧
    ((after (exec (.thermalRead ([424, 0, 0, 0, 0] :: cool) [0, 0, 0, 0]) (base.onRegion 0 (fun g => { g with pool := { hold := true } })))).region 0).pool.hold = false := by
  decide +kernel

/-- A commit description with its shard at P0's share. -/
def commit0 : Commit :=
  { shard := 0x4000000000, bankA := 0x4000100000, bankB := 0x4000200000, nown := 0, u := 0, cbar := 31, tile := 0, flag := 255, stepFlag := 1023,
    rule := 0, b1 := 0, b2 := 0, s0 := 0, smin := 0, smax := 0, grow := 0, j := 7 }

theorem wit_commits : let s := base.onPart 0 (fun p => { p with load := { p.load with st := 2 }, commit := { desc := some commit0, uSignal := true, cSignal := true } })
    (s.part 0).commit.desc = some commit0 ∧ (s.part 0).load.st = 2 ∧ leadAlive s 0 = true ∧
    faultDue s (leadRegion s 0) = false ∧ (s.part 0).commit.uSignal = true ∧
    (s.part 0).commit.cSignal = true ∧ commit0.flag < 256 ∧ commit0.stepFlag < 1024 := by decide +kernel

/-- The seed of step 3 of job 7 (13 R368). -/
theorem test_seed : seedFor 7 3 = 7 + 3 * 0xA7C15E933B6D0F27#64 := rfl

theorem wit_scrubs : base.place 0x4000000000 = .bulk ∧ bulkLineBad base (0x4000000000 / 128) = false ∧
    bulkLineBad (base.onBulk (fun b => { b with scrubbed := [(0, 1)], badLines := [0x4000000000 / 128] })) (0x4000000000 / 128) = true ∧
    0x4000000000 / 128 = bulkBase / 128 + base.dev.bulk.patrolAt ∧ 0x4000000080 / 128 ≠ bulkBase / 128 + base.dev.bulk.patrolAt ∧
    0x4000000000 / 128 + 1 < (bulkBase + base.dev.bulk.gib * gib) / 128 ∧
    base.dev.trace.sample = 0 ∧ (base.onTrace (fun t => { t with sample := 1 })).dev.trace.sample ≠ 0 := by decide +kernel

theorem wit_background_scrub : let s := base.onBulk (fun b => { b with gib := 1, scrubbed := [(0, 1023)] })
    (List.range (s.dev.bulk.gib * 1024)).find? (fun g => !isScrubbed s g) = some 1023 := by decide +kernel

/-! ### The keys of the Bulk Store -/

/-- AES-256 of FIPS 197, example C.3. -/
theorem test_aes : aesEnc (aesKeys (List.range 32)) ((List.range 16).map (fun i => 0x11 * i)) =
    [0x8E, 0xA2, 0xB7, 0xCA, 0x51, 0x67, 0x45, 0xBF, 0xEA, 0xFC, 0x49, 0x90, 0x4B, 0x49, 0x60, 0x89] ∧
    aesDec (aesKeys (List.range 32)) [0x8E, 0xA2, 0xB7, 0xCA, 0x51, 0x67, 0x45, 0xBF, 0xEA, 0xFC, 0x49, 0x90, 0x4B, 0x49, 0x60, 0x89] =
      (List.range 16).map (fun i => 0x11 * i) := by decide +kernel

/-- The first block of vector 10 of IEEE 1619, which 17 R477 names: XTS-AES-256, data unit 0xFF, bytes 0, 1, 2 and so on. -/
theorem test_xts : (xtsLine false 0x92459474098205513799931697418802952783336462842393975853265941312776966649575999699370245777496226357174286053234590452818281827 0xFF
    ((List.range 128).map (fun i => BitVec.ofNat 8 i))).take 16 = [0x1C, 0x3B, 0x3A, 0x10, 0x2F, 0x77, 0x03, 0x86, 0xE4, 0x83, 0x6C, 0x99, 0xE3, 0x70, 0xCF, 0x9B] := by decide +kernel

/-! ### The signature of a challenge -/

/-- ECDSA P-384 with SHA-384 over "sample", RFC 6979 A.2.6. -/
theorem test_ecdsa : ecdsaOk 0xEC3A4E415B4E19A4568618029F427FA5DA9A8BC4AE92E02E06AAE5286B300C64DEF8F0EA9055866064A254515480BC13
    0x8015D9B72D7D57244EA8EF9AC0C621896708A59367F9DFB9F54CA84B3F1C9DB1288B231C3AE0D4FE7344FD2533264720
    0x94EDBB92A5ECB8AAD4736E56C691916B3F88140666CE9FA73D64C4EA95AD133C81A648152E44ACF96E36DD1E80FABE46
    0x99EF4AEB15F178CEA1FE40DB2603138F130E740A19624526203B6351D0A3A94FA329C145786E679E7B82C71A38628AC8
    [0x73, 0x61, 0x6D, 0x70, 0x6C, 0x65] = true := by decide +kernel

/-! ### Registers and debug -/

/-- RegisterCommandsTakeEffect: writes that R102 permits and one that it bars. -/
theorem wit_block_writes : ∀ o ∈ [0x058, 0x100, 0x118, 0x120, 0x138, 0x050, 0x240],
    blockWriteFault base (.tile 0) 0 o 1 = none ∧ blockWriteFault base (.nib 1) 0 o 1 = some 0x0A := by decide +kernel

theorem wit_hub_writes : byTile (.nib 0) = false ∧ ownMask base (.nib 0) base.hub.ownGf (64 * 15) 64 = 2 ^ 63 ∧
    (BitVec.ofNat 64 (2 ^ 63)).toNat &&& 2 ^ 63 = (BitVec.ofNat 64 (2 ^ 63)).toNat ∧ byTile (.tile 0) = true ∧
    ownMask base (.nib 0) base.hub.ownSem 255 1 ≠ 0 ∧ (base.hub.sem 255).queue = [] ∧ ownMask base (.nib 0) base.hub.ownSem 254 1 = 0 ∧
    ownMask base (.nib 0) base.hub.ownGf (64 * 1) 64 = 0 ∧ (1#64).toNat &&& 2 ^ 63 ≠ (1#64).toNat := by decide +kernel

theorem wit_nib_is_no_host : ∀ f, Writer.nib 0 = .host f → hostServed base f = true ∧ fnPart base f ≠ 7 := by intro f h; cases h

theorem test_gf_set_register : (after (exec (.gfSetRegister (.nib 0) 15 (BitVec.ofNat 64 (2 ^ 63))) base)).hub.gf.getLsbD 1023 = true := by
  decide +kernel

theorem wit_rc_ctl : sliceFenced base (.nib 0) 0 = false ∧ ownsSlice base (.nib 0) 0 = true ∧
    ((base.onRc 0 (fun c => { c with busy := some .zero })).region 0).rc.busy = some .zero ∧ base.dev.boot.trip = false := by decide +kernel

/-- `base` with a link to the host. -/
def hosted : State := base.onPcie (fun p => { p with linkUp := true })

/-- A tile's own block read by a function that acts for its partition, and a fenced tile's. -/
theorem wit_host_block : hostServed hosted 0 = true ∧ actsFor hosted (.host 0) (partOf hosted 0) = true ∧ (hosted.tile 0).fenced = false ∧
    (hosted.tile 0).clearing = false ∧ readBar0 hosted 0 0x1000000 = some (blockWord hosted 0 0).toNat ∧
    readBar0 (hosted.onTile 0 (fun x => { x with fenced := true })) 0 0x1000000 = none := by decide +kernel

theorem wit_host_pages : pageServed hosted 0 = true ∧ tableOf hosted 0 = some 0 ∧ fld (0#64).toNat 3 9 = 0 ∧
    (Map.get 0#64 ((hosted.onPart 0 (fun p => { p with transHi := [(255, 16777216#64)] })).part 0).transHi 255).toNat ≤ 16777216 := by
  decide +kernel

theorem wit_register_write : base.place (regBase + 0x11FF240) = .block 4607 0x240 ∧ (regBase + 0x11FF240) % 8 = 0 ∧
    base.place (devBase + 0x80) = .devreg 0x80 ∧ (devBase + 0x81) % 8 ≠ 0 ∧ (0x17F8 : Nat) % 8 = 0 ∧ 0x1000 ≤ 0x17F8 ∧ 0x17F8 < 0x1800 := by
  decide +kernel

/-- `base` with device scope unlocked. -/
def opened (s : State) : State := s.onSec (fun k => { k with unlock := 0x80 })

/-- DebuggerHaltsAndSteps: no locked sequence and one; a halted context; a halt that waits; partitions; and each path. -/
theorem wit_debug : mayDebug (opened base) .debugger (partOf base 0) = true ∧ haltWaits (opened base) 0 = false ∧
    haltWaits (opened (atHub .gfTas)) 0 = true ∧ lockedOp (opened (atHub .gfTas)) 0 0 = true ∧
    ((withCtx (fun k => { k with st := .halt })).cx 0 0).st = .halt ∧ ((withCtx (fun k => { k with st := .halt })).cx 0 0).wait = none ∧
    mayDebug base .debugger (partOf base 0) = false ∧
    ((withTile (fun x => { x with dbg := { hold := true, waiting := true } })).tile 0).dbg.waiting = true ∧
    haltWaits (withTile (fun x => { x with dbg := { hold := true, waiting := true } })) 0 = false ∧
    (maskParts 3).all (mayDebug (opened base) .debugger) = true ∧ (maskParts 3).all (mayDebug base .debugger) = false := by decide +kernel

/-- The first word of tile 0's SRAM is 9. -/
def openMem : State := opened (base.poke 0 [9])

theorem wit_debug_access : pathOpen openMem .jtag = true ∧ dbgAccess .jtag (0#64).toNat none openMem = (some 9, openMem) := by decide +kernel

/-- The windows of function 0 with a link, of a virtual function before the device is compute-ready, and the JTAG path locked. -/
theorem wit_debug_paths : pathOpen hosted (.window 0) = true ∧
    (let s := (hosted.onPcie (fun p => { p with vfEnable := true })).onBoot (fun b => { b with st := 4 })
     pathOpen s (.window 6) = false ∧ fnExists s 6 = true ∧ (s.fn 6).d3 = false) ∧ pathOpen base .jtag = false ∧ (2#2) ≠ (0#2) := by
  decide +kernel

/-- A context halted in a wait goes back to it. -/
theorem wit_debug_wait : let s := withCtx (fun k => { k with st := .halt, wait := some (.tf 3 true), haltedInWait := true })
    (s.cx 0 0).st = .halt ∧ (s.cx 0 0).wait = some (.tf 3 true) ∧
    ((after (exec (.dbgStep .debugger 0 0) (opened s))).cx 0 0).st = .wait := by decide +kernel

/-- A debugger's register writes: what is unlocked, what is not, and after a trip. -/
theorem wit_debugger_writes : unlockedAll (opened base) (devScope base 0x80) = true ∧ unlockedAll base (devScope base 0x80) = false ∧
    unlockedAll base (devScope base (0x1000030 + 0x1000 * 17)) = false ∧ unlockedAll base (devScope base (0x1800 + 8 * 255)) = false ∧
    (base.onBoot (fun b => { b with trip := true })).dev.boot.trip = true := by decide +kernel

theorem wit_event_input : let s := base.onTrace (fun t => { t with evIn := 0x80 })
    s.dev.boot.pwronN = true ∧ 100 ≤ 100 ∧ s.dev.trace.evIn.getLsbD 7 = true ∧ s.dev.trace.evOut.getLsbD 7 = false := by decide +kernel

theorem test_halt : let s := after (exec (.dbgHalt .debugger 0 false) (opened base))
    (s.cx 0 0).st = .halt ∧ (s.cx 0 1).st = .off ∧ ((after (exec (.dbgResume .debugger 0) s)).cx 0 0).st = .run := by decide +kernel

/-! ### The dictionary -/

/-- `base` with its management port on id 5. -/
def managed : State := base.onMgmt (fun g => { g with nodeId := 5, plcaOk := true })

/-- Whether a write reaches its entry and nothing bars it, by a test that can be evaluated. -/
def writeRunsNow (s : State) (r : Req) : Bool :=
  hears s r.path && (storedAnswer s r).isNone && decide (s.dev.mgmt.pend.length < 8) && !badHeader r &&
  (match originalOf r.index.toNat with
  | some (idx, m) => ((vfPath r.path).isNone || m == vfPath r.path) && inState s idx m &&
      (match entryRow m idx r.sub.toNat with
      | some e => (writeBar s r m idx e).isNone
      | none => false)
  | none => false)

theorem writeRuns_of {s : State} {r : Req} (h : writeRunsNow s r = true) : WriteRuns s r := by
  unfold writeRunsNow at h
  split at h
  · rename_i idx m ho
    split at h
    · rename_i e he
      simp only [Bool.and_eq_true, Bool.or_eq_true, Bool.not_eq_true', Option.isNone_iff_eq_none, decide_eq_true_eq, beq_iff_eq] at h
      obtain ⟨⟨⟨⟨h1, h2⟩, h3⟩, h4⟩, ⟨h5, h6⟩, h7⟩ := h
      refine ⟨idx, m, e, ⟨h1, h2, h3, h4, ho, ?_, h6, he⟩, h7⟩
      intro hv
      rcases h5 with h5 | h5
      · rw [h5] at hv; cases hv
      · exact h5
    · simp at h
  · simp at h

/-- DeviceEntryCommands: every entry that a command of its own writes. -/
theorem wit_device_entries : ∀ x ∈ [(0x2400, 6, [1#8]), (0x2A00, 1, [1]), (0x30A0, 1, [1]), (0x35A0, 1, [1]), (0x2600, 9, [1]), (0x2700, 0xA, [1]),
      (0x2900, 7, [1]), (0x2D00, 3, [4]), (0x2D00, 5, [1]), (0x2D00, 8, [0xFF]), (0x2D00, 0xA, zeros 96), (0x2D00, 0xC, [1]),
      (0x2300, 2, [1]), (0x2C10, 1, [1]), (0x2B00, 9, [1]), (0x2B00, 1, [0]), (0x2B00, 1, [1]), (0x2000, 4, [1])],
    WriteRuns managed (plainReq mgmtHdr 2 (BitVec.ofNat 16 x.1) (BitVec.ofNat 8 x.2.1) x.2.2) := by
  have h : ∀ x ∈ [(0x2400, 6, [1#8]), (0x2A00, 1, [1]), (0x30A0, 1, [1]), (0x35A0, 1, [1]), (0x2600, 9, [1]), (0x2700, 0xA, [1]),
      (0x2900, 7, [1]), (0x2D00, 3, [4]), (0x2D00, 5, [1]), (0x2D00, 8, [0xFF]), (0x2D00, 0xA, zeros 96), (0x2D00, 0xC, [1]),
      (0x2300, 2, [1]), (0x2C10, 1, [1]), (0x2B00, 9, [1]), (0x2B00, 1, [0]), (0x2B00, 1, [1]), (0x2000, 4, [1])],
    writeRunsNow managed (plainReq mgmtHdr 2 (BitVec.ofNat 16 x.1) (BitVec.ofNat 8 x.2.1) x.2.2) = true := by decide +kernel
  exact fun x hx => writeRuns_of (h x hx)

theorem wit_slot_write : WriteRuns managed { plainReq mgmtHdr 4 0x2D00 4 [1] with offset := 7 } := writeRuns_of (by decide +kernel)

theorem wit_device_entry_conditions : let s := managed.onSec (fun k => { k with otp := 3, svn := 4, asked := some (0xFF, 0) })
    s.dev.sec.otp < (4#8).toNat ∧ (4#8).toNat ≤ s.dev.sec.svn ∧ lockedOut s = false ∧
    0 + minuteNs < timeNow (s.onTime (fun t => { t with time := 60000000001 })) ∧ (traceOn managed).isSome = true := by decide +kernel

/-- An entry is asked for and nothing stands in the way, by a test that can be evaluated. -/
theorem wit_asked : ∃ e, Asked managed (plainReq mgmtHdr 1 0x2B00 0x13 []) 0x2B00 none e := by
  have h : (entryRow none 0x2B00 0x13).isSome = true := by decide +kernel
  obtain ⟨e, he⟩ := Option.isSome_iff_exists.mp h
  exact ⟨e, by decide +kernel, by decide +kernel, by decide +kernel, by decide +kernel, by decide +kernel, by decide +kernel, by decide +kernel, he⟩

/-- DictionaryRequests: a path that hears and one that does not; reads and subscriptions of 0x1100:02. -/
theorem wit_dictionary : isDoorbell mgmtHdr.path = false ∧ hears managed mgmtHdr.path = true ∧ hears base mgmtHdr.path = false ∧
    (match entryRow none 0x1100 2 with | some e => decide (e.acc ≠ .wo) | none => false) = true ∧
    (readEntry managed none 0x1100 2).length = 1 ∧ managed.dev.mgmt.subs.length < 32 ∧ [0#8, 0, 0, 0].drop 2 = [0#8, 0#8] ∧
    badHeader (plainReq mgmtHdr 5 0x1100 2 [0, 0, 0, 0]) = false ∧ badHeader (plainReq mgmtHdr 6 0x1100 2 []) = false ∧
    badHeader { plainReq mgmtHdr 3 0x1100 2 [] with count := 1, length := 1 } = false := by decide +kernel

theorem wit_dictionary_write : writeRunsNow managed (plainReq mgmtHdr 2 0x1100 2 [7]) = true ∧
    writeRunsNow managed (plainReq mgmtHdr 2 0x1100 2 [7, 7]) = false ∧
    writeRunsNow managed { plainReq mgmtHdr 4 0x2800 1 [1] with offset := 11 } = true := by decide +kernel

/-- A subscription whose value has changed, one millisecond later. -/
def sub0 : Sub := { src := 1, txn := 9, index := 0x1100, sub := 2, ms := 1, last := 0, value := [31] }

theorem wit_notify : let s := (managed.onMgmt (fun g => { g with subs := [sub0] })).onTime (fun t => { t with time := 1000000 })
    s.dev.mgmt.subs[0]? = some sub0 ∧ s.dev.boot.pwronN = true ∧ sub0.current s ≠ sub0.value ∧ sub0.last + 1000000 * sub0.ms ≤ timeNow s := by
  decide +kernel

/-- One that is queued already, or whose interval has not passed, sends nothing more (17 R462). -/
theorem wit_notify_not_due : let s := managed.onMgmt (fun g => { g with subs := [sub0] })
    timeNow s < sub0.last + 1000000 * sub0.ms ∧
    (let a : IdpAns := { path := .mgmt 1, op := 0xC0, txn := 9, index := 0x1100, sub := 2, status := 0, data := [] }
     let s := s.onMgmt (fun g => { g with queue := [a] })
     s.dev.mgmt.queue.any sub0.sends = true ∧ s.dev.mgmt.queue.filter (mayLeave s) = []) := by decide +kernel

theorem wit_final_answer : let q : IdpPend := { path := .mgmt 1, op := 0x82, txn := 9, index := 0x3080, sub := 0x41, final := 0 }
    let s := managed.onMgmt (fun g => { g with pend := [q] })
    s.dev.mgmt.pend[0]? = some q ∧ q.final ≠ 0xFF ∧ q.drop = false ∧ s.dev.mgmt.nodeId ≠ 0 ∧ s.dev.mgmt.plcaOk = true := by decide +kernel

/-- The final answer of a capture. -/
theorem wit_dump_answer : let q : IdpPend := { path := .mgmt 1, op := 0x82, txn := 9, index := 0x2A00, sub := 1, final := 0xFF }
    (managed.onMgmt (fun g => { g with pend := [q] })).dev.mgmt.pend[0]? = some q ∧ originalOf q.index.toNat = some (0x2A00, none) := by
  decide +kernel

/-- A capture that still runs at its final answer, and a time measurement. -/
theorem wit_run_answers : (endDump (startDump (withNet (fun n => { n with recs := [rec2] })))).hub.dump.st = 1 ∧
    (endDump (startDump base)).hub.dump.st ≠ 1 ∧
    originalOf 0x2C10 = some (0x2C10, none) ∧ base.dev.align.run = none ∧
    (base.onDev (fun d => { d with align := { d.align with run := some { pos := [], neg := [], above := [] } } })).dev.align.run ≠ none := by
  decide +kernel

/-- 0x1100:02 takes its new value only once the answer has left (17 R466). -/
theorem test_staged_setting : let s := after (exec (.idpWrite mgmtHdr 0x1100 2 [7]) managed)
    s.dev.mgmt.toTimer = 32 ∧ (s.dev.mgmt.queue.map (fun a => a.status)) = [0] ∧ (after (exec .transmitOpportunity s)).dev.mgmt.toTimer = 7 := by
  decide +kernel

/-- A repeated request is answered again and not run again (17 R460). -/
theorem test_repeat : let s := after (exec (.idpWrite mgmtHdr 0x2400 6 [1]) managed)
    (after (exec (.idpWrite mgmtHdr 0x2400 6 [1]) s)).dev.mgmt.queue.length = 2 := by decide +kernel

/-! ### Tenants and loads -/

/-- `managed` with partition 0's tenant and load changed. -/
def tenanted (f : Part → Part) : State := managed.onPart 0 f

/-- TenantAndLoadCommands: each command's entry in P0's and P5's mirror, and each condition. -/
theorem wit_tenant_entries : ∀ x ∈ [(0x3080, 0x41, [1#8]), (0x3080, 0x41, [2]), (0x3580, 0x41, [3]), (0x3080, 0x24, [1]), (0x3080, 0x24, [2]), (0x3080, 0x24, [3]),
      (0x3080, 0x24, [4]), (0x3580, 0x24, [5]), (0x30E0, 0x20, [1]), (0x35E0, 0x20, [2]), (0x2800, 5, [1])],
    WriteRuns managed (plainReq mgmtHdr 2 (BitVec.ofNat 16 x.1) (BitVec.ofNat 8 x.2.1) x.2.2) := by
  have h : ∀ x ∈ [(0x3080, 0x41, [1#8]), (0x3080, 0x41, [2]), (0x3580, 0x41, [3]), (0x3080, 0x24, [1]), (0x3080, 0x24, [2]), (0x3080, 0x24, [3]),
      (0x3080, 0x24, [4]), (0x3580, 0x24, [5]), (0x30E0, 0x20, [1]), (0x35E0, 0x20, [2]), (0x2800, 5, [1])],
    writeRunsNow managed (plainReq mgmtHdr 2 (BitVec.ofNat 16 x.1) (BitVec.ofNat 8 x.2.1) x.2.2) = true := by decide +kernel
  exact fun x hx => writeRuns_of (h x hx)

theorem wit_tenant_conditions : (managed.part 0).load.st ≠ 1 ∧ (managed.part 0).tn.cmd ≠ 1 ∧
    ((tenanted (fun p => { p with tn := { p.tn with newId := 5 } })).part 0).tn.newId ≠ 0 ∧ (managed.part 0).tn.cur = 0 ∧
    switchBar (tenanted (fun p => { p with tn := { p.tn with cur := 5 } })) 0 = none ∧ (managed.part 0).tn.autoLoad ≠ 1 ∧
    ((tenanted (fun p => { p with load := { p.load with st := 2 } })).part 0).load.st = 2 ∧ managed.dev.boot.st = 5 ∧
    applyResult managed = 1 ∧ applyResult (managed.onDev (fun d => { d with staged := { d.staged with weights := 0 } })) ≠ 1 ∧
    (managed.part 0).commit.desc = none ∧ ((tenanted (fun p => { p with commit := { desc := some commit0 } })).part 0).commit.desc = some commit0 := by
  decide +kernel

theorem wit_served_load : ((serveFaults 0 (heard (tenanted (fun p => { p with load := { p.load with st := 2 } })) mgmtHdr.path)).part 0).load.st = 2 := by
  decide +kernel

theorem wit_doorbell : pageServed hosted 0 = true ∧ doorbellPending hosted 0 = false ∧ computeReady hosted = true ∧ hosted.dev.mgmt.pend.length < 8 := by
  decide +kernel

theorem test_assign : let s := after (exec (.assign mgmtHdr 0) (tenanted (fun p => { p with tn := { p.tn with newId := 5 } })))
    (s.part 0).tn.cur = 5 ∧ (s.part 1).tn.cur = 0 := by decide +kernel

/-! ### Host, resets, SPDM, start-up -/

/-- HostResetsAndPowerStates and SpdmResponder. -/
theorem wit_host : configServed hosted 0 = true ∧ configServed base 1 = false ∧
    configServed (hosted.onPcie (fun p => { p with vfEnable := true })) 6 = true ∧ fnExists hosted 0 = true ∧ fnExists base 0 = false ∧
    base.dev.boot.pcieFailed = false ∧ (hosted.fn 0).spdm < 1 ∧ 3 ≤ ((hosted.onFn 0 (fun x => { x with spdm := 3 })).fn 0).spdm ∧
    ((0x80#32).getLsbD 7 && (2#32).getLsbD 1) = true ∧ ((0#32).getLsbD 7 && (2#32).getLsbD 1) = false ∧
    askedIndices 0 0xFF = some (measured 0) ∧ askedIndices 0 0xFE = none := by decide +kernel

theorem wit_link_up : let b := base.dev.boot
    b.pwronN = true ∧ b.perstN = true ∧ b.trip = false ∧ b.pcieFailed = false ∧ b.times[2]? = some 0xFFFFFFFF ∧
    (base.onBoot (fun b => { b with times := b.times.set 2 5 })).dev.boot.times[2]?.getD 0 ≠ 0xFFFFFFFF#32 ∧
    (base.onBoot (fun b => { b with perstN := false })).dev.boot.perstN = false := by decide +kernel

theorem test_flr : let s := hosted.onPcie (fun p => { p with vfEnable := true, fns := [(0, { mask := 1 }), (6, { mask := 1 })] })
    ((after (exec (.flr 6) s)).fn 6).mask = 0 ∧ ((after (exec (.flr 6) s)).fn 0).mask = 1 ∧ ((after (exec (.flr 0) s)).fn 6).mask = 0 := by
  decide +kernel

/-- `hosted` with function 0 at a step of its SPDM session. -/
def talking (k : Nat) : State := hosted.onFn 0 (fun x => { x with spdm := k })
def spdmOf (ver : Byte) (p2 : Byte) (body : Bytes) : SpdmReq := { ver := ver, p1 := 0, p2 := p2, body := body }

/-- SpdmResponder: each request where it is answered, and each error. -/
theorem wit_spdm : fnExists (talking 3) 0 = true ∧ (((talking 3).fn 0).spdm) = 3 ∧ fnExists (talking 3) 1 = false ∧
    12 + (spdmOf 0x13 0 (zeros 40)).body.length ≤ 4096 ∧ ¬ 12 + (zeros 4085).length ≤ 4096 ∧ (spdmOf 0x11 0 []).ver ≠ 0x13 ∧
    (bodyBit (spdmOf 0x13 0 (zeros 4 ++ [0x80] ++ zeros 3 ++ [2] ++ zeros 19)) 4 7 &&
      bodyBit (spdmOf 0x13 0 (zeros 4 ++ [0x80] ++ zeros 3 ++ [2] ++ zeros 19)) 8 1) = true ∧
    bodyBit (spdmOf 0x13 0 (zeros 28)) 4 7 = false ∧ askedIndices 0 0xFF = some (measured 0) ∧ askedIndices 0 0xFE = none ∧
    ({ spdmOf 0x13 0xFF (zeros 41) with p1 := 1 } : SpdmReq).p1.getLsbD 0 = true := by decide +kernel

/-- VERSION offers 1.3 (17 R485), and the Discovery answer's layout is DMTF's. -/
theorem test_get_version : (((after (exec (.getVersion 0) hosted)).fn 0).doe) = [0x10, 0x04, 0, 0, 0, 1, 0x00, 0x13] := by
  decide +kernel

/-- A device all of whose parts pass, with firmware in slot A alone. -/
def good : Silicon :=
  { mgtId := 5, bootSel := 0, marchFailed := [], logicFailed := [], meshFailed := [], nibFailed := [], rcFailed := [], sites := 0xFF, hubOk := true, pcieOk := true,
    slotState := [0, 1], slotSvn := [1, 0], slotVersion := [1, 0], temps := List.replicate 18 [100, 100, 100, 100, 100],
    periphery := [100, 100, 100, 100], beats := List.replicate 18 100000, hops := List.replicate 18 100000,
    rowCounts := List.replicate 72 1000, regionCounts := List.replicate 18 1000, stepTimes := [1, 2, 3, 4, 5, 6, 7, 8] }

/-- StartUpAndPowerLoss: each start. -/
theorem wit_starts : State.reset.dev.boot.pwronN = false ∧ base.dev.boot.pwronN = true ∧ ({ good with bootSel := 3 } : Silicon).bootSel = 3 ∧
    good.bootSel ≠ 3 ∧ startSlot (romSteps good State.reset).dev.sec good.bootSel.toNat = some false ∧
    startSlot (romSteps { good with slotState := [1, 2] } State.reset).dev.sec 0 = none ∧
    trippedBy good.temps good.periphery = none ∧ (trippedBy [[440]] []).isSome = true ∧ regionPasses { good with nibFailed := [17] } 17 = false := by
  decide +kernel

/-- A start with the strap of ROM_MGMT stays there (17 R471). -/
theorem test_start : (after (exec (.pwronRstN { good with bootSel := 3 }) State.reset)).dev.boot.st = 1 := by decide +kernel

/-- TileWordsRoundTrip. -/
theorem wit_round_trip : encodeTile (.ld 0 0 8 3 6 0 2 .none) = some 0x5103C002#32 ∧ decodeTile 0 0 0x5103C002#32 = some (.ld 0 0 8 3 6 0 2 .none) :=
  ⟨rfl, rfl⟩

/-- MemoryStaysCanonical: a canonical memory that lists something, and a step that changes it. -/
theorem wit_canonical : Memory.wf (base.poke 0x1000 [5]).mem ∧
    (after (step { base.poke 0x1000 [5] with pending := [.st 0 0 0 3 0 0 0] })).mem = [] := by decide +kernel

/-- StepRunsTheFrontCommand and NoCommandStops: a command waits, and none does. -/
theorem wit_step : base.pending = [] ∧ (after (step { base with pending := [.addi 0 0 6 1 1, .plcaStatusChange true] })).pending = [.plcaStatusChange true] ∧
    rv (after (step { base with pending := [.addi 0 0 6 1 1] })) 0 0 6 = 6 := by decide +kernel

/-- ResetState: the host's two questions on a row that gives no bits. -/
theorem test_table_words : decodeTableWord 32 0 = none ∧ (State.reset.withFetchWord 32 0).pending = [] := by decide +kernel

/-! ### The package: the manual's own examples (19 R527, R536), and the ends of its tables -/

theorem test_balls : rowName 5 = "E" ∧ ballAt 5 55 = .link 5 2 ⟨true, true⟩ ∧ rowName 72 = "CT" ∧ ballAt 72 7 = .signal "PERST_N" ∧
    rowName 36 = "AV" ∧ ballAt 71 12 = .gnd ∧ ballAt 67 2 = .pcie 15 ⟨false, false⟩ ∧ ballAt 10 9 = .supply .io ∧
    ballAt 36 39 = .supply .core := by decide +kernel

theorem test_package : idcode = 0x14608B67#32 ∧ lidLimit 350 = 69250 ∧ flashAt 0x1105FFF = .ageing 511 47 ∧
    flashAt 0x800000 = .slotB 0 ∧ (List.map fnOffset [0, 1, 6]) = [0, 1, 6] ∧
    railsLegal (fun r => r == .aon || r == .io) powerUpOrder = true ∧
    railsLegal (fun r => r == .aon || r == .core) powerUpOrder = false := by decide +kernel

end Sys2Proof.Tests
end

/-!
What start-up and the loss of reset or supply decide (01 R19, R22, R25, R26; 17 R468, R469, R471). The part of a state that
start-up decides is read off it as one value, and each operation that start-up runs either keeps that value or changes it by
an equation.
-/
namespace Sys2Proof.Machine

/-! ### What start-up decides -/

/-- What start-up decides: the queue, the start, the firmware and the regions in service. -/
structure StartView where
  pending : List Instr
  pwronN : Bool
  bootSel : BitVec 2
  st : Byte
  trip : Bool
  regions : BitVec 18
  sec : Security
  serving : List Bool

/-- What a state holds of it. -/
def State.startView (s : State) : StartView where
  pending := s.pending
  pwronN := s.dev.boot.pwronN
  bootSel := s.dev.boot.bootSel
  st := s.dev.boot.st
  trip := s.dev.boot.trip
  regions := s.dev.boot.regions
  sec := s.dev.sec
  serving := (List.range 18).map (fun r => (s.region r).inService)

theorem State.startView_sec (s : State) : s.startView.sec = s.dev.sec := rfl

/-- What a thermal trip makes of it (15 R418). -/
def StartView.tripped (v : StartView) : StartView := { v with st := 7, trip := true }

theorem foldl_startView {α : Type} (g : State → α → State) (h : ∀ s x, (g s x).startView = s.startView) (l : List α) (s : State) :
    (l.foldl g s).startView = s.startView := by
  induction l generalizing s with
  | nil => rfl
  | cons x l ih => rw [List.foldl_cons, ih, h]

/-! ### Updates of the state

The proofs say `by rfl` and not `rfl`, so that `simp` can use them under the binders of a fold's hypothesis. -/

@[simp] theorem State.onTile_startView (s : State) (t : Nat) (f : Tile → Tile) : (s.onTile t f).startView = s.startView := by rfl
@[simp] theorem State.onCx_startView (s : State) (t c : Nat) (f : Ctx → Ctx) : (s.onCx t c f).startView = s.startView := by rfl
@[simp] theorem State.onPart_startView (s : State) (n : Nat) (f : Part → Part) : (s.onPart n f).startView = s.startView := by rfl
@[simp] theorem State.onPort_startView (s : State) (p : Nat) (f : PortSt → PortSt) : (s.onPort p f).startView = s.startView := by rfl
@[simp] theorem State.onNet_startView (s : State) (f : Net → Net) : (s.onNet f).startView = s.startView := by rfl
@[simp] theorem State.onHub_startView (s : State) (f : Hub → Hub) : (s.onHub f).startView = s.startView := by rfl
@[simp] theorem State.onSem_startView (s : State) (n : Nat) (f : SemSt → SemSt) : (s.onSem n f).startView = s.startView := by rfl
@[simp] theorem State.onBar_startView (s : State) (n : Nat) (f : BarSt → BarSt) : (s.onBar n f).startView = s.startView := by rfl
@[simp] theorem State.onOut_startView (s : State) (f : Out → Out) : (s.onOut f).startView = s.startView := by rfl
@[simp] theorem State.onPcie_startView (s : State) (f : Pcie → Pcie) : (s.onPcie f).startView = s.startView := by rfl
@[simp] theorem State.onFn_startView (s : State) (k : Nat) (f : Fn → Fn) : (s.onFn k f).startView = s.startView := by rfl
@[simp] theorem State.onPower_startView (s : State) (f : Power → Power) : (s.onPower f).startView = s.startView := by rfl
@[simp] theorem State.onTime_startView (s : State) (f : Timing → Timing) : (s.onTime f).startView = s.startView := by rfl
@[simp] theorem State.onBulk_startView (s : State) (f : Bulk → Bulk) : (s.onBulk f).startView = s.startView := by rfl
@[simp] theorem State.onBlot_startView (s : State) (f : Blotter → Blotter) : (s.onBlot f).startView = s.startView := by rfl

/-- A change of what start-up does not decide of the start. -/
@[simp] theorem State.onBoot_startView (s : State) (f : Boot → Boot)
    (h : ∀ b, (f b).pwronN = b.pwronN ∧ (f b).bootSel = b.bootSel ∧ (f b).st = b.st ∧ (f b).trip = b.trip ∧ (f b).regions = b.regions) :
    (s.onBoot f).startView = s.startView := by
  obtain ⟨hpwron, hsel, hst, htrip, hregions⟩ := h s.dev.boot
  simp only [State.startView, State.onBoot_dev_boot, hpwron, hsel, hst, htrip, hregions]
  rfl

@[simp] theorem State.poke_startView (s : State) (a : Nat) (bs : Bytes) : (s.poke a bs).startView = s.startView := by rfl
@[simp] theorem onMesh_startView (leg : Option (Node × Node)) (f : Sent → Net → Net) (s : State) :
    (onMesh leg f s).startView = s.startView := by rfl

/-- A region's change that leaves it in or out of service. -/
@[simp] theorem State.onRegion_startView (s : State) (r : Nat) (f : Reg → Reg) (h : ∀ g, (f g).inService = g.inService) :
    (s.onRegion r f).startView = s.startView := by
  have hr : ∀ q, ((s.onRegion r f).region q).inService = (s.region q).inService := by
    intro q
    rw [State.region_onRegion]
    split
    · next e => rw [e, h]
    · rfl
  simp [State.startView, hr]

@[simp] theorem State.onRc_startView (s : State) (r : Nat) (f : RcSlice → RcSlice) : (s.onRc r f).startView = s.startView :=
  State.onRegion_startView s r _ (fun _ => rfl)

/-! ### Records, stops and interrupts -/

@[simp] theorem raiseRec_startView (r : Rec) (s : State) : (raiseRec r s).startView = s.startView := by
  simp [raiseRec, apply_ite State.startView]

@[simp] theorem leaveHub_startView (t c : Nat) (s : State) : (leaveHub t c s).startView = s.startView := by
  unfold leaveHub
  dsimp only
  split <;> rfl

@[simp] theorem stopTile_startView (t : Nat) (s : State) : (stopTile t s).startView = s.startView := by
  simp [stopTile, apply_ite State.startView]

@[simp] theorem tileFault_startView (t : Nat) (fi : FaultInfo) (s : State) : (tileFault t fi s).startView = s.startView := by
  simp [tileFault, apply_ite State.startView]

@[simp] theorem raiseCause_startView (k i : Nat) (s : State) : (raiseCause k i s).startView = s.startView := by
  simp [raiseCause, signalMsi, apply_ite State.startView]

@[simp] theorem causeAll_startView (i : Nat) (s : State) : (causeAll i s).startView = s.startView :=
  foldl_startView _ (fun s k => raiseCause_startView k i s) _ s

/-- A change of the device state changes nothing else of it (17 R468). -/
theorem setDevState_startView (n : Nat) (s : State) :
    (setDevState n s).startView = { s.startView with st := BitVec.ofNat 8 n } := by
  unfold setDevState
  split
  · next h => simp [State.startView, ← h]
  · rw [causeAll_startView]; rfl

@[simp] theorem updateLevel_startView (s : State) : (updateLevel s).startView = s.startView := by
  simp [updateLevel, apply_ite State.startView]

/-! ### Packets that a port gives up -/

@[simp] theorem settleFar_startView (port : Option Nat) (txn : Nat) (v : MemReq → MemRes) (s : State) :
    (settleFar port txn v s).startView = s.startView := by
  unfold settleFar
  split <;> rfl

@[simp] theorem wakeFences_startView (t : Nat) (s : State) : (wakeFences t s).startView = s.startView := by
  simp [wakeFences, apply_ite State.startView]

@[simp] theorem freeSlot_startView (t k : Nat) (s : State) : (freeSlot t k s).startView = s.startView := by
  simp [freeSlot, wakeSend, onSend, State.onMail, apply_ite State.startView]

/-- A read of a map whose entries all changed alike. -/
theorem Map.get_map {α : Type} (d : α) (f : α → α) (hd : f d = d) (m : SMap α) (k : Nat) :
    Map.get d (m.map (fun p => (p.1, f p.2))) k = f (Map.get d m k) := by
  induction m with
  | nil => exact hd.symm
  | cons p m ih => by_cases hp : p.1 = k <;> simp [Map.get, hp, ih]

/-- What the units see of a write keeps every region in or out of service. -/
@[simp] theorem touchWrite_startView (a n : Nat) (s : State) (own : Bool) : (touchWrite a n s own).startView = s.startView := by
  unfold touchWrite
  dsimp only
  split
  · rfl
  · have hr : ∀ r, (Map.get ({} : Reg) (s.regions.map (fun p : Nat × Reg => (p.1, { p.2 with enl := p.2.enl.touch a n }))) r).inService =
        (s.region r).inService := fun r => by
      rw [Map.get_map ({} : Reg) (fun g : Reg => { g with enl := g.enl.touch a n }) rfl]; rfl
    exact congrArg (fun l => { s.startView with serving := l }) (List.map_congr_left fun r _ => hr r)

@[simp] theorem writeShared_startView (a : Nat) (bs : Bytes) (s : State) (own : Bool) :
    (writeShared a bs s own).startView = s.startView := by
  rw [writeShared, State.poke_startView, touchWrite_startView]

@[simp] theorem stopRing_startView (k : Ring) (s : State) : (stopRing k s).startView = s.startView := by
  have hdraw : ∀ n s, (drawBytes n s).2.startView = s.startView := fun _ _ => rfl
  simp [stopRing, onRd, foldl_startView, hdraw]

theorem unreachAt_startView (t dst port kind tag : Nat) (s : State) : (unreachAt t dst port kind tag s).startView = s.startView := by
  unfold unreachAt
  dsimp only
  split
  case h_1 => split <;> simp [stopList, onList, apply_ite State.startView]
  case h_2 => split <;> simp [sendFault]
  case h_5 => split <;> simp [ringFault]
  all_goals simp

@[simp] theorem enqueue_startView (p k : Nat) (q : Packet) (s : State) : (enqueue p k q s).startView = s.startView := by
  simp [enqueue, drain]

@[simp] theorem holdSys_startView (f : Nat) (q : Packet) (s : State) : (holdSys f q s).startView = s.startView := by rfl

/-- A packet that leaves changes ports and what the link switch holds. -/
theorem sendOut_startView {f : Nat} {dl : Bool} {q : Packet} {s s' : State} (h : sendOut f dl q s = some s') :
    s'.startView = s.startView := by
  unfold sendOut at h
  dsimp only at h
  split at h
  · cases h; simp
  · split at h
    · cases h; simp
    · split at h
      · split at h <;> cases h; simp
      · cases h

theorem originate_startView {q : Packet} {s s' : State} (h : originate q s = .ok s') : s'.startView = s.startView := by
  unfold originate routeOut at h
  split at h
  · cases h; rfl
  · dsimp only at h
    split at h
    · next hs => cases h; exact sendOut_startView hs
    · cases h

@[simp] theorem undeliverable_startView (port : Nat) (q : Packet) (s : State) : (undeliverable port q s).startView = s.startView := by
  unfold undeliverable
  split
  · rfl
  · split
    · exact unreachAt_startView ..
    · split
      · next h => exact originate_startView h
      · rfl

@[simp] theorem releaseSys_startView (s : State) : (releaseSys s).startView = s.startView := by
  unfold releaseSys
  split
  · rfl
  · refine (foldl_startView _ (fun s p => ?_) _ _).trans ((foldl_startView _ (fun s e => ?_) _ _).trans rfl)
    · split <;> rfl
    · cases h : sendOut e.1 e.2.dl e.2 s with
      | none => exact undeliverable_startView ..
      | some s' => exact sendOut_startView h

@[simp] theorem giveUp_startView (p : Nat) (s : State) : (giveUp p s).startView = s.startView :=
  (foldl_startView _ (fun s q => undeliverable_startView p q s) _ _).trans rfl

@[simp] theorem markDown_startView (p : Nat) (s : State) : (markDown p s).startView = s.startView := by
  simp [markDown, apply_ite State.startView]

@[simp] theorem settlePorts_startView (s : State) : (settlePorts s).startView = s.startView := by
  rw [settlePorts, updateLevel_startView, releaseSys_startView]
  exact foldl_startView _ (fun s p => by simp [apply_ite State.startView]) _ s

/-! ### Partitions at start -/

@[simp] theorem bulkPut_startView (a : Nat) (bs : Bytes) (s : State) : (bulkPut a bs s).startView = s.startView := by
  have hmem : ∀ (s : State) (m : List Host.Cell) (l : List Nat), { s with mem := m, bad := l }.startView = s.startView :=
    fun _ _ _ => rfl
  simp [bulkPut, scrubGranule, openGranule, openRow, settleLine, hmem, apply_ite State.startView]

@[simp] theorem scanSets_startView (op : RcOp) (r lo hi : Nat) (s : State) : (scanSets op r lo hi s).startView = s.startView := by
  simp [scanSets, writeBack, foldl_startView, apply_ite State.startView]

@[simp] theorem enforce_startView (g : Staged) (s : State) : (enforce g s).startView = s.startView := by
  simp [enforce, settleBars, invalSlice, foldl_startView]

theorem formPartitions_startView (s : State) : (formPartitions s).startView = s.startView := by
  have hP0 : (formP0 s).startView = s.startView := by
    unfold formP0
    split <;> simp
  simp [formPartitions, hP0, apply_ite State.startView]

/-! ### Heat, beats and the first measurement -/

theorem thermalTrip_startView (k : Nat) (s : State) : (thermalTrip k s).startView = s.startView.tripped := by
  have htrip : ∀ s : State, (s.onBoot (fun b => { b with trip := true })).startView = { s.startView with trip := true } := fun _ => rfl
  simp [thermalTrip, setDevState_startView, cutLink, dropHeld, htrip, StartView.tripped]

@[simp] theorem Reg.heat_inService (g : Reg) (l : List Int) : (g.heat l).inService = g.inService := by rfl

@[simp] theorem Reg.window_inService (g : Reg) (beat hop : Nat) : (g.window beat hop).inService = g.inService := by
  unfold Reg.window
  split <;> rfl

/-- Readings trip the device where a sensor stands at 110 °C, and decide nothing else. -/
theorem readHeat_startView (temps : List (List Int)) (per : List Int) (s : State) :
    (readHeat temps per s).startView = if (trippedBy temps per).isSome then s.startView.tripped else s.startView := by
  unfold readHeat
  dsimp only
  split
  · next k hk => simp [thermalTrip_startView, hk, foldl_startView]
  · next hk => simp [hk, foldl_startView]

@[simp] theorem dropLimits_startView (s : State) : (dropLimits s).startView = s.startView := by
  simp [dropLimits, foldl_startView]

@[simp] theorem publishBeats_startView (beats hops : List Nat) (s : State) : (publishBeats beats hops s).startView = s.startView := by
  simp [publishBeats, foldl_startView, apply_ite State.startView]

@[simp] theorem sendSetpoint_startView (mv : Nat) (s : State) : (sendSetpoint mv s).startView = s.startView := by
  simp [sendSetpoint]

@[simp] theorem stepTrims_startView (s : State) : (stepTrims s).startView = s.startView := by
  unfold stepTrims
  dsimp only
  split <;> simp [foldl_startView]

@[simp] theorem replan_startView (s : State) : (replan s).startView = s.startView := by
  simp [replan, endLowering, apply_ite State.startView]

@[simp] theorem logAgeing_startView (rows regions : List Int) (s : State) : (logAgeing rows regions s).startView = s.startView := by
  simp [logAgeing, apply_ite State.startView]

@[simp] theorem measure_startView (rowCounts regionCounts : List Nat) (s : State) :
    (measure rowCounts regionCounts s).startView = s.startView := by
  simp [measure, foldl_startView]

/-- The first readings, measurement and pools trip the device where a sensor stands at 110 °C, and decide nothing else. -/
theorem powerSteps_startView (si : Silicon) (s : State) :
    (powerSteps si s).startView =
      if (trippedBy si.temps si.periphery).isSome then s.startView.tripped else s.startView := by
  rw [← readHeat_startView]
  unfold powerSteps
  dsimp only
  split
  · simp [foldl_startView]
  · simp [foldl_startView, apply_ite Reg.inService]

/-! ### BIST and repair -/

/-- The bits of a mask that is set bit by bit. -/
theorem getLsbD_foldl_setBit {w : Nat} (p : Nat → Bool) (n : Nat) (hn : n ≤ w) (m : BitVec w) (j : Nat) :
    ((List.range n).foldl (fun m r => setBit m r (p r)) m).getLsbD j = if j < n then p j else m.getLsbD j := by
  induction n with
  | zero => simp
  | succ n ih =>
    rw [List.range_succ, List.foldl_append, List.foldl_cons, List.foldl_nil, getLsbD_setBit _ _ _ _ (by omega), ih (by omega)]
    by_cases hj : j = n
    · simp [hj]
    · simp [hj, show (j < n + 1) = (j < n) by simp; omega]

/-- The regions after each of the first ones was changed. -/
theorem foldl_onRegion_region (f : Nat → Reg → Reg) (n : Nat) (s : State) (q : Nat) :
    ((List.range n).foldl (fun s r => s.onRegion r (f r)) s).region q = if q < n then f q (s.region q) else s.region q := by
  induction n with
  | zero => simp
  | succ n ih =>
    rw [List.range_succ, List.foldl_append, List.foldl_cons, List.foldl_nil, State.region_onRegion, ih]
    by_cases hq : q = n
    · subst hq
      simp [ih]
    · simp [hq, show (q < n + 1) = (q < n) by simp; omega]

/-- The mask of the regions that pass (01 R22). -/
def passMask (si : Silicon) : BitVec 18 := (List.range 18).foldl (fun m r => setBit m r (regionPasses si r)) 0

theorem getLsbD_passMask (si : Silicon) {r : Nat} (hr : r < 18) : (passMask si).getLsbD r = regionPasses si r := by
  rw [passMask, getLsbD_foldl_setBit _ _ (Nat.le_refl 18), if_pos hr]

/-- What BIST and repair make of it: exactly the regions that pass are in service. -/
def StartView.repaired (si : Silicon) (v : StartView) : StartView :=
  { v with regions := passMask si, serving := (List.range 18).map (regionPasses si) }

/-- A change of every region that puts it in or out of service. -/
theorem foldl_onRegion_serving (f : Nat → Reg → Reg) (p : Nat → Bool) (hf : ∀ r g, r < 18 → (f r g).inService = p r) (s : State) :
    ((List.range 18).foldl (fun s r => s.onRegion r (f r)) s).startView = { s.startView with serving := (List.range 18).map p } := by
  have hdev := foldl_dev _ (fun s r => State.onRegion_dev s r (f r)) (List.range 18) s
  have hpending : ∀ (l : List Nat) (s : State), (l.foldl (fun s r => s.onRegion r (f r)) s).pending = s.pending := by
    intro l
    induction l with
    | nil => exact fun _ => rfl
    | cons r l ih => exact fun s => (ih _).trans (State.onRegion_pending s r (f r))
  have hserving : (List.range 18).map (fun q =>
      (((List.range 18).foldl (fun s r => s.onRegion r (f r)) s).region q).inService) = (List.range 18).map p := by
    refine List.map_congr_left fun q hq => ?_
    have hq : q < 18 := List.mem_range.mp hq
    rw [foldl_onRegion_region, if_pos hq, hf q _ hq]
  unfold State.startView
  rw [hdev, hpending, hserving]

theorem bistSteps_startView (si : Silicon) (s : State) : (bistSteps si s).startView = s.startView.repaired si := by
  unfold bistSteps
  dsimp only
  rw [foldl_startView _ (fun s p => State.onPort_startView s p _), foldl_onRegion_serving _ (regionPasses si)]
  · rfl
  · intro r g hr
    exact getLsbD_passMask si hr

/-! ### The ROM's steps -/

/-- The slots that the ROM finds at the first start (17 R470). -/
def Security.booted (si : Silicon) (k : Security) : Security := if k.shipped = [] then { k with shipped := shippedSlots si } else k

theorem Security.booted_images (si : Silicon) (k : Security) :
    (k.booted si).imageA = k.imageA ∧ (k.booted si).imageB = k.imageB := by
  unfold Security.booted
  split <;> exact ⟨rfl, rfl⟩

theorem trainLink_startView (s : State) : (trainLink s).startView = s.startView := rfl

theorem romSteps_startView (si : Silicon) (s : State) : (romSteps si s).startView =
    { (keepAon s).startView with pwronN := true, bootSel := si.bootSel, st := 1, sec := (keepAon s).dev.sec.booted si } := by
  unfold romSteps
  dsimp only
  rw [apply_ite State.startView, trainLink_startView, ite_self]
  generalize keepAon s = k
  rfl

/-! ### The whole start-up -/

/-- The firmware of a slot that runs (17 R471). -/
def Security.running (k : Security) (slotB : Bool) : Security :=
  { k with slotB := slotB, svn := (slotFound k slotB).2.1.val, version := (slotFound k slotB).2.2.toNat }

/-- A start of a slot's firmware: STOPPED, or a thermal trip. -/
def StartView.started (si : Silicon) (slotB : Bool) (v : StartView) : StartView :=
  let u := { v with sec := v.sec.running slotB }.repaired si
  if (trippedBy si.temps si.periphery).isSome then u.tripped else { u with st := 5 }

theorem initSteps_startView (si : Silicon) (slotB : Bool) (s : State) (ht : s.dev.boot.trip = false) :
    (initSteps si slotB s).startView = s.startView.started si slotB := by
  have htimes : ∀ (s : State) (l : List (BitVec 32)), (s.onBoot (fun b => { b with times := l })).startView = s.startView :=
    fun _ _ => rfl
  generalize hs : settlePorts (powerSteps si (formPartitions (bistSteps si (s.onSec (·.running slotB))))) = s'
  have hview : s'.startView = if (trippedBy si.temps si.periphery).isSome
      then ({ s.startView with sec := s.dev.sec.running slotB }.repaired si).tripped
      else { s.startView with sec := s.dev.sec.running slotB }.repaired si := by
    rw [← hs, settlePorts_startView, powerSteps_startView, formPartitions_startView, bistSteps_startView]
    rfl
  have hinit : initSteps si slotB s = if s'.dev.boot.trip
      then s'.onBoot (fun b => { b with times := stepsReached si s.dev.pcie.linkUp 5 })
      else setDevState 5 (s'.onBoot (fun b => { b with times := stepsReached si s.dev.pcie.linkUp 8 })) := by
    rw [← hs]; rfl
  have htrip : s'.dev.boot.trip = (trippedBy si.temps si.periphery).isSome := by
    change s'.startView.trip = _
    rw [hview]
    cases (trippedBy si.temps si.periphery).isSome
    · exact ht
    · rfl
  rw [hinit, htrip, StartView.started]
  split
  · next hhot => rw [htimes, hview, if_pos hhot]; rfl
  · next hhot => rw [setDevState_startView, htimes, hview, if_neg hhot]; rfl

/-- The start that the straps, the slots and the sensors decide (17 R468, R471). -/
def StartView.start (si : Silicon) (v : StartView) : StartView :=
  if si.bootSel = 3 then v
  else match startSlot v.sec si.bootSel.toNat with
    | none => { v with st := 3 }
    | some b => v.started si b

theorem startUp_startView (si : Silicon) (s : State) : (startUp si s).startView = (romSteps si s).startView.start si := by
  have hrom := romSteps_startView si s
  have hsel : (romSteps si s).dev.boot.bootSel = si.bootSel := congrArg StartView.bootSel hrom
  have htrip : (romSteps si s).dev.boot.trip = false := congrArg StartView.trip hrom
  unfold startUp StartView.start
  dsimp only
  rw [hsel, State.startView_sec]
  split
  · rfl
  · cases startSlot (romSteps si s).dev.sec si.bootSel.toNat with
    | none => exact setDevState_startView 3 _
    | some b => exact initSteps_startView si b _ htrip

/-- The start of a device in ROM_MGMT by strap. -/
theorem StartView.start_of_strap {si : Silicon} (v : StartView) (hsel : si.bootSel = 3) : v.start si = v := by
  rw [StartView.start, if_pos hsel]

/-- The start of a device that finds no slot to run. -/
theorem StartView.start_of_noSlot {si : Silicon} {v : StartView} (hsel : si.bootSel ≠ 3)
    (hslot : startSlot v.sec si.bootSel.toNat = none) : v.start si = { v with st := 3 } := by
  rw [StartView.start, if_neg hsel, hslot]

/-- The start of a device that runs a slot. -/
theorem StartView.start_of_slot {si : Silicon} {v : StartView} {b : Bool} (hsel : si.bootSel ≠ 3)
    (hslot : startSlot v.sec si.bootSel.toNat = some b) : v.start si = v.started si b := by
  rw [StartView.start, if_neg hsel, hslot]

/-- What a start shows of the slot that runs and of the regions, whether or not a sensor trips the device (01 R22). -/
theorem StartView.started_serves (si : Silicon) (b : Bool) (v : StartView) :
    (v.started si b).sec.slotB = b ∧ (v.started si b).regions = passMask si ∧
      (v.started si b).serving = (List.range 18).map (regionPasses si) := by
  unfold StartView.started
  dsimp only
  split <;> exact ⟨rfl, rfl, rfl⟩

theorem StartView.started_stopped {si : Silicon} (b : Bool) (v : StartView) (h : trippedBy si.temps si.periphery = none) :
    (v.started si b).st = 5 ∧ (v.started si b).trip = v.trip := by
  rw [StartView.started, h]
  exact ⟨rfl, rfl⟩

theorem StartView.started_tripped {si : Silicon} (b : Bool) (v : StartView) (h : (trippedBy si.temps si.periphery).isSome = true) :
    (v.started si b).st = 7 ∧ (v.started si b).trip = true := by
  rw [StartView.started, if_pos h]
  exact ⟨rfl, rfl⟩

/-- Two views have the queue, the supply, the straps and the slots' images in common. -/
def StartView.Keeps (v w : StartView) : Prop :=
  w.pending = v.pending ∧ w.pwronN = v.pwronN ∧ w.bootSel = v.bootSel ∧ w.sec.imageA = v.sec.imageA ∧ w.sec.imageB = v.sec.imageB

/-- However a start ends, it keeps what every start keeps. -/
theorem StartView.start_keeps (si : Silicon) (v : StartView) : v.Keeps (v.start si) := by
  unfold StartView.start
  split
  · exact ⟨rfl, rfl, rfl, rfl, rfl⟩
  · split
    · exact ⟨rfl, rfl, rfl, rfl, rfl⟩
    · unfold StartView.started
      dsimp only
      split <;> exact ⟨rfl, rfl, rfl, rfl, rfl⟩

/-- What every start keeps or sets. -/
theorem startUp_keeps (si : Silicon) (s : State) :
    (startUp si s).dev.boot.pwronN = true ∧ (startUp si s).pending = s.pending ∧ (startUp si s).dev.boot.bootSel = si.bootSel ∧
      (startUp si s).dev.sec.imageA = s.dev.sec.imageA ∧ (startUp si s).dev.sec.imageB = s.dev.sec.imageB := by
  have hkeeps := StartView.start_keeps si (romSteps si s).startView
  have hsec := Security.booted_images si (keepAon s).dev.sec
  rw [← startUp_startView, romSteps_startView] at hkeeps
  obtain ⟨hpending, hpwron, hsel, himageA, himageB⟩ := hkeeps
  exact ⟨hpwron, hpending, hsel, himageA.trans hsec.1, himageB.trans hsec.2⟩

/-- A region is in service as the view says. -/
theorem inService_of_serving {s : State} {p : Nat → Bool} (h : s.startView.serving = (List.range 18).map p) (r : RegionId) :
    (s.region r).inService = p r :=
  List.map_inj_left.mp h r (List.mem_range.mpr r.isLt)

/-- By strap, a start ends in ROM_MGMT. -/
theorem startUp_of_strap {si : Silicon} (s : State) (hsel : si.bootSel = 3) : (startUp si s).dev.boot.st = 1 := by
  have hview := startUp_startView si s
  rw [StartView.start_of_strap _ hsel, romSteps_startView] at hview
  exact congrArg StartView.st hview

/-- Where no slot may run, a start ends in FW_FAIL. -/
theorem startUp_of_noSlot {si : Silicon} {s : State} (hsel : si.bootSel ≠ 3)
    (hslot : startSlot (romSteps si s).dev.sec si.bootSel.toNat = none) : (startUp si s).dev.boot.st = 3 := by
  rw [← State.startView_sec] at hslot
  exact congrArg StartView.st ((startUp_startView si s).trans (StartView.start_of_noSlot hsel hslot))

/-- A start that runs a slot serves with exactly the regions that passed, and trips where a sensor stands at 110 °C. -/
theorem startUp_of_slot {si : Silicon} {s : State} {b : Bool} (hsel : si.bootSel ≠ 3)
    (hslot : startSlot (romSteps si s).dev.sec si.bootSel.toNat = some b) :
    (startUp si s).dev.sec.slotB = b ∧
      (∀ r : RegionId, (startUp si s).dev.boot.regions.getLsbD r = regionPasses si r ∧
        ((startUp si s).region r).inService = regionPasses si r) ∧
      (trippedBy si.temps si.periphery = none → (startUp si s).dev.boot.st = 5 ∧ (startUp si s).dev.boot.trip = false) ∧
      ((trippedBy si.temps si.periphery).isSome = true → (startUp si s).dev.boot.st = 7 ∧ (startUp si s).dev.boot.trip = true) := by
  rw [← State.startView_sec] at hslot
  have hview := (startUp_startView si s).trans (StartView.start_of_slot hsel hslot)
  have htrip : (romSteps si s).startView.trip = false := by rw [romSteps_startView]; rfl
  obtain ⟨hslotB, hregions, hserving⟩ := StartView.started_serves si b (romSteps si s).startView
  have hcool := StartView.started_stopped (si := si) b (romSteps si s).startView
  have hhot := StartView.started_tripped (si := si) b (romSteps si s).startView
  rw [htrip] at hcool
  rw [← hview] at hslotB hregions hserving hcool hhot
  refine ⟨hslotB, fun r => ⟨?_, inService_of_serving hserving r⟩, hcool, hhot⟩
  rw [← getLsbD_passMask si r.isLt, ← hregions]
  rfl

/-! ### What a loss keeps -/

/-- A map that a list of writes filled from nothing. -/
theorem Map.get_foldl_set {α : Type} [DecidableEq α] (d : α) (v : Nat → α) (n k : Nat) :
    Map.get d ((List.range n).foldl (fun m i => Map.set d m i (v i)) []) k = if k < n then v k else d := by
  induction n with
  | zero => rfl
  | succ n ih =>
    rw [List.range_succ, List.foldl_append, List.foldl_cons, List.foldl_nil, Map.get_set, ih]
    by_cases hk : k = n
    · simp [hk]
    · simp [hk, show (k < n + 1) = (k < n) by simp; omega]

/-- The always-on island keeps the root records of a partition and nothing else of it (13 R363). -/
theorem keepAon_part (s : State) (n : PartId) :
    (keepAon s).part n = { commit := { root := (s.part n).commit.root, rootOk := (s.part n).commit.rootOk } } := by
  unfold keepAon State.part
  dsimp only
  rw [Map.get_foldl_set, if_pos n.isLt]

theorem exec_pwronRstN (si : Silicon) (s : State) :
    exec (.pwronRstN si) s = .next (if s.dev.boot.pwronN then s else startUp si s) := rfl

theorem exec_pwronRstNAssertion (s : State) : exec .pwronRstNAssertion s = .next (if !s.dev.boot.pwronN then s
    else (keepAon s).onBoot (fun b => { b with cause := if s.dev.boot.trip then 3 else 2 })) := rfl

/-- Settles O57: start-up decides what `StartView.start` says, and a loss keeps what `keepAon` keeps. -/
theorem startUpAndPowerLoss : Obligations.StartUpAndPowerLoss := by
  intro s
  refine ⟨fun si => ⟨fun hp => ?_, fun hp => ⟨startUp si s, ?_, ?_⟩⟩, fun hp => ?_, fun hp => ?_, ?_⟩
  · rw [exec_pwronRstN, if_pos hp]
  · rw [exec_pwronRstN, if_neg (by simp [hp])]
  · obtain ⟨hpwron, hpending, hsel, himageA, himageB⟩ := startUp_keeps si s
    exact ⟨hpwron, hpending, hsel, himageA, himageB, startUp_of_strap s, startUp_of_noSlot, fun _ => startUp_of_slot⟩
  · rw [exec_pwronRstNAssertion, hp]; rfl
  · have hexec : exec .pwronRstNAssertion s =
        .next ((keepAon s).onBoot (fun b => { b with cause := if s.dev.boot.trip then 3 else 2 })) := by
      rw [exec_pwronRstNAssertion, hp]; rfl
    have hpart (f : Boot → Boot) (n : Nat) : ((keepAon s).onBoot f).part n = (keepAon s).part n := by
      rw [State.part, State.onBoot_parts, State.part]
    refine ⟨_, hexec, rfl, rfl, rfl, rfl, rfl, rfl, rfl, rfl, rfl, rfl, rfl, fun n => ?_⟩
    rw [hpart, keepAon_part]
    exact ⟨rfl, rfl, rfl⟩
  · exact ⟨_, rfl, rfl, rfl, rfl, rfl, rfl, rfl, rfl, rfl, rfl, rfl, fun _ => ⟨rfl, rfl⟩⟩

end Sys2Proof.Machine

/-!
What the commands that write one entry of the device do (02 R55, 16 R444, 17 R455–R473). A request that reaches its entry
is carried out and answered; the answer changes nothing that the entry's write decides, so a command's effect is that of
`writeEntry` on its entry.
-/
namespace Sys2Proof.Machine

/-! ### An answer changes only the dictionary's bookkeeping and its path -/

theorem Answered.refl (s : State) : Answered s s := by simp [Answered]

theorem Answered.trans {s s' s'' : State} (h : Answered s s') (h' : Answered s' s'') : Answered s s'' := by
  simp_all [Answered]

theorem State.onMgmt_answered (s : State) (f : Mgmt → Mgmt) : Answered s (s.onMgmt f) := by simp [Answered]

theorem State.onFn_answered (s : State) (k : Nat) (f : Fn → Fn) : Answered s (s.onFn k f) := by simp [Answered]

theorem State.onOut_answered (s : State) (f : Out → Out) : Answered s (s.onOut f) := by simp [Answered]

theorem signalMsi_answered (k i : Nat) (s : State) : Answered s (signalMsi k i s) := by
  unfold signalMsi
  dsimp only
  split
  · exact .refl s
  · split
    · exact s.onFn_answered ..
    · exact s.onOut_answered _

theorem raiseCause_answered (k i : Nat) (s : State) : Answered s (raiseCause k i s) := by
  unfold raiseCause
  dsimp only
  split
  · exact s.onFn_answered ..
  · exact (s.onFn_answered ..).trans (signalMsi_answered ..)

theorem applyStaged_answered (sub : BitVec 8) (s : State) : Answered s (applyStaged sub s) := by
  unfold applyStaged
  split
  · exact .refl s
  · exact s.onMgmt_answered _

theorem remember_answered (a : IdpAns) (s : State) : Answered s (remember a s) := s.onMgmt_answered _

theorem deliver_answered (a : IdpAns) (s : State) : Answered s (deliver a s) := by
  unfold deliver
  split
  · exact s.onMgmt_answered _
  · have hstaged : Answered s (if a.stages then applyStaged a.sub s else s) := by
      split
      · exact applyStaged_answered ..
      · exact .refl s
    exact hstaged.trans ((State.onFn_answered ..).trans (raiseCause_answered ..))
  · exact (State.onFn_answered ..).trans (raiseCause_answered ..)

theorem settled_answered (r : Req) (status : Nat) (data : Bytes) (s : State) : Answered s (settled r status data s) :=
  (remember_answered ..).trans (deliver_answered ..)

theorem Answered.mem {s s' : State} (h : Answered s s') : s'.mem = s.mem := by
  obtain ⟨-, hmem, -⟩ := h; exact hmem

theorem Answered.tiles {s s' : State} (h : Answered s s') : s'.tiles = s.tiles := by
  obtain ⟨-, -, -, htiles, -⟩ := h; exact htiles

theorem Answered.ports {s s' : State} (h : Answered s s') : s'.ports = s.ports := by
  obtain ⟨-, -, -, -, -, -, -, -, hports, -⟩ := h; exact hports

theorem Answered.sec {s s' : State} (h : Answered s s') : s'.dev.sec = s.dev.sec := by
  obtain ⟨-, -, -, -, -, -, -, -, -, -, hsec, -⟩ := h; exact hsec

theorem Answered.blot {s s' : State} (h : Answered s s') : s'.dev.blot = s.dev.blot := by
  obtain ⟨-, -, -, -, -, -, -, -, -, -, -, -, -, -, hblot, -⟩ := h; exact hblot

theorem Answered.trace {s s' : State} (h : Answered s s') : s'.dev.trace = s.dev.trace := by
  obtain ⟨-, -, -, -, -, -, -, -, -, -, -, -, -, -, -, htrace, -⟩ := h; exact htrace

/-! ### A request that is heard -/

/-- Counting a request leaves everything but that count. -/
theorem heard_answered (s : State) (p : Path) : Answered s (heard s p) := by
  cases p with
  | mgmt src => exact s.onMgmt_answered _
  | mailbox f => exact .refl s
  | doorbell f x => exact .refl s

@[simp] theorem heard_windowBeat (s : State) (p : Path) : windowBeat (heard s p) = windowBeat s := by cases p <;> rfl
@[simp] theorem heard_windowHop (s : State) (p : Path) : windowHop (heard s p) = windowHop s := by cases p <;> rfl
@[simp] theorem heard_timeNow (s : State) (p : Path) : timeNow (heard s p) = timeNow s := by cases p <;> rfl
@[simp] theorem heard_scopeKey (s : State) (p : Path) (k : Nat) : scopeKey (heard s p) k = scopeKey s k := by cases p <;> rfl
@[simp] theorem heard_lockedOut (s : State) (p : Path) : lockedOut (heard s p) = lockedOut s := by cases p <;> rfl
@[simp] theorem heard_inState (s : State) (p : Path) (idx : Nat) (m : Option Nat) : inState (heard s p) idx m = inState s idx m := by
  cases p <;> rfl
@[simp] theorem heard_writeBar (s : State) (p : Path) (r : Req) (m : Option Nat) (idx : Nat) (e : EntryRow) :
    writeBar (heard s p) r m idx e = writeBar s r m idx e := by
  cases p <;> rfl
@[simp] theorem heard_align (s : State) (p : Path) : (heard s p).dev.align = s.dev.align := by cases p <;> rfl
@[simp] theorem heard_pend (s : State) (p : Path) : (heard s p).dev.mgmt.pend = s.dev.mgmt.pend := by cases p <;> rfl
@[simp] theorem heard_queue (s : State) (p : Path) : (heard s p).dev.mgmt.queue = s.dev.mgmt.queue := by cases p <;> rfl

theorem isDoorbell_of_hears {s : State} {p : Path} (h : hears s p = true) : isDoorbell p = false := by
  cases p with
  | mgmt src => rfl
  | mailbox f => rfl
  | doorbell f x => cases h

/-- A request on a path that takes it, and that is no repeat, is counted and carried out. -/
theorem handle_of_hears {s : State} {r : Req} (p : Option Probes) (hhears : hears s r.path = true) (hnew : storedAnswer s r = none) :
    handle p r s = respond p r (heard s r.path) := by
  unfold handle
  dsimp only
  cases hpath : r.path with
  | mgmt src =>
    have hpower : (!s.dev.boot.pwronN || s.dev.mgmt.nodeId == 0) = false := by
      rw [hpath, hears] at hhears
      simpa using hhears
    have hnew' : storedAnswer (s.onMgmt (fun g => { g with accepted := g.accepted + 1 })) r = none := hnew
    simp only [hpower, hnew', heard, Bool.false_eq_true, if_false]
  | mailbox f =>
    rw [hpath, hears] at hhears
    simp only [hhears, hnew, heard, if_true]
  | doorbell f x => rw [hpath] at hhears; cases hhears

/-- A request that reaches its entry is that entry's operation. -/
theorem carryOut_of_asked {s : State} {r : Req} {idx : Nat} {m : Option Nat} {e : EntryRow} (p : Option Probes) (h : Asked s r idx m e) :
    (r.op = 1 → carryOut p r (heard s r.path) = doRead m idx e r (heard s r.path)) ∧
    (r.op = 2 → carryOut p r (heard s r.path) = doWrite p m idx e r (heard s r.path)) ∧
    (r.op = 4 → carryOut p r (heard s r.path) = doBlockWrite m idx e r (heard s r.path)) := by
  obtain ⟨-, -, -, hheader, horiginal, hmirror, hstate, hrow⟩ := h
  have hright : ¬((vfPath r.path).isSome = true ∧ m ≠ vfPath r.path) := fun ⟨hvf, hm⟩ => hm (hmirror hvf)
  unfold carryOut
  simp only [hheader, horiginal, hright, heard_inState, hstate, hrow, if_false, Bool.not_true, Bool.false_eq_true]
  refine ⟨fun hop => ?_, fun hop => ?_, fun hop => ?_⟩ <;> rw [hop] <;> rfl

/-- With room for one more, a request leaves what it was carried out to, but for its answer. -/
theorem respond_answered {p : Option Probes} {r : Req} {s : State} (hroom : s.dev.mgmt.pend.length < 8) :
    Answered (carryOut p r s).s (respond p r s) := by
  unfold respond
  rw [if_neg (by omega)]
  dsimp only
  split
  · exact (State.onMgmt_answered ..).trans (settled_answered r ..)
  · exact settled_answered r ..

/-- A request that is answered with status 0. -/
theorem respond_of_ok {p : Option Probes} {r : Req} {s s' : State} {data : Bytes} (hroom : s.dev.mgmt.pend.length < 8)
    (hdone : carryOut p r s = { status := stOk, data := data, s := s' }) : respond p r s = settled r stOk data s' := by
  unfold respond
  rw [if_neg (by omega), hdone]
  rfl

/-! ### Writes -/

/-- The state that a write ends with; a refused one leaves `s`. -/
def WriteRes.left (s : State) : WriteRes → State
  | .stat _ => s
  | .done s' => s'
  | .pend _ s' => s'

theorem endWrite_s (s : State) (w : WriteRes) : (endWrite s w).s = w.left s := by cases w <;> rfl

/-- A WRITE that nothing bars is its entry's write. -/
theorem doWrite_of_unbarred {p : Option Probes} {m : Option Nat} {idx : Nat} {e : EntryRow} {r : Req} {s : State}
    (hbar : writeBar s r m idx e = none) : doWrite p m idx e r s = endWrite s (writeEntry p s m idx r.sub.toNat r.data) := by
  rw [doWrite, hbar]

/-- A WRITE that runs does what its entry's write does. -/
theorem write_answered {s : State} {r : Req} {idx : Nat} {m : Option Nat} (p : Option Probes) (hruns : WriteRuns s r) (hop : r.op = 2)
    (hidx : originalOf r.index.toNat = some (idx, m)) :
    Answered ((writeEntry p (heard s r.path) m idx r.sub.toNat r.data).left (heard s r.path)) (handle p r s) := by
  obtain ⟨idx', m', e, hasked, hbar⟩ := hruns
  obtain ⟨-, hwrite, -⟩ := carryOut_of_asked p hasked
  obtain ⟨hhears, hnew, hroom, -, hidx', -⟩ := hasked
  obtain ⟨rfl, rfl⟩ : idx = idx' ∧ m = m' := by simpa [hidx] using hidx'
  have hcarried := (hwrite hop).trans (doWrite_of_unbarred ((heard_writeBar ..).trans hbar))
  rw [handle_of_hears p hhears hnew, ← endWrite_s, ← hcarried]
  exact respond_answered (by rwa [heard_pend])

/-- A command that is a WRITE of one entry: it leaves what the entry's write leaves, but for its answer. -/
theorem entryCommand_answered {s : State} {c : Instr} {p : Option Probes} {h : ReqHdr} {i k : Nat} {d : Bytes} {idx : Nat}
    {m : Option Nat} {s' : State} (hexec : exec c s = .next (handle p (plainReq h 2 (BitVec.ofNat 16 i) (BitVec.ofNat 8 k) d) s))
    (hidx : originalOf (BitVec.ofNat 16 i).toNat = some (idx, m))
    (hwrite : (writeEntry p (heard s h.path) m idx (BitVec.ofNat 8 k).toNat d).left (heard s h.path) = s')
    (hruns : WriteRuns s (plainReq h 2 (BitVec.ofNat 16 i) (BitVec.ofNat 8 k) d)) :
    ∃ t, exec c s = .next t ∧ Answered s' t :=
  ⟨_, hexec, hwrite ▸ write_answered p hruns rfl hidx⟩

/-! ### What the write of each entry leaves -/

theorem refuseIf_left (s s' : State) : (refuseIf false s').left s = s' := rfl

theorem leNat_singleton (v : Byte) : leNat [v] = v.toNat := by simp [leNat]

/-- A capture begins, and one that is under way goes on. -/
theorem writeEntry_dumpCapture (p : Option Probes) (m : Option Nat) (s : State) :
    (writeEntry p s m 0x2A00 1 [1]).left s = startDump s := by
  have hwrite : writeEntry p s m 0x2A00 1 [1] = if s.hub.dump.st = 1 then .stat stBusy else .pend 0xFF (startDump s) := rfl
  rw [hwrite, startDump]
  split <;> rfl

theorem writeEntry_counterRaise (p : Option Probes) (m : Option Nat) {s : State} {v : Byte} (habove : s.dev.sec.otp < v.toNat)
    (hrunning : v.toNat ≤ s.dev.sec.svn) : (writeEntry p s m 0x2D00 3 [v]).left s = s.onSec (fun k => { k with otp := v.toNat }) := by
  have hwrite : writeEntry p s m 0x2D00 3 [v] = if s.dev.sec.otp < leNat [v] ∧ leNat [v] ≤ s.dev.sec.svn
      then .pend stOk (s.onSec (fun k => { k with otp := leNat [v] })) else .stat stRefused := rfl
  rw [hwrite, leNat_singleton, if_pos ⟨habove, hrunning⟩]
  rfl

theorem writeEntry_challenge (p : Option Probes) (m : Option Nat) {s : State} {v : Byte} (hkey : (scopeKey s v.toNat).isSome = true)
    (hopen : lockedOut s = false) : (writeEntry p s m 0x2D00 8 [v]).left s = makeChallenge v s := by
  have hwrite : writeEntry p s m 0x2D00 8 [v] = writeChallenge (leNat [v]) s := rfl
  obtain ⟨key, hkey⟩ := Option.isSome_iff_exists.mp hkey
  rw [hwrite, leNat_singleton, writeChallenge, hkey, hopen, BitVec.ofNat_toNat]
  rfl

theorem writeEntry_timeMeasure_idle (e : Probes) (m : Option Nat) {s : State} (hidle : s.dev.align.run = none) :
    (writeEntry (some e) s m 0x2C10 1 [1]).left s = s.onDev (fun d => { d with align := { d.align with st := 1, run := some e } }) := by
  have hwrite : writeEntry (some e) s m 0x2C10 1 [1] = if s.dev.align.run.isSome then .stat stBusy
      else .pend 0xFF (s.onDev (fun d => { d with align := { d.align with st := 1, run := some e } })) := rfl
  rw [hwrite, hidle]
  rfl

theorem writeEntry_timeMeasure_busy (e : Probes) (m : Option Nat) {s : State} (hbusy : s.dev.align.run ≠ none) :
    (writeEntry (some e) s m 0x2C10 1 [1]).left s = s := by
  have hwrite : writeEntry (some e) s m 0x2C10 1 [1] = if s.dev.align.run.isSome then .stat stBusy
      else .pend 0xFF (s.onDev (fun d => { d with align := { d.align with st := 1, run := some e } })) := rfl
  rw [hwrite, if_pos (Option.isSome_iff_ne_none.mpr hbusy)]
  rfl

theorem writeEntry_traceOn (p : Option Probes) (m : Option Nat) {s s' : State} (hfits : traceOn s = some s') :
    (writeEntry p s m 0x2B00 1 [1]).left s = s' := by
  have hwrite : writeEntry p s m 0x2B00 1 [1] = writeTraceOn 1 s := rfl
  rw [hwrite, writeTraceOn, hfits]
  rfl

theorem writeEntry_traceOff (p : Option Probes) (m : Option Nat) (s : State) :
    (writeEntry p s m 0x2B00 1 [0]).left s = traceOff s := by
  have hwrite : writeEntry p s m 0x2B00 1 [0] = writeTraceOn 0 s := rfl
  rw [hwrite, writeTraceOn]
  rfl

theorem writeEntry_stopAll (p : Option Probes) (m : Option Nat) (s : State) :
    (writeEntry p s m 0x2000 4 [1]).left s = stopAll s := by
  have hwrite : writeEntry p s m 0x2000 4 [1] = if leNat [1] = 1 then .pend stOk (stopAll s) else .stat stRefused := rfl
  have hone : leNat [1] = 1 := leNat_singleton 1
  rw [hwrite, if_pos hone, WriteRes.left]

/-- Every mirror of 0x2A00 is its partition's. -/
theorem originalOf_dumpMirror : ∀ n : PartId, originalOf (BitVec.ofNat 16 (0x30A0 + 0x100 * n.val)).toNat = some (0x2A00, some n.val) := by
  decide

/-! ### Clears, responses and the trace trigger -/

/-- A change of the ports 0 to `n` − 1, one after another. -/
theorem foldl_onPort_port (f : PortSt → PortSt) (n p : Nat) (s : State) :
    ((List.range n).foldl (fun s q => s.onPort q f) s).port p = if p < n then f (s.port p) else s.port p := by
  induction n with
  | zero => rfl
  | succ n ih =>
    rw [List.range_succ, List.foldl_append, List.foldl_cons, List.foldl_nil, State.port, State.onPort, Map.get_mod]
    by_cases hp : p = n
    · subst hp
      rw [if_pos rfl, if_pos (Nat.lt_succ_self p)]
      exact congrArg f (ih.trans (if_neg (Nat.lt_irrefl p)))
    · rw [if_neg hp]
      refine ih.trans ?_
      simp only [show (p < n + 1) = (p < n) by simp; omega]

/-- The counters of every port at 0 (12 R343). -/
def zeroLinks (s : State) : State := (List.range 8).foldl (fun s p => s.onPort p (fun x => { x with cnt := {} })) s

theorem zeroLinks_port {p : Nat} (hp : p < 8) (s : State) : (zeroLinks s).port p = { s.port p with cnt := {} } :=
  (foldl_onPort_port _ 8 p s).trans (if_pos hp)

theorem zeroLinks_mem (s : State) : (zeroLinks s).mem = s.mem := foldl_mem _ _ (fun _ _ => State.onPort_mem ..) s

theorem zeroLinks_tiles (s : State) : (zeroLinks s).tiles = s.tiles := foldl_tiles _ _ (fun _ _ => State.onPort_tiles ..) s

theorem writeEntry_linkCounterZero (p : Option Probes) (m : Option Nat) (s : State) :
    (writeEntry p s m 0x2600 9 [1]).left s = zeroLinks s := by
  have hwrite : writeEntry p s m 0x2600 9 [1] = refuseIf false (zeroLinks s) := rfl
  rw [hwrite, refuseIf_left]

/-- What a cleared Blotter holds: the record of the clear alone (16 R444). -/
theorem clearBlotter_blot (s : State) : (clearBlotter s).dev.blot =
    { s.dev.blot with stored := 1, pinned := [plainRec s 0x84 0 2 7 14 0], ring := [], newest := 0 } := rfl

/-- A response that comes after the minute fails and counts (log 32). -/
theorem answerChallenge_late {s : State} {v : Byte} {at' : Nat} {key : BitVec 768} (sig : Bytes) (hasked : s.dev.sec.asked = some (v, at'))
    (hkey : scopeKey s v.toNat = some key) (hlate : at' + minuteNs < timeNow s) : answerChallenge sig s = (false, failResponse s) := by
  have hexpired : decide (timeNow s ≤ at' + minuteNs) = false := decide_eq_false (by omega)
  rw [answerChallenge, hasked]
  dsimp only
  rw [hkey]
  dsimp only
  rw [hexpired, Bool.false_and]
  rfl

theorem causeAll_trace (i : Nat) (s : State) : (causeAll i s).dev.trace = s.dev.trace := by
  unfold causeAll
  generalize liveFns s = l
  induction l generalizing s with
  | nil => rfl
  | cons k l ih => rw [List.foldl_cons, ih, (raiseCause_answered k i s).trace]

/-- What a trigger makes of trace depends on trace alone (18 R500). -/
theorem triggerTrace_trace_congr {s s' : State} (h : s'.dev.trace = s.dev.trace) :
    (triggerTrace s').dev.trace = (triggerTrace s).dev.trace := by
  unfold triggerTrace
  rw [h]
  split
  · exact h
  · dsimp only
    have harmed : (s'.onTrace (fun t => { t with st := if t.st = 1 then 2 else t.st })).dev.trace =
        (s.onTrace (fun t => { t with st := if t.st = 1 then 2 else t.st })).dev.trace := by
      rw [State.onTrace_dev_trace, State.onTrace_dev_trace, h]
    generalize s'.onTrace _ = u' at *
    generalize s.onTrace _ = u at *
    rw [harmed]
    split
    · split
      · simp only [stopTrace, causeAll_trace, State.onTrace_dev_trace, harmed]
      · simp only [State.onTrace_dev_trace, harmed]
    · exact harmed

/-! ### Commands -/

/-- A BLOCK_WRITE of the slot that does not run goes straight to it (log 35). -/
theorem doBlockWrite_slot {m : Option Nat} {e : EntryRow} {r : Req} {s : State} (hbar : writeBar s r m 0x2D00 e = none)
    (hlen : r.length ≠ 0) (hsub : r.sub = 4) :
    doBlockWrite m 0x2D00 e r s = { status := stOk, s := writeSlot r.offset.toNat r.data s } := by
  rw [doBlockWrite, hbar]
  dsimp only
  rw [if_neg hlen, if_pos ⟨rfl, hsub⟩]

/-- SLOT_WRITE: bytes of the slot that does not run (17 R473). -/
theorem slotWrite_answered {s : State} {h : ReqHdr} {o : BitVec 32} {d : Bytes}
    (hruns : WriteRuns s { plainReq h 4 0x2D00 4 d with offset := o }) (hd : d ≠ []) :
    ∃ s', exec (.slotWrite h o d) s = .next s' ∧ Answered (writeSlot o.toNat d (heard s h.path)) s' := by
  obtain ⟨idx, m, e, hasked, hbar⟩ := hruns
  obtain ⟨-, -, hblock⟩ := carryOut_of_asked none hasked
  obtain ⟨hhears, hnew, hroom, -, hidx, -⟩ := hasked
  obtain ⟨rfl, rfl⟩ : 0x2D00 = idx ∧ none = m := by
    have hself : originalOf 0x2D00 = some (0x2D00, none) := rfl
    simpa using hself.symm.trans hidx
  have hexec : exec (.slotWrite h o d) s = .next (if isDoorbell h.path then s
      else handle none { plainReq h 4 0x2D00 4 d with offset := o } s) := rfl
  have hdoorbell : isDoorbell h.path = false := isDoorbell_of_hears hhears
  have hlen : (plainReq h 4 0x2D00 4 d).length ≠ 0 := List.length_pos_iff.mpr hd |>.ne'
  have hcarried := (hblock rfl).trans (doBlockWrite_slot ((heard_writeBar ..).trans hbar) hlen rfl)
  refine ⟨_, hexec, ?_⟩
  rw [hdoorbell, if_neg Bool.false_ne_true, handle_of_hears none hhears hnew, respond_of_ok (by rwa [heard_pend]) hcarried]
  exact settled_answered ..

/-- What a read of the totals answers, by the tile selected (18 R497). -/
theorem readEntry_totals (s : State) (m : Option Nat) : readEntry s m 0x2B00 0x13 = (List.range 8).flatMap (fun i =>
    toBytes (Map.get 0#64 (s.tile s.dev.trace.sel.toNat).cnt.totals i).toNat 8) := rfl

theorem readEntry_totals_length (s : State) (m : Option Nat) : (readEntry s m 0x2B00 0x13).length = 64 := by
  simp [readEntry_totals, List.length_flatMap]

/-- The row of TOTALS_READ's entry can be read. -/
theorem access_of_totals {m : Option Nat} {e : EntryRow} (h : entryRow m 0x2B00 0x13 = some e) : e.acc ≠ .wo := by
  have hrow : entryRow m 0x2B00 0x13 = some ⟨0x2B00, 0x13, 0x13, .ro, 64, true⟩ := rfl
  rw [hrow] at h
  cases h
  decide

/-- A READ of an entry that can be read, and whose value fits a frame. -/
theorem doRead_of_fits {m : Option Nat} {idx : Nat} {e : EntryRow} {r : Req} {s : State} (hacc : e.acc ≠ .wo) (hlen : r.length = 0)
    (hfits : (readEntry (prepareRead idx r.sub.toNat s) m idx r.sub.toNat).length ≤ maxData) : doRead m idx e r s =
      { status := stOk, data := readEntry (prepareRead idx r.sub.toNat s) m idx r.sub.toNat, s := prepareRead idx r.sub.toNat s } := by
  rw [doRead, if_neg hacc]
  dsimp only
  rw [if_neg (by omega)]

/-- TOTALS_READ: the counters of the selected tile are folded, and the answer is what the totals then are. -/
theorem exec_totalsRead {s : State} {h : ReqHdr} {m : Option Nat} {e : EntryRow}
    (hasked : Asked s (plainReq h 1 0x2B00 0x13 []) 0x2B00 m e) :
    exec (.totalsRead h) s = .next (settled (plainReq h 1 0x2B00 0x13 []) stOk
      (readEntry (foldTile s.dev.trace.sel.toNat (heard s h.path)) m 0x2B00 0x13) (foldTile s.dev.trace.sel.toNat (heard s h.path))) := by
  obtain ⟨hread, -⟩ := carryOut_of_asked none hasked
  obtain ⟨hhears, hnew, hroom, -, -, -, -, hrow⟩ := hasked
  have hsub : (plainReq h 1 0x2B00 0x13 []).sub.toNat = 0x13 := rfl
  have hfold : prepareRead 0x2B00 0x13 (heard s h.path) = foldTile s.dev.trace.sel.toNat (heard s h.path) := by
    rw [prepareRead, if_pos ⟨rfl, rfl⟩, (heard_answered s h.path).trace]
  have hfits : (readEntry (foldTile s.dev.trace.sel.toNat (heard s h.path)) m 0x2B00 0x13).length ≤ maxData := by
    rw [readEntry_totals_length]
    decide
  have hdone := doRead_of_fits (m := m) (idx := 0x2B00) (e := e) (r := plainReq h 1 0x2B00 0x13 []) (s := heard s h.path)
    (access_of_totals hrow) rfl (by rwa [hsub, hfold])
  rw [hsub, hfold] at hdone
  have hexec : exec (.totalsRead h) s = .next (if isDoorbell h.path then s else handle none (plainReq h 1 0x2B00 0x13 []) s) := rfl
  have hdoorbell : isDoorbell h.path = false := isDoorbell_of_hears hhears
  rw [hexec, hdoorbell, if_neg Bool.false_ne_true, handle_of_hears none hhears hnew,
    respond_of_ok (by rwa [heard_pend]) ((hread rfl).trans hdone)]

/-- On the management port an answer joins the queue (17 R460). -/
theorem settled_queue {r : Req} {src : BitVec 48} (status : Nat) (data : Bytes) (s : State) (hpath : r.path = .mgmt src) :
    (settled r status data s).dev.mgmt.queue = s.dev.mgmt.queue ++ [answerOf r status data] := by
  have hanswer : (answerOf r status data).path = .mgmt src := hpath
  rw [settled, deliver, hanswer]
  rfl

/-- Settles O53: each command has the effect of its entry's write, or of its read, and an answer. -/
theorem deviceEntryCommands : Obligations.DeviceEntryCommands := by
  intro s h s0 runs does
  refine ⟨?peakReset, ?capture, ?captureMirror, ?linkZero, ?bulkZero, ?blotterClear, ?counterRaise, ?slotWrite, ?verify, ?challenge,
    ?response, ?relock, ?measurement, ?timeMeasure, ?trigger, ?traceOff, ?traceOn, ?stopAll, ?totals⟩
  case peakReset =>
    refine entryCommand_answered rfl rfl ?_
    rw [← heard_windowBeat s h.path, ← heard_windowHop s h.path]
    rfl
  case capture => exact entryCommand_answered rfl rfl (writeEntry_dumpCapture ..)
  case captureMirror => exact fun n => entryCommand_answered rfl (originalOf_dumpMirror n) (writeEntry_dumpCapture ..)
  case linkZero =>
    intro hruns
    obtain ⟨s', hexec, hleft⟩ : does (.linkCounterZero h 1) (zeroLinks s0) :=
      entryCommand_answered rfl rfl (writeEntry_linkCounterZero none none s0) hruns
    have hheard := heard_answered s h.path
    refine ⟨s', hexec, hleft.mem.trans ((zeroLinks_mem s0).trans hheard.mem),
      hleft.tiles.trans ((zeroLinks_tiles s0).trans hheard.tiles), fun p => ?_⟩
    have hport : s0.port p = s.port p := by rw [State.port, hheard.ports, State.port]
    rw [State.port, hleft.ports, ← hport]
    exact zeroLinks_port p.isLt s0
  case bulkZero => exact entryCommand_answered rfl rfl rfl
  case blotterClear =>
    intro hruns
    obtain ⟨s', hexec, hleft⟩ : does (.blotterClear h 1) (clearBlotter s0) := entryCommand_answered rfl rfl rfl hruns
    have hblot := hleft.blot.trans (clearBlotter_blot s0)
    have hmem : s'.mem = s.mem := hleft.mem.trans ((clearBlotter_mem s0).trans (heard_answered s h.path).mem)
    refine ⟨s', _, hexec, congrArg Blotter.pinned hblot, rfl, rfl, congrArg Blotter.stored hblot, congrArg Blotter.ring hblot,
      congrArg Blotter.newest hblot, hmem⟩
  case counterRaise =>
    intro v hruns habove hrunning
    have hsec := (heard_answered s h.path).sec
    exact entryCommand_answered rfl rfl (writeEntry_counterRaise none none (by rwa [hsec]) (by rwa [hsec])) hruns
  case slotWrite => exact fun o d hruns hd => slotWrite_answered hruns hd
  case verify => exact entryCommand_answered rfl rfl rfl
  case challenge =>
    intro v hruns hkey hopen
    have hdoes : does (.challengeRequest h v) (makeChallenge v s0) := entryCommand_answered rfl rfl
      (writeEntry_challenge none none (by rwa [heard_scopeKey]) (by rwa [heard_lockedOut])) hruns
    obtain ⟨s', hexec, hleft⟩ := hdoes
    refine ⟨⟨s', hexec, hleft⟩, s', hexec, ?_⟩
    rw [hleft.sec, ← heard_timeNow s h.path]
    rfl
  case response =>
    intro sig hruns
    have hdoes : does (.signedResponse h sig) (answerChallenge sig s0).2 := entryCommand_answered rfl rfl rfl hruns
    refine ⟨hdoes, fun v at' key hasked hkey hlate => ?_⟩
    have hsec : s0.dev.sec = s.dev.sec := (heard_answered s h.path).sec
    obtain ⟨s', hexec, hleft⟩ := hdoes
    rw [answerChallenge_late sig (by rwa [hsec]) (by rwa [heard_scopeKey]) (by rwa [heard_timeNow])] at hleft
    rw [← hsec]
    exact ⟨s', hexec, by rw [hleft.sec]; rfl, by rw [hleft.sec]; rfl, by rw [hleft.sec]; rfl⟩
  case relock => exact entryCommand_answered rfl rfl rfl
  case measurement => exact entryCommand_answered rfl rfl rfl
  case timeMeasure =>
    intro hruns pos neg above
    have halign := heard_align s h.path
    exact ⟨fun hidle => entryCommand_answered rfl rfl (writeEntry_timeMeasure_idle _ none (by rwa [halign])) hruns,
      fun hbusy => entryCommand_answered rfl rfl (writeEntry_timeMeasure_busy _ none (by rwa [halign])) hruns⟩
  case trigger =>
    intro hruns
    obtain ⟨s', hexec, hleft⟩ : does (.traceTrigger h 1) (triggerTrace s0) := entryCommand_answered rfl rfl rfl hruns
    have hheard := heard_answered s h.path
    exact ⟨s', hexec, hleft.mem.trans ((triggerTrace_mem s0).trans hheard.mem), hleft.tiles.trans ((triggerTrace_tiles s0).trans hheard.tiles),
      hleft.trace.trans (triggerTrace_trace_congr hheard.trace)⟩
  case traceOff => exact entryCommand_answered rfl rfl (writeEntry_traceOff none none s0)
  case traceOn => exact fun hruns s1 hfits => entryCommand_answered rfl rfl (writeEntry_traceOn none none hfits) hruns
  case stopAll => exact entryCommand_answered rfl rfl (writeEntry_stopAll none none s0)
  case totals =>
    intro m e hasked
    have hfolded : (foldTile s.dev.trace.sel.toNat s0).tile s.dev.trace.sel.toNat =
        { s.tile s.dev.trace.sel.toNat with cnt := (s.tile s.dev.trace.sel.toNat).cnt.fold } := by
      have htile : s0.tile s.dev.trace.sel.toNat = s.tile s.dev.trace.sel.toNat := by
        rw [State.tile, (heard_answered s h.path).tiles, State.tile]
      rw [foldTile, State.tile_onTile, if_pos rfl, htile]
    have hsettled := settled_answered (plainReq h 1 0x2B00 0x13 []) stOk (readEntry (foldTile s.dev.trace.sel.toNat s0) m 0x2B00 0x13)
      (foldTile s.dev.trace.sel.toNat s0)
    refine ⟨_, answerOf (plainReq h 1 0x2B00 0x13 []) stOk (readEntry (foldTile s.dev.trace.sel.toNat s0) m 0x2B00 0x13),
      exec_totalsRead hasked, ?_, ?_, ?_, rfl, fun src hpath => ?_⟩
    · rw [hsettled.mem, foldTile_mem, (heard_answered s h.path).mem]
    · rw [State.tile, hsettled.tiles]
      exact congrArg Tile.cnt hfolded
    · have hsel : (foldTile s.dev.trace.sel.toNat s0).dev.trace.sel = s.dev.trace.sel := congrArg Trace.sel (heard_answered s h.path).trace
      change readEntry _ m 0x2B00 0x13 = _
      rw [readEntry_totals, hsel, hfolded]
    · rw [settled_queue _ _ _ hpath]
      exact congrArg (· ++ _) (heard_queue s h.path)

end Sys2Proof.Machine

/-!
SUPPORT. How a ready context's instruction ends: one law per kind of end, for the statements about single instructions
(03 R63–R66, R105).
-/
namespace Sys2Proof.Machine

section Ends
variable {s : State} {t c : Nat} {u : Uses} {body : State → Eff}

theorem issue_done (h : Ready s t c u) {s' : State} (hb : body (fetched t c s) = .done s') :
    issue t c u body s = retired t c s s' := by rw [issue_ready h, hb, finish_done h]

theorem issue_fault (h : Ready s t c u) {code daddr : Nat} (hb : body (fetched t c s) = .fault code daddr) :
    issue t c u body s = issueFault t c code (fetched t c s) daddr := by rw [issue_ready h, hb, finish_fault]

/-- A ready context whose instruction only writes `v` to rd. -/
theorem issue_wrote (h : Ready s t c u) {rd : BitVec 5} {v : Word}
    (hb : body (fetched t c s) = writes t c rd v (fetched t c s)) : issue t c u body s = wrote t c rd v s :=
  issue_done h hb

end Ends

/-- An instruction whose fields keep R70's rules acts as its body says. -/
@[simp] theorem legal_true (body : State → Eff) (s : State) : legal true body s = body s := rfl

/-! ### Values of the integer instructions (03 R67, R70, R71) -/

/-- The shift count of a register or an immediate is its six low bits. -/
theorem toNat_mod_64 {w : Nat} (b : BitVec w) : b.toNat % 64 = (b.extractLsb' 0 6).toNat := by
  simp [BitVec.extractLsb'_toNat]

theorem immWord_toNat_mod_64 (imm : BitVec 16) : (immWord imm).toNat % 64 = (imm.extractLsb' 0 6).toNat := by
  rw [toNat_mod_64, immWord]
  congr 1
  ext i hi
  rw [BitVec.getElem_extractLsb', BitVec.getElem_extractLsb', BitVec.getLsbD_signExtend,
    if_pos (show 0 + i < 16 by omega), decide_eq_true (show 0 + i < 64 by omega), Bool.true_and]

theorem boolWord_decide (p : Prop) [Decidable p] : boolWord (decide p) = if p then 1 else 0 := by
  by_cases h : p <;> simp [boolWord, h]

section Forms
variable {s : State} {t c : Nat} {rd rs1 rs2 : BitVec 5}

/-- What a ready I-format instruction writes. -/
theorem iForm_wrote (h : Ready s t c { reads := [rs1.toNat], writes := [rd.toNat] }) (op : Word → Word → Word)
    (imm : BitVec 16) : iForm op t c rd rs1 imm s = wrote t c rd (op (rv s t c rs1) (immWord imm)) s :=
  issue_wrote h (by rw [fetched_rv])

/-- What a ready S-format instruction writes, where its operation is defined and rs2 is used as it must be. -/
theorem sForm_wrote (h : Ready s t c { reads := [rs1.toNat, rs2.toNat], writes := [rd.toNat] })
    {op : Nat → Word → Word → Option Word} {unary : Nat → Bool} {fn : BitVec 11} {v : Word}
    (hv : op fn.toNat (rv s t c rs1) (rv s t c rs2) = some v) (hu : unary fn.toNat = false ∨ rs2 = 0) :
    sForm op unary t c rd rs1 rs2 fn s = wrote t c rd v s := by
  refine issue_wrote h ?_
  have hl : (!unary fn.toNat || rs2 == 0#5) = true := by rcases hu with hu | hu <;> simp [hu]
  simp only [fetched_rv, hv, hl, legal_true]

end Forms


/-- Settles O3, form by form: each is one register write of the fetched state. -/
theorem immediateResults : Obligations.ImmediateResults := by
  unfold Obligations.ImmediateResults
  refine ⟨fun s t c rd rs1 imm h => ?_, fun s t c rd => ⟨fun imm h => ?_, fun imm h => ?_, fun obj h hobj => ?_⟩⟩
  · have form (op : Word → Word → Word) {v : Word} (hv : op (rv s t c rs1) (immWord imm) = v) :
        Host.Outcome.next (φ := Fault) (ρ := Refusal) (iForm op t c rd rs1 imm s) = .next (wrote t c rd v s) := by
      rw [iForm_wrote h, hv]
    have hk := immWord_toNat_mod_64 imm
    exact ⟨form _ rfl, form _ rfl, form _ rfl, form _ rfl, form _ (by rw [hk]), form _ (by rw [hk]),
      form _ (by rw [hk]), form _ (boolWord_decide _)⟩
  · exact congrArg Host.Outcome.next (issue_wrote h rfl)
  · exact congrArg Host.Outcome.next (issue_wrote h (by rw [fetched_rv]; rfl))
  · refine congrArg Host.Outcome.next (issue_wrote h ?_)
    simp only [hobj, decide_true, Bool.and_true]
    rfl

/-! ### Leading zeros and set bits (03 R71) -/

theorem nbit_eq_getLsbD {w : Nat} (a : BitVec w) (i : Nat) : nbit a.toNat i = a.getLsbD i := by
  rw [BitVec.getLsbD, Nat.testBit_eq_decide_div_mod_eq, nbit]; rfl

/-- Leading zeros of `w` bits: at most `w`, the bits above are 0 and the next one, where there is one, is 1. -/
theorem clz_spec (a : Word) (w : Nat) :
    clz a.toNat w ≤ w ∧ (∀ i, w - clz a.toNat w ≤ i → i < w → a.getLsbD i = false) ∧
      (clz a.toNat w < w → a.getLsbD (w - 1 - clz a.toNat w) = true) := by
  induction w with
  | zero => simp [clz]
  | succ w ih =>
    rw [clz, nbit_eq_getLsbD]
    cases hb : a.getLsbD w with
    | true => exact ⟨by simp, fun i hi hw => absurd hw (by simp at hi; omega), fun _ => by simpa using hb⟩
    | false =>
      obtain ⟨hle, hzero, hone⟩ := ih
      rw [if_neg (by simp)]
      refine ⟨by omega, fun i hi hw => ?_, fun hlt => ?_⟩
      · rcases Nat.lt_succ_iff_lt_or_eq.mp hw with h | rfl
        · exact hzero i (by omega) h
        · exact hb
      · have := hone (by omega)
        rwa [show w + 1 - 1 - (clz a.toNat w + 1) = w - 1 - clz a.toNat w by omega]

/-- The set bits, counted. -/
theorem popCount_eq_countP (a : Word) (w : Nat) : popCount a.toNat w = (List.range w).countP a.getLsbD := by
  induction w with
  | zero => rfl
  | succ w ih =>
    have hb : b2n (nbit a.toNat w) = if a.getLsbD w then 1 else 0 := by rw [nbit_eq_getLsbD, b2n]
    rw [popCount, List.range_succ, List.foldl_append, List.countP_append]
    change popCount a.toNat w + b2n (nbit a.toNat w) = _
    rw [ih, hb]
    simp [List.countP_cons]

/-- Settles O4: each function through its row of the model's table; CLZ and POPC by recursion over the bits. -/
theorem aluResults : Obligations.AluResults := by
  unfold Obligations.AluResults
  intro s t c rd rs1 rs2 h
  have run {fn : BitVec 11} {v : Word} (hv : aluOp fn.toNat (rv s t c rs1) (rv s t c rs2) = some v)
      (hu : aluUnary fn.toNat = false ∨ rs2 = 0) : exec (.alu t c rd rs1 rs2 fn) s = .next (wrote t c rd v s) :=
    congrArg Host.Outcome.next (sForm_wrote h hv hu)
  dsimp only
  generalize rv s t c rs1 = a at *
  generalize rv s t c rs2 = b at *
  refine ⟨fun fn v hfn => ?_, fun hz => ?_, fun hz => ?_⟩
  · rw [← toNat_mod_64] at hfn
    simp only [List.mem_cons, List.not_mem_nil, or_false, Prod.mk.injEq] at hfn
    refine run ?_ (Or.inl ?_)
    · rcases hfn with ⟨hf, rfl⟩ | ⟨hf, rfl⟩ | ⟨hf, rfl⟩ | ⟨hf, rfl⟩ | ⟨hf, rfl⟩ | ⟨hf, rfl⟩ | ⟨hf, rfl⟩ | ⟨hf, rfl⟩ |
        ⟨hf, rfl⟩ | ⟨hf, rfl⟩ | ⟨hf, rfl⟩ | ⟨hf, rfl⟩ | ⟨hf, rfl⟩ | ⟨hf, rfl⟩ | ⟨hf, rfl⟩ | ⟨hf, rfl⟩ | ⟨hf, rfl⟩ <;>
        rw [hf] <;> simp [aluOp, boolWord_decide, BitVec.slt, BitVec.ult]
    · have hlt : fn.toNat < 17 := by omega
      simp [aluUnary]; omega
  · obtain ⟨hle, hzero, hone⟩ := clz_spec a 64
    refine ⟨clz a.toNat 64, hle, fun i hi => ?_, hone, run rfl (Or.inr hz)⟩
    by_cases hi' : i < 64
    · exact hzero i hi hi'
    · exact BitVec.getLsbD_of_ge a i (by omega)
  · exact run (by simp [aluOp, popCount_eq_countP]) (Or.inr hz)

/-! ### Values of the scalar FPU (03 R71) -/

theorem f32_eq (w : Word) : f32 w = fp32.decode (w.setWidth 32).toNat := by simp [f32]

theorem signed_32 (w : Word) : signed 32 w.toNat = (w.setWidth 32).toInt := by
  rw [BitVec.toInt_eq_toNat_cond, signed]
  simp only [BitVec.toNat_setWidth]
  split <;> split <;> omega

/-- Settles O5: each function through its row of the model's table. -/
theorem fpuResults : Obligations.FpuResults := by
  unfold Obligations.FpuResults
  intro s t c rd rs1 rs2 h
  have run {fn : BitVec 11} {v : Word} (hv : fpuOp fn.toNat (rv s t c rs1) (rv s t c rs2) = some v)
      (hu : fpuUnary fn.toNat = false ∨ rs2 = 0) : exec (.fpu t c rd rs1 rs2 fn) s = .next (wrote t c rd v s) :=
    congrArg Host.Outcome.next (sForm_wrote h hv hu)
  dsimp only
  rw [← f32_eq, ← f32_eq, ← signed_32]
  refine ⟨fun fn v hfn => ?_, fun hz => run rfl (Or.inr hz), fun hz => run rfl (Or.inr hz)⟩
  simp only [List.mem_cons, List.not_mem_nil, or_false, Prod.mk.injEq] at hfn
  refine run ?_ (Or.inl ?_)
  · rcases hfn with ⟨hf, rfl⟩ | ⟨hf, rfl⟩ | ⟨hf, rfl⟩ | ⟨hf, rfl⟩ | ⟨hf, rfl⟩ | ⟨hf, rfl⟩ | ⟨hf, rfl⟩ | ⟨hf, rfl⟩ <;>
      rw [hf] <;> simp [fpuOp, f32Word, fpuCmp, boolWord]
  · have hlt : fn.toNat < 8 := by omega
    simp [fpuUnary]; omega

end Sys2Proof.Machine

/-!
SUPPORT. Branches and jumps, and the frame of an instruction that writes one register (03 R62, R65, R66, R70).
-/
namespace Sys2Proof.Machine

theorem pcOk_iff (w : Word) : pcOk w = true ↔ w.toNat < 2 ^ 20 ∧ w.toNat % 4 = 0 := by simp [pcOk]

/-- The end of a jump: to a target that can be a PC, or with fault 0x02 (03 R65). -/
theorem finish_jumpTo (t c : Nat) (s s' : State) (w : Word) :
    finish t c s (jumpTo w s') = if w.toNat < 2 ^ 20 ∧ w.toNat % 4 = 0 then jumped t c (w.setWidth 32) s'
      else issueFault t c 0x02 s := by
  by_cases h : w.toNat < 2 ^ 20 ∧ w.toNat % 4 = 0
  · rw [if_pos h, jumpTo, if_pos ((pcOk_iff w).2 h), finish_jump]
  · rw [if_neg h, jumpTo, if_neg (mt (pcOk_iff w).1 h), finish_fault]

/-- What a branch of a ready context does, by whether its registers compare as it says. -/
theorem branch_ready {s : State} {t c : Nat} {rd rs1 : BitVec 5} (h : Ready s t c { reads := [rs1.toNat, rd.toNat] })
    (k : Cond) (imm : BitVec 16) {taken : Bool} (hk : k.holds (rv s t c rs1) (rv s t c rd) = taken) :
    branch k t c rd rs1 imm s = if taken = false then retired t c s (fetched t c s)
      else finish t c (fetched t c s) (jumpTo (pcRel (s.cx t c).pc imm) (fetched t c s)) := by
  rw [branch, issue_ready h, fetched_rv, fetched_rv, fetched_pc, hk]
  cases taken
  · exact finish_done h _
  · rfl

/-- Settles O6, one condition at a time; the jumps write their link before they go. -/
theorem branchAndJumpResults : Obligations.BranchAndJumpResults := by
  unfold Obligations.BranchAndJumpResults
  refine ⟨fun s t c rd rs1 imm h => ?_, fun s t c rd rs1 imm => ⟨fun h => ?_, fun h => ?_⟩⟩
  · have go (k : Cond) {taken : Bool} (hk : k.holds (rv s t c rs1) (rv s t c rd) = taken) :=
      congrArg (Host.Outcome.next (φ := Fault) (ρ := Refusal)) ((branch_ready h k imm hk).trans
        (congrArg _ (finish_jumpTo t c (fetched t c s) (fetched t c s) (pcRel (s.cx t c).pc imm))))
    refine ⟨go .eq rfl, go .ne rfl, go .lt rfl, go .ge ?_, go .ltu rfl, go .geu ?_⟩
    · rw [Cond.holds, BitVec.slt, ← decide_not]; simp only [Int.not_lt]
    · rw [Cond.holds, BitVec.ult, ← decide_not]; simp only [Nat.not_lt]
  · refine congrArg Host.Outcome.next ((issue_ready h _).trans ?_)
    have hlink : linkWord (fetched t c s) t c = (s.cx t c).pc.setWidth 64 + 4 := by rw [linkWord, fetched_pc]; rfl
    change finish t c (fetched t c s) (jumpTo (pcRel _ imm) (setRv t c rd (linkWord _ t c) _)) = _
    rw [hlink, fetched_pc, finish_jumpTo]
    rfl
  · refine congrArg Host.Outcome.next ((issue_ready h _).trans ?_)
    have hlink : linkWord (fetched t c s) t c = (s.cx t c).pc.setWidth 64 + 4 := by rw [linkWord, fetched_pc]; rfl
    simp only [hlink, fetched_rv, finish_jumpTo]
    rfl

/-! ### The frame of a register write and of a jump -/

theorem retired_cx (t c : Nat) (s s' : State) :
    (retired t c s s').cx t c = (s'.cx t c).retired ((s.cx t c).pc + 4) := by
  rw [retired, State.cx_onTile, if_pos rfl, Tile.retire_cx]; rfl

theorem retired_tile (t c : Nat) (s s' : State) :
    (retired t c s s').tile t = (s'.tile t).retire c ((s.cx t c).pc + 4) := State.onTile_tile _ _ _

theorem jumped_cx (t c : Nat) (npc : BitVec 32) (s : State) :
    (jumped t c npc s).cx t c = { (s.cx t c).retired npc with fetch := none } := by
  rw [jumped, State.cx_onTile, if_pos rfl, Tile.onCx_cx, Tile.retire_cx]; rfl

theorem KeepsRest.retired (t c : Nat) (s s' : State) : KeepsRest t c s' (retired t c s s') := KeepsRest.retire t c _ s'

theorem KeepsRest.jumped (t c : Nat) (npc : BitVec 32) (s : State) : KeepsRest t c s (jumped t c npc s) := by
  have hkept : KeepsTile (s.tile t) ((Machine.jumped t c npc s).tile t) := by
    rw [Machine.jumped, State.onTile_tile]
    exact (KeepsTile.retire _ c npc).trans (by simp [KeepsTile])
  refine ⟨by simp [Machine.jumped, KeepsDevice], hkept, fun u hu => State.onTile_tile_ne s t _ hu, fun d hd => ?_⟩
  rw [Machine.jumped, State.cx_onTile, if_pos rfl, Tile.ext_cx, if_neg hd, Tile.retire_cx_ne _ _ _ _ hd, State.cx]

theorem KeepsRest.setRv (t c : Nat) (rd : BitVec 5) (v : Word) (s : State) : KeepsRest t c s (setRv t c rd v s) :=
  KeepsRest.onCx t c _ s

/-- A state whose device is kept reads the same bytes. -/
theorem KeepsDevice.bytes {s s' : State} (h : KeepsDevice s s') (a n : Nat) : s'.bytes a n = s.bytes a n := by
  obtain ⟨-, hmem, -⟩ := h
  simp only [State.bytes, hmem]

theorem jumped_phasePc (t c : Nat) (npc : BitVec 32) (s : State) :
    ((jumped t c npc s).tile t).phasePc = BitVec.ofNat 34 (c * 2 ^ 32 + (s.cx t c).pc.toNat) := by
  rw [jumped, State.onTile_tile, Tile.onCx_phasePc, Tile.retire_phasePc]; rfl

/-- What a register write reads back, for every register of the context. -/
theorem wrote_rv (t c : Nat) (rd r : BitVec 5) (v : Word) (s : State) :
    rv (wrote t c rd v s) t c r = if r = rd ∧ rd ≠ 0 then v else rv s t c r := by
  have hreg : rv (wrote t c rd v s) t c r = (((fetched t c s).cx t c).setReg rd.toNat v).reg r.toNat := by
    rw [rv, wrote, retired_cx, setRv, State.onCx_cx]; rfl
  have hr : r.toNat = rd.toNat ↔ r = rd := BitVec.toNat_inj
  have h0 : rd.toNat = 0 ↔ rd = 0 := BitVec.toNat_inj (y := 0)
  rw [hreg, Ctx.reg_setReg, fetched_reg]
  simp only [hr, ne_eq, h0]
  rfl

/-- Settles O7: the parts of a register write and of a jump, each of which keeps the rest. -/
theorem registerWriteAndJumpFrame : Obligations.RegisterWriteAndJumpFrame := by
  unfold Obligations.RegisterWriteAndJumpFrame
  refine ⟨fun s t c rd v => ?_, fun s' t c npc => ?_⟩
  · have hkeeps : KeepsRest t c s (wrote t c rd v s) :=
      ((KeepsRest.fetched t c s).trans (KeepsRest.setRv t c rd v _)).trans (KeepsRest.retired t c s _)
    have hcx : (wrote t c rd v s).cx t c = (((fetched t c s).cx t c).setReg rd.toNat v).retired ((s.cx t c).pc + 4) := by
      rw [wrote, retired_cx, setRv, State.onCx_cx]
    refine ⟨fun hrd => ?_, rfl, fun r hr => ?_, fun d => ?_, ?_, ?_, ?_, ?_, hkeeps, hkeeps.1.bytes⟩
    · rw [wrote_rv, if_pos ⟨rfl, hrd⟩]
    · rw [wrote_rv, if_neg (fun h => hr h.1)]
    · rw [hcx]; simp [Ctx.retired, Ctx.desc]
    · rw [hcx]; rfl
    · rw [hcx]; simp [Ctx.retired]
    · rw [hcx]; simp [Ctx.retired]
    · rw [wrote, retired_tile, Tile.retire_phasePc, ← fetched_pc t c]
      change BitVec.ofNat 34 (_ + (((setRv t c rd v (fetched t c s)).cx t c).pc).toNat) = _
      rw [setRv, State.onCx_cx]; simp
  · have hkeeps := KeepsRest.jumped t c npc s'
    have hcx := jumped_cx t c npc s'
    exact ⟨by rw [hcx]; rfl, by rw [hcx], by rw [hcx]; rfl, by rw [hcx]; rfl, by rw [hcx]; rfl,
      jumped_phasePc t c npc s', hkeeps, hkeeps.1.bytes⟩

end Sys2Proof.Machine

/-!
SUPPORT. Register groups, flags, hub operations, contexts and engine starts at issue (03 R68, R70–R73, R96, R97).
-/
namespace Sys2Proof.Machine

/-! ### Register groups (03 R68) -/

theorem Ctx.loadRegs_pieces (ps : List Bytes) (rt n r : Nat) (k : Ctx) :
    ((ps.zipIdx n).foldl (fun k p => k.setReg (rt + p.2) (BitVec.ofNat 64 (leNat p.1))) k).reg r =
      if h : rt + n ≤ r ∧ r < rt + n + ps.length ∧ r ≠ 0 then BitVec.ofNat 64 (leNat (ps[r - rt - n]'(by omega)))
      else k.reg r := by
  induction ps generalizing n k with
  | nil => rw [dif_neg (by simp; omega)]; rfl
  | cons p ps ih =>
    rw [List.zipIdx_cons, List.foldl_cons, ih, Ctx.reg_setReg]
    by_cases hhead : r = rt + n
    · by_cases hr : r = 0
      · rw [dif_neg (by omega), if_neg (by simp; omega), dif_neg (by omega)]
      · have hlt : rt + n < rt + n + (p :: ps).length := by simp
        rw [dif_neg (by omega), if_pos ⟨hhead, by omega⟩, dif_pos ⟨by omega, by omega, hr⟩]
        simp [show r - rt - n = 0 by omega]
    · by_cases htail : rt + (n + 1) ≤ r ∧ r < rt + (n + 1) + ps.length ∧ r ≠ 0
      · have hin : rt + n ≤ r ∧ r < rt + n + (p :: ps).length ∧ r ≠ 0 := by simp; omega
        rw [dif_pos htail, dif_pos hin]
        simp [show r - rt - n = (r - rt - (n + 1)) + 1 by omega]
      · have hout : ¬(rt + n ≤ r ∧ r < rt + n + (p :: ps).length ∧ r ≠ 0) := by simp; omega
        rw [dif_neg htail, dif_neg hout, if_neg (by simp [hhead])]

/-- What register `r` holds after a load's bytes were put into the group from `rt` on. -/
theorem Ctx.reg_loadRegs (k : Ctx) (rt r : Nat) (bs : Bytes) :
    (k.loadRegs rt bs).reg r =
      if h : rt ≤ r ∧ r < rt + (pieces 8 8 bs).length ∧ r ≠ 0 then
        BitVec.ofNat 64 (leNat ((pieces 8 8 bs)[r - rt]'(by omega)))
      else k.reg r :=
  Ctx.loadRegs_pieces (pieces 8 8 bs) rt 0 r k

theorem Ctx.reg_loadRegs_zero (k : Ctx) (rt : Nat) (bs : Bytes) : (k.loadRegs rt bs).reg 0 = 0 := rfl

theorem pieces_cons {α : Type} (k fuel : Nat) (l : List α) (h : l ≠ []) :
    pieces k (fuel + 1) l = l.take k :: pieces k fuel (l.drop k) := by
  cases l with
  | nil => exact absurd rfl h
  | cons x l => rfl

/-- A list of `n` whole pieces, cut. -/
theorem pieces_whole {α : Type} (k fuel n : Nat) (l : List α) (hk : 0 < k) (hn : n ≤ fuel) (hl : l.length = k * n) :
    pieces k fuel l = (List.range n).map (fun j => (l.drop (k * j)).take k) := by
  induction n generalizing fuel l with
  | zero => 
    have : l = [] := List.eq_nil_of_length_eq_zero (by simpa using hl)
    cases fuel <;> simp [this, pieces]
  | succ n ih =>
    obtain ⟨fuel, rfl⟩ : ∃ f, fuel = f + 1 := ⟨fuel - 1, by omega⟩
    have hne : l ≠ [] := by rintro rfl; simp at hl; omega
    rw [pieces_cons k fuel l hne, ih fuel (l.drop k) (by omega) (by rw [List.length_drop, hl, Nat.mul_succ]; omega),
      List.range_succ_eq_map, List.map_cons, List.map_map]
    simp [Function.comp_def, Nat.mul_succ, Nat.add_comm]

/-- A run of at most one piece. -/
theorem pieces_one {α : Type} (k fuel : Nat) (l : List α) (h : l ≠ []) (hl : l.length ≤ k) : pieces k (fuel + 1) l = [l] := by
  rw [pieces_cons k fuel l h, List.take_of_length_le hl, List.drop_eq_nil_of_le hl]
  cases fuel <;> rfl

/-- How many registers a load's bytes fill. -/
theorem length_pieces_load (bs : Bytes) (h : bs.length ∈ [1, 2, 4, 8, 16, 32, 64]) :
    (pieces 8 8 bs).length = max 1 (bs.length / 8) := by
  by_cases hone : bs.length ≤ 8
  · have hne : bs ≠ [] := by rintro rfl; simp at h
    rw [pieces_one 8 7 bs hne hone]
    simp at h ⊢; omega
  · have hn : bs.length = 8 * (bs.length / 8) := by simp at h; omega
    rw [pieces_whole 8 8 (bs.length / 8) bs (by omega) (by simp at h; omega) hn]
    simp; omega

theorem drop_flatMap_toBytes (f : Nat → Nat) (n j : Nat) (hj : j < n) :
    (((List.range n).flatMap (fun i => toBytes (f i) 8)).drop (8 * j)).take 8 = toBytes (f j) 8 := by
  induction n generalizing f j with
  | zero => omega
  | succ n ih =>
    rw [List.range_succ_eq_map, List.flatMap_cons, List.flatMap_map]
    cases j with
    | zero => rw [Nat.mul_zero, List.drop_zero, List.take_left' (length_toBytes _ _)]
    | succ j =>
      have hlen : (toBytes (f 0) 8).length ≤ 8 * (j + 1) := by rw [length_toBytes]; omega
      rw [List.drop_append, List.drop_eq_nil_of_le hlen, List.nil_append, length_toBytes,
        show 8 * (j + 1) - 8 = 8 * j by omega]
      exact ih (fun i => f (i + 1)) j (by omega)

/-- A store of more than one register takes each register's bytes in turn. -/
theorem storeBytes_group (s : State) (t c rt : Nat) {size j : Nat} (hsize : size ∈ [16, 32, 64]) (hj : j < size / 8) :
    ((storeBytes s t c rt size).drop (8 * j)).take 8 = toBytes ((s.cx t c).reg (rt + j)).toNat 8 := by
  have hmax : max 1 (size / 8) = size / 8 := by omega
  have hwide : ¬ size ≤ 8 := by simp at hsize; omega
  rw [storeBytes, if_neg hwide, regGroup, hmax, List.flatMap_map]
  exact drop_flatMap_toBytes (fun i => ((s.cx t c).reg (rt + i)).toNat) (size / 8) j hj

/-- Settles O13: a load cuts its bytes into registers, a store joins them, both from the lowest up. -/
theorem registerGroupsMoveInOrder : Obligations.RegisterGroupsMoveInOrder := by
  unfold Obligations.RegisterGroupsMoveInOrder
  intro k rt bs
  refine ⟨fun n j hn hlen hj hr => ?_, fun hlen hrt => ?_, fun r hout hlen => ?_, Ctx.reg_loadRegs_zero k rt bs,
    fun s t c j => ⟨fun size hsize hj => storeBytes_group s t c rt hsize hj, fun size hsize => ?_⟩⟩
  · have hpieces := pieces_whole 8 8 n bs (by omega) (by simp at hn; omega) hlen
    have hin : rt ≤ rt + j ∧ rt + j < rt + (pieces 8 8 bs).length ∧ rt + j ≠ 0 := by
      rw [hpieces]; simp; omega
    rw [Ctx.reg_loadRegs, dif_pos hin]
    simp [hpieces]
  · have hne : bs ≠ [] := by rintro rfl; simp at hlen
    have hpieces := pieces_one 8 7 bs hne (by simp at hlen; omega)
    rw [Ctx.reg_loadRegs, dif_pos (by rw [hpieces]; simp; omega)]
    simp [hpieces]
  · rw [Ctx.reg_loadRegs, dif_neg (by rw [length_pieces_load bs hlen]; omega)]
  · have hnarrow : size ≤ 8 := by simp at hsize; omega
    rw [storeBytes, if_pos hnarrow, leNat_toBytes]

/-! ### Tile flags (03 R72, R96, R97) -/

/-- The waits of a tile's contexts after some of them are ended: those that equal `w`. -/
theorem Tile.endWait_cx (x : Tile) (c d : Nat) :
    (x.endWait c).cx d = if d = c then (x.cx c).unwait.retired ((x.cx c).pc + 4) else x.cx d := by
  by_cases hd : d = c
  · subst hd; rw [if_pos rfl, Tile.endWait, Tile.retire_cx, Tile.onCx_cx]
  · rw [if_neg hd, Tile.endWait, Tile.retire_cx_ne _ _ _ _ hd, Tile.onCx_cx_ne _ _ _ hd]

theorem KeepsTile.onCx (x : Tile) (c : Nat) (f : Ctx → Ctx) : KeepsTile x (x.onCx c f) := by simp [KeepsTile]

theorem KeepsTile.endWait (x : Tile) (c : Nat) : KeepsTile x (x.endWait c) :=
  (KeepsTile.onCx x c _).trans (KeepsTile.retire _ c _)

theorem KeepsTile.endWaits (x : Tile) (w : WaitFor) : KeepsTile x (x.endWaits w) := by
  have h : ∀ (l : List Nat) (y : Tile), KeepsTile x y →
      KeepsTile x (l.foldl (fun x c => if x.waitsFor c w then x.endWait c else x) y) := by
    intro l
    induction l with
    | nil => exact fun _ h => h
    | cons c l ih =>
      intro y hy
      refine ih _ ?_
      dsimp only
      split
      · exact hy.trans (KeepsTile.endWait y c)
      · exact hy
  exact h _ x (KeepsTile.refl x)

/-- Each context that waits for `w` goes on past its instruction; every other is as it was. -/
theorem Tile.endWaits_cx (x : Tile) (w : WaitFor) (c : Nat) :
    (x.endWaits w).cx c =
      if c < 4 ∧ (x.cx c).wait = some w then (x.cx c).unwait.retired ((x.cx c).pc + 4) else x.cx c := by
  have h : ∀ (l : List Nat) (y : Tile),
      (l.foldl (fun x c => if x.waitsFor c w then x.endWait c else x) y).cx c =
        if c ∈ l ∧ (y.cx c).wait = some w then (y.cx c).unwait.retired ((y.cx c).pc + 4) else y.cx c := by
    intro l
    induction l with
    | nil => simp
    | cons d l ih =>
      intro y
      rw [List.foldl_cons, ih]
      by_cases hw : y.waitsFor d w = true
      · have hwait : (y.cx d).wait = some w := by simpa [Tile.waitsFor] using hw
        rw [if_pos hw, Tile.endWait_cx]
        by_cases hc : c = d
        · subst hc
          rw [if_pos rfl, if_neg (by simp [Ctx.retired, Ctx.unwait]), if_pos ⟨by simp, hwait⟩]
        · simp [hc]
      · have hwait : ¬(y.cx d).wait = some w := by simpa [Tile.waitsFor] using hw
        rw [if_neg hw]
        by_cases hc : c = d
        · subst hc; simp [hwait]
        · simp [hc]
  have hmem : c ∈ [0, 1, 2, 3] ↔ c < 4 := by simp; omega
  rw [Tile.endWaits, h]
  simp only [hmem]

theorem Tile.putFlag_cx (x : Tile) (f : Nat) (b : Bool) (c : Nat) :
    (x.putFlag f b).cx c =
      if c < 4 ∧ (x.cx c).wait = some (.tf f b) then (x.cx c).unwait.retired ((x.cx c).pc + 4) else x.cx c :=
  Tile.endWaits_cx _ _ c

theorem Tile.putFlag_flags (x : Tile) (f : Nat) (b : Bool) : (x.putFlag f b).flags = setBit x.flags f b :=
  (KeepsTile.endWaits { x with flags := setBit x.flags f b } (.tf f b)).1

theorem Tile.putFlag_flag (x : Tile) {f : Nat} (b : Bool) (g : Nat) (hf : f < 256) :
    (x.putFlag f b).flag g = if g = f then b else x.flag g := by
  rw [Tile.flag, Tile.putFlag_flags, getLsbD_setBit _ _ _ _ hf]; rfl

theorem putFlag_tile (t f : Nat) (b : Bool) (s : State) : (putFlag t f b s).tile t = (s.tile t).putFlag f b :=
  State.onTile_tile _ _ _

theorem putFlag_tile_ne (t f : Nat) (b : Bool) (s : State) {u : Nat} (hu : u ≠ t) : (putFlag t f b s).tile u = s.tile u :=
  State.onTile_tile_ne s t _ hu

theorem KeepsDevice.onTile (t : Nat) (f : Tile → Tile) (s : State) : KeepsDevice s (s.onTile t f) := by simp [KeepsDevice]

/-- Settles O15, from what the end of the flag's waits does to each context. -/
theorem flagWriteEffect : Obligations.FlagWriteEffect := by
  unfold Obligations.FlagWriteEffect
  intro s t f b hf s'
  have hcx (c : Nat) : s'.cx t c = ((s.tile t).putFlag f b).cx c := by rw [State.cx, putFlag_tile]
  refine ⟨?_, fun g hg => ?_, fun c hc hwait hst => ?_, fun c hwait => ?_, fun u hu => putFlag_tile_ne t f b s hu,
    KeepsDevice.onTile t _ s⟩
  · rw [putFlag_tile, Tile.putFlag_flag _ _ _ hf, if_pos rfl]
  · rw [putFlag_tile, Tile.putFlag_flag _ _ _ hf, if_neg hg]
  · have hgoes : s'.cx t c = (s.cx t c).unwait.retired ((s.cx t c).pc + 4) := by
      rw [hcx, Tile.putFlag_cx]; exact if_pos ⟨hc, hwait⟩
    rw [hgoes]
    exact ⟨rfl, rfl, rfl, fun hgrant => by simp [Ctx.retired, Ctx.unwait, hst, hgrant]⟩
  · rw [hcx, Tile.putFlag_cx]; exact if_neg (fun h => hwait h.2)

theorem fetched_keepsTile (t c : Nat) (s : State) : KeepsTile (s.tile t) ((fetched t c s).tile t) :=
  (KeepsRest.fetched t c s).2.1

@[simp] theorem fetched_flag (t c f : Nat) (s : State) : ((fetched t c s).tile t).flag f = (s.tile t).flag f := by
  obtain ⟨hflags, -⟩ := fetched_keepsTile t c s
  rw [Tile.flag, hflags]; rfl

@[simp] theorem fetched_un (t c : Nat) (s : State) : ((fetched t c s).tile t).un = (s.tile t).un := by
  obtain ⟨-, -, -, -, -, -, -, -, -, -, hun, -⟩ := fetched_keepsTile t c s
  exact hun

@[simp] theorem fetched_mail (t c : Nat) (s : State) : ((fetched t c s).tile t).mail = (s.tile t).mail := by
  obtain ⟨-, -, -, -, -, -, -, -, -, -, -, hmail, -⟩ := fetched_keepsTile t c s
  exact hmail

@[simp] theorem fetched_unit (t c u : Nat) (s : State) : ((fetched t c s).tile t).unit u = (s.tile t).unit u := by
  rw [Tile.unit, fetched_un]; rfl

/-- What a TF instruction with legal fields does in a ready context. -/
theorem tfForm_ready {s : State} {t c : Nat} {rd : BitVec 5} (h : Ready s t c { writes := [rd.toNat] }) {obj : BitVec 12}
    (hobj : obj.toNat ≤ 255) {usesRd writesFlag : Bool} (hrd : usesRd = true ∨ rd = 0)
    (hphase : writesFlag = false ∨ obj.toNat ≠ 255) (body : State → Eff) :
    tfForm usesRd writesFlag t c rd 0 obj body s = finish t c (fetched t c s) (body (fetched t c s)) := by
  have hlegal : ((0 : BitVec 5) == 0#5 && (usesRd || rd == 0#5) && decide (obj.toNat ≤ 255)
      && !(writesFlag && obj.toNat == 255)) = true := by
    rcases hrd with hrd | hrd <;> rcases hphase with hphase | hphase <;> simp [hrd, hphase, hobj]
  rw [tfForm, issue_ready h, hlegal, legal_true]

/-- Settles O14, form by form. -/
theorem tileFlagInstructions : Obligations.TileFlagInstructions := by
  unfold Obligations.TileFlagInstructions
  intro s t c rd obj hobj
  have hbool (b : Bool) : boolWord b = if b then 1 else 0 := rfl
  have wait (h : Ready s t c { writes := [0] }) (want : Bool) : tfWait want t c 0 0 obj s =
      if (s.tile t).flag obj.toNat = want then retired t c s (fetched t c s)
      else waiting t c (.tf obj.toNat want) (fetched t c s) := by
    rw [tfWait, tfForm_ready h hobj (.inr rfl) (.inl rfl), fetched_flag]
    split
    · exact finish_done h _
    · exact finish_wait h _
  refine ⟨fun h => ⟨fun hf => ?_, fun hf => ?_, ?_, ?_⟩, fun h => ⟨?_, fun hf => ?_⟩⟩ <;> refine congrArg Host.Outcome.next ?_
  · rw [tfForm_ready h hobj (.inr rfl) (.inr hf), finish_done h]
  · rw [tfForm_ready h hobj (.inr rfl) (.inr hf), finish_done h]
  · exact wait h true
  · rw [wait h false]
    cases (s.tile t).flag obj.toNat <;> rfl
  · rw [tfForm_ready h hobj (.inl rfl) (.inl rfl), finish_done h, fetched_flag, hbool]; rfl
  · rw [tfForm_ready h hobj (.inl rfl) (.inr hf), finish_done h, fetched_flag, hbool]

/-! ### Operations at the hub (03 R72, 09 R239) -/

/-- An operation that a ready context sends to the hub. -/
theorem finish_toHub {s : State} {t c : Nat} {u : Uses} (h : Ready s t c u) (w : WaitFor) (o : HubOp) :
    finish t c (fetched t c s) (toHub t c w o (fetched t c s)) =
      waiting t c w ((fetched t c s).onNet (fun n => { n with hubOps := n.hubOps ++ [o] })) := finish_left h _

/-- What a GF instruction with legal fields does in a ready context. -/
theorem gfForm_ready {s : State} {t c : Nat} {rd : BitVec 5} (h : Ready s t c { writes := [rd.toNat] }) {obj : BitVec 12}
    (hobj : obj.toNat ≤ 1023) {kind : HubKind} (hrd : kind = .gfTst ∨ kind = .gfTas ∨ rd = 0) (rel acq : Bool) :
    gfForm kind rel acq t c rd 0 obj s =
      if (rel && writesOut (fetched t c s) t c) = true then waiting t c (.fence false) (fetched t c s)
      else waiting t c (.gf obj.toNat (decide (kind = .gfWait) || decide (kind = .gfWaitc)))
        ((fetched t c s).onNet (fun n => { n with hubOps := n.hubOps ++
          [{ t := t, c := c, iaddr := (s.cx t c).pc, kind := kind, obj := obj.toNat, acq := acq, rd := rd.toNat }] })) := by
  have hlegal : ((0 : BitVec 5) == 0#5 && (decide (kind = .gfTst) || decide (kind = .gfTas) || rd == 0#5)
      && decide (obj.toNat ≤ 1023)) = true := by
    rcases hrd with hrd | hrd | hrd <;> simp [hrd, hobj]
  rw [gfForm, issue_ready h, hlegal, legal_true, fetched_pc]
  split
  · exact finish_wait h _
  · exact finish_toHub h _ _

/-- Settles O16: every form is the one form with its own kind. -/
theorem globalFlagInstructions : Obligations.GlobalFlagInstructions := by
  unfold Obligations.GlobalFlagInstructions
  intro s t c rd obj hobj
  have plain {r : BitVec 5} (h : Ready s t c { writes := [r.toNat] }) (kind : HubKind) (acq : Bool)
      (hr : kind = .gfTst ∨ kind = .gfTas ∨ r = 0) :=
    congrArg (Host.Outcome.next (φ := Fault) (ρ := Refusal)) (gfForm_ready h hobj hr false acq)
  have release (h : Ready s t c { writes := [0] }) (kind : HubKind) :=
    (congrArg (Host.Outcome.next (φ := Fault) (ρ := Refusal)) (gfForm_ready (rd := 0) h hobj (kind := kind) (.inr (.inr rfl))
      true false)).trans (apply_ite _ _ _ _)
  refine ⟨fun h => ?_, fun h => ?_⟩
  · have sends (kind : HubKind) (acq : Bool) := plain (r := 0) h kind acq (.inr (.inr rfl))
    exact ⟨sends .gfSet false, sends .gfClr false, sends .gfWait false, sends .gfWait true, sends .gfWaitc false,
      release h .gfSet, release h .gfClr⟩
  · exact ⟨plain h .gfTst false (.inl rfl), plain h .gfTst true (.inl rfl), plain h .gfTas false (.inr (.inl rfl))⟩

/-- What a SEM instruction with legal fields does in a ready context. -/
theorem semForm_ready {s : State} {t c : Nat} {rd rs1 : BitVec 5}
    (h : Ready s t c { reads := [rs1.toNat], writes := [rd.toNat] }) {obj : BitVec 12} (hobj : obj.toNat ≤ 255)
    {kind : HubKind} (hfields : if kind = .semRead then rs1 = 0 else rd = 0) (rel acq : Bool) :
    semForm kind rel acq t c rd rs1 obj s =
      if (rel && writesOut (fetched t c s) t c) = true then waiting t c (.fence false) (fetched t c s)
      else if kind = .semWait ∧ (rv s t c rs1).setWidth 16 = 0#16 then
        retired t c s (if acq then acquire t c (fetched t c s) else fetched t c s)
      else waiting t c (.sem obj.toNat (decide (kind = .semWait)) ((rv s t c rs1).setWidth 16).toNat)
        ((fetched t c s).onNet (fun n => { n with hubOps := n.hubOps ++
          [{ t := t, c := c, iaddr := (s.cx t c).pc, kind := kind, obj := obj.toNat, n := (rv s t c rs1).setWidth 16,
             acq := acq, rd := rd.toNat }] })) := by
  have hlegal : ((if decide (kind = .semRead) = true then rs1 == 0#5 else rd == 0#5) && decide (obj.toNat ≤ 255)) = true := by
    by_cases hk : kind = .semRead
    · rw [if_pos hk] at hfields; simp [hk, hfields, hobj]
    · rw [if_neg hk] at hfields; simp [hk, hfields, hobj]
  rw [semForm, issue_ready h, hlegal, legal_true, fetched_rv, fetched_pc]
  dsimp only
  split
  · exact finish_wait h _
  · by_cases hz : kind = .semWait ∧ (rv s t c rs1).setWidth 16 = 0#16
    · rw [if_pos hz]; exact (congrArg _ (if_pos hz)).trans (finish_done h _)
    · rw [if_neg hz]; exact (congrArg _ (if_neg hz)).trans (finish_toHub h _ _)

/-- Settles O17: every form is the one form with its own kind. -/
theorem semaphoreInstructions : Obligations.SemaphoreInstructions := by
  unfold Obligations.SemaphoreInstructions
  intro s t c rd rs1 obj hobj
  have form {r r1 : BitVec 5} (h : Ready s t c { reads := [r1.toNat], writes := [r.toNat] }) (kind : HubKind)
      (rel acq : Bool) (hf : if kind = .semRead then r1 = 0 else r = 0) :=
    congrArg (Host.Outcome.next (φ := Fault) (ρ := Refusal)) (semForm_ready h hobj hf rel acq)
  refine ⟨fun h => ?_, fun h => ?_⟩
  · have sends (kind : HubKind) (rel acq : Bool) (hk : kind ≠ .semRead) :=
      form (r := 0) h kind rel acq (by rw [if_neg hk])
    refine ⟨(sends .semSignal false false (by decide)).trans (by simp), (sends .semSignal true false (by decide)).trans ?_,
      (sends .semWait false false (by decide)).trans ?_, (sends .semWait false true (by decide)).trans ?_⟩
    · simp only [Bool.true_and, reduceCtorEq, false_and, if_false, apply_ite Host.Outcome.next]
      rfl
    · simp only [Bool.false_and, Bool.false_eq_true, true_and, if_false, apply_ite Host.Outcome.next]
      rfl
    · simp only [Bool.false_and, Bool.false_eq_true, true_and, if_false, if_true, apply_ite Host.Outcome.next]
      rfl
  · refine (form (r1 := 0) h .semRead false false (by rw [if_pos rfl])).trans ?_
    simp [rv]

end Sys2Proof.Machine

/-!
SUPPORT. Contexts and engine starts at issue (03 R64, R70–R73).
-/
namespace Sys2Proof.Machine

/-! ### CTX.START, CTX.STOP, HRET, BKPT and CSR writes -/

theorem partOf_fetched (t c u : Nat) (s : State) : partOf (fetched t c s) u = partOf s u := by
  obtain ⟨⟨-, -, -, -, -, -, hparts, -⟩, -⟩ := KeepsRest.fetched t c s
  simp only [partOf, partOfRegion, inBand, State.part, hparts]

@[simp] theorem fetched_dev (t c : Nat) (s : State) : (fetched t c s).dev = s.dev := by
  obtain ⟨⟨-, -, -, -, -, -, -, -, hdev, -⟩, -⟩ := KeepsRest.fetched t c s
  exact hdev

/-- An instruction whose fields are found to keep R70's rules. -/
theorem legal_of {ok : Bool} (h : ok = true) (body : State → Eff) (s : State) : legal ok body s = body s := by
  rw [h, legal_true]

/-- Settles O19, instruction by instruction, along the checks each one makes. -/
theorem contextInstructions : Obligations.ContextInstructions := by
  unfold Obligations.ContextInstructions
  intro s t c rs1 obj
  have hstart (hobj : obj.toNat ≤ 3) : ((0 : BitVec 5) == 0#5 && decide (obj.toNat ≤ 3)) = true := by simp [hobj]
  refine ⟨fun h hobj => ⟨fun hbusy => ?_, fun hoff hhandler => ?_⟩,
    fun h => ⟨fun hh => ?_, fun hh hrun => ?_, fun hn hatt => ?_, fun hatt => ?_⟩, fun h hobj hphase => ?_⟩ <;>
    refine congrArg Host.Outcome.next ?_
  · refine issue_fault h ((legal_of (hstart hobj) _ _).trans ?_)
    rw [fetched_mail]
    exact if_pos hbusy
  · have hfree : ¬(((fetched t c s).cx t obj.toNat).st ≠ .off ∨ (s.tile t).mail.handler = some obj.toNat) :=
      fun hb => hb.elim (fun h => h hoff) hhandler
    rw [issue_ready h, legal_of (hstart hobj), fetched_mail, fetched_rv, if_neg hfree]
    by_cases hpc : (rv s t c rs1).toNat < 2 ^ 20 ∧ (rv s t c rs1).toNat % 4 = 0
    · rw [if_pos hpc, if_neg (by rw [(pcOk_iff _).2 hpc]; decide), finish_done h]; rfl
    · rw [if_neg hpc, if_pos (by rw [Bool.eq_false_iff.2 (mt (pcOk_iff _).1 hpc)]; rfl), finish_fault]
  · refine issue_done h ((legal_of rfl _ _).trans ?_)
    rw [fetched_mail]
    exact if_neg hh
  · refine issue_done h ((legal_of rfl _ _).trans ?_)
    rw [fetched_mail]
    exact if_neg (by simp [hh, hrun])
  · refine issue_done h ((legal_of rfl _ _).trans ?_)
    rw [partOf_fetched, fetched_dev]
    exact if_pos ⟨hn, hatt⟩
  · refine issue_fault h ((legal_of rfl _ _).trans ?_)
    rw [partOf_fetched, fetched_dev]
    exact if_neg (by rw [hatt]; simp)
  · refine issue_done h ?_
    rw [fetched_rv]
    exact (legal_of (by simp [hobj, hphase]) _ _).trans (by rw [fetched_rv])

/-! ### Engine starts (03 R70, R73) -/

/-- What a ready context's legal start of an engine does: its request is queued, or waits for an entry. -/
theorem dForm_ready {s : State} {t c : Nat} {q : StartReq} {kind : OpKind} {n : Nat} {ok : Bool} {dd da db : BitVec 3}
    {gp : BitVec 5} {tf : BitVec 8} {sub : BitVec 4} (hn : n = sub.toNat)
    (hq : q = { kind := kind, sub := sub, ctx := c, iaddr := (s.cx t c).pc, dd := dd, da := da, db := db, gp := gp, tf := tf })
    (h : Ready s t c { reads := q.regs (s.cx t c), dreads := q.descs }) (hok : ok = true) (htf : tf ≠ 255) :
    dForm kind n ok t c dd da db gp tf s =
      if 2 ≤ ((s.tile t).unit kind.unit).queue.length then waiting t c (.queue kind.unit) (fetched t c s)
      else retired t c s ((fetched t c s).onUnit t kind.unit (fun x => { x with queue := x.queue ++ [q] })) := by
  have hlegal : (ok && tf.toNat != 255) = true := by
    have hne : tf.toNat ≠ 255 := fun h => htf (BitVec.eq_of_toNat_eq h)
    simp [hok, hne]
  have hsub : BitVec.ofNat 4 n = sub := by rw [hn, BitVec.ofNat_toNat, BitVec.setWidth_eq]
  subst hq
  rw [dForm, hsub, issue_ready h, hlegal, legal_true, enqueueStart, fetched_unit]
  split
  · exact finish_wait h _
  · exact finish_done h _

/-- Settles O20: every start is the one form with its own kind and sub. -/
theorem engineStarts : Obligations.EngineStarts := by
  unfold Obligations.EngineStarts
  intro s t c dd da db gp tf sub htf
  have starts (kind : OpKind) (n : Nat) (sub : BitVec 4) (hn : n = sub.toNat) (ok : Bool) (hok : ok = true)
      (h : Ready s t c _) :=
    congrArg (Host.Outcome.next (φ := Fault) (ρ := Refusal))
      (dForm_ready (kind := kind) (dd := dd) (da := da) (db := db) (gp := gp) hn rfl h hok htf)
  refine ⟨starts .mm 0 0 rfl true rfl, starts .mm 1 1 rfl true rfl, starts .mm 2 2 rfl true rfl,
    starts .mm 3 3 rfl true rfl, fun hsub => starts .vop sub.toNat sub rfl _ ?_,
    fun hsub => starts .opt sub.toNat sub rfl _ (decide_eq_true hsub), starts .lig 0 0 rfl true rfl,
    starts .lig 1 1 rfl true rfl, fun hdb => ⟨fun hsub => starts .vtr sub.toNat sub rfl _ (by simp [hsub, hdb]),
      starts .cvt 0 0 rfl _ (by simp [hdb]), starts .samp 0 0 rfl _ (by simp [hdb]), starts .lig 2 2 rfl _ (by simp [hdb]),
      starts .lig 3 3 rfl _ (by simp [hdb]), starts .lig 4 4 rfl _ (by simp [hdb]), starts .movt 1 1 rfl _ (by simp [hdb]),
      fun hgp => starts .movt 0 0 rfl _ (by simp [hgp, hdb]), fun hda => ⟨starts .fill 0 0 rfl _ (by simp [hda, hdb]),
        starts .grn 0 0 rfl _ (by simp [hda, hdb]), starts .grn 1 1 rfl _ (by simp [hda, hdb]),
        starts .grn 2 2 rfl _ (by simp [hda, hdb])⟩⟩⟩
  rcases hsub with hsub | rfl | rfl | ⟨hsub, rfl⟩
  · simp; omega
  · simp
  · simp
  · simp; omega

end Sys2Proof.Machine

/-!
SUPPORT. A list header of which a running operation owns the half that the gate is not in (03 R76, 10 R268).
-/
namespace Sys2Proof.Machine

/-- Tile 0 runs its context 0 while its VE owns bytes 8 to 15 as a result: the last half of a list header at 0. -/
def halfOwnedHeader : State :=
  { tiles := [(0, { ctx := [(0, { st := .run })],
                    un := { units := [(1, { running := some { req := { kind := .fill, sub := 0, ctx := 0, iaddr := 0, tf := 1 },
                                                              res := [(8, 8)] } })] } })] }

/-- The marks of the requests in the transfer unit's start queue of tile 0 (10 R268). -/
def xferMarks (r : Res) : List Bool :=
  match r with
  | .next s => ((s.tile 0).unit 4).queue.map (fun q => q.tainted)
  | _ => []

/-- Refutes O23: XSTART marks the request it queues where its list's header is a running operation's to write, though the
gate in its first four bytes is not; the statement's request has no mark. -/
theorem not_exchangeAndMessageStarts : ¬ Obligations.ExchangeAndMessageStarts := by
  unfold Obligations.ExchangeAndMessageStarts
  intro h
  have hready : Ready halfOwnedHeader (0 : TileId) (0 : CtxId) { reads := [(1 : BitVec 5).toNat] } := by
    unfold Ready; decide +kernel
  obtain ⟨-, -, hqueues⟩ := (h halfOwnedHeader 0 0 1 0 0 0).1 hready (by decide)
  have hstart := (hqueues (by decide +kernel) (by decide +kernel) (by decide +kernel)).2 (.inr (by decide +kernel))
  have hmarked : xferMarks (exec (.xstart 0 0 1 0 0 0) halfOwnedHeader) = [true] := by decide +kernel
  rw [hstart] at hmarked
  exact absurd hmarked (by decide +kernel)

end Sys2Proof.Machine

/-!
SUPPORT. What a write's marks leave of a tile (03 R76, 10 R268, 11 R302): its contexts, flags and registers, the order of
its requests, and which units run.
-/
namespace Sys2Proof.Machine

/-- A request without its mark. -/
def StartReq.unmarked (q : StartReq) : StartReq := { q with tainted := false }

/-- Unit `y` is unit `x` but for marks on requests and operations. -/
def SameUnit (x y : UnitSt) : Prop :=
  y.queue.map StartReq.unmarked = x.queue.map StartReq.unmarked ∧ y.running.isSome = x.running.isSome ∧
    y.tail.isSome = x.tail.isSome

/-- Tile `y` is tile `x` but for the units' marks and the mail: every field that the units and the mail are not in, the
queues of the engines, and each unit up to marks. -/
def SameButMarks (x y : Tile) : Prop :=
  y = { x with un := y.un, mail := y.mail } ∧ y.un.resv = x.un.resv ∧ y.un.waiting = x.un.waiting ∧
    (∀ u, SameUnit (x.unit u) (y.unit u)) ∧ ∀ u, u ≠ 4 → (y.unit u).queue = (x.unit u).queue

theorem SameUnit.refl (x : UnitSt) : SameUnit x x := ⟨rfl, rfl, rfl⟩

theorem SameUnit.trans {x y z : UnitSt} (h : SameUnit x y) (h' : SameUnit y z) : SameUnit x z :=
  ⟨h'.1.trans h.1, h'.2.1.trans h.2.1, h'.2.2.trans h.2.2⟩

theorem SameButMarks.refl (x : Tile) : SameButMarks x x := ⟨rfl, rfl, rfl, fun _ => SameUnit.refl _, fun _ _ => rfl⟩

theorem SameButMarks.trans {x y z : Tile} (h : SameButMarks x y) (h' : SameButMarks y z) : SameButMarks x z := by
  obtain ⟨hy, hresv, hwait, hunit, hqueue⟩ := h
  obtain ⟨hz, hresv', hwait', hunit', hqueue'⟩ := h'
  refine ⟨?_, hresv'.trans hresv, hwait'.trans hwait, fun u => (hunit u).trans (hunit' u),
    fun u hu => (hqueue' u hu).trans (hqueue u hu)⟩
  rw [hz, hy]

theorem SameUnit.mapOps (x : UnitSt) (f : RunOp → RunOp) : SameUnit x (x.mapOps f) := by
  simp [SameUnit, UnitSt.mapOps]

theorem StartReq.touch_unmarked (q : StartReq) (a n : Nat) : (q.touch a n).unmarked = q.unmarked := by
  rw [StartReq.touch]; split <;> rfl

/-- A change of one unit that changes only marks. -/
theorem SameButMarks.onUnit (x : Tile) (k : Nat) (f : UnitSt → UnitSt) (hf : SameUnit (x.unit k) (f (x.unit k)))
    (hqueue : k ≠ 4 → (f (x.unit k)).queue = (x.unit k).queue) : SameButMarks x (x.onUnit k f) := by
  refine ⟨rfl, rfl, rfl, fun u => ?_, fun u hu => ?_⟩ <;> by_cases huk : u = k
  · subst huk; rw [Tile.onUnit_unit]; exact hf
  · rw [Tile.onUnit_unit_ne _ _ _ huk]; exact SameUnit.refl _
  · subst huk; rw [Tile.onUnit_unit]; exact hqueue hu
  · rw [Tile.onUnit_unit_ne _ _ _ huk]

theorem SameButMarks.onUn (x : Tile) (f : Units → Units)
    (hf : (f x.un).units = x.un.units ∧ (f x.un).resv = x.un.resv ∧ (f x.un).waiting = x.un.waiting) :
    SameButMarks x (x.onUn f) := by
  obtain ⟨hunits, hresv, hwait⟩ := hf
  have hunit (u : Nat) : (x.onUn f).unit u = x.unit u := by rw [Tile.unit, Tile.unit, Tile.onUn, hunits]
  exact ⟨rfl, hresv, hwait, fun u => by rw [hunit]; exact SameUnit.refl _, fun u _ => by rw [hunit]⟩

theorem SameButMarks.mail (x : Tile) (m : Mail) : SameButMarks x { x with mail := m } :=
  ⟨rfl, rfl, rfl, fun _ => SameUnit.refl _, fun _ _ => rfl⟩

theorem SameButMarks.foldl {α : Type} (f : Tile → α → Tile) (l : List α) (h : ∀ x a, SameButMarks x (f x a)) (x : Tile) :
    SameButMarks x (l.foldl f x) := by
  induction l generalizing x with
  | nil => exact SameButMarks.refl x
  | cons a l ih => exact (h x a).trans (ih (f x a))

/-- A write changes only marks of the tile whose memory it meets. -/
theorem Tile.touch_same (x : Tile) (t a n : Nat) (own : Bool) : SameButMarks x (x.touch t a n own) := by
  have ite {x y : Tile} {p : Prop} [Decidable p] (h : SameButMarks x y) : SameButMarks x (if p then x else y) := by
    split
    · exact SameButMarks.refl x
    · exact h
  delta Tile.touch
  extract_lets mark x1 x2 x3 x4
  have h1 : SameButMarks x x1 := SameButMarks.foldl _ _ (fun y u =>
    ite (SameButMarks.onUnit y u (fun q => q.mapOps mark) (SameUnit.mapOps _ _) (fun _ => rfl))) x
  clear_value x1
  have h2 : SameButMarks x1 x2 := SameButMarks.onUn x1 _ ⟨rfl, rfl, rfl⟩
  clear_value x2
  have hqueue : SameUnit (x2.unit 4) { x2.unit 4 with queue := (x2.unit 4).queue.map (fun q => q.touch a n) } :=
    ⟨by simp [Function.comp_def, StartReq.touch_unmarked], rfl, rfl⟩
  have h3 : SameButMarks x2 x3 := ite (SameButMarks.onUnit x2 4 _ hqueue (fun h => absurd rfl h))
  clear_value x3
  have h4 : SameButMarks x3 x4 := ite (SameButMarks.mail x3 _)
  clear_value x4
  exact (((h1.trans h2).trans h3).trans h4).trans (ite (SameButMarks.mail x4 _))

/-- A read of a map whose entries all changed, each by its key. -/
theorem Map.get_map_key {α : Type} (d : α) (f : Nat → α → α) (m : SMap α) (k : Nat) (hd : f k d = d) :
    Map.get d (m.map (fun p => (p.1, f p.1 p.2))) k = f k (Map.get d m k) := by
  induction m with
  | nil => exact hd.symm
  | cons p m ih => by_cases hp : p.1 = k <;> simp [Map.get, hp, ih]

/-- What a write leaves of every tile. -/
theorem touchWrite_tile (a n : Nat) (s : State) (own : Bool) (t : Nat) :
    SameButMarks (s.tile t) ((touchWrite a n s own).tile t) := by
  have hmap : s.tiles.map (fun p => if p.2.busy then (p.1, p.2.touch p.1 a n own) else p) =
      s.tiles.map (fun p => (p.1, if p.2.busy then p.2.touch p.1 a n own else p.2)) :=
    List.map_congr_left (fun p _ => by split <;> rfl)
  have htile : (touchWrite a n s own).tile t = if (s.tile t).busy then (s.tile t).touch t a n own else s.tile t := by
    have htiles : (touchWrite a n s own).tiles =
        s.tiles.map (fun p => (p.1, if p.2.busy then p.2.touch p.1 a n own else p.2)) := by
      rw [← hmap, touchWrite]; dsimp only; split <;> rfl
    rw [State.tile, htiles]
    exact Map.get_map_key {} (fun k x => if x.busy then x.touch k a n own else x) s.tiles t rfl
  rw [htile]
  split
  · exact Tile.touch_same _ _ _ _ _
  · exact SameButMarks.refl _

theorem SameButMarks.flag {x y : Tile} (h : SameButMarks x y) (f : Nat) : y.flag f = x.flag f := by rw [h.1]; rfl

theorem SameButMarks.cx {x y : Tile} (h : SameButMarks x y) (c : Nat) : y.cx c = x.cx c := by rw [h.1]; rfl

theorem SameButMarks.fe {x y : Tile} (h : SameButMarks x y) : y.fe = x.fe := by rw [h.1]

theorem SameButMarks.nf {x y : Tile} (h : SameButMarks x y) : y.nf = x.nf := by rw [h.1]

/-- Marking what a new operation's results meet leaves every tile but for marks. -/
theorem touchOps_tile (t : Nat) (op : RunOp) (s : State) (u : Nat) :
    SameButMarks (s.tile u) ((touchOps t op s).2.tile u) := by
  rw [touchOps]
  dsimp only
  generalize op.res = l
  induction l generalizing s with
  | nil => exact SameButMarks.refl _
  | cons r l ih => exact (touchWrite_tile _ _ _ _ _).trans (ih _)

end Sys2Proof.Machine

/-!
SUPPORT. Acceptance of an operation, and a tile's fault (03 R74, R75, R105; 16 R432, R434, R440).
-/
namespace Sys2Proof.Machine

/-! ### Acceptance -/

/-- A fold of steps that keep a tile keeps it. -/
theorem KeepsTile.foldl {α : Type} (t : Nat) (g : State → α → State) (l : List α)
    (h : ∀ s a, KeepsTile (s.tile t) ((g s a).tile t)) (s : State) : KeepsTile (s.tile t) ((l.foldl g s).tile t) := by
  induction l generalizing s with
  | nil => exact KeepsTile.refl _
  | cons a l ih => exact (h s a).trans (ih (g s a))

theorem wakeQueue_keepsTile (t u : Nat) (s : State) : KeepsTile (s.tile t) ((wakeQueue t u s).tile t) := by
  refine KeepsTile.foldl t _ _ (fun s c => ?_) s
  split
  · rw [State.onTile_tile]; exact KeepsTile.onCx _ c _
  · exact KeepsTile.refl _

theorem popQueue_unit (t u : Nat) (s : State) :
    ((popQueue t u s).tile t).unit u = { (s.tile t).unit u with queue := ((s.tile t).unit u).queue.drop 1 } := by
  obtain ⟨-, -, -, -, -, -, -, -, -, -, hun, -⟩ :=
    wakeQueue_keepsTile t u (s.onUnit t u (fun x => { x with queue := x.queue.drop 1 }))
  rw [popQueue, Tile.unit, hun, State.onUnit, State.onTile_tile]
  exact Tile.onUnit_unit _ _ _

theorem popQueue_flag (t u f : Nat) (s : State) : ((popQueue t u s).tile t).flag f = (s.tile t).flag f := by
  obtain ⟨hflags, -⟩ := wakeQueue_keepsTile t u (s.onUnit t u (fun x => { x with queue := x.queue.drop 1 }))
  rw [Tile.flag, popQueue, hflags, State.onUnit, State.onTile_tile]; rfl

theorem Tile.putFlag_un (x : Tile) (f : Nat) (b : Bool) : (x.putFlag f b).un = x.un := by
  obtain ⟨-, -, -, -, -, -, -, -, -, -, hun, -⟩ := KeepsTile.endWaits { x with flags := setBit x.flags f b } (.tf f b)
  exact hun

theorem Tile.putFlag_unit (x : Tile) (f : Nat) (b : Bool) (u : Nat) : (x.putFlag f b).unit u = x.unit u := by
  rw [Tile.unit, Tile.putFlag_un]; rfl

@[simp] theorem Tile.onUnit_flag (x : Tile) (u : Nat) (g : UnitSt → UnitSt) (f : Nat) : (x.onUnit u g).flag f = x.flag f := rfl

theorem clearFlag_tile (t : Nat) (tf : BitVec 8) (s : State) : (clearFlag t tf s).tile t = (s.tile t).putFlag tf.toNat false :=
  putFlag_tile t _ false s

theorem traceStart_tile (t : Nat) (q : StartReq) (k : Nat) (s : State) (u : Nat) : (traceStart t q k s).tile u = s.tile u := by
  rw [State.tile, traceStart_tiles]; rfl

/-- Tile `t` while unit `u` starts `op`: its request taken, its flag clear, and what its results meet marked. -/
theorem startOp_tile (t u : Nat) (op : RunOp) (s : State) : ∃ (y : Tile) (mine : Bool) (tail : Option RunOp),
    (startOp t u op s).tile t = y.onUnit u (fun x => { x with running := some { op with tainted := mine }, tail := tail }) ∧
      SameButMarks ((((popQueue t u s).tile t).putFlag op.req.tf.toNat false).onUnit u (fun x => { x with running := none })) y := by
  have hsame := touchOps_tile t op ((clearFlag t op.req.tf (popQueue t u s)).onUnit t u (fun x => { x with running := none })) t
  have htile : (startOp t u op s).tile t = _ := (traceStart_tile t _ _ _ t).trans (State.onTile_tile _ _ _)
  rw [State.onUnit, State.onTile_tile, clearFlag_tile] at hsame
  exact ⟨_, _, _, htile, hsame⟩

/-- Settles O25, along the steps of an acceptance: each leaves what the next one needs. -/
theorem acceptanceEffect : Obligations.AcceptanceEffect := by
  unfold Obligations.AcceptanceEffect
  intro s t u op rest hqueue s'
  obtain ⟨y, mine, tail, htile, hsame⟩ := startOp_tile t u op s
  have hflag (f : Nat) : (s'.tile t).flag f = if f = op.req.tf.toNat then false else (s.tile t).flag f := by
    have hsame' := hsame.flag f
    rw [Tile.onUnit_flag, Tile.putFlag_flag _ false f (BitVec.isLt op.req.tf), popQueue_flag] at hsame'
    rw [htile, Tile.onUnit_flag, hsame']
  obtain ⟨-, -, -, hunits, hothers⟩ := hsame
  have hfirst : ((((popQueue t u s).tile t).putFlag op.req.tf.toNat false).onUnit u (fun x => { x with running := none })).unit u
      = { (s.tile t).unit u with queue := rest, running := none } := by
    rw [Tile.onUnit_unit, Tile.putFlag_unit, popQueue_unit, hqueue]; rfl
  have hqueues : ((s'.tile t).unit u).queue = (y.unit u).queue := by rw [htile, Tile.onUnit_unit]
  refine ⟨⟨{ op with tainted := mine }, by rw [htile, Tile.onUnit_unit], rfl, rfl, rfl, rfl, rfl, rfl⟩, fun hu => ?_, ?_, ?_,
    fun g hg => ?_⟩
  · rw [hqueues, hothers u (by omega), hfirst]
  · obtain ⟨hmarks, -⟩ := hunits u
    rw [hfirst] at hmarks
    rw [hqueues]
    exact hmarks
  · rw [hflag, if_pos rfl]
  · rw [hflag, if_neg hg]

/-! ### A tile's fault -/

/-- Everything but the hub, its answers, the Blotter and the tiles' own changes is as it was. -/
def KeepsOutsideHub (s s' : State) : Prop :=
  s'.tiles = s.tiles ∧ s'.mem = s.mem ∧ s'.regions = s.regions ∧ s'.ports = s.ports ∧ s'.parts = s.parts ∧
    s'.pending = s.pending ∧ s'.net.recs = s.net.recs

theorem KeepsOutsideHub.refl (s : State) : KeepsOutsideHub s s := ⟨rfl, rfl, rfl, rfl, rfl, rfl, rfl⟩

theorem KeepsOutsideHub.trans {x y z : State} (h : KeepsOutsideHub x y) (h' : KeepsOutsideHub y z) : KeepsOutsideHub x z := by
  unfold KeepsOutsideHub at *; simp_all

theorem leaveHub_keeps (t c : Nat) (s : State) : KeepsOutsideHub s (leaveHub t c s) := by
  rw [leaveHub]
  dsimp only
  split <;> exact ⟨rfl, rfl, rfl, rfl, rfl, rfl, rfl⟩

/-- The state in which a stopped tile's waits have left the hub. -/
theorem leaveHubs_keeps (t : Nat) (l : List Nat) (s : State) :
    KeepsOutsideHub s (l.foldl (fun s c => if ((s.cx t c).wait).isSome then leaveHub t c s else s) s) := by
  induction l generalizing s with
  | nil => exact KeepsOutsideHub.refl s
  | cons c l ih =>
    rw [List.foldl_cons]
    refine KeepsOutsideHub.trans ?_ (ih _)
    split
    · exact leaveHub_keeps t c s
    · exact KeepsOutsideHub.refl s

theorem foldl_onCx_cx (f : Ctx → Ctx) (hf : ∀ k, f (f k) = f k) (l : List Nat) (x : Tile) (d : Nat) :
    (l.foldl (fun x c => x.onCx c f) x).cx d = if d ∈ l then f (x.cx d) else x.cx d := by
  induction l generalizing x with
  | nil => rfl
  | cons c l ih =>
    rw [List.foldl_cons, ih, Tile.ext_cx]
    by_cases hd : d = c
    · subst hd; simp [hf]
    · simp [hd]

theorem foldl_onUnit_unit (g : UnitSt → UnitSt) (hg : ∀ q, g (g q) = g q) (l : List Nat) (x : Tile) (u : Nat) :
    (l.foldl (fun x k => x.onUnit k g) x).unit u = if u ∈ l then g (x.unit u) else x.unit u := by
  induction l generalizing x with
  | nil => rfl
  | cons k l ih =>
    rw [List.foldl_cons, ih]
    by_cases hu : u = k
    · subst hu; simp [hg]
    · rw [Tile.onUnit_unit_ne _ _ _ hu]; simp [hu]

theorem foldl_onUnit_ctx (g : UnitSt → UnitSt) (l : List Nat) (x : Tile) : (l.foldl (fun x k => x.onUnit k g) x).ctx = x.ctx := by
  induction l generalizing x with
  | nil => rfl
  | cons k l ih => rw [List.foldl_cons, ih]; rfl

theorem foldl_onCx_un (f : Ctx → Ctx) (l : List Nat) (x : Tile) : (l.foldl (fun x c => x.onCx c f) x).un = x.un := by
  induction l generalizing x with
  | nil => rfl
  | cons k l ih => rw [List.foldl_cons, ih]; rfl

theorem Ctx.stopped_stopped (k : Ctx) : k.stopped.stopped = k.stopped := by
  cases h : k.st <;> simp [Ctx.stopped, h]

/-- A tile with its contexts stopped and its requests discarded (03 R105). -/
def Tile.emptied (x : Tile) : Tile :=
  [0, 1, 2, 3, 4].foldl (fun x u => x.onUnit u (fun q => { q with queue := [] }))
    (([0, 1, 2, 3].foldl (fun x c => x.onCx c Ctx.stopped) x).onUn (fun n => { n with handed := none, waiting := [] }))

theorem Tile.emptied_cx (x : Tile) (d : Nat) : x.emptied.cx d = if d < 4 then (x.cx d).stopped else x.cx d := by
  have hmem : d ∈ [0, 1, 2, 3] ↔ d < 4 := by simp; omega
  have hctx : x.emptied.ctx = ([0, 1, 2, 3].foldl (fun x c => x.onCx c Ctx.stopped) x).ctx := foldl_onUnit_ctx _ _ _
  rw [Tile.cx, hctx]
  refine (foldl_onCx_cx _ Ctx.stopped_stopped [0, 1, 2, 3] x d).trans ?_
  simp only [hmem]

theorem Tile.emptied_unit (x : Tile) {u : Nat} (hu : u < 5) : x.emptied.unit u = { x.unit u with queue := [] } := by
  have hmem : u ∈ [0, 1, 2, 3, 4] := by simp; omega
  rw [Tile.emptied, foldl_onUnit_unit (fun q : UnitSt => { q with queue := [] }) (fun _ => rfl), if_pos hmem, Tile.unit, Tile.onUn,
    foldl_onCx_un]
  rfl

/-- What a stop does (03 R105, 11 R305): the waits leave the hub, then the tile's contexts and units are emptied. -/
theorem stopTile_eq (t : Nat) (s : State) : ∃ (s1 : State) (f : Tile → Tile), stopTile t s = s1.onTile t f ∧
    KeepsOutsideHub s s1 ∧ ∀ x, (f x).ctx = x.emptied.ctx ∧ (f x).un = x.emptied.un := by
  delta stopTile
  extract_lets s1
  refine ⟨s1, _, rfl, leaveHubs_keeps t _ s, fun x => ?_⟩
  extract_lets _ _ _ y
  have hy : y = x.emptied := by delta Tile.emptied; rfl
  clear_value y
  dsimp only
  rw [hy]
  exact ⟨rfl, rfl⟩

/-- A tile's fault goes on its way to the Steward: no Nib core forwards it, so no full list drops it (16 R440). -/
theorem raiseRec_tileRec (s s' : State) (t : Nat) (fi : FaultInfo) :
    raiseRec (tileRec s t 1 fi) s' = s'.onNet (fun n => { n with recs := n.recs ++ [tileRec s t 1 fi] }) := by
  have hregion : recRegion (tileRec s t 1 fi) = none := by
    rw [recRegion]
    split
    · rfl
    · simp [tileRec, stamp]
  rw [raiseRec, hregion]
  rfl

/-- The state outside the tiles and the tile's own record. -/
def KeepsElsewhere (t : Nat) (s s' : State) : Prop :=
  (∀ u, u ≠ t → s'.tile u = s.tile u) ∧ s'.mem = s.mem ∧ s'.regions = s.regions ∧ s'.ports = s.ports ∧
    s'.parts = s.parts ∧ s'.pending = s.pending

/-- The context and the fault of an issue. -/
def issueInfo (s : State) (t c code daddr : Nat) : FaultInfo :=
  { code := BitVec.ofNat 8 code, daddr := daddr, src := 0, ctx := c, iaddr := (s.cx t c).pc, back := true }

/-- The stop of a tile, seen from outside and inside. -/
theorem stopTile_frame (t : Nat) (s : State) : KeepsElsewhere t s (stopTile t s) ∧ (stopTile t s).net.recs = s.net.recs ∧
    (∀ d, (stopTile t s).cx t d = (s.tile t).emptied.cx d) ∧ ((stopTile t s).tile t).un = (s.tile t).emptied.un := by
  obtain ⟨s1, f, hstop, ⟨htiles, hmem, hregions, hports, hparts, hpending, hrecs⟩, hf⟩ := stopTile_eq t s
  have htile (u : Nat) : s1.tile u = s.tile u := by rw [State.tile, htiles]; rfl
  rw [hstop]
  refine ⟨⟨fun u hu => ?_, hmem, hregions, hports, hparts, hpending⟩, hrecs, fun d => ?_, ?_⟩
  · rw [State.onTile_tile_ne _ _ _ hu, htile]
  · rw [State.cx_onTile, if_pos rfl, htile, Tile.cx, (hf _).1]; rfl
  · rw [State.onTile_tile, htile, (hf _).2]

/-- A fault of the issue, seen from outside and inside: one record for a tile's first fault, and the context put back. -/
theorem issueFault_frame (t c code daddr : Nat) (s : State) : KeepsElsewhere t s (issueFault t c code s daddr) ∧
    (issueFault t c code s daddr).net.recs = (if (s.tile t).faulted = true then s.net.recs
      else s.net.recs ++ [tileRec s t 1 (issueInfo s t c code daddr)]) ∧
    ((issueFault t c code s daddr).tile t).faulted = true ∧
    ((issueFault t c code s daddr).tile t).un = (s.tile t).emptied.un ∧
    ∀ d, (issueFault t c code s daddr).cx t d = if d = c ∧ (s.tile t).faulted = false then
      { (s.tile t).emptied.cx c with st := .fault, pc := (s.cx t c).pc } else (s.tile t).emptied.cx d := by
  cases hold : (s.tile t).faulted with
  | true =>
    have hfault : issueFault t c code s daddr = (stopTile t s).onTile t (fun x => { x with faulted := true }) := by
      rw [issueFault, tileFault]; simp [hold]
    obtain ⟨⟨htiles, helse⟩, hrecs, hcx, hun⟩ := stopTile_frame t s
    rw [hfault]
    generalize stopTile t s = z at *
    refine ⟨⟨fun u hu => ?_, helse⟩, hrecs, ?_, ?_, fun d => ?_⟩
    · rw [State.onTile_tile_ne _ _ _ hu, htiles u hu]
    · rw [State.onTile_tile]
    · rw [State.onTile_tile, ← hun]
    · rw [if_neg (by simp), State.cx_onTile, if_pos rfl, ← hcx]; rfl
  | false =>
    let r := tileRec s t 1 (issueInfo s t c code daddr)
    let s0 := s.onNet (fun n => { n with recs := n.recs ++ [r] })
    have hfault : issueFault t c code s daddr = ((stopTile t s0).onTile t (fun x => { x with faulted := true })).onCx t c
        (fun k => { k with st := .fault, pc := (s.cx t c).pc }) := by
      rw [issueFault, tileFault]
      simp only [hold, Bool.false_eq_true, if_false, Bool.not_false, Bool.and_self, if_true, raiseRec_tileRec]
      rfl
    obtain ⟨⟨htiles, helse⟩, hrecs, hcx, hun⟩ := stopTile_frame t s0
    rw [hfault]
    generalize stopTile t s0 = z at *
    have hbase (d : Nat) : (z.onTile t (fun x => { x with faulted := true })).cx t d = (s.tile t).emptied.cx d := by
      rw [State.cx_onTile, if_pos rfl]; exact hcx d
    refine ⟨⟨fun u hu => ?_, helse⟩, hrecs, ?_, ?_, fun d => ?_⟩
    · rw [State.onCx, State.onTile_tile_ne _ _ _ hu, State.onTile_tile_ne _ _ _ hu, htiles u hu]; rfl
    · rw [State.onCx, State.onTile_tile, State.onTile_tile, Tile.onCx_faulted]
    · rw [State.onCx, State.onTile_tile, State.onTile_tile, Tile.onCx_un]; exact hun
    · by_cases hd : d = c
      · subst hd; rw [if_pos ⟨rfl, rfl⟩, State.onCx_cx, hbase]
      · rw [if_neg (fun h => hd h.1), State.onCx, State.cx_onTile, if_pos rfl, Tile.onCx_cx_ne _ _ _ hd]; exact hbase d

/-- Settles O22: the fault's frame, and what a stop does to a context in each state. -/
theorem tileFaultEffect : Obligations.TileFaultEffect := by
  unfold Obligations.TileFaultEffect
  intro s t c code daddr hc ht hcode
  dsimp only
  obtain ⟨⟨htiles, hmem, hregions, hports, hparts, hpending⟩, hrecs, hfaulted, hun, hcx⟩ := issueFault_frame t c code daddr s
  generalize issueFault t c code s daddr = s' at *
  have hcx' (d : Nat) (hd : d < 4) : s'.cx t d = if d = c ∧ (s.tile t).faulted = false then
      { (s.cx t c).stopped with st := .fault, pc := (s.cx t c).pc } else (s.cx t d).stopped := by
    rw [hcx, Tile.emptied_cx, Tile.emptied_cx, if_pos hc, if_pos hd]; rfl
  have hstopped (k : Ctx) : k.stopped.regs = k.regs ∧ k.stopped.pc = k.pc ∧ (k.st ≠ .off → k.stopped.st = .fault) ∧
      (k.st = .off → k.stopped.st = .off) ∧ (k.st ≠ .off → k.st ≠ .fault → k.stopped.wait = none) := by
    cases hst : k.st <;> simp [Ctx.stopped, hst]
  refine ⟨hfaulted, fun d hd hst => ?_, fun d hd hst hne => ?_, fun d hd hst hst' => ?_, fun d => ?_, fun u hu => ?_, htiles, hmem,
    hregions, hports, hparts, hpending, fun hold => ?_, fun hold => ?_⟩
  · obtain ⟨-, -, hfault, -, -⟩ := hstopped (s.cx t d)
    rw [hcx' d hd]
    split
    · rfl
    · exact hfault hst
  · obtain ⟨-, -, -, hoff, -⟩ := hstopped (s.cx t d)
    rw [hcx' d hd, if_neg (fun h => hne h.1)]
    exact hoff hst
  · obtain ⟨-, -, -, -, hwait⟩ := hstopped (s.cx t d)
    rw [hcx' d hd]
    split
    · next h => obtain ⟨rfl, -⟩ := h; exact hwait hst hst'
    · exact hwait hst hst'
  · obtain ⟨hregs, hpc, -⟩ := hstopped (s.cx t d)
    by_cases hd : d < 4
    · rw [hcx' d hd]
      split
      · next h => obtain ⟨rfl, -⟩ := h; exact ⟨hregs, rfl⟩
      · exact ⟨hregs, hpc⟩
    · rw [hcx, if_neg (by omega), Tile.emptied_cx, if_neg hd]; exact ⟨rfl, rfl⟩
  · have hunit : (s'.tile t).unit u = { (s.tile t).unit u with queue := [] } := by
      rw [Tile.unit, hun]; exact Tile.emptied_unit _ hu
    rw [hunit]
    exact ⟨rfl, rfl⟩
  · rw [hrecs, if_pos hold]
  · refine ⟨_, by rw [hrecs, if_neg (by simp [hold])], ?_⟩
    simp [tileRec, stamp, issueInfo]
    omega

end Sys2Proof.Machine

/-!
SUPPORT. START_QUEUE_ACCEPTANCE, one law per way a head request goes (03 R73–R77, 15 R407–R409, R417; 10 R268, R280).
-/
namespace Sys2Proof.Machine

/-- Without an upset and a thermal trip, a unit takes its head request. -/
theorem startQueueAcceptance_eq {s : State} (htrip : s.dev.boot.trip = false) (t : TileId) (unit : Fin 5) :
    exec (.startQueueAcceptance t unit .none) s = .next (takeHead t unit s) := by
  have hstep : selfTimed s (takeHead t unit s) = takeHead t unit s := by rw [selfTimed, htrip]; rfl
  exact congrArg Host.Outcome.next hstep

section Head
variable {s : State} {t u : Nat} {q : StartReq} {rest : List StartReq}

/-- An idle engine outside a hold checks its head request. -/
theorem takeHead_engine (hqueue : ((s.tile t).unit u).queue = q :: rest) (hidle : ((s.tile t).unit u).running = none)
    (hu : u ≠ 4) (hhold : (s.region (regionOf t)).pool.hold = false) (hlig : u = 2 → mmOwnsLig (s.tile t) = false) :
    takeHead t u s = acceptEngine t u q s := by
  have hown : ¬(decide (u = 2) && mmOwnsLig (s.tile t)) = true := by
    by_cases h2 : u = 2
    · simp [h2, hlig h2]
    · simp [h2]
  simp only [takeHead, hqueue, hidle, if_neg hu, hhold, Bool.false_eq_true, if_false, if_neg hown]

/-- The idle transfer unit takes a MOVT's list. -/
theorem takeHead_movt (hqueue : ((s.tile t).unit 4).queue = q :: rest) (hidle : ((s.tile t).unit 4).running = none)
    (hkind : q.kind = .movt) : takeHead t 4 s = acceptXfer t q s := by
  simp only [takeHead, hqueue, hidle, hkind, if_true]

/-- The idle transfer unit hands an XSTART on. -/
theorem takeHead_xstart (hqueue : ((s.tile t).unit 4).queue = q :: rest) (hidle : ((s.tile t).unit 4).running = none)
    (hkind : q.kind = .xstart) : takeHead t 4 s = handXstart t q s := by
  simp only [takeHead, hqueue, hidle, hkind, if_true]

end Head

section Engine
variable {s : State} {t u : Nat} {q : StartReq}

/-- The state in which an engine decides: what its checks saw as free values is drawn. -/
def decided (s : State) (t : Nat) (q : StartReq) : State := { s with free := (acceptView s t q).free }

theorem acceptEngine_denied {d : Denial} (h : acceptOp (acceptView s t q) t q = .error d) :
    acceptEngine t u q s = refuseStart t q d (decided s t q) := by
  simp only [acceptEngine, h]; rfl

theorem acceptEngine_uncovered {op : RunOp} (h : acceptOp (acceptView s t q) t q = .ok op)
    (hresv : (s.tile t).un.resv.toNat < op.tokens) :
    acceptEngine t u q s = refuseStart t q (0x03, 0) (decided s t q) := by
  simp only [acceptEngine, h]
  exact if_pos hresv

theorem acceptEngine_turn {op : RunOp} (h : acceptOp (acceptView s t q) t q = .ok op)
    (hresv : op.tokens ≤ (s.tile t).un.resv.toNat) :
    acceptEngine t u q s =
      if (takeTurn t u (op.tokens - ((s.tile t).unit u).draw) (decided s t q)).1 = true then
        startOp t u op (takeTurn t u (op.tokens - ((s.tile t).unit u).draw) (decided s t q)).2
      else (takeTurn t u (op.tokens - ((s.tile t).unit u).draw) (beginWaits t (decided s t q))).2 := by
  have hcovered : ¬((decided s t q).tile t).un.resv.toNat < op.tokens := Nat.not_lt.2 hresv
  have hdraw : ((s.tile t).unit u).draw = (((decided s t q).tile t).unit u).draw := rfl
  rw [hdraw]
  simp only [acceptEngine, h]
  rw [← decided, if_neg hcovered]
  split <;> simp_all

end Engine

section Movt
variable {s : State} {t : Nat} {q : StartReq}

theorem acceptXfer_listDenied {d : Denial} (h : (gatherList t q s).1 = .error d) :
    acceptXfer t q s = refuseStart t q d (gatherList t q s).2 := by
  rw [acceptXfer]; split <;> simp_all

theorem acceptXfer_waits (h : (gatherList t q s).1 = .ok none) : acceptXfer t q s = (gatherList t q s).2 := by
  rw [acceptXfer]; split <;> simp_all

/-- With its list read, a MOVT goes through its checks and then against the reservation. -/
theorem acceptXfer_read {list : Bytes} (h : (gatherList t q s).1 = .ok (some list)) :
    acceptXfer t q s = match acceptMovt (gatherList t q s).2 t q list with
      | .error d => refuseStart t q d (gatherList t q s).2
      | .ok op => if ((gatherList t q s).2.tile t).un.resv = 0 then refuseStart t q (0x03, 0) (gatherList t q s).2
          else startOp t 4 op (gatherList t q s).2 := by
  rw [acceptXfer]
  generalize gatherList t q s = g at h
  obtain ⟨r, s'⟩ := g
  subst h
  rfl

end Movt

/-- Settles O24: each way goes through the law of its step. -/
theorem headRequestIsAccepted : Obligations.HeadRequestIsAccepted := by
  unfold Obligations.HeadRequestIsAccepted
  intro s t unit q rest htrip hqueue hidle
  have run {x : State} (h : takeHead t unit s = x) : exec (.startQueueAcceptance t unit .none) s = .next x :=
    (startQueueAcceptance_eq htrip t unit).trans (congrArg Host.Outcome.next h)
  refine ⟨fun hu hhold hlig => ?_, fun hu hkind => ?_, fun hu hkind hhanded hlist => ?_⟩
  · have hunit : (unit : Nat) ≠ 4 := fun h => hu (Fin.ext h)
    have hlig' : (unit : Nat) = 2 → mmOwnsLig (s.tile t) = false := fun h => hlig (Fin.ext h)
    have hhead := takeHead_engine hqueue hidle hunit hhold hlig'
    refine ⟨fun d hd => run (hhead.trans (acceptEngine_denied hd)), fun op hop => ⟨fun hresv =>
      run (hhead.trans (acceptEngine_uncovered hop hresv)), fun hresv => ⟨fun hturn => ?_, fun hturn => ?_⟩⟩⟩
    · exact run (hhead.trans ((acceptEngine_turn hop hresv).trans (if_pos hturn)))
    · exact run (hhead.trans ((acceptEngine_turn hop hresv).trans (if_neg (by rw [Bool.not_eq_true]; exact hturn))))
  · subst hu
    have hhead : takeHead t 4 s = acceptXfer t q s := takeHead_movt hqueue hidle hkind
    refine ⟨fun d hd => run (hhead.trans (acceptXfer_listDenied hd)), fun hwait => run (hhead.trans (acceptXfer_waits hwait)),
      fun list hlist => ?_⟩
    have hread := hhead.trans (acceptXfer_read hlist)
    refine ⟨fun d hd => run (hread.trans (by rw [hd])), fun op hop => ⟨fun hresv => ?_, fun hresv => ?_⟩⟩ <;>
      simp only [hop] at hread
    · exact run (hread.trans (if_pos hresv))
    · exact run (hread.trans (if_neg hresv))
  · subst hu
    have hfree : ¬((s.tile t).un.handed.isSome || (s.tile t).un.list.isSome) = true := by simp [hhanded, hlist]
    exact run ((takeHead_xstart hqueue hidle hkind).trans (if_neg hfree))

end Sys2Proof.Machine

/-!
SUPPORT. Words and fields of the five formats of a tile's words, as numbers: a word's fields are those it was made of, and a
word is made of its fields (03 R67).
-/
namespace Sys2Proof.Machine

/-! ### Words as numbers -/

theorem toNat_append_add {m n : Nat} (x : BitVec m) (y : BitVec n) : (x ++ y).toNat = x.toNat * 2 ^ n + y.toNat := by
  rw [BitVec.toNat_append, ← Nat.shiftLeft_add_eq_or_of_lt y.isLt, Nat.shiftLeft_eq]

theorem toNat_extractLsb' {n : Nat} (w : BitVec n) (lo len : Nat) :
    (w.extractLsb' lo len).toNat = w.toNat / 2 ^ lo % 2 ^ len := by
  rw [BitVec.extractLsb'_toNat, Nat.shiftRight_eq_div_pow]

section Words
variable (op : BitVec 6) (a b c : BitVec 5) (fn off : BitVec 11) (imm : BitVec 16) (width : BitVec 3) (mode : BitVec 2)
  (dd da db : BitVec 3) (gp : BitVec 5) (tf : BitVec 8) (sub : BitVec 4) (obj : BitVec 12)

theorem sWord_toNat : (sWord op a b c fn).toNat =
    (((op.toNat * 2 ^ 5 + a.toNat) * 2 ^ 5 + b.toNat) * 2 ^ 5 + c.toNat) * 2 ^ 11 + fn.toNat :=
  (toNat_append_add _ _).trans (by rw [toNat_append_add, toNat_append_add, toNat_append_add])

theorem iWord_toNat : (iWord op a b imm).toNat = ((op.toNat * 2 ^ 5 + a.toNat) * 2 ^ 5 + b.toNat) * 2 ^ 16 + imm.toNat :=
  (toNat_append_add _ _).trans (by rw [toNat_append_add, toNat_append_add])

theorem mWord_toNat : (mWord op a b width mode off).toNat =
    ((((op.toNat * 2 ^ 5 + a.toNat) * 2 ^ 5 + b.toNat) * 2 ^ 3 + width.toNat) * 2 ^ 2 + mode.toNat) * 2 ^ 11 + off.toNat :=
  (toNat_append_add _ _).trans (by rw [toNat_append_add, toNat_append_add, toNat_append_add, toNat_append_add])

theorem dWord_toNat : (dWord op dd da db gp tf sub).toNat =
    (((((op.toNat * 2 ^ 3 + dd.toNat) * 2 ^ 3 + da.toNat) * 2 ^ 3 + db.toNat) * 2 ^ 5 + gp.toNat) * 2 ^ 8 + tf.toNat) * 2 ^ 4
      + sub.toNat :=
  (toNat_append_add _ _).trans
    (by rw [toNat_append_add, toNat_append_add, toNat_append_add, toNat_append_add, toNat_append_add])

theorem cWord_toNat : (cWord op a b sub obj).toNat =
    (((op.toNat * 2 ^ 5 + a.toNat) * 2 ^ 5 + b.toNat) * 2 ^ 4 + sub.toNat) * 2 ^ 12 + obj.toNat :=
  (toNat_append_add _ _).trans (by rw [toNat_append_add, toNat_append_add, toNat_append_add])

/-! ### The fields of a word that was made of them -/

theorem fields_sWord : fldOp (sWord op a b c fn) = op ∧ fldA (sWord op a b c fn) = a ∧
    fldB (sWord op a b c fn) = b ∧ fldC (sWord op a b c fn) = c ∧ fldFn (sWord op a b c fn) = fn := by
  refine ⟨?_, ?_, ?_, ?_, ?_⟩ <;>
    simp only [← BitVec.toNat_inj, fldOp, fldA, fldB, fldC, fldFn, toNat_extractLsb', sWord_toNat] <;> omega

theorem fields_iWord : fldOp (iWord op a b imm) = op ∧ fldA (iWord op a b imm) = a ∧
    fldB (iWord op a b imm) = b ∧ fldImm (iWord op a b imm) = imm := by
  refine ⟨?_, ?_, ?_, ?_⟩ <;>
    simp only [← BitVec.toNat_inj, fldOp, fldA, fldB, fldImm, toNat_extractLsb', iWord_toNat] <;> omega

theorem fields_mWord : fldOp (mWord op a b width mode off) = op ∧ fldA (mWord op a b width mode off) = a ∧
    fldB (mWord op a b width mode off) = b ∧ fldWidth (mWord op a b width mode off) = width ∧
    fldMode (mWord op a b width mode off) = mode ∧ fldFn (mWord op a b width mode off) = off := by
  refine ⟨?_, ?_, ?_, ?_, ?_, ?_⟩ <;>
    simp only [← BitVec.toNat_inj, fldOp, fldA, fldB, fldWidth, fldMode, fldFn, toNat_extractLsb', mWord_toNat] <;> omega

theorem fields_dWord : fldOp (dWord op dd da db gp tf sub) = op ∧ fldDd (dWord op dd da db gp tf sub) = dd ∧
    fldDa (dWord op dd da db gp tf sub) = da ∧ fldDb (dWord op dd da db gp tf sub) = db ∧
    fldGp (dWord op dd da db gp tf sub) = gp ∧ fldTf (dWord op dd da db gp tf sub) = tf ∧
    fldDsub (dWord op dd da db gp tf sub) = sub := by
  refine ⟨?_, ?_, ?_, ?_, ?_, ?_, ?_⟩ <;>
    simp only [← BitVec.toNat_inj, fldOp, fldDd, fldDa, fldDb, fldGp, fldTf, fldDsub, toNat_extractLsb', dWord_toNat] <;> omega

theorem fields_cWord : fldOp (cWord op a b sub obj) = op ∧ fldA (cWord op a b sub obj) = a ∧
    fldB (cWord op a b sub obj) = b ∧ fldCsub (cWord op a b sub obj) = sub ∧ fldObj (cWord op a b sub obj) = obj := by
  refine ⟨?_, ?_, ?_, ?_, ?_⟩ <;>
    simp only [← BitVec.toNat_inj, fldOp, fldA, fldB, fldCsub, fldObj, toNat_extractLsb', cWord_toNat] <;> omega

end Words

/-! ### A word is made of its fields -/

section Made
variable {w : BitVec 32} {op : BitVec 6} {sub : BitVec 4} (hop : (fldOp w).toNat = op.toNat)
include hop

theorem sWord_fields : sWord op (fldA w) (fldB w) (fldC w) (fldFn w) = w := by
  rw [← BitVec.toNat_inj, sWord_toNat, ← hop]
  simp only [fldOp, fldA, fldB, fldC, fldFn, toNat_extractLsb']; omega

theorem iWord_fields : iWord op (fldA w) (fldB w) (fldImm w) = w := by
  rw [← BitVec.toNat_inj, iWord_toNat, ← hop]
  simp only [fldOp, fldA, fldB, fldImm, toNat_extractLsb']; omega

theorem mWord_fields : mWord op (fldA w) (fldB w) (fldWidth w) (fldMode w) (fldFn w) = w := by
  rw [← BitVec.toNat_inj, mWord_toNat, ← hop]
  simp only [fldOp, fldA, fldB, fldWidth, fldMode, fldFn, toNat_extractLsb']; omega

theorem dWord_fields (hsub : (fldDsub w).toNat = sub.toNat) :
    dWord op (fldDd w) (fldDa w) (fldDb w) (fldGp w) (fldTf w) sub = w := by
  rw [← BitVec.toNat_inj, dWord_toNat, ← hop, ← hsub]
  simp only [fldOp, fldDd, fldDa, fldDb, fldGp, fldTf, fldDsub, toNat_extractLsb']; omega

theorem cWord_fields (hsub : (fldCsub w).toNat = sub.toNat) : cWord op (fldA w) (fldB w) sub (fldObj w) = w := by
  rw [← BitVec.toNat_inj, cWord_toNat, ← hop, ← hsub]
  simp only [fldOp, fldA, fldB, fldCsub, fldObj, toNat_extractLsb']; omega

end Made
end Sys2Proof.Machine

/-!
SUPPORT. Reading the word of a tile instruction, and writing the instruction that a word is read as (03 R67–R72).
-/
namespace Sys2Proof.Machine

/-- A word that is read as an instruction is that instruction's word. -/
theorem encodeTile_of_decodeTile {t : TileId} {c : CtxId} {w : BitVec 32} {i : Instr} (h : decodeTile t c w = some i) :
    encodeTile i = some w := by
  unfold decodeTile at h
  split at h
  all_goals try split at h
  all_goals cases h
  all_goals simp [encodeTile, sWord_fields, iWord_fields, mWord_fields, dWord_fields, cWord_fields, *]

/-- Whether a word is read as an instruction does not depend on who reads it. -/
theorem decodeTile_isSome (t t' : TileId) (c c' : CtxId) (w : BitVec 32) :
    (decodeTile t c w).isSome = (decodeTile t' c' w).isSome := by
  unfold decodeTile
  generalize (fldOp w).toNat = op
  generalize (fldDsub w).toNat = dsub
  generalize (fldCsub w).toNat = csub
  split
  all_goals try split
  all_goals rfl

/-- The word of a tile instruction is read as that instruction, by the context that it is of. -/
theorem decodeTile_of_encodeTile {i : Instr} {w : BitVec 32} (h : encodeTile i = some w)
    (hld : ∀ t c rt rb width mode off u, i = .ld t c rt rb width mode off u → u = .none) :
    ∃ t c, decodeTile t c w = some i := by
  cases i
  all_goals simp only [encodeTile, reduceCtorEq, Option.some.injEq] at h
  all_goals
    subst h
    refine ⟨‹TileId›, ‹CtxId›, ?_⟩
  case alu | fpu | xstart | msg | enl =>
    obtain ⟨hop, ha, hb, hc, hfn⟩ := fields_sWord _ _ _ _ _
    rw [decodeTile, hop, ha, hb, hc, hfn]
    rfl
  case ld =>
    obtain ⟨hop, ha, hb, hwidth, hmode, hoff⟩ := fields_mWord _ _ _ _ _ _
    rw [decodeTile, hop, ha, hb, hwidth, hmode, hoff, hld _ _ _ _ _ _ _ _ rfl]
    rfl
  case st | sta | ldf | stf | ldd | std =>
    obtain ⟨hop, ha, hb, hwidth, hmode, hoff⟩ := fields_mWord _ _ _ _ _ _
    rw [decodeTile, hop, ha, hb, hwidth, hmode, hoff]
    rfl
  case addi | andi | ori | xori | slli | srli | srai | slti | lui | lsh | beq | bne | blt | bge | bltu | bgeu | jal | jalr =>
    obtain ⟨hop, ha, hb, himm⟩ := fields_iWord _ _ _ _
    rw [decodeTile, hop, ha, hb, himm]
    rfl
  case mmSet | mmAcc | mmSpill | mmSpillacc | vop | vtr | cvt | fill | movtCopy | movtGather | ligIsect | ligUnion | ligBuild
      | ligCheck | ligSelect | grnBits | grnUniform | grnMask | opt | samp =>
    obtain ⟨hop, hdd, hda, hdb, hgp, htf, hsub⟩ := fields_dWord _ _ _ _ _ _ _
    rw [decodeTile, hop, hdd, hda, hdb, hgp, htf, hsub]
    rfl
  all_goals
    obtain ⟨hop, ha, hb, hsub, hobj⟩ := fields_cWord _ _ _ _ _
    rw [decodeTile, hop, ha, hb, hsub, hobj]
    rfl

/-- Settles O58, from the two directions. -/
theorem tileWordsRoundTrip : Obligations.TileWordsRoundTrip := by
  unfold Obligations.TileWordsRoundTrip
  refine ⟨fun i w henc hld => ?_, fun t c w i => encodeTile_of_decodeTile⟩
  obtain ⟨t, c, hdec⟩ := decodeTile_of_encodeTile henc hld
  refine ⟨t, c, hdec, fun t' c' => ?_⟩
  have hsome : (decodeTile t' c' w).isSome = true := by rw [decodeTile_isSome t' t c' c w, hdec]; rfl
  obtain ⟨i', hi'⟩ := Option.isSome_iff_exists.1 hsome
  rw [hi']
  exact encodeTile_of_decodeTile hi'

end Sys2Proof.Machine

/-!
SUPPORT. Loads and stores in a tile's own memory (03 R68, R69, R83, R87–R94).
-/
namespace Sys2Proof.Machine

/-! ### What an M-format instruction of a ready context reaches -/

theorem mForm_ready {s : State} {t c : Nat} {u : Nat → Uses} {width : BitVec 3} {size : Nat}
    (hsize : accessSize width = some size) (h : Ready s t c (u size)) {ok : Nat → Bool} (hok : ok size = true)
    (body : Nat → State → Eff) :
    mForm t c u width ok body s = finish t c (fetched t c s) (body size (fetched t c s)) := by
  simp only [mForm, hsize]
  rw [issue_ready h, hok, legal_true]

theorem memAddr_fetched (s : State) (t c : Nat) (rb : BitVec 5) (off : BitVec 11) (size : Nat) :
    memAddr (fetched t c s) t c rb off size = rv s t c rb + off.signExtend 64 * BitVec.ofNat 64 size := by
  rw [memAddr, fetched_rv]

/-- An aligned access that stays in the tile's own window. -/
theorem withTarget_own {s : State} {t c : Nat} {k : AccKind} {size o : Nat} {rb : BitVec 5} {off : BitVec 11} {addr v : Word}
    (haddr : memAddr s t c rb off size = addr) (halign : addr.toNat % size = 0)
    (htarget : targetOf s t k size addr v = .own o) (body : Target → State → Eff) :
    withTarget t c k size rb off body s v = body (.own o) s := by
  rw [withTarget]
  simp only [haddr, halign, ne_eq, not_true, if_false, htarget]

@[simp] theorem fetched_bytes (s : State) (t c a n : Nat) : (fetched t c s).bytes a n = s.bytes a n :=
  (KeepsRest.fetched t c s).1.bytes a n

@[simp] theorem fetched_badIn (s : State) (t c a n : Nat) : (fetched t c s).badIn a n = s.badIn a n := by
  obtain ⟨⟨-, -, hbad, -⟩, -⟩ := KeepsRest.fetched t c s
  rw [State.badIn, hbad]; rfl

@[simp] theorem fetched_mergeBad (s : State) (t c a n : Nat) : mergeBad (fetched t c s) a n = mergeBad s a n := by
  rw [mergeBad, fetched_badIn]; rfl

@[simp] theorem fetched_fe (s : State) (t c : Nat) : ((fetched t c s).tile t).fe = (s.tile t).fe := by
  obtain ⟨-, hfe, -⟩ := fetched_keepsTile t c s
  exact hfe

@[simp] theorem fetched_nf (s : State) (t c : Nat) : ((fetched t c s).tile t).nf = (s.tile t).nf := by
  obtain ⟨-, -, -, -, hnf, -⟩ := fetched_keepsTile t c s
  exact hnf

@[simp] theorem fetched_storeBytes (s : State) (t c u d rt size : Nat) :
    storeBytes (fetched t c s) u d rt size = storeBytes s u d rt size := by
  simp [storeBytes]

/-! ### Loads -/

/-- A read of codewords without an uncorrectable error, of which no unit owns a byte. -/
theorem loadOwn_read {s : State} {t o size : Nat} (hbad : s.badIn (tileBase t + o) size = none)
    (hfree : ownedResult s (tileBase t + o) size = false) :
    loadOwn t o size s = .ok (s.bytes (tileBase t + o) size, s) := by
  simp only [loadOwn, hbad, readShared, hfree]; rfl

/-- Settles O8: each load reaches its window and puts the bytes read where its form says. -/
theorem localLoads : Obligations.LocalLoads := by
  unfold Obligations.LocalLoads
  intro s t c rt rb width mode off o
  refine ⟨fun size hsize h halign hrt htarget hbad hfree => ?_, fun hrt h halign htarget hbad hfree => ?_,
    fun h hmode halign htarget => ⟨fun hempty => ?_, fun hfull hbad hfree => ?_⟩⟩
  · have hread := loadOwn_read ((fetched_badIn s t c _ size).trans hbad) hfree
    have load (mode : BitVec 2) (hmode : mode.toNat < 2) :
        exec (.ld t c rt rb width mode off .none) s = .next (retired t c s (if (mode == 1#2) = true then
          acquire t c ((fetched t c s).onCx t c (fun k => k.loadRegs rt.toNat (s.bytes (tileBase t + o) size)))
          else (fetched t c s).onCx t c (fun k => k.loadRegs rt.toNat (s.bytes (tileBase t + o) size)))) := by
      refine congrArg Host.Outcome.next ((mForm_ready hsize h (by simp [hmode, rtOk, hrt]) _).trans ?_)
      dsimp only [strike]
      rw [withTarget_own (memAddr_fetched s t c rb off size) halign htarget]
      simp only [loadFrom, hread, fetched_bytes]
      exact finish_done h _
    exact ⟨load 0 (by decide), load 1 (by decide)⟩
  · have hread := loadOwn_read ((fetched_badIn s t c _ 32).trans hbad) hfree
    refine congrArg Host.Outcome.next (issue_done h ((legal_of (by simp [hrt]) _ _).trans ?_))
    rw [withTarget_own (memAddr_fetched s t c rb off 32) halign htarget]
    simp only [hread, fetched_bytes]
  · have hword : (((fetched t c s).tile t).full (o / 8)) = false := hempty
    refine congrArg Host.Outcome.next ((mForm_ready (size := 8) rfl h (by simp [hmode]) _).trans ?_)
    rw [withTarget_own (memAddr_fetched s t c rb off 8) halign htarget]
    simp only [hword, Bool.not_false, if_true]
    exact finish_wait h _
  · have hword : (((fetched t c s).tile t).full (o / 8)) = true := hfull
    have hread := loadOwn_read ((fetched_badIn s t c _ 8).trans hbad) hfree
    have load (mode : BitVec 2) (hmode : mode.toNat < 2) :
        exec (.ldf t c rt rb 3 mode off) s = .next (retired t c s (if (mode == 1#2) = true then
          (fetched t c s).onCx t c (fun k => k.loadRegs rt.toNat (s.bytes (tileBase t + o) 8))
          else setFull t (o / 8) false
            ((fetched t c s).onCx t c (fun k => k.loadRegs rt.toNat (s.bytes (tileBase t + o) 8))))) := by
      refine congrArg Host.Outcome.next ((mForm_ready (size := 8) rfl h (by simp [hmode]) _).trans ?_)
      rw [withTarget_own (memAddr_fetched s t c rb off 8) halign htarget]
      simp only [hword, Bool.not_true, Bool.false_eq_true, if_false, hread, fetched_bytes]
      exact finish_done h _
    exact ⟨load 0 (by decide), load 1 (by decide)⟩

end Sys2Proof.Machine

/-!
SUPPORT. Stores in a tile's own memory (03 R68, R69, R83, R87, R88, R92, R93).
-/
namespace Sys2Proof.Machine

/-! ### What a store leaves -/

/-- Memory after the bytes `bs` were written at `a`. -/
def WroteAt (a : Nat) (bs : Bytes) (s s' : State) : Prop :=
  s'.bytes a bs.length = bs ∧ ∀ b, b < a ∨ a + bs.length ≤ b → s'.bytes b 1 = s.bytes b 1

theorem WroteAt.of_poke {a : Nat} {bs : Bytes} {s x s' : State} (hx : x.mem = s.mem) (hs' : s'.mem = (x.poke a bs).mem) :
    WroteAt a bs s s' := by
  have hbytes (b n : Nat) : s'.bytes b n = (x.poke a bs).bytes b n := by rw [State.bytes, hs']; rfl
  refine ⟨by rw [hbytes, bytes_poke], fun b hb => ?_⟩
  rw [hbytes, bytes_poke_out x bs (by omega), State.bytes, hx]
  rfl

theorem writeShared_wroteAt (a : Nat) (bs : Bytes) (s : State) (own : Bool) : WroteAt a bs s (writeShared a bs s own) :=
  WroteAt.of_poke (touchWrite_mem a bs.length s own) rfl

theorem writeShared_tile (a : Nat) (bs : Bytes) (s : State) (own : Bool) (t : Nat) :
    SameButMarks (s.tile t) ((writeShared a bs s own).tile t) := touchWrite_tile a bs.length s own t

/-- What the end of a store's instruction leaves, from what the store itself left of memory and of its context. -/
theorem retired_stored {s s2 : State} {t c a : Nat} {bs : Bytes} (hmem : WroteAt a bs s s2)
    (hregs : (s2.cx t c).regs = (s.cx t c).regs) :
    (retired t c s s2).bytes a bs.length = bs ∧
      (∀ b, b < a ∨ a + bs.length ≤ b → (retired t c s s2).bytes b 1 = s.bytes b 1) ∧
      (∀ r : BitVec 5, rv (retired t c s s2) t c r = rv s t c r) ∧
      ((retired t c s s2).cx t c).pc = (s.cx t c).pc + 4 := by
  obtain ⟨hin, hout⟩ := hmem
  refine ⟨hin, hout, fun r => ?_, ?_⟩
  · rw [rv, retired_cx, rv, Ctx.reg, Ctx.reg, ← hregs]; rfl
  · rw [retired_cx]; rfl

theorem retired_fe (t c : Nat) (s s2 : State) : ((retired t c s s2).tile t).fe = (s2.tile t).fe := by
  obtain ⟨-, hfe, -⟩ := KeepsTile.retire (s2.tile t) c ((s.cx t c).pc + 4)
  rw [retired_tile, hfe]

theorem retired_nf (t c : Nat) (s s2 : State) : ((retired t c s s2).tile t).nf = (s2.tile t).nf := by
  obtain ⟨-, -, -, -, hnf, -⟩ := KeepsTile.retire (s2.tile t) c ((s.cx t c).pc + 4)
  rw [retired_tile, hnf]

/-- Memory of a fetched state is the state's own. -/
theorem WroteAt.fetched {a : Nat} {bs : Bytes} {s s2 : State} {t c : Nat} (h : WroteAt a bs (fetched t c s) s2) :
    WroteAt a bs s s2 := by
  obtain ⟨hin, hout⟩ := h
  exact ⟨hin, fun b hb => (hout b hb).trans (fetched_bytes s t c b 1)⟩

/-- A store of bytes at once, from a context's fetched state. -/
theorem writeShared_regs (a : Nat) (bs : Bytes) (s : State) (own : Bool) (t c : Nat) :
    ((writeShared a bs (fetched t c s) own).cx t c).regs = (s.cx t c).regs := by
  rw [State.cx, (writeShared_tile _ _ _ _ _).cx]; exact fetched_regs t c t c s

theorem writeShared_fe (a : Nat) (bs : Bytes) (s : State) (own : Bool) (t c : Nat) :
    ((writeShared a bs (fetched t c s) own).tile t).fe = (s.tile t).fe := by
  rw [(writeShared_tile _ _ _ _ _).fe, fetched_fe]

/-! ### Sizes -/

theorem accessSize_mem {width : BitVec 3} {size : Nat} (h : accessSize width = some size) :
    size ∈ [1, 2, 4, 8, 16, 32, 64] := by
  unfold accessSize at h
  split at h <;> simp_all

theorem length_storeBytes (s : State) (t c rt : Nat) {size : Nat} (h : size ∈ [1, 2, 4, 8, 16, 32, 64]) :
    (storeBytes s t c rt size).length = size := by
  rw [storeBytes]
  split
  · exact length_toBytes _ _
  · have hgroup : ((regGroup rt size).map (fun r => (toBytes ((s.cx t c).reg r).toNat 8).length)).sum = size := by
      simp [regGroup, Function.comp_def] at h ⊢
      omega
    rw [List.length_flatMap]; exact hgroup

/-! ### The stores -/

theorem storeTo_own {s : State} {t c o : Nat} {bs : Bytes} (h : mergeBad s (tileBase t + o) bs.length = none) :
    storeTo t c bs (.own o) s = .done (writeShared (tileBase t + o) bs s (runsHandler s t c)) := by
  simp only [storeTo, h]

/-- An accumulation whose codewords read and whose bytes no unit owns. -/
theorem accumulate_eq {s : State} {t a : Nat} {ty : BitVec 2} {bs : Bytes} (own : Bool) (hbad : s.badIn a bs.length = none)
    (hfree : ownedResult s a bs.length = false) :
    accumulate t a ty bs s own = .ok ((writeShared a (accBytes ty (s.bytes a bs.length) bs).1 s own).onTile t (fun x =>
      ({ x with nf := { x.nf with aw := x.nf.aw || (accBytes ty (s.bytes a bs.length) bs).2 } }).count 0x2B 1)) := by
  simp only [accumulate, hbad, readShared, hfree]; rfl

theorem Tile.count_fields (x : Tile) (code k : Nat) :
    (x.count code k).ctx = x.ctx ∧ (x.count code k).nf = x.nf ∧ (x.count code k).fe = x.fe := by
  obtain ⟨m, hm⟩ := Tile.count_eq x code k
  rw [hm]
  exact ⟨rfl, rfl, rfl⟩

/-- A tile with an accumulation counted and its non-finite mark taken over (03 R88, 18 R496). -/
def Tile.accumulated (b : Bool) (x : Tile) : Tile := ({ x with nf := { x.nf with aw := x.nf.aw || b } }).count 0x2B 1

theorem Tile.accumulated_fields (x : Tile) (b : Bool) : (x.accumulated b).ctx = x.ctx ∧
    (x.accumulated b).nf = { x.nf with aw := x.nf.aw || b } ∧ (x.accumulated b).fe = x.fe :=
  Tile.count_fields _ _ _

/-- A fill whose word no context waits for: nobody is served. -/
theorem serveFull_none {t w : Nat} {s : State} (h : ∀ d, feWaiter (s.tile t) d w = none) : serveFull t w s = s :=
  List.foldl_fixed' (fun d => by simp only [h d]) _

/-- Who waits for a word is a matter of the contexts' states and waits. -/
theorem feWaiter_congr {x y : Tile} {d : Nat} (w : Nat) (hst : (y.cx d).st = (x.cx d).st)
    (hwait : (y.cx d).wait = (x.cx d).wait) : feWaiter y d w = feWaiter x d w := by
  simp only [feWaiter, hst, hwait]

/-- A fill of an empty word that no context waits for. -/
theorem fillStore_empty {s : State} {t c w : Nat} {bs : Bytes} (own : Bool) (hempty : (s.tile t).full w = false)
    (hnone : ∀ d, feWaiter (s.tile t) d w = none) : fillStore t w bs (fetched t c s) own =
      .ok (setFull t w true (writeShared (tileBase t + 8 * w) bs (fetched t c s) own)) := by
  have hfull : ((fetched t c s).tile t).full w = false := by rw [Tile.full, fetched_fe]; exact hempty
  have hserve : ∀ d, feWaiter ((setFull t w true (writeShared (tileBase t + 8 * w) bs (fetched t c s) own)).tile t) d w = none := by
    intro d
    have hcx : ((setFull t w true (writeShared (tileBase t + 8 * w) bs (fetched t c s) own)).tile t).cx d =
        (fetched t c s).cx t d := by
      rw [setFull, State.onTile_tile]
      exact (writeShared_tile _ bs (fetched t c s) own t).cx d
    rw [feWaiter_congr w (congrArg Ctx.st hcx) (congrArg Ctx.wait hcx), ← hnone d]
    exact feWaiter_congr w (fetched_st t c t d s) (fetched_wait t c t d s)
  rw [fillStore, hfull, serveFull_none hserve]
  rfl

/-- The word of a fill that stays in the tile's own window. -/
theorem targetOf_fillStore_own {s : State} {t o : Nat} {addr : Word} (h : targetOf s t .fillStore 8 addr = .own o) :
    o < 0x10000 ∧ o % 8 = 0 := by
  have hword : (feWord o).isSome = true := by
    unfold targetOf at h
    dsimp only at h
    (repeat' split at h) <;> simp_all [Option.isSome_iff_ne_none]
  by_contra hout
  rw [feWord, if_neg hout] at hword
  exact absurd hword (by decide)

/-- Settles O9: each store writes its bytes, and its instruction's end leaves the rest. -/
theorem localStores : Obligations.LocalStores := by
  unfold Obligations.LocalStores
  intro s t c rt rb off o
  refine ⟨fun width mode size hsize h hrt halign => ⟨fun hmode htarget hmerge => ?_, fun w hw hle htarget hbad hfree => ?_⟩,
    fun hrt h halign htarget hmerge => ?_, fun h halign htarget => ⟨fun hfull => ?_, fun hempty hnone => ?_⟩⟩
  · have hlen := length_storeBytes s t c rt.toNat (accessSize_mem hsize)
    have hlegal : ((mode == 0#2 || mode == 2#2) && rtOk rt size) = true := by
      rcases hmode with rfl | ⟨rfl, -⟩ <;> simp [rtOk, hrt]
    have hgoes : ¬(mode == 2#2 && writesOut (fetched t c s) t c) = true := by
      rcases hmode with rfl | ⟨-, hout⟩
      · simp
      · simp [hout]
    refine ⟨retired t c s (writeShared _ (storeBytes s t c rt.toNat size) (fetched t c s) (runsHandler (fetched t c s) t c)),
      congrArg Host.Outcome.next ((mForm_ready hsize h hlegal _).trans ?_),
      retired_stored (writeShared_wroteAt _ _ _ _).fetched (writeShared_regs _ _ s _ t c),
      (retired_fe t c s _).trans (writeShared_fe _ _ s _ t c)⟩
    dsimp only
    rw [if_neg hgoes, fetched_storeBytes, withTarget_own (memAddr_fetched s t c rb off size) halign htarget,
      storeTo_own (by rw [fetched_mergeBad, hlen]; exact hmerge)]
    exact finish_done h _
  · have hlen := length_storeBytes s t c rt.toNat (accessSize_mem hsize)
    have hlegal : (rtOk rt size && (match accSize mode with | some w => decide (w ≤ size) | none => false)) = true := by
      simp [rtOk, hrt, hw, hle]
    have hacc := accumulate_eq (t := t) (s := fetched t c s) (a := tileBase t + o) (ty := mode)
      (bs := storeBytes s t c rt.toNat size) (runsHandler (fetched t c s) t c) (by rw [fetched_badIn, hlen]; exact hbad)
      (by rw [hlen]; exact hfree)
    rw [hlen, fetched_bytes] at hacc
    generalize hr : accBytes mode (s.bytes (tileBase t + o) size) (storeBytes s t c rt.toNat size) = r at hacc
    let s1 := writeShared (tileBase t + o) r.1 (fetched t c s) (runsHandler (fetched t c s) t c)
    obtain ⟨hctx, hnf, hfe⟩ := Tile.accumulated_fields (s1.tile t) r.2
    have htile : (s1.onTile t (Tile.accumulated r.2)).tile t = (s1.tile t).accumulated r.2 := State.onTile_tile _ _ _
    dsimp only
    refine ⟨retired t c s (s1.onTile t (Tile.accumulated r.2)), congrArg Host.Outcome.next
      ((mForm_ready hsize h hlegal _).trans ?_), retired_stored (s2 := s1.onTile t (Tile.accumulated r.2))
      (writeShared_wroteAt (tileBase t + o) r.1 _ (runsHandler (fetched t c s) t c)).fetched ?_, ?_, ?_⟩
    · rw [withTarget_own (memAddr_fetched s t c rb off size) halign htarget, fetched_storeBytes]
      simp only [hacc]
      exact finish_done h _
    · rw [State.cx, htile, Tile.cx, hctx]
      exact writeShared_regs _ _ s _ t c
    · rw [retired_fe, htile, hfe]
      exact writeShared_fe _ _ s _ t c
    · rw [retired_nf, htile, hnf, (writeShared_tile _ _ _ _ _).nf, fetched_nf]
  · refine ⟨retired t c s (writeShared _ (toBytes ((s.cx t c).desc rt.toNat).toNat 32) (fetched t c s)
        (runsHandler (fetched t c s) t c)),
      congrArg Host.Outcome.next (issue_done h ((legal_of (by simp [hrt]) _ _).trans ?_)),
      retired_stored (writeShared_wroteAt _ _ _ _).fetched (writeShared_regs _ _ s _ t c),
      (retired_fe t c s _).trans (writeShared_fe _ _ s _ t c)⟩
    rw [withTarget_own (memAddr_fetched s t c rb off 32) halign htarget, fetched_desc,
      storeTo_own (by rw [fetched_mergeBad, length_toBytes]; exact hmerge)]
  · have hword : ((fetched t c s).tile t).full (o / 8) = true := by rw [Tile.full, fetched_fe]; exact hfull
    refine congrArg Host.Outcome.next ((mForm_ready (size := 8) rfl h (by simp) _).trans ?_)
    rw [withTarget_own (memAddr_fetched s t c rb off 8) halign htarget]
    simp only [fillStore, hword, if_true]
    exact finish_fault _ t c _ _
  · obtain ⟨hlow, hword⟩ := targetOf_fillStore_own htarget
    have haddr : tileBase t + 8 * (o / 8) = tileBase t + o := by omega
    have hfill := fillStore_empty (t := t) (c := c) (bs := storeBytes s t c rt.toNat 8) (runsHandler (fetched t c s) t c) hempty hnone
    rw [haddr] at hfill
    refine ⟨retired t c s (setFull t (o / 8) true (writeShared (tileBase t + o) (storeBytes s t c rt.toNat 8) (fetched t c s)
        (runsHandler (fetched t c s) t c))),
      congrArg Host.Outcome.next ((mForm_ready (size := 8) rfl h (by simp) _).trans ?_), ?_,
      retired_stored (writeShared_wroteAt _ _ _ _).fetched ?_⟩
    · rw [withTarget_own (memAddr_fetched s t c rb off 8) halign htarget, fetched_storeBytes]
      simp only [hfill]
      exact finish_done h _
    · rw [Tile.full, retired_fe, setFull, State.onTile_tile]
      exact (getLsbD_setBit _ (o / 8) (o / 8) true (by omega)).trans (if_pos rfl)
    · refine Eq.trans ?_ (writeShared_regs (tileBase t + o) (storeBytes s t c rt.toNat 8) s (runsHandler (fetched t c s) t c) t c)
      rw [setFull, State.cx_onTile, if_pos rfl]
      rfl

end Sys2Proof.Machine

/-!
SUPPORT. The end of an operation (03 R74, 05 R152, 13 R346; 15 R413): its flag is set, its unit is free, and neither its
tokens nor its trace record changes what it wrote.
-/
namespace Sys2Proof.Machine

/-! ### Tokens and trace records -/

/-- A fold that changes a tile's reservation changes nothing else of a tile. -/
theorem foldl_resv_tile (l : List Nat) (s : State) (t : Nat) : ∃ v,
    (l.foldl (fun s t => s.onTile t (fun x => x.onUn (fun u => { u with resv := 0 }))) s).tile t =
      (s.tile t).onUn (fun u => { u with resv := v }) := by
  induction l generalizing s with
  | nil => exact ⟨(s.tile t).un.resv, rfl⟩
  | cons k l ih =>
    obtain ⟨v, hv⟩ := ih (s.onTile k (fun x => x.onUn (fun u => { u with resv := 0 })))
    refine ⟨v, hv.trans ?_⟩
    by_cases hk : t = k
    · rw [hk, State.onTile_tile]; rfl
    · rw [State.onTile_tile_ne _ _ _ hk]

/-- A region that settles its tokens changes of a tile its reservation alone. -/
theorem settleTokens_tile (r : Nat) (s : State) (t : Nat) : ∃ v,
    (settleTokens r s).tile t = (s.tile t).onUn (fun u => { u with resv := v }) := by
  rw [settleTokens]
  split
  · rw [dropTokens, State.tile, State.onRegion_tiles]
    exact foldl_resv_tile (tilesOf r) s t
  · exact ⟨(s.tile t).un.resv, rfl⟩

/-- With tracing off no record is written. -/
theorem traceDone_off (t : Nat) (q : StartReq) (beats progress : Nat) {s : State} (h : s.dev.trace.on = 0) :
    traceDone t q beats progress s = s := by
  simp [traceDone, traceTile, kindOn, h]

/-! ### The end of an operation -/

theorem Tile.putFlag_nf (x : Tile) (f : Nat) (b : Bool) : (x.putFlag f b).nf = x.nf := by
  obtain ⟨-, -, -, -, hnf, -⟩ := KeepsTile.endWaits { x with flags := setBit x.flags f b } (.tf f b)
  exact hnf

/-- Units, memory and device are as they were, and tile `t`'s non-finite register too where `nf`. -/
def KeepsRuns (t : Nat) (nf : Prop) (s s' : State) : Prop :=
  (s'.tile t).un.units = (s.tile t).un.units ∧ s'.mem = s.mem ∧ s'.dev = s.dev ∧ (nf → (s'.tile t).nf = (s.tile t).nf)

theorem KeepsRuns.refl (t : Nat) (nf : Prop) (s : State) : KeepsRuns t nf s s := ⟨rfl, rfl, rfl, fun _ => rfl⟩

theorem KeepsRuns.trans {t : Nat} {nf : Prop} {x y z : State} (h : KeepsRuns t nf x y) (h' : KeepsRuns t nf y z) :
    KeepsRuns t nf x z :=
  ⟨h'.1.trans h.1, h'.2.1.trans h.2.1, h'.2.2.1.trans h.2.2.1, fun hnf => (h'.2.2.2 hnf).trans (h.2.2.2 hnf)⟩

theorem KeepsRuns.count (t : Nat) (nf : Prop) (s : State) (code k : Nat) :
    KeepsRuns t nf s (s.onTile t (fun x => x.count code k)) := by
  obtain ⟨m, hm⟩ := Tile.count_eq (s.tile t) code k
  have htile : (s.onTile t (fun x => x.count code k)).tile t = _ := (State.onTile_tile _ _ _).trans hm
  exact ⟨by rw [htile], rfl, rfl, fun _ => by rw [htile]⟩

/-- The unit whose lone operation has been taken out is free. -/
theorem UnitSt.drop_running {x : UnitSt} (h : x.tail = none) : x.drop.running = none := by
  rw [UnitSt.drop, h]

/-- What the end of an operation that stopped for no fault leaves: its flag set, its unit free and, with tracing off, the
memory that it wrote. -/
theorem endOp_ends {t u : Nat} {op : RunOp} {e : OpEnd} (hfault : e.fault = none)
    (htail : ((e.s.tile t).unit u).tail = none) :
    ((endOp t u op e).tile t).flag op.req.tf.toNat = true ∧ (((endOp t u op e).tile t).unit u).running = none ∧
      (e.s.dev.trace.on = 0 → (endOp t u op e).mem = e.s.mem) ∧
      (e.nf = none → ((endOp t u op e).tile t).nf = (e.s.tile t).nf) := by
  delta endOp
  extract_lets q s1 s2 s3
  have hdrop : s1.tile t = (e.s.tile t).onUnit u UnitSt.drop := State.onTile_tile _ _ _
  have h2 : KeepsRuns t (e.nf = none) s1 s2 := by
    show KeepsRuns t (e.nf = none) s1 (match e.nf with
      | some i => s1.onTile t (fun x => { x with nf := x.nf.set (u == 1) i }) | none => s1)
    split
    · next i hi => exact ⟨by rw [State.onTile_tile], rfl, rfl, fun hnf => absurd (hi.symm.trans hnf) (by simp)⟩
    · exact KeepsRuns.refl _ _ _
  have h3 : KeepsRuns t (e.nf = none) s2 s3 := by
    show KeepsRuns t (e.nf = none) s2 (if u < 4 then _ else s2)
    split
    · exact KeepsRuns.count _ _ _ _ _
    · exact KeepsRuns.refl _ _ _
  obtain ⟨hunits, hmem, hdev, hnf⟩ := h2.trans h3
  clear_value s3 s2
  rw [hfault]
  dsimp only
  obtain ⟨v, hv⟩ := settleTokens_tile (regionOf t) (traceDone t q e.beats e.progress (putFlag t q.tf.toNat true s3)) t
  have htile : (traceDone t q e.beats e.progress (putFlag t q.tf.toNat true s3)).tile t = (s3.tile t).putFlag q.tf.toNat true := by
    rw [State.tile, traceDone_tiles]; exact putFlag_tile t _ true s3
  have hflag := (Tile.putFlag_flag (s3.tile t) true q.tf.toNat (BitVec.isLt q.tf)).trans (if_pos rfl)
  have hunit : ((s3.tile t).putFlag q.tf.toNat true).unit u = ((e.s.tile t).unit u).drop := by
    rw [Tile.putFlag_unit, Tile.unit, hunits, hdrop]
    exact Tile.onUnit_unit _ _ _
  have hkept := Tile.putFlag_nf (s3.tile t) q.tf.toNat true
  rw [hv, htile]
  generalize (s3.tile t).putFlag q.tf.toNat true = z at *
  refine ⟨hflag, (congrArg UnitSt.running hunit).trans (UnitSt.drop_running htail), fun hoff => ?_, fun hnone => ?_⟩
  · have htrace : (putFlag t q.tf.toNat true s3).dev.trace.on = 0 := (congrArg (fun d => d.trace.on) hdev).trans hoff
    rw [settleTokens_mem, traceDone_off _ _ _ _ htrace]
    exact hmem
  · exact hkept.trans ((hnf hnone).trans (by rw [hdrop]; rfl))

/-- A completion event of a unit that runs carries out its oldest operation and ends it. -/
theorem complete_oldest {t u : Nat} {op : RunOp} {s : State} (run : RunOp → State → OpEnd) (htrip : s.dev.boot.trip = false)
    (hop : ((s.tile t).unit u).oldest = some op) : complete t u run s = endOp t u op (run op s) := by
  rw [complete, selfTimed, htrip, hop]; rfl

theorem UnitSt.oldest_of_alone {x : UnitSt} {op : RunOp} (hrun : x.running = some op) (htail : x.tail = none) :
    x.oldest = some op := by
  rw [UnitSt.oldest, htail, hrun]

/-- MM_COMPLETION of an operation that was not stopped, which no LIG operation holds back. -/
theorem mmCompletion_ends {t : TileId} {op : RunOp} {s : State} (htrip : s.dev.boot.trip = false)
    (hop : ((s.tile t).unit 0).oldest = some op) (hstop : op.stopAt = none)
    (hlig : ((s.tile t).unit 0).tail ≠ none ∨ mmOwnsLig (s.tile t) = false ∨ ((s.tile t).unit 2).running = none) :
    exec (.mmCompletion t) s = .next (endOp t 0 op (runMm t op s)) := by
  have hgoes : (((s.tile t).unit 0).tail.isNone && mmOwnsLig (s.tile t) && (((s.tile t).unit 2).running).isSome) = false := by
    rcases hlig with h | h | h
    · obtain ⟨o, ho⟩ := Option.ne_none_iff_exists'.1 h
      simp [ho]
    · simp [h]
    · simp [h]
  refine congrArg Host.Outcome.next ?_
  simp only [hop, hstop, hgoes]
  exact complete_oldest _ htrip hop

/-- VE_COMPLETION of a unit that runs. -/
theorem veCompletion_ends {t : TileId} {op : RunOp} {s : State} (htrip : s.dev.boot.trip = false)
    (hop : ((s.tile t).unit 1).oldest = some op) :
    exec (.veCompletion t) s = .next (endOp t 1 op (runVector t op s)) :=
  congrArg Host.Outcome.next (complete_oldest _ htrip hop)

/-! ### Empty operations -/

/-- An MM whose result has an empty extent has no block and does nothing (05 R152). -/
theorem runMm_empty (t : Nat) {op : RunOp} (s : State) (h : (blockGrid (descOf op.dC)).2.2 = 0) :
    runMm t op s = { s := s, beats := 2 } := by
  have hblocks : mmBlocks op = 0 := by rw [mmBlocks, h]; split <;> rfl
  rw [runMm]
  exact if_pos hblocks

/-- A result with no block has no element. -/
theorem count_eq_zero_of_blockGrid {c : Desc} (h : (blockGrid c).2.2 = 0) : c.count = 0 := by
  simp only [blockGrid, cdiv, Nat.mul_eq_zero] at h
  rw [Desc.count, Nat.mul_eq_zero, Nat.mul_eq_zero]
  omega

/-- An MM without elements leaves the Ligature to others (07 R193). -/
theorem mmOwnsLig_empty {x : Tile} {op : RunOp} (hop : (x.unit 0).running = some op) (h : (descOf op.dC).count = 0) :
    mmOwnsLig x = false := by
  rw [mmOwnsLig, hop]; simp [h]

/-- Settles O27: neither operation does anything, and its end changes no byte. -/
theorem emptyOperationsComplete : Obligations.EmptyOperationsComplete := by
  unfold Obligations.EmptyOperationsComplete
  intro s t op u htrip htrace hrun htail hstop hempty
  have hold := UnitSt.oldest_of_alone hrun htail
  have hends := endOp_ends (op := op) (e := { s := s, beats := 2 }) rfl htail
  obtain ⟨hflag, hfree, hmem, hnf⟩ := hends
  refine ⟨_, ?_, hmem htrace, hflag, hfree, hnf rfl⟩
  rcases hempty with ⟨rfl, hgrid⟩ | ⟨rfl, hkind, hcount⟩
  · have hlig := mmOwnsLig_empty hrun (count_eq_zero_of_blockGrid hgrid)
    exact (mmCompletion_ends htrip hold hstop (.inr (.inl hlig))).trans (by rw [runMm_empty t s hgrid])
  · refine (veCompletion_ends htrip hold).trans ?_
    rw [runVector, hkind, runOpt, if_pos hcount]

end Sys2Proof.Machine

/-!
SUPPORT. Carrying out an operation leaves every tile's units as they are and the trace's registers too (03 R73, 18 R498): it
writes memory, draws free values and counts events.
-/
namespace Sys2Proof.Machine

/-! ### The trace's registers through the Bulk Store -/

theorem settleLine_trace (l : Nat) (s : State) : (settleLine l s).dev.trace = s.dev.trace := by
  rw [settleLine]; split <;> rfl

theorem bulkPut_trace (a : Nat) (bs : Bytes) (s : State) : (bulkPut a bs s).dev.trace = s.dev.trace := by
  have hscrub : (if isScrubbed s (granuleOf a) then s else scrubGranule (granuleOf a) s).dev.trace = s.dev.trace := by
    split <;> rfl
  have hsettle := (settleLine_trace (a / 128) (if isScrubbed s (granuleOf a) then s else scrubGranule (granuleOf a) s)).trans hscrub
  rw [bulkPut]
  split <;> exact hsettle

theorem bulkReadLine_trace (l : Nat) (s : State) : (bulkReadLine l s).2.dev.trace = s.dev.trace := by
  rw [bulkReadLine]; split <;> rfl

theorem bulkWrite_trace (a : Nat) (bs : Bytes) (s : State) : (bulkWrite a bs s).2.dev.trace = s.dev.trace := by
  rw [bulkWrite]; split
  · rfl
  · exact bulkPut_trace a bs s

theorem writeBack_trace (x : CLine) (s : State) : (writeBack x s).dev.trace = s.dev.trace := by
  rw [writeBack]; split
  · exact bulkPut_trace _ _ s
  · rfl

theorem allocate_trace (r l set : Nat) (data : Bytes) (dirty : Bool) (s : State) :
    (allocate r l set data dirty s).2.dev.trace = s.dev.trace := by
  rw [allocate]; dsimp only
  split
  · rfl
  · split
    · exact writeBack_trace _ s
    · rfl

theorem homeRead_trace (n a len : Nat) (alloc : Bool) (s : State) : (homeRead n a len alloc s).2.dev.trace = s.dev.trace := by
  have hread := bulkReadLine_trace (a / 128)
  grind [homeRead, countRc, State.onRc, State.onRegion_dev, allocate_trace]

theorem homeWrite_trace (n a : Nat) (bs : Bytes) (alloc : Bool) (s : State) :
    (homeWrite n a bs alloc s).2.dev.trace = s.dev.trace := by
  grind [homeWrite, countRc, State.onRc, State.onRegion_dev, allocate_trace, bulkWrite_trace, bulkReadLine_trace]

/-! ### Units -/

/-- The trace's registers and every tile's units are as they were. -/
def KeepsUnits (s s' : State) : Prop :=
  s'.dev.trace = s.dev.trace ∧ ∀ t, (s'.tile t).un.units = (s.tile t).un.units

theorem KeepsUnits.refl (s : State) : KeepsUnits s s := ⟨rfl, fun _ => rfl⟩

theorem KeepsUnits.trans {x y z : State} (h : KeepsUnits x y) (h' : KeepsUnits y z) : KeepsUnits x z :=
  ⟨h'.1.trans h.1, fun t => (h'.2 t).trans (h.2 t)⟩

theorem KeepsUnits.of_tiles {s s' : State} (htrace : s'.dev.trace = s.dev.trace) (htiles : s'.tiles = s.tiles) : KeepsUnits s s' :=
  ⟨htrace, fun t => by rw [State.tile, htiles]; rfl⟩

theorem KeepsUnits.poke (s : State) (a : Nat) (bs : Bytes) : KeepsUnits s (s.poke a bs) := .of_tiles rfl rfl

theorem KeepsUnits.putRaw (d : Desc) (i0 i1 i2 : Nat) (raws : List Nat) (s : State) : KeepsUnits s (d.putRaw i0 i1 i2 raws s) :=
  .of_tiles rfl rfl

theorem KeepsUnits.onTile (s : State) (t : Nat) (f : Tile → Tile) (h : ∀ x, (f x).un.units = x.un.units) :
    KeepsUnits s (s.onTile t f) := by
  refine ⟨rfl, fun k => ?_⟩
  by_cases hk : k = t
  · rw [hk, State.onTile_tile, h]
  · rw [State.onTile_tile_ne _ _ _ hk]

theorem KeepsUnits.foldl {α σ : Type} (st : σ → State) (g : σ → α → σ) (l : List α) (h : ∀ w a, KeepsUnits (st w) (st (g w a)))
    (w : σ) : KeepsUnits (st w) (st (l.foldl g w)) := by
  induction l generalizing w with
  | nil => exact .refl _
  | cons a l ih => exact (h w a).trans (ih (g w a))

theorem Tile.count_un (x : Tile) (code k : Nat) : (x.count code k).un = x.un := by
  obtain ⟨m, hm⟩ := Tile.count_eq x code k
  rw [hm]

/-! ### Writing elements -/

@[simp] theorem Written.mark_s (w : Written) (i : Nat) (b : Bool) : (w.mark i b).s = w.s := by
  rw [Written.mark]; split <;> rfl

theorem foldl_mark_s {α : Type} (l : List α) (i : α → Nat) (b : α → Bool) (w : Written) :
    (l.foldl (fun w p => w.mark (i p) (b p)) w).s = w.s := by
  induction l generalizing w with
  | nil => rfl
  | cons p l ih => rw [List.foldl_cons, ih, Written.mark_s]

theorem KeepsUnits.putRun (d : Desc) (tainted : Bool) (how : Nat → RMode) (i0 i1 i2 : Nat) (xs : List Num) (w : Written) :
    KeepsUnits w.s (d.putRun tainted how i0 i1 i2 xs w).s := by
  cases tainted
  · exact (foldl_mark_s _ _ _ _).symm ▸ KeepsUnits.putRaw d i0 i1 i2 _ w.s
  · exact (foldl_mark_s _ _ _ _).symm ▸ KeepsUnits.of_tiles rfl rfl

theorem KeepsUnits.putBlock (d : Desc) (tainted : Bool) (how : Nat → RMode) (i0 i1 i2 : Nat) (xs : List Num) (w : Written) :
    KeepsUnits w.s (d.putBlock tainted how i0 i1 i2 xs w).s := by
  cases tainted
  · rw [Desc.putBlock]
    dsimp only
    rw [if_neg (by simp)]
    split
    · rw [Written.mark_s]; exact (KeepsUnits.putRaw d i0 i1 i2 _ w.s).trans (.poke _ _ _)
    · exact (KeepsUnits.putRun _ false how i0 i1 i2 _ w).trans (.poke _ _ _)
  · exact (KeepsUnits.trans (y := (drawFree 8 w.s).2) (.of_tiles rfl rfl)
      (KeepsUnits.putRun _ true how i0 i1 i2 xs { w with s := (drawFree 8 w.s).2 })).trans (.poke _ _ _)

theorem KeepsUnits.put (d : Desc) (tainted : Bool) (how : Nat → RMode) (i0 i1 i2 : Nat) (xs : List Num) (w : Written) :
    KeepsUnits w.s (d.put tainted how i0 i1 i2 xs w).s := by
  rw [Desc.put]
  split
  · exact .refl _
  · split
    · exact .foldl Written.s _ _ (fun w p => .putBlock d tainted how _ i1 i2 _ w) w
    · exact .putRun d tainted how i0 i1 i2 xs w

theorem KeepsUnits.putFirst (d : Desc) (tainted : Bool) (how : Nat → RMode) (vals : List Num) (lim : Nat) (s : State) :
    KeepsUnits s (Machine.putFirst d tainted how vals lim s).s :=
  .foldl Written.s _ _ (fun w _ => .put d tainted how _ _ _ _ w) { s := s }

theorem KeepsUnits.mmWrite (c : Desc) (tainted : Bool) (how : RMode) (rows : List (List Num)) (lim : Nat) (s : State) :
    KeepsUnits s (Machine.mmWrite c tainted how rows lim s).s := by
  refine .foldl Written.s _ _ (fun w k => ?_) { s := s }
  dsimp only
  split
  · exact .refl _
  · exact .foldl Written.s _ _ (fun w _ => .put c tainted _ _ _ _ _ w) w

/-! ### The runs of the units -/

theorem KeepsUnits.runMm (t : Nat) (op : RunOp) (s : State) : KeepsUnits s (Machine.runMm t op s).s := by
  rw [Machine.runMm]
  dsimp only
  split
  · exact .refl _
  · split
    · exact .mmWrite _ _ _ _ _ s
    · refine (KeepsUnits.mmWrite _ _ _ _ _ s).trans (.onTile _ t _ (fun x => ?_))
      rw [Tile.onUn, Units.fill, Tile.count_un, Tile.count_un]

theorem KeepsUnits.runSamp (t : Nat) (op : RunOp) (p : VeParam) (s : State) : KeepsUnits s (Machine.runSamp t op p s).s := by
  refine .foldl Written.s _ _ (fun w x => ?_) { s := s }
  cases op.tainted
  · exact (Written.mark_s _ _ _).symm ▸ KeepsUnits.putRaw _ _ _ _ _ w.s
  · exact (Written.mark_s _ _ _).symm ▸ KeepsUnits.of_tiles rfl rfl

theorem KeepsUnits.runVe (t : Nat) (op : RunOp) (s : State) : KeepsUnits s (Machine.runVe t op s).s := by
  rw [Machine.runVe]
  dsimp only
  split
  · exact .refl _
  · split
    · exact .runSamp t op _ s
    · exact .putFirst _ _ _ _ _ s

theorem KeepsUnits.runGrn (t : Nat) (op : RunOp) (s : State) : KeepsUnits s (Machine.runGrn t op s).s := by
  rw [Machine.runGrn]
  dsimp only
  split
  · exact .refl _
  · split
    · exact .foldl id _ _ (fun s _ => .putRaw _ _ _ _ _ s) s
    · exact .putFirst _ _ _ _ _ s

theorem KeepsUnits.runLig (op : RunOp) (s : State) : KeepsUnits s (Machine.runLig op s).s := by
  rw [Machine.runLig]
  dsimp only
  split
  · exact .refl _
  · split
    · exact .of_tiles rfl rfl
    · split <;> exact .of_tiles rfl rfl

theorem KeepsUnits.optWrite (t : Nat) (op : RunOp) (h : Hyper) (w m v : List Num) (lim limR limC : Nat) (s : State) :
    KeepsUnits s (Machine.optWrite t op h w m v lim limR limC s).s := by
  have hfirst (how how') := (KeepsUnits.putFirst (descOf op.dC) op.tainted how w lim s).trans
    (.putFirst (descOf op.dB) op.tainted how' m limR _)
  rw [Machine.optWrite]
  dsimp only
  split
  · exact (hfirst _ _).trans (.putFirst _ _ _ _ _ _)
  · exact hfirst _ _

theorem KeepsUnits.runOpt (t : Nat) (op : RunOp) (s : State) : KeepsUnits s (Machine.runOpt t op s).s := by
  delta Machine.runOpt
  extract_lets d a sub h p st bad lim ws gs xs ys es τ rs out limS w s1 s2
  split
  · exact .refl _
  · next _ =>
    have hwrite : KeepsUnits s s1 := .optWrite t op h _ _ _ _ _ _ s
    clear_value s1 w limS lim bad
    refine hwrite.trans ?_
    show KeepsUnits s1 (match bad with | some _ => _ | none => _)
    split
    · split
      · exact .foldl id _ st (fun s e => .of_tiles (s' := (drawBytes (4 * e.ext0) s).2.poke e.loc (drawBytes (4 * e.ext0) s).1) rfl rfl) s1
      · exact .refl _
    · split
      · split <;> exact .of_tiles rfl rfl
      · exact .refl _

end Sys2Proof.Machine

/-!
SUPPORT. MOVT between ends on this device (10 R280): what its steps leave of the units, and its completion.
-/
namespace Sys2Proof.Machine

/-! ### The steps of a MOVT -/

theorem KeepsUnits.countXfer (t a n : Nat) (s : State) : KeepsUnits s (Machine.countXfer t a n s) := by
  rw [Machine.countXfer]
  split
  · split
    · exact .refl _
    · exact (KeepsUnits.onTile s t _ (fun x => by rw [Tile.count_un, Tile.count_un])).trans
        (.onTile _ _ _ (fun x => by rw [Tile.count_un, Tile.count_un]))
  · exact .onTile s t _ (fun x => by rw [Tile.count_un, Tile.count_un, Tile.count_un])

theorem KeepsUnits.homeRead (n a len : Nat) (alloc : Bool) (s : State) : KeepsUnits s (Machine.homeRead n a len alloc s).2 :=
  .of_tiles (homeRead_trace n a len alloc s) (homeRead_tiles n a len alloc s)

theorem KeepsUnits.homeWrite (n a : Nat) (bs : Bytes) (alloc : Bool) (s : State) :
    KeepsUnits s (Machine.homeWrite n a bs alloc s).2 :=
  .of_tiles (homeWrite_trace n a bs alloc s) (homeWrite_tiles n a bs alloc s)

theorem KeepsUnits.xferRead (t a n : Nat) (s : State) : KeepsUnits s (Machine.xferRead t a n s).2 := by
  refine (KeepsUnits.countXfer t a n s).trans ?_
  grind [Machine.xferRead, KeepsUnits.refl, KeepsUnits.homeRead, KeepsUnits.trans]

theorem KeepsUnits.xferWrite (t a : Nat) (bs : Bytes) (s : State) : KeepsUnits s (Machine.xferWrite t a bs s).2 := by
  refine (KeepsUnits.countXfer t a bs.length s).trans ?_
  grind [Machine.xferWrite, KeepsUnits.refl, KeepsUnits.homeWrite, KeepsUnits.poke]

theorem KeepsUnits.drawBytes (n : Nat) (s : State) : KeepsUnits s (Machine.drawBytes n s).2 := .of_tiles rfl rfl

theorem KeepsUnits.pieceData (t : Nat) (op : RunOp) (ps : List Piece) (p : Piece) (s : State) :
    KeepsUnits s (Machine.pieceData t op ps p s).2 := by
  have hread (a : Nat) := KeepsUnits.xferRead t a p.len s
  grind [Machine.pieceData, KeepsUnits.drawBytes, KeepsUnits.trans]

theorem KeepsUnits.movePieces (t : Nat) (op : RunOp) (all l : List Piece) (n : Nat) (s : State) :
    KeepsUnits s (Machine.movePieces t op all l n s).2.2 := by
  induction l generalizing n s with
  | nil => exact .refl s
  | cons p ps ih =>
    have hdata := KeepsUnits.pieceData t op all p s
    rw [Machine.movePieces]
    split
    · next heq => rw [heq] at hdata; exact hdata
    · next d s1 heq =>
      rw [heq] at hdata
      have hwrite := KeepsUnits.xferWrite t p.dst d s1
      split
      · next heq' => rw [heq'] at hwrite; exact hdata.trans hwrite
      · next heq' => rw [heq'] at hwrite; exact (hdata.trans hwrite).trans (ih _ _)

/-- A turn that is taken leaves its mark on the order of waiting alone. -/
theorem takeTurn_eq_onTile {t id cost : Nat} {s s1 : State} (h : takeTurn t id cost s = (true, s1)) :
    s1 = s.onTile t (fun x => x.onUn (fun n => { n with waiting := n.waiting.filter (· ≠ id) })) := by
  delta takeTurn at h
  extract_lets x first at h
  split at h
  · exact (congrArg Prod.snd h).symm
  · split at h <;> cases h

theorem movtHere_onTile (s : State) (t : Nat) (f : Tile → Tile) (op : RunOp) : movtHere (s.onTile t f) op = movtHere s op := rfl

/-! ### The completion events -/

/-- What an operation's end leaves, for a run that left the units and the trace as they were. -/
theorem ends_of_run {t u : Nat} {op : RunOp} {e : OpEnd} {s : State} (htail : ((s.tile t).unit u).tail = none)
    (hkeeps : KeepsUnits s e.s) (hfault : e.fault = none) :
    ((endOp t u op e).tile t).flag op.req.tf.toNat = true ∧ (((endOp t u op e).tile t).unit u).running = none ∧
      (s.dev.trace.on = 0 → (endOp t u op e).mem = e.s.mem) := by
  obtain ⟨htrace, hunits⟩ := hkeeps
  obtain ⟨hflag, hfree, hmem, -⟩ := endOp_ends (op := op) hfault (by rw [Tile.unit, hunits t]; exact htail)
  exact ⟨hflag, hfree, fun hoff => hmem (by rw [htrace]; exact hoff)⟩

/-- MOVT_COMPLETION of a MOVT on this device that nothing holds back. -/
theorem movtCompletion_ends {t : TileId} {op : RunOp} {s s1 : State} (htrip : s.dev.boot.trip = false)
    (hrun : ((s.tile t).unit 4).running = some op) (hhere : movtHere s op = true)
    (hturn : (if injects s t op then takeTurn t 4 1 s else (true, s)) = (true, s1))
    (hpieces : (movtPieces s op).any (pieceWaits s) = false) (hlines : behindLines s t (movtPieces s op) = false)
    (hlist : listBad s1 op = none) :
    let r := movePieces t op (movtPieces s op) (movtPieces s op) 0 s1
    exec (.movtCompletion t) s = .next (endMovt t op r.1 r.2.1 r.2.2) := by
  have hhere1 : movtHere s1 op = true := by
    split at hturn
    · rw [takeTurn_eq_onTile hturn, movtHere_onTile]
      exact hhere
    · cases hturn; exact hhere
  refine congrArg Host.Outcome.next ?_
  simp only [selfTimed, htrip, hrun, hhere, hpieces, hlines, hturn, hlist, hhere1, if_true, Bool.or_self, Bool.false_eq_true,
    if_false]

/-- A turn that the next line takes leaves the units as they are. -/
theorem KeepsUnits.turn {t : Nat} {op : RunOp} {s s1 : State}
    (hturn : (if injects s t op then takeTurn t 4 1 s else (true, s)) = (true, s1)) : KeepsUnits s s1 := by
  split at hturn
  · rw [takeTurn_eq_onTile hturn]
    exact .onTile s t _ (fun _ => rfl)
  · cases hturn; exact .refl s

/-- What the end of a MOVT that moved every piece leaves. -/
theorem endMovt_ends {t n : Nat} {op : RunOp} {s e : State} (htail : ((s.tile t).unit 4).tail = none) (hkeeps : KeepsUnits s e) :
    ((endMovt t op n none e).tile t).flag op.req.tf.toNat = true ∧
      (((endMovt t op n none e).tile t).unit 4).running = none ∧
      (s.dev.trace.on = 0 → (endMovt t op n none e).mem = e.mem) :=
  ends_of_run (e := { s := unwait t 4 (drawFree 32 e).2, beats := (drawFree 32 e).1.toNat, progress := n }) htail
    ((hkeeps.trans (.of_tiles rfl rfl)).trans (.onTile (drawFree 32 e).2 t _ (fun _ => rfl))) rfl

end Sys2Proof.Machine

/-!
SUPPORT. A row's codes in memory (03 R78, 04 R107), and the operations whose result is one row (05 R143, R147; 06 R166, R167).
-/
namespace Sys2Proof.Machine

/-! ### Packed codes -/

/-- A field of a number needs only the bits up to its end. -/
theorem fld_mod {n m lo w : Nat} (h : lo + w ≤ m) : fld (n % 2 ^ m) lo w = fld n lo w := by
  refine Nat.eq_of_testBit_eq (fun i => ?_)
  simp only [fld, Nat.testBit_mod_two_pow, Nat.testBit_div_two_pow]
  by_cases hi : i < w
  · simp [hi, show i + lo < m by omega]
  · simp [hi]

/-- Field `i` of digits of `w` bits is digit `i`. -/
theorem fld_ofDigits {w : Nat} {l : List Nat} (hl : ∀ x ∈ l, x < 2 ^ w) {i : Nat} (hi : i < l.length) :
    fld (Nat.ofDigits (2 ^ w) l) (w * i) w = l[i] := by
  induction l generalizing i with
  | nil => simp at hi
  | cons x l ih =>
    have hx : x < 2 ^ w := hl x (by simp)
    rw [Nat.ofDigits_cons, fld]
    cases i with
    | zero => simp [Nat.mod_eq_of_lt hx]
    | succ i =>
      rw [Nat.mul_add, Nat.mul_one, Nat.add_comm (w * i), Nat.pow_add, ← Nat.div_div_eq_div_mul,
        Nat.add_mul_div_left _ _ (by positivity), Nat.div_eq_of_lt hx, Nat.zero_add]
      exact ih (fun y hy => hl y (by simp [hy])) (by simpa using hi)

/-- The codes that a run packs, as digits. -/
theorem foldl_codes (w : Nat) (raws : List Nat) (a k : Nat) :
    (raws.zipIdx k).foldl (fun a p => a + p.1 % 2 ^ w * 2 ^ (w * p.2)) a =
      a + 2 ^ (w * k) * Nat.ofDigits (2 ^ w) (raws.map (· % 2 ^ w)) := by
  induction raws generalizing a k with
  | nil => simp
  | cons x l ih =>
    rw [List.zipIdx_cons, List.foldl_cons, ih, List.map_cons, Nat.ofDigits_cons, Nat.mul_add w, Nat.pow_add]
    ring

theorem fmtWidth_pos (code : Nat) : 0 < fmtWidth code := by
  unfold fmtWidth
  split <;> decide

/-- A run of a whole row: its codes packed, and above them what the row's last byte held. -/
theorem putRaw_row (d : Desc) (raws : List Nat) (s : State) (h : raws.length = d.ext0) : ∃ rest,
    d.putRaw 0 0 0 raws s = s.poke (d.row 0 0) (toBytes (Nat.ofDigits (2 ^ fmtWidth d.fmt) (raws.map (· % 2 ^ fmtWidth d.fmt))
      + rest * 2 ^ (fmtWidth d.fmt * d.ext0)) d.rowBytes) := by
  refine ⟨leNat (s.bytes (d.row 0 0) d.rowBytes) / 2 ^ (fmtWidth d.fmt * d.ext0), ?_⟩
  rw [Desc.putRaw, foldl_codes, h]
  simp only [Nat.zero_mul, Nat.zero_div, Nat.zero_add, Nat.mul_zero, Nat.sub_zero, Nat.add_zero, Nat.pow_zero, Nat.mod_one,
    Nat.one_mul, Nat.mul_one]
  rfl

/-- A row read back gives the codes written to it. -/
theorem rawRow_putRaw (d : Desc) (raws : List Nat) (s : State) (h : raws.length = d.ext0) :
    d.rawRow (d.putRaw 0 0 0 raws s) 0 0 = raws.map (· % 2 ^ fmtWidth d.fmt) := by
  obtain ⟨rest, hput⟩ := putRaw_row d raws s h
  have hread := bytes_poke s (d.row 0 0) (toBytes (Nat.ofDigits (2 ^ fmtWidth d.fmt) (raws.map (· % 2 ^ fmtWidth d.fmt))
      + rest * 2 ^ (fmtWidth d.fmt * d.ext0)) d.rowBytes)
  rw [length_toBytes] at hread
  have hwhole : fmtWidth d.fmt * d.ext0 ≤ 8 * d.rowBytes := by rw [Desc.rowBytes, Nat.mul_comm d.ext0]; omega
  rw [Desc.rawRow, hput, hread, leNat_toBytes]
  generalize hcodes : raws.map (· % 2 ^ fmtWidth d.fmt) = codes
  have hlen : codes.length = d.ext0 := by rw [← hcodes, List.length_map, h]
  have hlt : ∀ x ∈ codes, x < 2 ^ fmtWidth d.fmt := by
    intro x hx
    obtain ⟨y, -, rfl⟩ := List.mem_map.1 (hcodes ▸ hx)
    exact Nat.mod_lt _ (Nat.two_pow_pos _)
  have hall : Nat.ofDigits (2 ^ fmtWidth d.fmt) codes < 2 ^ (fmtWidth d.fmt * d.ext0) := by
    rw [Nat.pow_mul, ← hlen]
    exact Nat.ofDigits_lt_base_pow_length (Nat.one_lt_two_pow (fmtWidth_pos d.fmt).ne') hlt
  refine List.ext_getElem (by simp [hlen]) (fun i hi hi' => ?_)
  rw [List.length_map, List.length_range] at hi
  have hend : fmtWidth d.fmt * i + fmtWidth d.fmt ≤ fmtWidth d.fmt * d.ext0 := by
    rw [← Nat.mul_succ]; exact Nat.mul_le_mul_left _ hi
  rw [List.getElem_map, List.getElem_range, fld_mod (hend.trans hwhole), ← fld_mod hend, Nat.add_mul_mod_self_right,
    Nat.mod_eq_of_lt hall, fld_ofDigits hlt]

/-! ### Results in one row -/

theorem Num.scale_zero (x : Num) : x.scale 0 = x := by
  cases x with
  | fin s n e => rw [Num.scale, Int.add_zero]
  | _ => rfl

theorem Desc.alpha_of_unscaled {d : Desc} (h : d.scl = 0) : d.alpha = .pow2 0 := by
  rw [Desc.alpha, h]; rfl

/-- A row without scales is written as its values' encodings. -/
theorem put_row {d : Desc} (hscl : d.scl = 0) (how : RMode) {xs : List Num} (hxs : xs ≠ []) (w : Written) :
    (d.put false (fun _ => how) 0 0 0 xs w).s = d.putRaw 0 0 0 (xs.map (d.format.encode how)) w.s := by
  have hcodes : ((xs.zipIdx).map (fun p => encodeAs d.format how (p.1.scale (-0)) 1)).map (fun r => r.1) =
      xs.map (d.format.encode how) := by
    rw [List.map_map, ← List.zipIdx_map_fst 0 xs, List.map_map, List.zipIdx_map_fst]
    refine List.map_congr_left (fun p _ => ?_)
    exact congrArg (d.format.encode how · 1) (Num.scale_zero p.1)
  rw [Desc.put, if_neg hxs, if_neg (by rw [hscl]; decide), Desc.putRun, Desc.alpha_of_unscaled hscl, ← hcodes]
  exact foldl_mark_s _ _ _ _

/-- The first row of a result of one row, with nothing after it. -/
theorem putFirst_row {d : Desc} (hscl : d.scl = 0) (hext1 : d.ext1 = 1) (hext0 : 0 < d.ext0) (how : RMode) {vals : List Num}
    (hlen : vals.length = d.ext0) (s : State) :
    (putFirst d false (fun _ => how) vals d.ext0 s).s = d.putRaw 0 0 0 (vals.map (d.format.encode how)) s := by
  have hvals : vals ≠ [] := by rintro rfl; simp at hlen; omega
  obtain ⟨fuel, hfuel⟩ : ∃ fuel, vals.length = fuel + 1 := ⟨vals.length - 1, by omega⟩
  have hrows : rowsOf d.ext0 vals = [vals] := by
    rw [rowsOf, if_neg hext0.ne', hfuel]
    exact pieces_one d.ext0 fuel vals hvals hlen.le
  have htake : vals.take (d.ext0 - 0 * d.ext0) = vals := List.take_of_length_le (by rw [hlen]; omega)
  rw [putFirst, hrows, hext1]
  simp only [List.zipIdx_cons, List.zipIdx_nil, List.foldl_cons, List.foldl_nil, Nat.zero_mod, Nat.zero_div]
  exact (congrArg (fun xs => (d.put false (fun _ => how) 0 0 0 xs { s := s }).s) htake).trans (put_row hscl how hvals { s := s })

end Sys2Proof.Machine

/-!
SUPPORT. What an operation of one row computes (05 R143, R147; 06 R166, R167), and the completions.
-/
namespace Sys2Proof.Machine

/-! ### The VE -/

theorem firstBadElem_none {s : State} {opnd : List (Nat × Nat)} (h : badInRanges s opnd = none) (srcs : List Desc) :
    firstBadElem s opnd srcs = none := by
  rw [firstBadElem, h]; rfl

theorem runVe_elem {t n : Nat} {acc : Bool} {op : RunOp} {s : State} (hclass : veClass op.req = .elem n acc)
    (hcount : (descOf op.dC).count ≠ 0) (hbad : badInRanges s op.opnd = none) (hrnd : (veParam op.param).rnd = false) :
    (runVe t op s).s = (putFirst (descOf op.dC) op.tainted (fun _ => .rne) ((List.range (descOf op.dC).count).map (fun i =>
        elemOp op.req (veParam op.param) (((if n = 0 then [] else (descOf op.dA).elems s)[i]?).getD .zero)
          (((if n = 2 then (descOf op.dB).elems s else [])[i]?).getD .zero)
          (((if acc then (descOf op.dC).elems s else [])[i]?).getD .zero)))
      ((descOf op.dC).ext1 * (descOf op.dC).ext2 * (descOf op.dC).ext0) s).s := by
  rw [runVe]
  simp only [hclass, hrnd, firstBadElem_none hbad, if_neg hcount, reduceCtorEq, if_false, Bool.false_eq_true]

theorem runVe_vtr {t : Nat} {op : RunOp} {s : State} (hclass : veClass op.req = .vtr)
    (hcount : (descOf op.dC).count ≠ 0) (hbad : badInRanges s op.opnd = none) (hrnd : (veParam op.param).rnd = false) :
    (runVe t op s).s = (putFirst (descOf op.dC) op.tainted (fun _ => .rne)
      (((descOf op.dA).elems s).map (vtrFn op.req.sub.toNat))
      ((descOf op.dC).ext1 * (descOf op.dC).ext2 * (descOf op.dC).ext0) s).s := by
  rw [runVe]
  simp only [hclass, hrnd, firstBadElem_none hbad, if_neg hcount, reduceCtorEq, if_false, Bool.false_eq_true]

/-! ### The ME -/

theorem kRowsOf_batch (s : State) {d : Desc} (h : d.ext2 = 1) : kRowsOf s d = (List.range d.nExt).map (fun i => kRowValues s d i 0) := by
  rw [kRowsOf, h]; simp

/-- A row of a result holds its elements. -/
theorem elems_row (s : State) {d : Desc} (hext1 : d.ext1 = 1) (hext2 : d.ext2 = 1) : (d.elems s).length = d.ext0 := by
  simp [Desc.elems, Desc.elemsBy, Desc.rawRow, hext1, hext2]

theorem rowsOf_row {α : Type} {n : Nat} {l : List α} (hn : 0 < n) (hl : l.length = n) : rowsOf n l = [l] := by
  have hne : l ≠ [] := by rintro rfl; simp at hl; omega
  obtain ⟨fuel, hfuel⟩ : ∃ fuel, l.length = fuel + 1 := ⟨l.length - 1, by omega⟩
  rw [rowsOf, if_neg hn.ne', hfuel]
  exact pieces_one n fuel l hne hl.le

/-- The start value of element `j` of a result in one row: C's own where the form accumulates (05 R143). -/
def startValue (s : State) (op : RunOp) (j : Nat) : Num :=
  if op.req.sub.toNat % 2 = 1 then (((descOf op.dC).elems s)[j]?).getD .zero else .zero

/-- Element `j` of an MM whose result is one row: the dot product of the K-rows (05 R143, R144). -/
def mmValue (s : State) (op : RunOp) (j : Nat) : Num :=
  if (descOf op.dA).format.isInt then
    dotInt (numInt (startValue s op j)) (kRowValues s (descOf op.dA) 0 0) (kRowValues s (descOf op.dB) j 0)
  else
    dotFloat (alignBits (descOf op.dA).fmt (descOf op.dB).fmt)
      (if (descOf op.dA).scl = 2 ∨ (descOf op.dB).scl = 2 then some ((descOf op.dA).alpha.mul (descOf op.dB).alpha) else none)
      (startValue s op j) (kRowValues s (descOf op.dA) 0 0) (kRowValues s (descOf op.dB) j 0)

theorem batchOf_zero (d c : Desc) : batchOf d c 0 = 0 := by rw [batchOf]; split <;> rfl

theorem mmRows_row {s : State} {op : RunOp} (hext1 : (descOf op.dC).ext1 = 1) (hext2 : (descOf op.dC).ext2 = 1)
    (hext0 : 0 < (descOf op.dC).ext0) (haN : (descOf op.dA).nExt = 1) (ha2 : (descOf op.dA).ext2 = 1)
    (hbN : (descOf op.dB).nExt = (descOf op.dC).ext0) (hb2 : (descOf op.dB).ext2 = 1) :
    mmRows s op = [(List.range (descOf op.dC).ext0).map (mmValue s op)] := by
  have hstart (j : Nat) : ((((if op.req.sub.toNat % 2 = 1 then rowsOf (descOf op.dC).ext0 ((descOf op.dC).elems s) else [])[0]?).getD
      [])[j]?).getD .zero = startValue s op j := by
    rw [startValue]
    split
    · rw [rowsOf_row hext0 (elems_row s hext1 hext2)]; rfl
    · rfl
  rw [mmRows]
  simp only [kRowsOf_batch s ha2, kRowsOf_batch s hb2, hext1, hext2, haN, hbN]
  refine congrArg (fun row => [row]) (List.map_congr_left (fun j hj => ?_))
  have hcol : ((List.range (descOf op.dC).ext0).map (fun i => kRowValues s (descOf op.dB) i 0))[j]? =
      some (kRowValues s (descOf op.dB) j 0) := by
    rw [List.getElem?_map, List.getElem?_range (List.mem_range.1 hj)]; rfl
  have hrow : ((List.range 1).map (fun i => kRowValues s (descOf op.dA) i 0))[0]? = some (kRowValues s (descOf op.dA) 0 0) := rfl
  simp only [hstart, Nat.zero_div, Nat.zero_mod, batchOf_zero, Nat.mul_zero, Nat.add_zero, hrow, hcol, Option.getD_some]
  rfl

theorem blockGrid_row {c : Desc} (hext1 : c.ext1 = 1) (hext2 : c.ext2 = 1) (hext0 : 0 < c.ext0) (hblock : c.ext0 ≤ 16) :
    blockGrid c = (1, 1, 1) := by
  have h0 : cdiv c.ext0 16 = 1 := by rw [cdiv]; omega
  rw [blockGrid, h0, hext1, hext2]; rfl

/-- The single block of a result of one row is written as that row. -/
theorem mmWrite_row {c : Desc} (hext1 : c.ext1 = 1) (hext2 : c.ext2 = 1) (hext0 : 0 < c.ext0) (hblock : c.ext0 ≤ 16)
    (hscl : c.scl = 0) (how : RMode) {row : List Num} (hlen : row.length = c.ext0) (s : State) :
    (mmWrite c false how [row] 1 s).s = c.putRaw 0 0 0 (row.map (c.format.encode how)) s := by
  have hne : row ≠ [] := by rintro rfl; simp at hlen; omega
  have hgrid := blockGrid_row hext1 hext2 hext0 hblock
  have hfrom : writesFrom c 0 = some 0 := by rw [writesFrom, if_pos (by rw [hscl]; decide), hgrid]; rfl
  have hat : blockAt c 0 = { n := 0, row0 := 0, row1 := 1, col0 := 0, col1 := c.ext0 } := by
    rw [blockAt, hgrid, hext1]
    have hcol : min (16 * (0 % 1) + 16) c.ext0 = c.ext0 := by omega
    exact congrArg (fun k => ({ n := 0, row0 := 0, row1 := 1, col0 := 0, col1 := k } : BlockAt)) hcol
  refine Eq.trans ?_ (put_row hscl how hne { s := s })
  rw [mmWrite]
  simp only [List.range_one, List.foldl_cons, List.foldl_nil, hfrom, hat, Nat.sub_zero, Nat.add_zero, Nat.mul_zero,
    List.getElem?_cons_zero, Option.getD_some, List.drop_zero, List.take_of_length_le hlen.le]

/-- An MM of one block without metadata, which nothing stops, writes that block of its rows. -/
theorem runMm_block {t : Nat} {op : RunOp} {s : State} (hgrid : blockGrid (descOf op.dC) = (1, 1, 1))
    (hstop : op.stopAt = none) (hbad : badBlock s op = none) (ha : (descOf op.dA).mta = 0) (hb : (descOf op.dB).mta = 0)
    (hk : (descOf op.dA).kExt ≠ 0) (htainted : op.tainted = false) :
    (runMm t op s).s.mem =
      (mmWrite (descOf op.dC) false (if 2 ≤ op.req.sub.toNat then .odd else .rne) (mmRows s op) 1 s).s.mem := by
  have hblocks : mmBlocks op = 1 := by rw [mmBlocks, if_neg (fun h => hk h.1), hgrid]
  have hcorrect {d : Desc} (hd : d.mta = 0) : metaCorrect s d = true := by rw [metaCorrect, hd]; rfl
  rw [runMm]
  simp only [hblocks, one_ne_zero, if_false, hk, hstop, hbad, htainted, hcorrect ha, hcorrect hb, Option.isSome_none,
    Bool.false_eq_true, Bool.not_true, Bool.or_self, State.onTile_mem]

end Sys2Proof.Machine

/-!
SUPPORT. The completions of the five units (03 R74).
-/
namespace Sys2Proof.Machine

/-! ### Runs that meet no error -/

theorem runMm_fault {t : Nat} {op : RunOp} {s : State} (hstop : op.stopAt = none) (hbad : badBlock s op = none) :
    (runMm t op s).fault = none := by
  rw [runMm]
  split
  · rfl
  · split
    · rfl
    · simp only [hstop, hbad, Option.isSome_none, Bool.false_eq_true, if_false, Option.map_none]

theorem runVe_fault {t : Nat} {op : RunOp} {s : State} (hbad : badInRanges s op.opnd = none) : (runVe t op s).fault = none := by
  rw [runVe]
  split
  · rfl
  · split
    · rw [runSamp]; simp only [firstBadElem_none hbad, Option.map_none]
    · simp only [firstBadElem_none hbad, Option.map_none]

theorem runLig_fault {op : RunOp} {s : State} (hbad : badInRanges s (ligReads s op) = none) : (runLig op s).fault = none := by
  rw [runLig]
  split
  · rfl
  · simp only [hbad]
    split <;> rfl

theorem runGrn_fault (t : Nat) (op : RunOp) (s : State) : (runGrn t op s).fault = none := by
  rw [runGrn]
  split
  · rfl
  · split <;> rfl

/-! ### The completions -/

theorem mmCompletion_stopped {t : TileId} {op : RunOp} {s : State} (htrip : s.dev.boot.trip = false)
    (hop : ((s.tile t).unit 0).oldest = some op) (hstop : op.stopAt ≠ none) :
    exec (.mmCompletion t) s = .next (endStopped t op s) := by
  have hsome : op.stopAt.isSome = true := Option.isSome_iff_ne_none.2 hstop
  refine congrArg Host.Outcome.next ?_
  simp only [hop, hsome, if_true, selfTimed, htrip, Bool.false_eq_true, if_false]

/-- A value of a list that is read only where a source is. -/
theorem getD_ite_else_nil {p q : Prop} [Decidable p] [Decidable q] {l : List Num} {i : Nat} (h : p ↔ q) :
    ((if p then l else [])[i]?).getD .zero = if q then (l[i]?).getD .zero else .zero := by
  by_cases hp : p
  · rw [if_pos hp, if_pos (h.1 hp)]
  · rw [if_neg hp, if_neg (fun hq => hp (h.2 hq))]; rfl

theorem getD_ite_nil {p q : Prop} [Decidable p] [Decidable q] {l : List Num} {i : Nat} (h : ¬p ↔ q) :
    ((if p then [] else l)[i]?).getD .zero = if q then (l[i]?).getD .zero else .zero := by
  rw [← getD_ite_else_nil h, ite_not]

/-! ### Values in one row -/

theorem Desc.count_row {d : Desc} (hext1 : d.ext1 = 1) (hext2 : d.ext2 = 1) : d.count = d.ext0 := by
  rw [Desc.count, hext1, hext2, Nat.mul_one, Nat.mul_one]

theorem Desc.elements_row {d : Desc} (hext1 : d.ext1 = 1) (hext2 : d.ext2 = 1) : d.ext1 * d.ext2 * d.ext0 = d.ext0 := by
  rw [hext1, hext2, Nat.mul_one, Nat.one_mul]

section OneRow
variable {t : Nat} {op : RunOp} {s : State} (hext1 : (descOf op.dC).ext1 = 1) (hext2 : (descOf op.dC).ext2 = 1)
  (hext0 : 0 < (descOf op.dC).ext0) (hscl : (descOf op.dC).scl = 0) (htainted : op.tainted = false)
include hext1 hext2 hext0 hscl htainted

/-- What an MM of one row without metadata writes. -/
theorem runMm_row_mem (hstop : op.stopAt = none) (hbad : badBlock s op = none) (hblock : (descOf op.dC).ext0 ≤ 16)
    (ha : (descOf op.dA).mta = 0) (hb : (descOf op.dB).mta = 0) (hk : (descOf op.dA).kExt ≠ 0)
    (haN : (descOf op.dA).nExt = 1) (ha2 : (descOf op.dA).ext2 = 1) (hbN : (descOf op.dB).nExt = (descOf op.dC).ext0)
    (hb2 : (descOf op.dB).ext2 = 1) :
    (runMm t op s).s.mem = ((descOf op.dC).putRaw 0 0 0 ((List.range (descOf op.dC).ext0).map (fun j =>
      (descOf op.dC).format.encode (if 2 ≤ op.req.sub.toNat then .odd else .rne) (mmValue s op j))) s).mem := by
  have hrow := mmWrite_row hext1 hext2 hext0 hblock hscl (if 2 ≤ op.req.sub.toNat then .odd else .rne)
    (row := (List.range (descOf op.dC).ext0).map (mmValue s op)) (by simp) s
  rw [List.map_map] at hrow
  rw [runMm_block (blockGrid_row hext1 hext2 hext0 hblock) hstop hbad ha hb hk htainted,
    mmRows_row hext1 hext2 hext0 haN ha2 hbN hb2]
  exact congrArg State.mem hrow

/-- What a VE operation of R166, CVT and FILL write in one row. -/
theorem runVe_elem_mem {n : Nat} {acc : Bool} (hclass : veClass op.req = .elem n acc) (hn : n ≤ 2)
    (hbad : badInRanges s op.opnd = none) (hrnd : (veParam op.param).rnd = false) :
    let src : Nat → Desc → Nat → Num := fun k d i => if k ≤ n then ((d.elems s)[i]?).getD .zero else .zero
    (runVe t op s).s.mem = ((descOf op.dC).putRaw 0 0 0 ((List.range (descOf op.dC).ext0).map (fun i =>
      (descOf op.dC).format.encode .rne (elemOp op.req (veParam op.param) (src 1 (descOf op.dA) i) (src 2 (descOf op.dB) i)
        (if acc then (((descOf op.dC).elems s)[i]?).getD .zero else .zero)))) s).mem := by
  intro src
  have hcount := Desc.count_row hext1 hext2
  have hrun := runVe_elem (t := t) hclass (by omega) hbad hrnd
  rw [Desc.elements_row hext1 hext2, htainted, hcount, putFirst_row hscl hext1 hext0 .rne (by simp) s, List.map_map] at hrun
  refine (congrArg State.mem hrun).trans
    (congrArg (fun l => ((descOf op.dC).putRaw 0 0 0 l s).mem) (List.map_congr_left (fun i _ => ?_)))
  have hone : ((if n = 0 then [] else (descOf op.dA).elems s)[i]?).getD .zero = src 1 (descOf op.dA) i := getD_ite_nil (by omega)
  have htwo : ((if n = 2 then (descOf op.dB).elems s else [])[i]?).getD .zero = src 2 (descOf op.dB) i :=
    getD_ite_else_nil (by omega)
  have hthree : ((if acc then (descOf op.dC).elems s else [])[i]?).getD .zero =
      if acc then (((descOf op.dC).elems s)[i]?).getD .zero else .zero := getD_ite_else_nil Iff.rfl
  rw [← hone, ← htwo, ← hthree]
  rfl

/-- What VTR writes in one row. -/
theorem runVe_vtr_mem (hclass : veClass op.req = .vtr) (hlen : ((descOf op.dA).elems s).length = (descOf op.dC).ext0)
    (hbad : badInRanges s op.opnd = none) (hrnd : (veParam op.param).rnd = false) :
    (runVe t op s).s.mem = ((descOf op.dC).putRaw 0 0 0 ((List.range (descOf op.dC).ext0).map (fun i =>
      (descOf op.dC).format.encode .rne (vtrFn op.req.sub.toNat ((((descOf op.dA).elems s)[i]?).getD .zero)))) s).mem := by
  have hcount := Desc.count_row hext1 hext2
  have hrun := runVe_vtr (t := t) hclass (by omega) hbad hrnd
  rw [Desc.elements_row hext1 hext2, htainted, putFirst_row hscl hext1 hext0 .rne (by rw [List.length_map, hlen]) s, List.map_map] at hrun
  refine (congrArg State.mem hrun).trans (congrArg (fun l => ((descOf op.dC).putRaw 0 0 0 l s).mem) ?_)
  refine List.ext_getElem (by simp [hlen]) (fun i hi _ => ?_)
  rw [List.length_map] at hi
  simp [hi]

end OneRow

/-- Settles O26: each completion ends the unit's oldest operation, and the runs of one row write the values of their classes. -/
theorem completionsEndTheOperation : Obligations.CompletionsEndTheOperation := by
  unfold Obligations.CompletionsEndTheOperation
  intro s t op htrip ends runs a b c oneRow written
  have hend {u : Nat} {i : Instr} {e : OpEnd} (hexec : exec i s = .next (endOp t u op e)) (htail : ((s.tile t).unit u).tail = none)
      (hkeeps : KeepsUnits s e.s) (hfault : e.fault = none) : ends u i e.s := ⟨_, hexec, ends_of_run htail hkeeps hfault⟩
  have hvector (hop : ((s.tile t).unit 1).oldest = some op) (hkind : op.req.kind ≠ .opt) :
      exec (.veCompletion t) s = .next (endOp t 1 op (runVe t op s)) := by
    have hrun : runVector t op s = runVe t op s := by
      rw [runVector]
      split
      · contradiction
      · rfl
    exact hrun ▸ veCompletion_ends htrip hop
  have hopt (hop : ((s.tile t).unit 1).oldest = some op) (hkind : op.req.kind = .opt) :
      exec (.veCompletion t) s = .next (endOp t 1 op (runOpt t op s)) := by
    have hrun : runVector t op s = runOpt t op s := by rw [runVector, hkind]
    exact hrun ▸ veCompletion_ends htrip hop
  have hlig (hop : ((s.tile t).unit 2).oldest = some op) : exec (.ligCompletion t) s = .next (endOp t 2 op (runLig op s)) :=
    congrArg Host.Outcome.next (complete_oldest runLig htrip hop)
  have hgrn (hop : ((s.tile t).unit 3).oldest = some op) : exec (.grnCompletion t) s = .next (endOp t 3 op (runGrn t op s)) :=
    congrArg Host.Outcome.next (complete_oldest (runGrn t) htrip hop)
  refine ⟨fun hop => ⟨mmCompletion_stopped htrip hop, mmCompletion_ends htrip hop⟩, hopt, hvector, hlig, hgrn,
    fun ⟨hrun, htail⟩ hstop hbad howns => ?_, fun ⟨hrun, htail⟩ hkind hbad => ?_, fun ⟨hrun, htail⟩ hkind hfault => ?_,
    fun ⟨hrun, htail⟩ hbad => ?_, fun ⟨hrun, htail⟩ => ?_, fun hrun hhere => ?_, ?_, ?_, fun d raws => rawRow_putRaw d raws s⟩
  · exact hend (mmCompletion_ends htrip (UnitSt.oldest_of_alone hrun htail) hstop (.inr howns)) htail (.runMm t op s)
      (runMm_fault hstop hbad)
  · exact hend (hvector (UnitSt.oldest_of_alone hrun htail) hkind) htail (.runVe t op s) (runVe_fault hbad)
  · exact hend (hopt (UnitSt.oldest_of_alone hrun htail) hkind) htail (.runOpt t op s) hfault
  · exact hend (hlig (UnitSt.oldest_of_alone hrun htail)) htail (.runLig op s) (runLig_fault hbad)
  · exact hend (hgrn (UnitSt.oldest_of_alone hrun htail)) htail (.runGrn t op s) (runGrn_fault t op s)
  · intro ps turn r hturn hpieces hlines hlist
    have hmine : (if injects s t op then takeTurn t 4 1 s else (true, s)) = (true, turn.2) := Prod.ext hturn rfl
    have hexec := movtCompletion_ends htrip hrun hhere hmine hpieces hlines hlist
    refine ⟨hexec, fun htail hmoved => ⟨_, hexec, ?_⟩⟩
    rw [show (movePieces t op (movtPieces s op) (movtPieces s op) 0 turn.2).2.1 = none from hmoved]
    exact endMovt_ends htail ((KeepsUnits.turn hmine).trans (.movePieces _ _ _ _ _ _))
  · rintro ⟨hext1, hext2, hext0, hscl, htainted⟩ hstop hbad hblock ha hb hk haN ha2 hbN hb2
    exact runMm_row_mem hext1 hext2 hext0 hscl htainted hstop hbad hblock ha hb hk haN ha2 hbN hb2
  · rintro ⟨hext1, hext2, hext0, hscl, htainted⟩ hbad hrnd
    exact ⟨fun n acc hclass hn => runVe_elem_mem hext1 hext2 hext0 hscl htainted hclass hn hbad hrnd,
      fun hclass hlen => runVe_vtr_mem hext1 hext2 hext0 hscl htainted hclass hlen hbad hrnd⟩

end Sys2Proof.Machine

/-!
SUPPORT. Writes of a tile's register block (03 R101, R102, R104; 18 R496).
-/
namespace Sys2Proof.Machine

/-! ### A word of bits -/

/-- A write of ones over word `n` of some bits, bit by bit. -/
theorem foldl_word_bit {σ : Type} (bit : σ → Nat → Bool) (put : σ → Nat → σ) {b : Bool} {size : Nat}
    (hput : ∀ x i j, i < size → bit (put x i) j = if j = i then b else bit x j) (v : Word) {n : Nat} (hn : 64 * n + 64 ≤ size)
    (x : σ) (f : Nat) :
    bit ((List.range 64).foldl (fun x i => if v.getLsbD i then put x (64 * n + i) else x) x) f =
      if f / 64 = n ∧ v.getLsbD (f % 64) = true then b else bit x f := by
  have hsome (k : Nat) (hk : k ≤ 64) : bit ((List.range k).foldl (fun x i => if v.getLsbD i then put x (64 * n + i) else x) x) f =
      if f / 64 = n ∧ f % 64 < k ∧ v.getLsbD (f % 64) = true then b else bit x f := by
    induction k with
    | zero => simp
    | succ k ih =>
      rw [List.range_succ, List.foldl_append, List.foldl_cons, List.foldl_nil]
      by_cases hf : f = 64 * n + k
      · have hword : f / 64 = n := by omega
        have hbit : f % 64 = k := by omega
        by_cases hv : v.getLsbD k = true
        · rw [if_pos hv, hput _ _ _ (by omega), if_pos hf, hbit, if_pos ⟨hword, by omega, hv⟩]
        · rw [if_neg hv, ih (by omega), hbit, if_neg (by omega), if_neg (fun h => hv h.2.2)]
      · have hsame : (f / 64 = n ∧ f % 64 < k + 1 ∧ v.getLsbD (f % 64) = true) ↔
            (f / 64 = n ∧ f % 64 < k ∧ v.getLsbD (f % 64) = true) := by
          constructor <;> rintro ⟨hword, hlt, hv⟩ <;> exact ⟨hword, by omega, hv⟩
        simp only [hsame]
        split
        · rw [hput _ _ _ (by omega), if_neg hf, ih (by omega)]
        · exact ih (by omega)
  rw [hsome 64 le_rfl]
  simp only [show f % 64 < 64 by omega, true_and]

theorem Tile.putFlags_flag (x : Tile) {n : Nat} (hn : n < 4) (v : Word) (b : Bool) (f : Nat) :
    (x.putFlags n v b).flag f = if f / 64 = n ∧ v.getLsbD (f % 64) = true then b else x.flag f :=
  foldl_word_bit Tile.flag (fun x i => x.putFlag i b) (size := 256) (fun x i j hi => Tile.putFlag_flag x b j hi) v (by omega) x f

/-! ### The block -/

theorem writeBlock_refused {w : Writer} {t o code : Nat} {v : Word} {s : State} (htrip : s.dev.boot.trip = false)
    (h : blockWriteFault s w t o v = some code) :
    writeBlock w t o v s = refuseWrite w code (regBase + t * 0x1000 + o) s := by
  rw [writeBlock, htrip, h]; rfl

theorem writeBlock_permitted {w : Writer} {t o : Nat} {v : Word} {s : State} (htrip : s.dev.boot.trip = false)
    (h : blockWriteFault s w t o v = none) : writeBlock w t o v s = putBlock t o v s := by
  rw [writeBlock, htrip, h]; rfl

theorem writeBlock_tripped {w : Writer} {t o : Nat} {v : Word} {s : State} (htrip : s.dev.boot.trip = true) :
    writeBlock w t o v s = s := by
  rw [writeBlock, htrip]; rfl

theorem putBlock_clearFlags (t : Nat) {n : Nat} (hn : n < 4) (v : Word) (s : State) :
    putBlock t (0x100 + 8 * n) v s = s.onTile t (fun x => x.putFlags n v false) := by
  have hword : (0x100 + 8 * n - 0x100) / 8 = n := by omega
  rw [putBlock, if_neg (by omega), if_neg (by omega), if_pos (by omega), hword]

theorem putBlock_setFlags (t : Nat) {n : Nat} (hn : n < 4) (v : Word) (s : State) :
    putBlock t (0x120 + 8 * n) v s = s.onTile t (fun x => x.putFlags n v true) := by
  have hword : (0x120 + 8 * n - 0x120) / 8 = n := by omega
  rw [putBlock, if_neg (by omega), if_neg (by omega), if_neg (by omega), if_pos (by omega), hword]

/-- The remote line buffer after a write of RLB_INV. -/
theorem putBlock_rlbInv (t : Nat) (v : Word) (s : State) :
    ((putBlock t 0x058 v s).tile t).rlb = (if v.getLsbD 0 then [] else (s.tile t).rlb) ∧
      ∀ u, u ≠ t → (putBlock t 0x058 v s).tile u = s.tile u := by
  rw [show putBlock t 0x058 v s = if v.getLsbD 0 then invalidateRlb t s else s from rfl]
  split
  · have htile (u : Nat) : (invalidateRlb t s).tile u =
        (s.onTile t (fun x => { x with rlb := x.rlb.filter (fun _ => !true) })).tile u := rfl
    refine ⟨?_, fun u hu => ?_⟩
    · rw [htile, State.onTile_tile]; simp
    · rw [htile, State.onTile_tile_ne _ _ _ hu]
  · exact ⟨rfl, fun _ _ => rfl⟩

/-! ### Event selectors -/

/-- The code that a selector takes from a written word (18 R496). -/
def eventCode (v : Word) (n : Nat) : Nat := if eventDefined (fld v.toNat (8 * n) 8) then fld v.toNat (8 * n) 8 else 0

theorem eventCode_lt (v : Word) (n : Nat) : eventCode v n < 256 := by
  rw [eventCode]
  split
  · exact fld_lt _ _ 8
  · decide

/-- A sum of places is the number of its digits. -/
theorem foldl_digits (w : Nat) (c : Nat → Nat) (k : Nat) :
    (List.range k).foldl (fun a n => a + c n * 2 ^ (w * n)) 0 = Nat.ofDigits (2 ^ w) ((List.range k).map c) := by
  induction k with
  | zero => rfl
  | succ k ih =>
    rw [List.range_succ, List.foldl_append, List.foldl_cons, List.foldl_nil, ih, List.map_append, Nat.ofDigits_append,
      List.length_map, List.length_range, List.map_singleton, Nat.ofDigits_singleton, ← Nat.pow_mul, Nat.mul_comm (c k)]

/-- Selector `n` of a written EVSEL. -/
theorem selectEvents_evsel (x : Tile) (v : Word) {n : Nat} (hn : n < 8) :
    fld (x.selectEvents v).cnt.evsel.toNat (8 * n) 8 = eventCode v n := by
  have hcodes : ((List.range 8).map (eventCode v)).map (· % 2 ^ 8) = (List.range 8).map (eventCode v) := by
    rw [List.map_map]
    exact List.map_congr_left (fun k _ => Nat.mod_eq_of_lt (eventCode_lt v k))
  have hsel : (x.selectEvents v).cnt.evsel = BitVec.ofNat 64 (Nat.ofDigits (2 ^ 8) ((List.range 8).map (eventCode v))) := by
    rw [Tile.selectEvents]
    exact congrArg (BitVec.ofNat 64) (foldl_digits 8 (eventCode v) 8)
  rw [hsel, BitVec.toNat_ofNat, fld_mod (by omega), fld_ofDigits (fun k hk => ?_) (by simpa using hn)]
  · simp
  · obtain ⟨j, -, rfl⟩ := List.mem_map.1 hk
    exact eventCode_lt v j

/-- Counter `n` after a write of EVSEL: zero where its selector changed. -/
theorem selectEvents_evcnt (x : Tile) (v : Word) {n : Nat} (hn : n < 8) :
    Map.get 0 (x.selectEvents v).cnt.evcnt n =
      if fld x.cnt.evsel.toNat (8 * n) 8 = eventCode v n then Map.get 0 x.cnt.evcnt n else 0 := by
  have hsome (m : SMap (BitVec 32)) (k : Nat) : Map.get 0 ((List.range k).foldl (fun m n =>
      if fld x.cnt.evsel.toNat (8 * n) 8 = eventCode v n then m else Map.set 0 m n 0) m) n =
      if n < k ∧ fld x.cnt.evsel.toNat (8 * n) 8 ≠ eventCode v n then 0 else Map.get 0 m n := by
    induction k with
    | zero => simp
    | succ k ih =>
      rw [List.range_succ, List.foldl_append, List.foldl_cons, List.foldl_nil]
      by_cases hnk : n = k
      · subst hnk
        by_cases hkept : fld x.cnt.evsel.toNat (8 * n) 8 = eventCode v n
        · rw [if_pos hkept, ih]; simp [hkept]
        · rw [if_neg hkept, Map.get_set_self]; simp [hkept]
      · have hlt : n < k + 1 ↔ n < k := by omega
        simp only [hlt]
        split
        · exact ih
        · rw [Map.get_set_ne _ _ _ hnk, ih]
  refine (hsome x.cnt.evcnt 8).trans ?_
  by_cases hkept : fld x.cnt.evsel.toNat (8 * n) 8 = eventCode v n
  · rw [if_neg (fun h => h.2 hkept), if_pos hkept]
  · rw [if_pos ⟨hn, hkept⟩, if_neg hkept]

end Sys2Proof.Machine

/-!
SUPPORT. Writes of the Sync Hub's and the Reuse Cache's registers (09 R254, R256; 08 R207, R217).
-/
namespace Sys2Proof.Machine

/-! ### Device registers -/

/-- Whether no rule bars an agent from the device register at `o` for what it is: a function that is served and of a
partition, a debugger with every partition of the register unlocked (19 R517, 18 R489). -/
def MayWrite (s : State) (w : Writer) (o : Nat) : Prop :=
  match w with
  | .host f => hostServed s f = true ∧ fnPart s f ≠ 7
  | .debugger => unlockedAll s (devScope s o) = true
  | _ => True

theorem writeDev_ok {w : Writer} {o : Nat} {v : Word} {s s' : State} (htrip : s.dev.boot.trip = false) (hmay : MayWrite s w o)
    (h : devWrite w o v s = .ok s') : writeDev w o v s = s' := by
  cases w with
  | host f => simp [writeDev, htrip, hmay.1, hmay.2, h]
  | debugger => simp [writeDev, htrip, show unlockedAll s (devScope s o) = true from hmay, h]
  | tile | nib | steward => simp [writeDev, htrip, h]

theorem writeDev_error {w : Writer} {o code : Nat} {v : Word} {s : State} (htrip : s.dev.boot.trip = false)
    (hmay : MayWrite s w o) (h : devWrite w o v s = .error code) : writeDev w o v s = refuseWrite w code (devBase + o) s := by
  cases w with
  | host f => simp [writeDev, htrip, hmay.1, hmay.2, h]
  | debugger => simp [writeDev, htrip, show unlockedAll s (devScope s o) = true from hmay, h]
  | tile | nib | steward => simp [writeDev, htrip, h]

theorem writeDev_tripped {w : Writer} {o : Nat} {v : Word} {s : State} (htrip : s.dev.boot.trip = true) : writeDev w o v s = s := by
  cases w with
  | tile | nib | host | steward | debugger => exact if_pos htrip

/-- A debugger's write outside what is unlocked has no effect (18 R489). -/
theorem writeDev_locked {o : Nat} {v : Word} {s : State} (htrip : s.dev.boot.trip = false)
    (h : unlockedAll s (devScope s o) = false) : writeDev .debugger o v s = s := by
  simp [writeDev, htrip, h, refuseWrite]

/-! ### The Sync Hub -/

theorem devWrite_hub {o : Nat} (ho : o < 0x1000000) (w : Writer) (v : Word) (s : State) :
    devWrite w o v s = writeHubBlock w o v s := by
  rw [devWrite, Nat.div_eq_of_lt ho, Nat.mod_eq_of_lt ho]
  rfl

/-- What a write of GF_SETn or GF_CLRn does. -/
theorem devWrite_flags (w : Writer) (n : Fin 16) (b : Bool) (v : Word) (s : State) :
    devWrite w ((if b then 0x80 else 0x100) + 8 * n.val) v s =
      if byTile w = true ∨ ownMask s w s.hub.ownGf (64 * n.val) 64 = 0 ∨ v.toNat &&& ownMask s w s.hub.ownGf (64 * n.val) 64 ≠ v.toNat
      then .error 0x0A else .ok (putGfs n.val v b s) := by
  have hn := n.isLt
  cases b
  · have hword : (0x100 + 8 * n.val - 0x100) / 8 = n.val := by omega
    rw [if_neg (by simp), devWrite_hub (by omega), writeHubBlock]
    rw [if_neg (by omega), if_neg (by omega), if_pos (by omega), hword]
  · have hword : (0x80 + 8 * n.val - 0x80) / 8 = n.val := by omega
    rw [if_pos rfl, devWrite_hub (by omega), writeHubBlock]
    rw [if_neg (by omega), if_pos (by omega), hword]

/-- What a write of SEM_WRITE(n) does. -/
theorem devWrite_sem (w : Writer) (n : Fin 256) (v : Word) (s : State) :
    devWrite w (0x1800 + 8 * n.val) v s =
      if (!byTile w && ownMask s w s.hub.ownSem n.val 1 != 0) = true then .ok (semWrite n.val v s) else .error 0x0A := by
  have hn := n.isLt
  have hword : (0x1800 + 8 * n.val - 0x1800) / 8 = n.val := by omega
  rw [devWrite_hub (by omega), writeHubBlock]
  rw [if_neg (by omega), if_neg (by omega), if_neg (by omega), if_pos (by omega), hword]

/-- Everything but the hub's flags and their waiters, and the answers in flight, is as it was. -/
def KeepsButFlags (s s' : State) : Prop := s'.mem = s.mem ∧ s'.tiles = s.tiles ∧ s'.hub.sems = s.hub.sems

theorem KeepsButFlags.refl (s : State) : KeepsButFlags s s := ⟨rfl, rfl, rfl⟩

theorem KeepsButFlags.trans {x y z : State} (h : KeepsButFlags x y) (h' : KeepsButFlags y z) : KeepsButFlags x z :=
  ⟨h'.1.trans h.1, h'.2.1.trans h.2.1, h'.2.2.trans h.2.2⟩

theorem answerHubs_keeps (l : List HubOp) (s : State) :
    KeepsButFlags s (l.foldl (fun s o => answerHub o none s) s) ∧ (l.foldl (fun s o => answerHub o none s) s).hub.gf = s.hub.gf := by
  induction l generalizing s with
  | nil => exact ⟨.refl s, rfl⟩
  | cons o l ih => exact ⟨.trans ⟨rfl, rfl, rfl⟩ (ih (answerHub o none s)).1, (ih (answerHub o none s)).2⟩

theorem putGf_keeps (f : Nat) (b : Bool) (s : State) : KeepsButFlags s (putGf f b s) :=
  .trans ⟨rfl, rfl, rfl⟩ (answerHubs_keeps _ _).1

theorem putGf_gf (f : Nat) (b : Bool) (s : State) : (putGf f b s).hub.gf = setBit s.hub.gf f b := (answerHubs_keeps _ _).2

theorem putGfs_keeps (n : Nat) (v : Word) (b : Bool) (s : State) : KeepsButFlags s (putGfs n v b s) := by
  rw [putGfs]
  generalize List.range 64 = l
  induction l generalizing s with
  | nil => exact .refl s
  | cons j l ih =>
    refine .trans (y := if v.getLsbD j then putGf (64 * n + j) b s else s) ?_ (ih _)
    split
    · exact putGf_keeps _ b s
    · exact .refl s

theorem putGfs_gf {n : Nat} (hn : n < 16) (v : Word) (b : Bool) (s : State) (f : Nat) :
    (putGfs n v b s).hub.gf.getLsbD f = if f / 64 = n ∧ v.getLsbD (f % 64) = true then b else s.hub.gf.getLsbD f :=
  foldl_word_bit (fun s f => s.hub.gf.getLsbD f) (fun s i => putGf i b s) (size := 1024)
    (fun s i j hi => by rw [putGf_gf, getLsbD_setBit _ _ _ _ hi]) v (by omega) s f

theorem putGfs_set {n : Nat} (hn : n < 16) (v : Word) (s : State) (f : Nat) :
    (putGfs n v true s).hub.gf.getLsbD f = (s.hub.gf.getLsbD f || (decide (f / 64 = n) && v.getLsbD (f % 64))) := by
  rw [putGfs_gf hn]
  by_cases hf : f / 64 = n
  · cases v.getLsbD (f % 64) <;> simp [hf]
  · simp [hf]

theorem putGfs_clear {n : Nat} (hn : n < 16) (v : Word) (s : State) (f : Nat) :
    (putGfs n v false s).hub.gf.getLsbD f = (s.hub.gf.getLsbD f && !(decide (f / 64 = n) && v.getLsbD (f % 64))) := by
  rw [putGfs_gf hn]
  by_cases hf : f / 64 = n
  · cases v.getLsbD (f % 64) <;> simp [hf]
  · simp [hf]

/-- A semaphore without waiters is served nothing. -/
theorem serveSem_idle {n : Nat} {s : State} (h : (s.hub.sem n).queue = []) (k : Nat) :
    (serveSem n s).hub.sem k = s.hub.sem k := by
  have hsem : (serveSem n s).hub.sem k = (s.onSem n (fun m =>
      { m with count := BitVec.ofNat 16 (serveQueue (s.hub.sem n).count.toNat (s.hub.sem n).queue).1,
               queue := (serveQueue (s.hub.sem n).count.toNat (s.hub.sem n).queue).2.1 })).hub.sem k := rfl
  rw [hsem, h, serveQueue, BitVec.ofNat_toNat, BitVec.setWidth_eq]
  by_cases hk : k = n
  · rw [hk, State.onSem_sem, ← h]
  · rw [State.onSem_sem_ne _ _ _ hk]

/-- What SEM_WRITE leaves where no context waits for the semaphore. -/
theorem semWrite_idle {n : Nat} (v : Word) {s : State} (h : (s.hub.sem n).queue = []) (k : Nat) :
    (semWrite n v s).hub.sem k =
      if k = n then { s.hub.sem n with count := v.setWidth 16, sat := (s.hub.sem n).sat && !v.getLsbD 16 } else s.hub.sem k := by
  rw [semWrite, serveSem_idle (by rw [State.onSem_sem]; exact h)]
  split
  · next hk => rw [hk, State.onSem_sem]
  · next hk => rw [State.onSem_sem_ne _ _ _ hk]

/-! ### The Reuse Cache -/

theorem devWrite_rc {w : Writer} {r : RegionId} {s : State} (v : Word) (hfence : sliceFenced s w r = false)
    (hown : ownsSlice s w r = true) : devWrite w (0x1000030 + 0x1000 * r.val) v s =
      .ok (match rcOpOf v with | some op => startRc r op s | none => s) := by
  have hr := r.isLt
  have hblock : (0x1000030 + 0x1000 * r.val) / 0x1000000 = 1 := by omega
  have hoff : (0x1000030 + 0x1000 * r.val) % 0x1000000 = 0x30 + 0x1000 * r.val := by omega
  have hregion : (0x30 + 0x1000 * r.val) / 0x1000 = r.val := by omega
  have hreg : (0x30 + 0x1000 * r.val) % 0x1000 = 0x30 := by omega
  rw [devWrite, hblock, hoff]
  show writeRcBlock w (0x30 + 0x1000 * r.val) v s = _
  rw [writeRcBlock, hregion, hreg, if_neg (by omega), if_neg (by omega), hfence, hown]
  rfl

end Sys2Proof.Machine

/-!
SUPPORT. The end of an RC_CTL operation (08 R217), the host's registers (19 R511, R512, R516) and the register commands.
-/
namespace Sys2Proof.Machine

/-! ### RC_CTL -/

/-- Whether a running operation of a slice has a line's set still before it (08 R217). -/
def leftToScan (c : RcSlice) (x : CLine) : Bool := decide (c.scan ≤ x.set) && decide (x.set < 512)

theorem scanEnd_busy {r : Nat} {op : RcOp} {s : State} (h : (s.region r).rc.busy = some op) :
    scanEnd r s = (scanSets op r (s.region r).rc.scan 512 s).onRc r (fun c => { c with busy := none, scan := 0 }) := by
  rw [scanEnd, h]

/-- An operation that drops lines leaves none in the sets it does. -/
theorem scanSets_drops {op : RcOp} (hop : op ≠ .flush) (r lo hi : Nat) (s : State) {x : CLine}
    (hx : x ∈ ((scanSets op r lo hi s).region r).rc.lines) : ¬(lo ≤ x.set ∧ x.set < hi) := by
  rw [scanSets, State.onRc_region_rc] at hx
  cases op
  · exact absurd rfl hop
  all_goals
    obtain ⟨-, hkept⟩ := List.mem_filter.1 hx
    have hout : x.set < lo ∨ hi ≤ x.set := by simpa using hkept
    omega

/-- A flush leaves no line dirty in the sets it does, but for poisoned ones. -/
theorem scanSets_flush (r lo hi : Nat) (s : State) {x : CLine} (hx : x ∈ ((scanSets .flush r lo hi s).region r).rc.lines)
    (hin : lo ≤ x.set ∧ x.set < hi) (hdirty : x.dirty = true) : x.poisoned = true := by
  rw [scanSets, State.onRc_region_rc] at hx
  obtain ⟨y, -, hy⟩ := List.mem_map.1 hx
  split at hy
  · rw [← hy] at hdirty
    cases hdirty
  · next hkept =>
    rw [hy] at hkept
    simpa [hin.1, hin.2] using hkept

theorem scanSets_zero_mem (r lo hi : Nat) (s : State) : (scanSets .zero r lo hi s).mem = s.mem := rfl

/-! ### The host's registers -/

theorem signalMsi_fn (f i g : Nat) (s : State) :
    ((signalMsi f i s).fn g).mask = (s.fn g).mask ∧ ((signalMsi f i s).fn g).cause = (s.fn g).cause := by
  rw [signalMsi]
  split
  · exact ⟨rfl, rfl⟩
  · split
    · by_cases hg : g = f
      · subst hg; rw [State.onFn_fn]; exact ⟨rfl, rfl⟩
      · rw [State.onFn_fn_ne _ _ _ hg]; exact ⟨rfl, rfl⟩
    · exact ⟨rfl, rfl⟩

/-- A written mask stands, and no cause is lost (19 R512). -/
theorem writeMask_fn (f : Nat) (v : Word) (s : State) :
    ((writeMask f v s).fn f).mask = v.setWidth 8 ∧ ((writeMask f v s).fn f).cause = (s.fn f).cause ∧ (writeMask f v s).mem = s.mem := by
  have hsignal (l : List Nat) (p : Nat → Bool) (x : State) :
      ((l.foldl (fun s i => if p i then signalMsi f i s else s) x).fn f).mask = (x.fn f).mask ∧
      ((l.foldl (fun s i => if p i then signalMsi f i s else s) x).fn f).cause = (x.fn f).cause ∧
      (l.foldl (fun s i => if p i then signalMsi f i s else s) x).mem = x.mem := by
    induction l generalizing x with
    | nil => exact ⟨rfl, rfl, rfl⟩
    | cons i l ih =>
      obtain ⟨hmask, hcause, hmem⟩ := ih (if p i then signalMsi f i x else x)
      obtain ⟨hmask', hcause'⟩ := signalMsi_fn f i f x
      rw [List.foldl_cons, hmask, hcause, hmem]
      split
      · exact ⟨hmask', hcause', signalMsi_mem f i x⟩
      · exact ⟨rfl, rfl, rfl⟩
  obtain ⟨hmask, hcause, hmem⟩ := hsignal (List.range 8)
    (fun i => v.getLsbD i && !(s.fn f).mask.getLsbD i && (s.fn f).cause.getLsbD i) (s.onFn f (fun x => { x with mask := v.setWidth 8 }))
  rw [State.onFn_fn] at hmask hcause
  exact ⟨hmask, hcause, hmem⟩

/-- A well-formed entry is installed in its slot (19 R516). -/
theorem installEntry_part {f : FnId} {k n : Nat} {low : Word} {s : State} (htable : tableOf s f.val = some n)
    (hlow : fld low.toNat 3 9 = 0) (hsize : (Map.get 0#64 (s.part n).transHi k).toNat ≤ 16777216) :
    let v := BitVec.ofNat 128 (low.toNat + (Map.get 0#64 (s.part n).transHi k).toNat * 2 ^ 64)
    installEntry f k low s = s.onPart n (fun p => { p with trans := Map.set 0 p.trans k v }) := by
  rw [installEntry, htable]
  exact if_neg (by omega)

/-- What a served function reads of a tile's register block (19 R511, R517). -/
theorem readBar0_block {s : State} {f : FnId} (t : TileId) {o : Nat} (hserved : hostServed s f.val = true) (ho : o % 8 = 0)
    (hlow : o < 0x1000) : readBar0 s f (0x1000000 + t * 0x1000 + o) =
      if actsFor s (.host f) (partOf s t) = true ∧ (s.tile t).fenced = false ∧ (s.tile t).clearing = false
      then some (blockWord s t o).toNat else none := by
  have ht := t.isLt
  have htile : (0x1000000 + t.val * 0x1000 + o - 0x1000000) / 0x1000 = t.val := by omega
  have hoff : (0x1000000 + t.val * 0x1000 + o) % 0x1000 = o := by omega
  rw [readBar0]
  rw [if_neg (by omega), if_neg (by omega), if_neg (by omega), hserved, if_neg (by simp), if_neg (by omega), if_neg (by omega),
    if_neg (by omega), if_pos (by omega), htile, hoff]
  dsimp only
  split
  · next hbarred => rw [if_neg (by rintro ⟨hacts, hfenced, hclearing⟩; simp [hacts, hfenced, hclearing] at hbarred)]
  · next hopen => rw [if_pos (by simpa [and_assoc] using hopen)]

/-- A served function's write of its mailbox's request (19 R512). -/
theorem writeBar0_request {f : FnId} {a : Nat} {v : Word} {s : State} (hserved : pageServed s f.val = true) (ha : a % 8 = 0)
    (hlow : 0x1000 ≤ a) (hhigh : a < 0x1800) : writeBar0 f a v s =
      s.onFn f (fun x => { x with mbReq := Map.fill 0#8 x.mbReq (a - 0x1000) (toBytes v.toNat 8) }) := by
  rw [writeBar0]
  rw [if_neg (by omega), if_pos (by omega), hserved, if_neg (by simp), if_neg (by omega), if_neg (by omega), if_neg (by omega),
    if_neg (by omega), if_pos ⟨hlow, hhigh⟩]

end Sys2Proof.Machine

/-!
SUPPORT. The register commands, from what each write does (03 R102; 08 R207; 09 R256; 19 R517).
-/
namespace Sys2Proof.Machine

/-! ### A tile's registers -/

section Block
variable {s : State} (htrip : s.dev.boot.trip = false) (w : Writer) (t : TileId) (v : Word)
include htrip

theorem rlbInv_effect (h : blockWriteFault s w t 0x058 v = none) : ∃ s', exec (.rlbInv w t v) s = .next s' ∧ s'.mem = s.mem ∧
    s'.hub = s.hub ∧ (s'.tile t).rlb = (if v.getLsbD 0 then [] else (s.tile t).rlb) ∧ ∀ u, u ≠ t.val → s'.tile u = s.tile u := by
  obtain ⟨hrlb, hothers⟩ := putBlock_rlbInv t v s
  exact ⟨_, congrArg Host.Outcome.next (writeBlock_permitted htrip h), putBlock_mem _ _ _ s, putBlock_hub _ _ _ s, hrlb, hothers⟩

theorem tfValueClear_effect (n : Fin 4) (h : blockWriteFault s w t (0x100 + 8 * n.val) v = none) :
    ∃ s', exec (.tfValueClear w t n v) s = .next s' ∧ s'.mem = s.mem ∧ s'.hub = s.hub ∧ (∀ u, u ≠ t.val → s'.tile u = s.tile u) ∧
      ∀ f < 256, (s'.tile t).flag f = (if f / 64 = n.val ∧ v.getLsbD (f % 64) = true then false else (s.tile t).flag f) := by
  refine ⟨_, congrArg Host.Outcome.next ((writeBlock_permitted htrip h).trans (putBlock_clearFlags t n.isLt v s)), rfl, rfl,
    fun u hu => State.onTile_tile_ne s t _ hu, fun f _ => ?_⟩
  rw [State.onTile_tile]
  exact Tile.putFlags_flag _ n.isLt v false f

theorem tfSetWrite_effect (n : Fin 4) (h : blockWriteFault s w t (0x120 + 8 * n.val) v = none) :
    ∃ s', exec (.tfSetWrite w t n v) s = .next s' ∧ s'.mem = s.mem ∧ s'.hub = s.hub ∧ (∀ u, u ≠ t.val → s'.tile u = s.tile u) ∧
      ∀ f < 256, (s'.tile t).flag f = (if f / 64 = n.val ∧ v.getLsbD (f % 64) = true then true else (s.tile t).flag f) := by
  refine ⟨_, congrArg Host.Outcome.next ((writeBlock_permitted htrip h).trans (putBlock_setFlags t n.isLt v s)), rfl, rfl,
    fun u hu => State.onTile_tile_ne s t _ hu, fun f _ => ?_⟩
  rw [State.onTile_tile]
  exact Tile.putFlags_flag _ n.isLt v true f

theorem evselWrite_effect (h : blockWriteFault s w t 0x240 v = none) : ∃ s', exec (.evselWrite w t v) s = .next s' ∧
    s'.mem = s.mem ∧ (s'.tile t).flags = (s.tile t).flags ∧ ∀ n < 8,
      fld (s'.tile t).cnt.evsel.toNat (8 * n) 8 = eventCode v n ∧ Map.get 0 (s'.tile t).cnt.evcnt n =
        (if fld (s.tile t).cnt.evsel.toNat (8 * n) 8 = eventCode v n then Map.get 0 (s.tile t).cnt.evcnt n else 0) := by
  refine ⟨s.onTile t (fun x => x.selectEvents v), congrArg Host.Outcome.next (writeBlock_permitted htrip h), rfl, ?_,
    fun n hn => ?_⟩
  · rw [State.onTile_tile]; rfl
  · rw [State.onTile_tile]
    exact ⟨selectEvents_evsel _ v hn, selectEvents_evcnt _ v hn⟩

end Block

/-! ### The hub's registers -/

/-- A write of GF_SETn or GF_CLRn by an agent that sees every flag named. -/
theorem gfWrite_effect {s : State} {w : Writer} {n : Fin 16} {b : Bool} {v : Word} {o : Nat} (htrip : s.dev.boot.trip = false)
    (ho : o = (if b then 0x80 else 0x100) + 8 * n.val) (hmay : MayWrite s w o) (htile : byTile w = false)
    (hmask : ownMask s w s.hub.ownGf (64 * n.val) 64 ≠ 0)
    (hsees : v.toNat &&& ownMask s w s.hub.ownGf (64 * n.val) 64 = v.toNat) :
    writeDev w o v s = putGfs n.val v b s := by
  refine writeDev_ok htrip hmay ?_
  rw [ho, devWrite_flags, if_neg (by simp [htile, hmask, hsees])]

/-- A write of GF_SETn or GF_CLRn that a rule bars. -/
theorem gfWrite_refused {s : State} {w : Writer} {n : Fin 16} {b : Bool} {v : Word} {o : Nat} (htrip : s.dev.boot.trip = false)
    (ho : o = (if b then 0x80 else 0x100) + 8 * n.val) (hmay : MayWrite s w o)
    (hbarred : byTile w = true ∨ ownMask s w s.hub.ownGf (64 * n.val) 64 = 0 ∨
      v.toNat &&& ownMask s w s.hub.ownGf (64 * n.val) 64 ≠ v.toNat) :
    writeDev w o v s = refuseWrite w 0x0A (devBase + o) s := by
  refine writeDev_error htrip hmay ?_
  rw [ho, devWrite_flags, if_pos hbarred]

/-! ### The commands -/

/-- The end of an RC_CTL operation. -/
theorem rcCtlBusyEnd_effect {s : State} {r : RegionId} {op : RcOp} (h : (s.region r).rc.busy = some op) :
    let left := fun (x : CLine) => (s.region r).rc.scan ≤ x.set ∧ x.set < 512
    ((scanEnd r s).region r).rc.busy = none ∧ ((scanEnd r s).region r).rc.scan = 0 ∧
      (op ≠ .flush → ∀ x ∈ ((scanEnd r s).region r).rc.lines, ¬left x) ∧ (op = .zero → (scanEnd r s).mem = s.mem) ∧
      (op = .flush → ∀ x ∈ ((scanEnd r s).region r).rc.lines, left x → x.dirty = true → x.poisoned = true) := by
  intro left
  rw [scanEnd_busy h, State.onRc_region_rc]
  refine ⟨rfl, rfl, fun hop x hx => scanSets_drops hop r _ 512 s hx, fun hop => ?_, fun hop x hx => ?_⟩
  · subst hop; exact scanSets_zero_mem r _ 512 s
  · subst hop; exact scanSets_flush r _ 512 s hx

/-- Settles O50, a command at a time. -/
theorem registerCommandsTakeEffect : Obligations.RegisterCommandsTakeEffect := by
  unfold Obligations.RegisterCommandsTakeEffect
  intro s htrip may
  refine ⟨fun w t v => ⟨fun o code h => ?_, rlbInv_effect htrip w t v, tfValueClear_effect htrip w t v,
      tfSetWrite_effect htrip w t v, fun h => congrArg Host.Outcome.next (writeBlock_permitted htrip h),
      evselWrite_effect htrip w t v⟩,
    fun w n v hset hclr => ?_, fun w n v hmay => ⟨fun htile hmask hidle => ?_, fun hbarred => ?_⟩,
    fun w r hmay hfence hown => ?_, fun n k r o v hlocked => ?_, fun r op hbusy => ?_, fun f v hserved => ⟨?_, ?_⟩,
    fun f k low n htable hlow hsize => ?_, fun f t o hserved ho hlow => readBar0_block t hserved ho hlow, fun w a v => ?_,
    fun x w t i n k r v hx => ?_⟩
  · refine ⟨fun ho => ?_, fun n ho => ?_, fun n ho => ?_, fun ho => ?_, fun ho => ?_⟩ <;> subst ho <;>
      exact congrArg Host.Outcome.next (writeBlock_refused htrip h)
  · intro m
    refine ⟨fun htile hmask hsees => ⟨?_, ?_⟩, fun hbarred => ⟨?_, ?_⟩⟩
    · obtain ⟨hmem, htiles, hsems⟩ := putGfs_keeps n.val v true s
      refine ⟨_, congrArg Host.Outcome.next (gfWrite_effect (b := true) htrip rfl hset htile hmask hsees), hmem, htiles, hsems,
        fun f _ => putGfs_set n.isLt v s f⟩
    · obtain ⟨hmem, htiles, hsems⟩ := putGfs_keeps n.val v false s
      refine ⟨_, congrArg Host.Outcome.next (gfWrite_effect (b := false) htrip rfl hclr htile hmask hsees), hmem, htiles, hsems,
        fun f _ => putGfs_clear n.isLt v s f⟩
    · exact congrArg Host.Outcome.next (gfWrite_refused (b := true) htrip rfl hset hbarred)
    · exact congrArg Host.Outcome.next (gfWrite_refused (b := false) htrip rfl hclr hbarred)
  · have hsem := semWrite_idle v hidle
    have hwrite : devWrite w (0x1800 + 8 * n.val) v s = .ok (semWrite n.val v s) := by
      rw [devWrite_sem, if_pos (by simp [htile, hmask])]
    refine ⟨_, congrArg Host.Outcome.next (writeDev_ok htrip hmay hwrite), ?_, ?_, fun k hk => ?_, rfl, rfl, rfl⟩
    · rw [hsem, if_pos rfl]
    · rw [hsem, if_pos rfl]
    · rw [hsem, if_neg hk]
  · have hwrite : devWrite w (0x1800 + 8 * n.val) v s = .error 0x0A := by
      rw [devWrite_sem, if_neg (by rcases hbarred with h | h <;> simp [h])]
    exact congrArg Host.Outcome.next (writeDev_error htrip hmay hwrite)
  · intro begun
    exact ⟨congrArg Host.Outcome.next (writeDev_ok htrip hmay (devWrite_rc 1 hfence hown)),
      congrArg Host.Outcome.next (writeDev_ok htrip hmay (devWrite_rc 2 hfence hown)),
      congrArg Host.Outcome.next (writeDev_ok htrip hmay (devWrite_rc 4 hfence hown))⟩
  · refine ⟨fun ho => ?_, fun ho => ?_, fun ho => ?_, fun ho => ?_⟩ <;> subst ho <;>
      exact congrArg Host.Outcome.next (writeDev_locked htrip hlocked)
  · intro left s'
    refine ⟨congrArg Host.Outcome.next ?_, rcCtlBusyEnd_effect hbusy⟩
    rw [selfTimed, htrip]; rfl
  · exact congrArg Host.Outcome.next (if_pos hserved)
  · obtain ⟨hmask, hcause, hmem⟩ := writeMask_fn f.val v s
    exact ⟨_, congrArg Host.Outcome.next (if_pos hserved), hmask, hcause, hmem⟩
  · refine ⟨_, congrArg Host.Outcome.next (installEntry_part htable hlow hsize), rfl, rfl, ?_, fun j hj => ?_⟩
    · rw [State.onPart_part]; exact Map.get_set_self _ _ _ _
    · rw [State.onPart_part]; exact Map.get_set_ne _ _ _ hj
  · refine ⟨fun t o hplace ha => congrArg Host.Outcome.next ?_, fun o hplace ha => congrArg Host.Outcome.next ?_,
      fun ha => congrArg Host.Outcome.next ?_, fun f hw hserved ha hlow hhigh => ?_⟩
    · simp [ha, hplace]
    · simp [ha, hplace]
    · simp [ha]
    · subst hw
      exact congrArg Host.Outcome.next (writeBar0_request hserved ha hlow hhigh)
  · have hblock (o : Nat) : Host.Outcome.next (writeBlock w t o v x) = (.next x : Host.Outcome State Fault Refusal) :=
      congrArg Host.Outcome.next (writeBlock_tripped hx)
    have hdev (o : Nat) (v : Word) : Host.Outcome.next (writeDev w o v x) = (.next x : Host.Outcome State Fault Refusal) :=
      congrArg Host.Outcome.next (writeDev_tripped hx)
    exact ⟨hblock _, hblock _, hblock _, hblock _, hblock _, hdev _ _, hdev _ _, hdev _ _, hdev _ _, hdev _ _, hdev _ _⟩

end Sys2Proof.Machine

/-! SUPPORT. What the vector and matrix engines write keeps memory canonical: each run of an operation is pokes of one image. -/
namespace Sys2Proof.Machine

/-! ### Writing elements -/

/-- A fold of write-outs each of which keeps the canonical form keeps it. -/
theorem foldl_written_wf {α : Type} (f : Written → α → Written) (l : List α)
    (h : ∀ w x, Memory.wf w.s.mem → Memory.wf (f w x).s.mem) (w : Written) :
    Memory.wf w.s.mem → Memory.wf (l.foldl f w).s.mem := by
  induction l generalizing w with
  | nil => exact id
  | cons x l ih => exact fun hw => ih _ (h _ _ hw)

theorem Desc.putRun_wf (d : Desc) (tainted : Bool) (how : Nat → RMode) (i0 i1 i2 : Nat) (xs : List Num) (w : Written)
    (hw : Memory.wf w.s.mem) : Memory.wf (d.putRun tainted how i0 i1 i2 xs w).s.mem := by
  cases tainted
  · exact (foldl_mark_s _ _ _ _).symm ▸ Desc.putRaw_wf d i0 i1 i2 _ w.s hw
  · exact (foldl_mark_s _ _ _ _).symm ▸ Desc.putRaw_wf d i0 i1 i2 _ { w.s with free := w.s.free + xs.length } hw

theorem Desc.putBlock_wf (d : Desc) (tainted : Bool) (how : Nat → RMode) (i0 i1 i2 : Nat) (xs : List Num) (w : Written)
    (hw : Memory.wf w.s.mem) : Memory.wf (d.putBlock tainted how i0 i1 i2 xs w).s.mem := by
  cases tainted
  · rw [Desc.putBlock]
    dsimp only
    rw [if_neg (by simp)]
    split
    · refine State.poke_wf _ _ _ ?_
      rw [Written.mark_s]
      exact Desc.putRaw_wf d i0 i1 i2 _ w.s hw
    · exact State.poke_wf _ _ _ (Desc.putRun_wf _ false how i0 i1 i2 _ w hw)
  · exact State.poke_wf _ _ _ (Desc.putRun_wf _ true how i0 i1 i2 xs { w with s := (drawFree 8 w.s).2 } hw)

theorem Desc.put_wf (d : Desc) (tainted : Bool) (how : Nat → RMode) (i0 i1 i2 : Nat) (xs : List Num) (w : Written)
    (hw : Memory.wf w.s.mem) : Memory.wf (d.put tainted how i0 i1 i2 xs w).s.mem := by
  rw [Desc.put]
  split
  · exact hw
  · split
    · exact foldl_written_wf _ _ (fun w p hw => by exact Desc.putBlock_wf d tainted how _ i1 i2 p.1 w hw) w hw
    · exact Desc.putRun_wf d tainted how i0 i1 i2 xs w hw

theorem putFirst_wf (d : Desc) (tainted : Bool) (how : Nat → RMode) (vals : List Num) (lim : Nat) (s : State)
    (h : Memory.wf s.mem) : Memory.wf (putFirst d tainted how vals lim s).s.mem :=
  foldl_written_wf _ _ (fun w _ => Desc.put_wf d tainted how 0 _ _ _ w) { s := s } h

theorem mmWrite_wf (c : Desc) (tainted : Bool) (how : RMode) (rows : List (List Num)) (lim : Nat) (s : State)
    (h : Memory.wf s.mem) : Memory.wf (mmWrite c tainted how rows lim s).s.mem := by
  refine foldl_written_wf _ _ (fun w k hw => ?_) { s := s } h
  dsimp only
  split
  · exact hw
  · exact foldl_written_wf _ _ (fun w i hw => Desc.put_wf _ _ _ _ _ _ _ w hw) w hw

/-! ### The runs of the units -/

theorem runMm_wf (t : Nat) (op : RunOp) (s : State) (h : Memory.wf s.mem) : Memory.wf (runMm t op s).s.mem := by
  rw [runMm]
  dsimp only
  split
  · exact h
  · split
    · exact mmWrite_wf _ _ _ _ _ s h
    · rw [State.onTile_mem]
      exact mmWrite_wf _ _ _ _ _ s h

theorem runLig_wf (op : RunOp) (s : State) (h : Memory.wf s.mem) : Memory.wf (runLig op s).s.mem := by
  rw [runLig]
  dsimp only
  split
  · exact h
  · split
    · exact State.poke_wf _ _ _ h
    · split
      · exact State.poke_wf _ _ _ h
      · exact State.poke_wf _ _ _ h

theorem runSamp_wf (t : Nat) (op : RunOp) (p : VeParam) (s : State) (h : Memory.wf s.mem) :
    Memory.wf (runSamp t op p s).s.mem := by
  refine foldl_written_wf _ _ (fun w x hw => ?_) { s := s } h
  cases op.tainted
  · exact (Written.mark_s _ _ _).symm ▸ Desc.putRaw_wf _ _ _ _ _ w.s hw
  · exact (Written.mark_s _ _ _).symm ▸ Desc.putRaw_wf _ _ _ _ _ (drawFree 64 w.s).2 hw

theorem runVe_wf (t : Nat) (op : RunOp) (s : State) (h : Memory.wf s.mem) : Memory.wf (runVe t op s).s.mem := by
  rw [runVe]
  dsimp only
  split
  · exact h
  · split
    · exact runSamp_wf t op _ s h
    · exact putFirst_wf _ _ _ _ _ s h

theorem runGrn_wf (t : Nat) (op : RunOp) (s : State) (h : Memory.wf s.mem) : Memory.wf (runGrn t op s).s.mem := by
  rw [runGrn]
  dsimp only
  split
  · exact h
  · split
    · exact foldl_wf _ _ (fun s _ => Desc.putRaw_wf _ _ _ _ _ s) s h
    · exact putFirst_wf _ _ _ _ _ s h

theorem optWrite_wf (t : Nat) (op : RunOp) (h : Hyper) (w m v : List Num) (lim limR limC : Nat) (s : State)
    (hs : Memory.wf s.mem) : Memory.wf (optWrite t op h w m v lim limR limC s).s.mem := by
  have hfirst (how how') := putFirst_wf (descOf op.dB) op.tainted how' m limR _
    (putFirst_wf (descOf op.dC) op.tainted how w lim s hs)
  rw [optWrite]
  dsimp only
  split
  · exact putFirst_wf _ _ _ _ _ _ (hfirst _ _)
  · exact hfirst _ _

theorem runOpt_wf (t : Nat) (op : RunOp) (s : State) (hs : Memory.wf s.mem) : Memory.wf (runOpt t op s).s.mem := by
  delta runOpt
  extract_lets d a sub h p st bad lim ws gs xs ys es τ rs out limS w s1 s2
  split
  · exact hs
  · next _ =>
    have hwrite : Memory.wf s1.mem := optWrite_wf t op h _ _ _ _ _ _ s hs
    clear_value s1 w limS lim bad
    show Memory.wf (State.mem (match bad with | some _ => _ | none => _))
    split
    · split
      · exact foldl_wf (fun s e => (drawBytes (4 * e.ext0) s).2.poke e.loc (drawBytes (4 * e.ext0) s).1) st
          (fun s e w => State.poke_wf (drawBytes (4 * e.ext0) s).2 _ _ w) s1 hwrite
      · exact hwrite
    · split
      · split <;> exact State.poke_wf _ _ _ hwrite
      · exact hwrite

theorem runVector_wf (t : Nat) (op : RunOp) (s : State) (h : Memory.wf s.mem) : Memory.wf (runVector t op s).s.mem := by
  rw [runVector]
  split
  · exact runOpt_wf t op s h
  · exact runVe_wf t op s h

end Sys2Proof.Machine

/-! SUPPORT. A plate's load keeps memory canonical, step by step and at its refusals. -/
namespace Sys2Proof.Machine

/-- A step that leaves memory alone leaves it canonical. -/
theorem wf_of_mem_eq {s s' : State} (h : s'.mem = s.mem) (w : Memory.wf s.mem) : Memory.wf s'.mem := by rwa [h]

/-- A step of a load leaves canonical memory where it succeeds, in the state that its result `st` holds, and where it refuses. -/
inductive LoadCanonical {α : Type} (st : α → State) : Except (Refuse × State) α → Prop
  | ok {a : α} (h : Memory.wf (st a).mem) : LoadCanonical st (.ok a)
  | error {r : Refuse} {s : State} (h : Memory.wf s.mem) : LoadCanonical st (.error (r, s))

theorem LoadCanonical.bind {α β : Type} {st : α → State} {st' : β → State} {r : Except (Refuse × State) α}
    {f : α → Except (Refuse × State) β} (hr : LoadCanonical st r) (hf : ∀ a, Memory.wf (st a).mem → LoadCanonical st' (f a)) :
    LoadCanonical st' (r >>= f) := by
  cases hr with
  | ok h => exact hf _ h
  | error h => exact .error h

theorem loadRead_canonical (n a len : Nat) (place : Nat → Nat × Nat) (s : State) (h : Memory.wf s.mem) :
    LoadCanonical Prod.snd (loadRead n a len place s) := by
  have hread := readPieces_wf (hostPieces a len) s h
  rw [loadRead]
  split
  · next heq => rw [heq] at hread; exact .ok hread
  · next heq => rw [heq] at hread; exact .error (wf_of_mem_eq (noteBulk_mem _ _ _ _ _) hread)

theorem loadWrite_canonical (n a : Nat) (d : Bytes) (place : Nat → Nat × Nat) (s : State) (h : Memory.wf s.mem) :
    LoadCanonical id (loadWrite n a d place s) := by
  have hwrite := writePieces_wf (linePieces a d.length) d s h
  rw [loadWrite]
  split
  · next heq => rw [heq] at hwrite; exact .ok hwrite
  · next heq => rw [heq] at hwrite; exact .error (wf_of_mem_eq (noteBulk_mem _ _ _ _ _) hwrite)

theorem readHeader_canonical (n off : Nat) (s : State) (h : Memory.wf s.mem) :
    LoadCanonical (fun r => r.2.2) (readHeader n off s) := by
  rw [readHeader]
  split
  · exact .error h
  · refine .bind (loadRead_canonical _ _ _ _ s h) (fun (hb, s1) hr => ?_)
    dsimp only
    split
    · exact .error hr
    · refine .bind (loadRead_canonical _ _ _ _ _ hr) (fun (eb, s2) hq => ?_)
      dsimp only
      split
      · exact .error hq
      · exact .ok hq

theorem eachStep_canonical {α : Type} (f : α → State → LoadRes) (hf : ∀ x s, Memory.wf s.mem → LoadCanonical id (f x s))
    (l : List α) (s : State) (h : Memory.wf s.mem) : LoadCanonical id (eachStep f l s) := by
  induction l generalizing s with
  | nil => exact .ok h
  | cons x l ih => exact .bind (hf x s h) ih

theorem copyImage_canonical (p : Plate) (x : Nat × Sect) (s : State) (h : Memory.wf s.mem) :
    LoadCanonical id (copyImage p x s) := by
  rw [copyImage]
  split
  · exact .ok (foldl_wf _ _ (fun s k w => State.poke_wf s _ _ w) s h)
  · split
    · exact loadWrite_canonical _ _ _ _ s h
    · exact .ok h

theorem require_canonical {ok : Bool} {r : Refuse} {s : State} (h : Memory.wf s.mem) : LoadCanonical id (require ok r s) := by
  cases ok
  · exact .error h
  · exact .ok h

theorem images_canonical (p : Plate) (s : State) (h : Memory.wf s.mem) : LoadCanonical id (images p s) := by
  refine .bind (eachStep_canonical _ (copyImage_canonical p) _ s h) fun s h => ?_
  refine .bind (require_canonical h) fun s h => ?_
  refine .bind (require_canonical h) fun s h => ?_
  exact require_canonical h

theorem relocRead_canonical (p : Plate) (i off : Nat) (r : Reloc) (k : Nat) (s : State) (h : Memory.wf s.mem) :
    LoadCanonical Prod.snd (relocRead p i off r k s) := by
  rw [relocRead]
  split
  · exact loadRead_canonical _ _ _ _ s h
  · dsimp only
    split
    · exact .error h
    · exact .ok h

theorem relocWrite_canonical (p : Plate) (i off : Nat) (r : Reloc) (d : Bytes) (s : State) (h : Memory.wf s.mem) :
    LoadCanonical id (relocWrite p i off r d s) := by
  rw [relocWrite]
  split
  · exact loadWrite_canonical _ _ _ _ s h
  · exact .ok (State.poke_wf s _ _ h)

theorem relocate_canonical (p : Plate) (x : Nat × Nat × Reloc) (s : State) (h : Memory.wf s.mem) :
    LoadCanonical id (relocate p x s) := by
  rw [relocate]
  split
  · exact .error h
  · refine .bind (relocRead_canonical p _ _ _ _ s h) (fun r hr => ?_)
    dsimp only
    split
    · split
      · exact .error hr
      · exact relocWrite_canonical p _ _ _ _ _ hr
    · split
      · exact .error hr
      · split
        · exact .error hr
        · exact relocWrite_canonical p _ _ _ _ _ hr

theorem relocations_canonical (p : Plate) (s : State) (h : Memory.wf s.mem) : LoadCanonical id (relocations p s) := by
  rw [relocations]
  split
  · exact .error h
  · exact eachStep_canonical _ (relocate_canonical p) _ s h

theorem installCommit_canonical (p : Plate) (s : State) (h : Memory.wf s.mem) : LoadCanonical id (installCommit p s) := by
  rw [installCommit]
  dsimp only
  split
  · exact .ok (wf_of_mem_eq (loadSeeds_mem _ _ _) h)
  · split
    · exact .error h
    · refine .bind (require_canonical h) fun s h => .bind (loadRead_canonical _ _ _ _ s h) fun r hr => ?_
      exact .ok (wf_of_mem_eq (loadSeeds_mem _ _ _) hr)

theorem install_canonical (p : Plate) (s : State) (h : Memory.wf s.mem) : LoadCanonical id (install p s) := by
  rw [install]
  split
  · exact .error (wf_of_mem_eq (installSync_mem p s) h)
  · refine installCommit_canonical p _ (wf_of_mem_eq (installSync_mem p _) ?_)
    exact foldl_wf _ _ (fun s x w => by exact w) _ (foldl_wf _ _ (fun s x w => by exact w) s h)

theorem verifyPlate_canonical (p : Plate) (s : State) (h : Memory.wf s.mem) : LoadCanonical id (verifyPlate p s) := by
  rw [verifyPlate]
  split
  · exact .ok h
  · split
    · exact .error h
    · split
      · exact .error h
      · exact .ok h

theorem beginDeclarations_wf (p : Plate) (s : State) (h : Memory.wf s.mem) : Memory.wf (beginDeclarations p s).mem :=
  wf_of_mem_eq (beginDeclarations_mem p s) h

/-- Steps 3 to 7 of a load, and the beginning of step 8. -/
theorem plateSteps_canonical (p : Plate) (s : State) (h : Memory.wf s.mem) :
    LoadCanonical id (images p s >>= relocations p >>= install p >>= verifyPlate p >>= fun s => .ok (beginDeclarations p s)) := by
  have h1 := LoadCanonical.bind (images_canonical p s h) (relocations_canonical p)
  have h2 := h1.bind (install_canonical p)
  have h3 := h2.bind (verifyPlate_canonical p)
  exact h3.bind fun s h => .ok (beginDeclarations_wf p s h)

/-- The state of a pair. -/
theorem pair_wf {α : Type} {a : α} {s : State} (h : Memory.wf s.mem) : Memory.wf (a, s).2.mem := h

theorem load_wf (n : Nat) (verify : Bool) (s : State) (h : Memory.wf s.mem) : Memory.wf (load n verify s).2.mem := by
  rw [load]
  extract_lets s1 off
  split
  · exact pair_wf (refuseLoad_wf n verify _ s h)
  · have h1 : Memory.wf s1.mem := wf_of_mem_eq (setLoad_mem _ _ _) h
    have hheader := readHeader_canonical n off s1 h1
    split
    · next heq => rw [heq] at hheader; cases hheader with | error h2 => exact pair_wf (refuseLoad_wf _ _ _ _ h2)
    · next hd es s2 heq =>
      rw [heq] at hheader
      cases hheader with | ok h2 =>
      extract_lets s3 go
      have hgo : LoadCanonical id go := by
        exact .bind (loadRead_canonical _ _ _ _ _ (clearTiles_wf n s2 h2)) fun (bs, s3) h3 => plateSteps_canonical _ _ h3
      generalize go = r at hgo ⊢
      cases hgo with
      | ok h4 => exact pair_wf h4
      | error h4 => exact pair_wf (refuseLoad_wf _ _ _ _ h4)

end Sys2Proof.Machine

/-! SUPPORT. Loads and stores of the tile core keep memory canonical. -/
namespace Sys2Proof.Machine

theorem onMail_wf {t : Nat} {f : Mail → Mail} {s : State} (h : Memory.wf s.mem) : Memory.wf (s.onMail t f).mem := h

/-- An outcome is a next state, and that state's memory is canonical. -/
inductive NextCanonical : Res → Prop
  | next {s : State} (h : Memory.wf s.mem) : NextCanonical (.next s)

theorem selfTimed_wf {s act : State} (h : Memory.wf s.mem) (hact : Memory.wf act.mem) : Memory.wf (selfTimed s act).mem := by
  rw [selfTimed]; split
  · exact h
  · exact hact

/-! ### Loads and stores -/

/-- `writeShared_wf` for a write by a handler that owns the bytes, too. -/
theorem writeShared_own_wf (a : Nat) (bs : Bytes) (s : State) (own : Bool) (h : Memory.wf s.mem) :
    Memory.wf (writeShared a bs s own).mem :=
  State.poke_wf _ _ _ (wf_of_mem_eq (touchWrite_mem a bs.length s own) h)

theorem accumulate_own_wf {t a : Nat} {ty : BitVec 2} {new : Bytes} {s s' : State} {own : Bool} (h : Memory.wf s.mem)
    (hs' : accumulate t a ty new s own = .ok s') : Memory.wf s'.mem := by
  rw [accumulate] at hs'
  split at hs'
  · cases hs'
  · cases hs'
    exact writeShared_own_wf _ _ _ own (wf_of_mem_eq (readShared_mem _ _ _) h)

theorem fillStore_own_wf {t w : Nat} {bs : Bytes} {s s' : State} {own : Bool} (h : Memory.wf s.mem)
    (hs' : fillStore t w bs s own = .ok s') : Memory.wf s'.mem := by
  rw [fillStore] at hs'
  split at hs'
  · cases hs'
  · cases hs'
    exact wf_of_mem_eq (serveFull_mem _ _ _) (writeShared_own_wf _ _ _ own h)

theorem sendAccess_canonical (t c : Nat) (g : Target) (op : MemOp) (s : State) (h : Memory.wf s.mem) :
    (sendAccess t c g op s).Canonical := by
  have hsent (s' : State) (h' : Memory.wf s'.mem) :
      Memory.wf (countLine 0x20 (some (.tile t)) (if g.bulk then s'.onTile t (fun x => x.count 0x27 1) else s')).mem :=
    wf_of_mem_eq (countLine_mem _ _ _) (by split <;> exact h')
  cases g with
  | mesh | slice => exact hsent _ (wf_of_mem_eq (onMesh_mem _ _ _) h)
  | far d a =>
    rw [sendAccess]
    split
    · next heq => exact hsent _ (wf_of_mem_eq (sendFar_mem _ _ _ _ _ heq) h)
    · trivial
  | own | bad => exact h

theorem withTarget_canonical (t c : Nat) (k : AccKind) (size : Nat) (rb : BitVec 5) (off : BitVec 11) (body : Target → State → Eff)
    (hb : ∀ g s, Memory.wf s.mem → (body g s).Canonical) (s : State) (v : Word) (h : Memory.wf s.mem) :
    (withTarget t c k size rb off body s v).Canonical := by
  rw [withTarget]
  split
  · trivial
  · split
    · trivial
    · exact hb _ s h

theorem storeTo_canonical (t c : Nat) (bs : Bytes) (g : Target) (s : State) (h : Memory.wf s.mem) :
    (storeTo t c bs g s).Canonical := by
  unfold storeTo
  split
  · split
    · trivial
    · exact writeShared_own_wf _ _ _ _ h
  · exact sendAccess_canonical _ _ _ _ _ (wf_of_mem_eq (dropOwnLine_mem _ _ _) h)

theorem loadOwn_wf {t o size : Nat} {s : State} (h : Memory.wf s.mem) {r : Bytes × State} (hr : loadOwn t o size s = .ok r) :
    Memory.wf r.2.mem := by
  rw [loadOwn] at hr
  split at hr
  · cases hr
  · cases hr
    exact wf_of_mem_eq (readShared_mem _ _ _) h

theorem loadFrom_canonical (t c rt size : Nat) (acq : Bool) (g : Target) (s : State) (h : Memory.wf s.mem) :
    (loadFrom t c rt size acq g s).Canonical := by
  unfold loadFrom
  split
  · split
    · trivial
    · next heq =>
      have hown := loadOwn_wf h heq
      cases acq <;> exact hown
  · dsimp only
    split
    · exact h
    · exact sendAccess_canonical _ _ _ _ _ h

theorem execLd_wf (t : TileId) (c : CtxId) (rt rb : BitVec 5) (width : BitVec 3) (mode : BitVec 2) (off : BitVec 11) (u : Upset)
    (s : State) (h : Memory.wf s.mem) : NextCanonical (execLd t c rt rb width mode off u s) := by
  refine .next (mForm_wf _ _ _ _ _ _ (fun size s h => ?_) s h)
  split
  · split
    · exact wf_of_mem_eq (parity_mem _ _ _ _) h
    · exact withTarget_canonical _ _ _ _ _ _ _ (loadFrom_canonical _ _ _ _ _) s _ h
  · exact wf_of_mem_eq (failHub_mem _) h
  · exact withTarget_canonical _ _ _ _ _ _ _ (loadFrom_canonical _ _ _ _ _) _ _ (wf_of_mem_eq (strike_mem _ _) h)

theorem execSt_wf (t : TileId) (c : CtxId) (rt rb : BitVec 5) (width : BitVec 3) (mode : BitVec 2) (off : BitVec 11) (s : State)
    (h : Memory.wf s.mem) : NextCanonical (execSt t c rt rb width mode off s) := by
  refine .next (mForm_wf _ _ _ _ _ _ (fun size s h => ?_) s h)
  split
  · trivial
  · exact withTarget_canonical _ _ _ _ _ _ _ (storeTo_canonical _ _ _) s _ h

theorem execSta_wf (t : TileId) (c : CtxId) (rt rb : BitVec 5) (width : BitVec 3) (mode : BitVec 2) (off : BitVec 11) (s : State)
    (h : Memory.wf s.mem) : NextCanonical (execSta t c rt rb width mode off s) := by
  refine .next (mForm_wf _ _ _ _ _ _ (fun size s h => withTarget_canonical _ _ _ _ _ _ _ (fun g s h => ?_) s _ h) s h)
  dsimp only
  split
  · split
    · next heq => exact accumulate_own_wf h heq
    · trivial
  · exact sendAccess_canonical _ _ _ _ _ (wf_of_mem_eq (dropOwnLine_mem _ _ _) h)

theorem execLdf_wf (t : TileId) (c : CtxId) (rt rb : BitVec 5) (width : BitVec 3) (mode : BitVec 2) (off : BitVec 11) (s : State)
    (h : Memory.wf s.mem) : NextCanonical (execLdf t c rt rb width mode off s) := by
  refine .next (mForm_wf _ _ _ _ _ _ (fun size s h => withTarget_canonical _ _ _ _ _ _ _ (fun g s h => ?_) s _ h) s h)
  dsimp only
  split
  · split
    · trivial
    · split
      · trivial
      · next heq =>
        have hown := loadOwn_wf h heq
        split
        · exact hown
        · exact hown
  · trivial

theorem execStf_wf (t : TileId) (c : CtxId) (rt rb : BitVec 5) (width : BitVec 3) (mode : BitVec 2) (off : BitVec 11) (s : State)
    (h : Memory.wf s.mem) : NextCanonical (execStf t c rt rb width mode off s) := by
  refine .next (mForm_wf _ _ _ _ _ _ (fun size s h => withTarget_canonical _ _ _ _ _ _ _ (fun g s h => ?_) s _ h) s h)
  dsimp only
  split
  · split
    · next heq => exact fillStore_own_wf h heq
    · trivial
  · exact sendAccess_canonical _ _ _ _ _ (wf_of_mem_eq (dropOwnLine_mem _ _ _) h)

theorem execLdd_wf (t : TileId) (c : CtxId) (rt rb : BitVec 5) (width : BitVec 3) (mode : BitVec 2) (off : BitVec 11) (s : State)
    (h : Memory.wf s.mem) : NextCanonical (execLdd t c rt rb width mode off s) := by
  refine .next (issue_wf _ _ _ _ (fun s h => legal_canonical _ _ _ (fun h =>
    withTarget_canonical _ _ _ _ _ _ _ (fun g s h => ?_) s _ h) h) s h)
  split
  · split
    · trivial
    · next heq => exact loadOwn_wf h heq
  · exact sendAccess_canonical _ _ _ _ _ h

theorem execStd_wf (t : TileId) (c : CtxId) (rt rb : BitVec 5) (width : BitVec 3) (mode : BitVec 2) (off : BitVec 11) (s : State)
    (h : Memory.wf s.mem) : NextCanonical (execStd t c rt rb width mode off s) :=
  .next (issue_wf _ _ _ _ (fun s h => legal_canonical _ _ _ (fun h =>
    withTarget_canonical _ _ _ _ _ _ _ (storeTo_canonical _ _ _) s _ h) h) s h)

end Sys2Proof.Machine

/-! SUPPORT. The other instructions, the home slices, the hub, the reductions, the exchange and the messages keep memory canonical. -/
namespace Sys2Proof.Machine

/-! ### The other instructions -/

theorem jumpTo_canonical (w : Word) (s : State) (h : Memory.wf s.mem) : (jumpTo w s).Canonical := by
  unfold jumpTo
  split
  · exact h
  · trivial

theorem enqueueStart_canonical (t : Nat) (q : StartReq) (s : State) (h : Memory.wf s.mem) : (enqueueStart t q s).Canonical := by
  unfold enqueueStart
  dsimp only
  split
  · trivial
  · exact h

theorem execJal_wf (t : TileId) (c : CtxId) (rd rs1 : BitVec 5) (imm : BitVec 16) (s : State) (h : Memory.wf s.mem) :
    NextCanonical (execJal t c rd rs1 imm s) :=
  .next (issue_wf _ _ _ _ (fun _ h => legal_canonical _ _ _ (fun h => by
    exact jumpTo_canonical _ _ (wf_of_mem_eq (setRv_mem _ _ _ _ _) h)) h) s h)

theorem execJalr_wf (t : TileId) (c : CtxId) (rd rs1 : BitVec 5) (imm : BitVec 16) (s : State) (h : Memory.wf s.mem) :
    NextCanonical (execJalr t c rd rs1 imm s) :=
  .next (issue_wf _ _ _ _ (fun _ h => by exact jumpTo_canonical _ _ (wf_of_mem_eq (setRv_mem _ _ _ _ _) h)) s h)

theorem execLui_wf (t : TileId) (c : CtxId) (rd rs1 : BitVec 5) (imm : BitVec 16) (s : State) (h : Memory.wf s.mem) :
    NextCanonical (execLui t c rd rs1 imm s) :=
  .next (issue_wf _ _ _ _ (fun s h => legal_canonical _ (writes t c rd _) s id h) s h)

theorem execLsh_wf (t : TileId) (c : CtxId) (rd rs1 : BitVec 5) (imm : BitVec 16) (s : State) (h : Memory.wf s.mem) :
    NextCanonical (execLsh t c rd rs1 imm s) :=
  .next (issue_wf _ _ _ _ (fun s h => legal_canonical _ (writes t c rd _) s id h) s h)

theorem execCsrRead_wf (t : TileId) (c : CtxId) (rd rs1 : BitVec 5) (obj : BitVec 12) (s : State) (h : Memory.wf s.mem) :
    NextCanonical (execCsrRead t c rd rs1 obj s) :=
  .next (issue_wf _ _ _ _ (fun _ h => legal_canonical _ _ _ (fun h => by exact wf_of_mem_eq (setRv_mem _ _ _ _ _) h) h) s h)

theorem execCsrWrite_wf (t : TileId) (c : CtxId) (rd rs1 : BitVec 5) (obj : BitVec 12) (s : State) (h : Memory.wf s.mem) :
    NextCanonical (execCsrWrite t c rd rs1 obj s) :=
  .next (issue_wf _ _ _ _ (fun s h => legal_canonical _ _ _ (fun h => by
    exact wf_of_mem_eq (putBlock_mem _ _ _ _) (markWrite_wf _ _ _ _ s h)) h) s h)

theorem execTfSet_wf (t : TileId) (c : CtxId) (rd rs1 : BitVec 5) (obj : BitVec 12) (s : State) (h : Memory.wf s.mem) :
    NextCanonical (execTfSet t c rd rs1 obj s) :=
  .next (tfForm_wf _ _ _ _ _ _ _ _ (fun s h => by
    exact wf_of_mem_eq (putFlag_mem _ _ _ _) (marker_wf _ _ _ s h)) s h)

theorem execTfClr_wf (t : TileId) (c : CtxId) (rd rs1 : BitVec 5) (obj : BitVec 12) (s : State) (h : Memory.wf s.mem) :
    NextCanonical (execTfClr t c rd rs1 obj s) :=
  .next (tfForm_wf _ _ _ _ _ _ _ _ (fun _ h => by
    exact wf_of_mem_eq (putFlag_mem _ _ _ _) h) s h)

theorem execTfTst_wf (t : TileId) (c : CtxId) (rd rs1 : BitVec 5) (obj : BitVec 12) (s : State) (h : Memory.wf s.mem) :
    NextCanonical (execTfTst t c rd rs1 obj s) :=
  .next (tfForm_wf _ _ _ _ _ _ _ _ (fun _ h => by exact wf_of_mem_eq (setRv_mem _ _ _ _ _) h) s h)

theorem execTfTas_wf (t : TileId) (c : CtxId) (rd rs1 : BitVec 5) (obj : BitVec 12) (s : State) (h : Memory.wf s.mem) :
    NextCanonical (execTfTas t c rd rs1 obj s) :=
  .next (tfForm_wf _ _ _ _ _ _ _ _ (fun s h => by
    exact wf_of_mem_eq (setRv_mem _ _ _ _ _) (wf_of_mem_eq (putFlag_mem _ _ _ _) (marker_wf _ _ _ s h))) s h)

theorem execBarArrive_wf (t : TileId) (c : CtxId) (rd rs1 : BitVec 5) (obj : BitVec 12) (s : State) (h : Memory.wf s.mem) :
    NextCanonical (execBarArrive t c rd rs1 obj s) :=
  .next (barForm_wf _ _ _ _ _ _ (fun s h => by
    split
    · trivial
    · exact arrive_wf _ _ _ s h) s h)

theorem execBarWait_wf (t : TileId) (c : CtxId) (rd rs1 : BitVec 5) (obj : BitVec 12) (s : State) (h : Memory.wf s.mem) :
    NextCanonical (execBarWait t c rd rs1 obj s) :=
  .next (barForm_wf _ _ _ _ _ _ (fun s h => by
    split
    · trivial
    · exact h) s h)

theorem execBarArriveWait_wf (t : TileId) (c : CtxId) (rd rs1 : BitVec 5) (obj : BitVec 12) (s : State) (h : Memory.wf s.mem) :
    NextCanonical (execBarArriveWait t c rd rs1 obj s) :=
  .next (barForm_wf _ _ _ _ _ _ (fun s h => by
    split
    · trivial
    · exact arrive_wf _ _ _ s h) s h)

theorem execFenceFull_wf (t : TileId) (c : CtxId) (rd rs1 : BitVec 5) (obj : BitVec 12) (s : State) (h : Memory.wf s.mem) :
    NextCanonical (execFenceFull t c rd rs1 obj s) :=
  .next (issue_wf _ _ _ _ (fun s h => legal_canonical _ _ _ (fun h => by
    split
    · trivial
    · exact wf_of_mem_eq (invalidateRlb_mem t s) h) h) s h)

theorem execCtxStart_wf (t : TileId) (c : CtxId) (rd rs1 : BitVec 5) (obj : BitVec 12) (s : State) (h : Memory.wf s.mem) :
    NextCanonical (execCtxStart t c rd rs1 obj s) :=
  .next (issue_wf _ _ _ _ (fun s h => legal_canonical _ _ _ (fun h => by
    split
    · trivial
    · split
      · trivial
      · exact h) h) s h)

theorem execCtxStop_wf (t : TileId) (c : CtxId) (rd rs1 : BitVec 5) (obj : BitVec 12) (s : State) (h : Memory.wf s.mem) :
    NextCanonical (execCtxStop t c rd rs1 obj s) :=
  .next (issue_wf _ _ _ _ (fun s h => legal_canonical _ _ _ (fun h => by
    split
    · trivial
    · exact h) h) s h)

theorem execBkpt_wf (t : TileId) (c : CtxId) (rd rs1 : BitVec 5) (obj : BitVec 12) (s : State) (h : Memory.wf s.mem) :
    NextCanonical (execBkpt t c rd rs1 obj s) :=
  .next (issue_wf _ _ _ _ (fun s h => legal_canonical _ _ _ (fun h => by
    dsimp only
    split
    · exact wf_of_mem_eq (haltCtx_mem _ _ _) h
    · trivial) h) s h)

theorem execHret_wf (t : TileId) (c : CtxId) (rd rs1 : BitVec 5) (obj : BitVec 12) (s : State) (h : Memory.wf s.mem) :
    NextCanonical (execHret t c rd rs1 obj s) :=
  .next (issue_wf _ _ _ _ (fun s h => legal_canonical _ _ _ (fun h => by
    dsimp only
    split
    · trivial
    · exact wf_of_mem_eq (releaseEntry_mem _ _ _) h) h) s h)

theorem execXstart_wf (t : TileId) (c : CtxId) (ra rb rc : BitVec 5) (xfn : BitVec 11) (s : State) (h : Memory.wf s.mem) :
    NextCanonical (execXstart t c ra rb rc xfn s) :=
  .next (issue_wf _ _ _ _ (fun s h => legal_canonical _ _ _ (fun h => by
    dsimp only
    split
    · trivial
    · split
      · trivial
      · split
        · trivial
        · exact enqueueStart_canonical _ _ _ (wf_of_mem_eq (readShared_mem _ _ _) h)) h) s h)

theorem execEnl_wf (t : TileId) (c : CtxId) (ra rb rc : BitVec 5) (xfn : BitVec 11) (s : State) (h : Memory.wf s.mem) :
    NextCanonical (execEnl t c ra rb rc xfn s) :=
  .next (issue_wf _ _ _ _ (fun _ h => legal_canonical _ _ _ (fun h => by exact enqueueStart_canonical _ _ _ h) h) s h)

theorem execMsg_wf (t : TileId) (c : CtxId) (ra rb rc : BitVec 5) (xfn : BitVec 11) (s : State) (h : Memory.wf s.mem) :
    NextCanonical (execMsg t c ra rb rc xfn s) :=
  .next (issue_wf _ _ _ _ (fun s h => legal_canonical _ _ _ (fun h => by
    dsimp only
    split
    · trivial
    · split
      · trivial
      · exact onMail_wf (wf_of_mem_eq (onSend_mem _ _ _ _) (wf_of_mem_eq (putFlag_mem _ _ _ _) h))) h) s h)

/-! ### The home slices -/

theorem serveSlice_wf (q : SliceReq) (s : State) (h : Memory.wf s.mem) : Memory.wf (serveSlice q s).mem := by
  cases q with
  | flight => exact flightRequest_wf _ s h
  | hostRead => exact hostRead_wf _ _ _ s h
  | hostWrite => exact hostWrite_wf _ _ _ s h
  | nibRead => exact nibRead_wf _ _ _ s h
  | nibWrite => exact nibWrite_wf _ _ _ s h

theorem offerSlice_wf (q : SliceReq) (s : State) (h : Memory.wf s.mem) : Memory.wf (offerSlice q s).mem := by
  unfold offerSlice
  split
  · exact h
  · exact serveSlice_wf q s h

theorem drainHeld_wf (s : State) (h : Memory.wf s.mem) : Memory.wf (drainHeld s).mem :=
  drainTraces_wf _ (foldl_wf _ _ (fun s q => offerSlice_wf q s) _ h)

theorem execHomeSliceRequest_wf (q : SliceReq) (u : Upset) (s : State) (h : Memory.wf s.mem) :
    NextCanonical (execHomeSliceRequest q u s) :=
  .next (selfTimed_wf h (withUpset_wf u 0 _ (offerSlice_wf q) s h))

theorem execBulkStoreFill_wf (i : Nat) (s : State) (h : Memory.wf s.mem) : NextCanonical (execBulkStoreFill i s) :=
  .next (selfTimed_wf h (drainHeld_wf _ (endFill_wf i s h)))

theorem execRcCtlBusyEnd_wf (r : RegionId) (s : State) (h : Memory.wf s.mem) : NextCanonical (execRcCtlBusyEnd r s) :=
  .next (selfTimed_wf h (drainHeld_wf _ (scanEnd_wf _ s h)))

theorem execHostCompletion_wf (i : Nat) (ok : Bool) (data : Bytes) (s : State) (h : Memory.wf s.mem) :
    NextCanonical (execHostCompletion i ok data s) :=
  .next (selfTimed_wf h (by
    split
    · exact h
    · split
      · exact h
      · next q _ => exact wf_of_mem_eq (answer_mem _ _ _) (wf_of_mem_eq (leavePosted_mem q.behind s) h)))

theorem execRemoteAccessArrival_wf (i : Nat) (s : State) (h : Memory.wf s.mem) : NextCanonical (execRemoteAccessArrival i s) :=
  .next (selfTimed_wf h (by
    split
    · split
      · exact h
      · exact wf_of_mem_eq (answer_mem _ _ _) (wf_of_mem_eq (noteForeign_mem _ _ _)
          (arriveAt_wf _ _ (wf_of_mem_eq (countLine_mem _ _ _) h)))
    · exact h))

theorem execRemoteAnswer_wf (i : Nat) (s : State) (h : Memory.wf s.mem) : NextCanonical (execRemoteAnswer i s) := by
  refine .next (selfTimed_wf h ?_)
  split
  · exact h
  · next a _ =>
    split
    · exact h
    · extract_lets s1
      have h1 : Memory.wf s1.mem := wf_of_mem_eq (countLine_mem _ _ _) h
      split
      · exact wf_of_mem_eq (answerFar_mem _ _ _ _ _) h1
      · exact wf_of_mem_eq (takeXfer_mem _ _ _) h1
      · split
        · exact wf_of_mem_eq (nibFault_mem _ _ _ _) h1
        · exact h1
      · refine wf_of_mem_eq (wakeFences_mem _ _) ?_
        split
        · exact wf_of_mem_eq (takeData_mem _ _ _ _ _) h1
        · exact h1
        · exact wf_of_mem_eq (tileFault_mem _ _ _) h1

/-! ### The hub -/

theorem execHubOperation_wf (i : Nat) (u : Upset) (s : State) (h : Memory.wf s.mem) : NextCanonical (execHubOperation i u s) :=
  .next (selfTimed_wf h (by
    split
    · exact withUpset_wf _ _ _ (fun _ h => by exact wf_of_mem_eq (applyHub_mem _ _) h) s h
    · exact h))

theorem execHubAnswer_wf (i : Nat) (s : State) (h : Memory.wf s.mem) : NextCanonical (execHubAnswer i s) :=
  .next (selfTimed_wf h (by
    split
    · exact wf_of_mem_eq (takeHubAnswer_mem _ _) h
    · exact h))

theorem execRowArrival_wf (i : Nat) (s : State) (h : Memory.wf s.mem) : NextCanonical (execRowArrival i s) :=
  .next (selfTimed_wf h (by
    split
    · split
      · exact wf_of_mem_eq (countArrival_mem _ _) h
      · exact h
    · exact h))

theorem execHubRowArrival_wf (i : Nat) (s : State) (h : Memory.wf s.mem) : NextCanonical (execHubRowArrival i s) :=
  .next (selfTimed_wf h (by
    split
    · exact wf_of_mem_eq (countRow_mem _ _ _) h
    · exact h))

theorem execBarrierRelease_wf (t : TileId) (b : Fin 32) (s : State) (h : Memory.wf s.mem) :
    NextCanonical (execBarrierRelease t b s) :=
  .next (selfTimed_wf h (by
    split
    · exact releaseAt_wf _ _ s h
    · exact h))

theorem execSystemArrival_wf (i : Nat) (s : State) (h : Memory.wf s.mem) : NextCanonical (execSystemArrival i s) :=
  .next (selfTimed_wf h (by
    split
    · exact h
    · split
      · exact wf_of_mem_eq (systemArrival_mem _ _) h
      · exact h))

theorem execSystemRelease_wf (i : Nat) (s : State) (h : Memory.wf s.mem) : NextCanonical (execSystemRelease i s) :=
  .next (selfTimed_wf h (by
    split
    · exact h
    · split
      · exact systemRelease_wf _ _ h
      · exact h))

/-! ### The reductions -/

theorem execReductionStart_wf (p : PortId) (n : PartId) (s : State) (h : Memory.wf s.mem) :
    NextCanonical (execReductionStart p n s) :=
  .next (selfTimed_wf h (by
    dsimp only
    split
    · exact h
    · have h1 : Memory.wf (onRd p n (fun x => { x with started := true }) s).mem := wf_of_mem_eq (onRd_mem _ _ _ _) h
      split
      · exact beginGather_wf _ _ h1
      · exact sendChunk_wf _ _ _ _ h1))

theorem execReductionSegment_wf (p : PortId) (i : Nat) (s : State) (h : Memory.wf s.mem) :
    NextCanonical (execReductionSegment p i s) :=
  .next (selfTimed_wf h (by
    dsimp only
    split
    · split
      · exact h
      · exact takeRing_wf _ _ _ (wf_of_mem_eq (freeRing_mem _ _ _) h)
    · exact h))

theorem execReductionDone_wf (p : PortId) (n : PartId) (s : State) (h : Memory.wf s.mem) : NextCanonical (execReductionDone p n s) :=
  .next (selfTimed_wf h (by
    dsimp only
    split
    · exact h
    · have h1 : Memory.wf (onRd p n (fun x => { x with busy := false, done := true }) s).mem := wf_of_mem_eq (onRd_mem _ _ _ _) h
      split
      · exact h1
      · split
        · exact wf_of_mem_eq (putGf_mem _ _ _) h1
        · exact wf_of_mem_eq (raiseRec_mem _ _) h1))

/-! ### Segments and messages -/

theorem replySeg_wf {g : Segment} {ok : Bool} {s : State} (h : Memory.wf s.mem) : Memory.wf (replySeg g ok s).mem :=
  wf_of_mem_eq (replySeg_mem _ _ _) h

theorem receiveSeg_wf (g : Segment) (s : State) (h : Memory.wf s.mem) : Memory.wf (receiveSeg g s).mem := by
  unfold receiveSeg
  dsimp only
  split
  · exact replySeg_wf h
  · split
    · have h1 (t : Nat) (f : RunList → RunList) (s' : State) (h' : Memory.wf s'.mem) : Memory.wf (onList t f s').mem :=
        wf_of_mem_eq (onList_mem _ _ _) h'
      split
      · exact replySeg_wf (landRecv_wf _ _ _ _ _ (h1 _ _ _ h))
      · split
        · exact replySeg_wf (addRecv_wf _ _ _ _ _ _ (h1 _ _ _ h))
        · exact replySeg_wf (State.poke_wf _ _ _ (h1 _ _ _ (h1 _ _ _ h)))
    · exact replySeg_wf (wf_of_mem_eq (tileFault_mem _ _ _) h)

theorem stagedData_mem (t j : Nat) (l : RunList) (s : State) : (stagedData t j l s).2.mem = s.mem := by
  unfold stagedData
  dsimp only
  split
  · exact drawBytes_mem _ _
  · rfl

theorem execListAcceptance_wf (t : TileId) (s : State) (h : Memory.wf s.mem) : NextCanonical (execListAcceptance t s) :=
  .next (selfTimed_wf h (by
    split
    · next q _ _ =>
      have h1 : Memory.wf (readList q s).2.mem := wf_of_mem_eq (readList_mem _ _) h
      dsimp only
      split
      · exact startList_wf _ _ _ _ h1
      · exact wf_of_mem_eq (refuseStart_mem _ _ _ _) h1
    · exact h))

theorem execSendSlot_wf (t : TileId) (s : State) (h : Memory.wf s.mem) : NextCanonical (execSendSlot t s) :=
  .next (selfTimed_wf h (by
    split
    · exact h
    · split
      · exact h
      · have hturn := takeTurn_mem t 5 1 s
        split
        · exact h
        · split
          · next heq => exact sendSlotNow_wf _ _ _ _ (wf_of_mem_eq (by rw [heq] at hturn; exact hturn) h)
          · next heq => exact wf_of_mem_eq (by rw [heq] at hturn; exact hturn) h))

theorem execSegmentArrival_wf (i : Nat) (s : State) (h : Memory.wf s.mem) : NextCanonical (execSegmentArrival i s) :=
  .next (selfTimed_wf h (by
    split
    · split
      · exact receiveSeg_wf _ _ h
      · exact h
    · exact h))

theorem execSegmentAcknowledgement_wf (i : Nat) (s : State) (h : Memory.wf s.mem) :
    NextCanonical (execSegmentAcknowledgement i s) :=
  .next (selfTimed_wf h (by
    split
    · next r _ =>
      split
      · exact h
      · extract_lets go s1 stopped
        have h1 : Memory.wf s1.mem := wf_of_mem_eq (dropOutstanding_mem _ _) h
        split
        · exact slotDone_wf _ _ _ h1
        · exact h1
    · exact h))

theorem execSegmentRefusal_wf (i : Nat) (s : State) (h : Memory.wf s.mem) : NextCanonical (execSegmentRefusal i s) :=
  .next (selfTimed_wf h (by
    split
    · split
      · exact wf_of_mem_eq (dropOutstanding_mem _ _) h
      · exact h
    · exact h))

theorem execRecvAccTurn_wf (t : TileId) (slot : Nat) (s : State) (h : Memory.wf s.mem) : NextCanonical (execRecvAccTurn t slot s) :=
  .next (selfTimed_wf h (by
    split
    · exact h
    · split
      · exact h
      · exact addRecv_wf _ _ _ _ _ _ (wf_of_mem_eq (onList_mem _ _ _) (wf_of_mem_eq (stagedData_mem _ _ _ _) h))))

theorem receiveMsg_wf (g : Message) (s : State) (h : Memory.wf s.mem) : Memory.wf (receiveMsg g s).mem := by
  have hreply (o : MsgOut) (s' : State) (h' : Memory.wf s'.mem) : Memory.wf (replyMsg g o s').mem :=
    wf_of_mem_eq (replyMsg_mem _ _ _) h'
  unfold receiveMsg
  dsimp only
  split
  · exact hreply _ _ h
  · exact hreply _ _ h
  · split
    · exact h
    · split
      · exact hreply _ _ (accumulateLines_wf _ _ _ _ _ _ h)
      · exact hreply _ _ (landMsg_wf _ _ _ h)

theorem execMessageHeaderArrival_wf (i : Nat) (s : State) (h : Memory.wf s.mem) : NextCanonical (execMessageHeaderArrival i s) :=
  .next (selfTimed_wf h (by
    split
    · split
      · exact receiveMsg_wf _ _ h
      · exact h
    · exact h))

theorem freeSlot_wf {t k : Nat} {s : State} (h : Memory.wf s.mem) : Memory.wf (freeSlot t k s).mem :=
  wf_of_mem_eq (freeSlot_mem _ _ _) h

theorem execMessageAcceptance_wf (i : Nat) (s : State) (h : Memory.wf s.mem) : NextCanonical (execMessageAcceptance i s) :=
  .next (selfTimed_wf h (by
    split
    · exact h
    · split
      · exact h
      · dsimp only
        split
        · exact freeSlot_wf (traceMsg_wf _ _ _ _ (wf_of_mem_eq (putFlag_mem _ _ _ _) h))
        · exact h))

theorem execNack_wf (i : Nat) (s : State) (h : Memory.wf s.mem) : NextCanonical (execNack i s) :=
  .next (selfTimed_wf h (by
    split
    · exact h
    · split
      · exact h
      · dsimp only
        split
        · exact h
        · next t k m _ =>
          have h1 (s' : State) (h' : Memory.wf s'.mem) : Memory.wf (traceMsg t m 1 s').mem := traceMsg_wf _ _ _ _ h'
          split
          · exact freeSlot_wf (h1 _ h)
          · split
            · exact wf_of_mem_eq (exhausted_mem _ _ _) (wf_of_mem_eq (wakeFences_mem _ _) (wf_of_mem_eq (dropKey_mem _ _ _) (h1 _ h)))
            · exact wf_of_mem_eq (onSend_mem _ _ _ _) (h1 _ h)))

theorem execReject_wf (i : Nat) (s : State) (h : Memory.wf s.mem) : NextCanonical (execReject i s) :=
  .next (selfTimed_wf h (by
    split
    · exact h
    · split
      · exact h
      · dsimp only
        split
        · exact h
        · have h1 (t k : Nat) (m : SendSlot) (s' : State) (h' : Memory.wf s'.mem) :
              Memory.wf (freeSlot t k (traceMsg t m 2 s')).mem := freeSlot_wf (traceMsg_wf _ _ _ _ h')
          split
          · exact h1 _ _ _ _ h
          · exact wf_of_mem_eq (sendFault_mem _ _ _ _ _) (h1 _ _ _ _ h)))

theorem execMsgInjection_wf (t : TileId) (slot : Fin 8) (s : State) (h : Memory.wf s.mem) : NextCanonical (execMsgInjection t slot s) :=
  .next (selfTimed_wf h (wf_of_mem_eq (tryInject_mem _ _ _) h))

theorem execRetry_wf (t : TileId) (slot : Fin 8) (s : State) (h : Memory.wf s.mem) : NextCanonical (execRetry t slot s) :=
  .next (selfTimed_wf h (by
    split
    · split
      · exact wf_of_mem_eq (tryInject_mem _ _ _) (wf_of_mem_eq (onSend_mem _ _ _ _) h)
      · exact h
    · exact h))

theorem execHandlerDispatch_wf (t : TileId) (s : State) (h : Memory.wf s.mem) : NextCanonical (execHandlerDispatch t s) :=
  .next (selfTimed_wf h (by
    dsimp only
    split
    · split
      · exact h
      · split
        · exact wf_of_mem_eq (startHandler_mem _ _ _ _ _ _) h
        · exact wf_of_mem_eq (startHandler_mem _ _ _ _ _ _) h
        · exact h
    · exact h))

end Sys2Proof.Machine

/-! SUPPORT. Tenant commands, the dictionary's entries and its requests keep memory canonical. -/
namespace Sys2Proof.Machine

/-! ### Tenants -/

theorem newKey_wf {s : State} (h : Memory.wf s.mem) : Memory.wf (newKey s).2.mem := wf_of_mem_eq (newKey_mem _) h

theorem onTenant_wf {n : Nat} {f : Tenant → Tenant} {s : State} (h : Memory.wf s.mem) : Memory.wf (onTenant n f s).mem :=
  wf_of_mem_eq (onTenant_mem _ _ _) h

theorem openPart_wf {n : Nat} {s : State} (h : Memory.wf s.mem) : Memory.wf (openPart n s).mem := wf_of_mem_eq (openPart_mem _ _) h

theorem assignTenant_wf (n : Nat) (s : State) (h : Memory.wf s.mem) : Memory.wf (assignTenant n s).2.mem := by
  unfold assignTenant
  dsimp only
  split
  · exact pair_wf h
  · split
    · refine pair_wf (wf_of_mem_eq (rekey_mem _ _ _ _) ?_)
      rw [State.onTrace_mem]
      exact onTenant_wf (newKey_wf h)
    · split
      · exact pair_wf h
      · split
        · exact pair_wf h
        · split
          · exact pair_wf h
          · exact pair_wf (wf_of_mem_eq (rekey_mem _ _ _ _) (onTenant_wf (newKey_wf h)))

theorem stopTenant_wf (n : Nat) (s : State) (h : Memory.wf s.mem) : Memory.wf (stopTenant n s).2.mem := by
  unfold stopTenant
  dsimp only
  split
  · exact pair_wf (wf_of_mem_eq (stopPartition_mem _ _ _) h)
  · exact pair_wf (wf_of_mem_eq (drawFree_mem _ _) h)

theorem killTenant_wf (n : Nat) (s : State) (h : Memory.wf s.mem) : Memory.wf (killTenant n s).2.mem := by
  unfold killTenant
  split
  · exact pair_wf h
  · extract_lets st s1
    have h1 : Memory.wf s1.mem := by
      dsimp only [s1]
      split
      · exact wf_of_mem_eq (stopPartition_mem _ _ _) h
      · exact h
    exact pair_wf (wf_of_mem_eq (fence_mem _ _ _) (onTenant_wf h1))

theorem switchTenant_wf (n : Nat) (s : State) (h : Memory.wf s.mem) : Memory.wf (switchTenant n s).2.mem := by
  unfold switchTenant
  split
  · exact pair_wf h
  · extract_lets old s1 s2 w s3
    have h1 : Memory.wf s1.mem := wipe_wf n s h
    have h3 : Memory.wf s3.mem := by
      dsimp only [s3]
      split
      · rw [State.onStaged_mem]
        exact wf_of_mem_eq (State.onPart_mem _ _ _) h1
      · have hkey := newKey_wf h1
        generalize newKey s1 = r at hkey ⊢
        exact onTenant_wf hkey
    exact pair_wf (openPart_wf h3)

theorem releaseTenant_wf (n : Nat) (s : State) (h : Memory.wf s.mem) : Memory.wf (releaseTenant n s).2.mem := by
  unfold releaseTenant
  split
  · exact pair_wf h
  · exact pair_wf (openPart_wf (onTenant_wf (unscrub_wf _ _ _ (wipe_wf n s h))))

theorem endTenant_wf (n : Nat) (r : TenRes) (h : Memory.wf r.2.mem) : Memory.wf (endTenant n r).2.mem := by
  have hend (s : State) (f : Tenant → Tenant) (h : Memory.wf s.mem) :
      Memory.wf (causePart n 3 (settleDevState (onTenant n f s))).mem :=
    wf_of_mem_eq (causePart_mem _ _ _) (wf_of_mem_eq (settleDevState_mem _) (onTenant_wf h))
  obtain ⟨k, s⟩ := r
  cases k with
  | none => exact pair_wf (hend _ _ h)
  | some => exact pair_wf (hend _ _ h)

theorem tenantCmd_wf (n v : Nat) (s : State) (h : Memory.wf s.mem) : Memory.wf (tenantCmd n v s).2.mem := by
  unfold tenantCmd
  extract_lets s1 fin auto
  have h1 : Memory.wf s1.mem := wf_of_mem_eq (settleDevState_mem _) (onTenant_wf h)
  have hfin (r : TenRes) (hr : Memory.wf r.2.mem) : Memory.wf (fin r).2.mem := pair_wf (endTenant_wf n r hr)
  split
  · exact hfin _ (assignTenant_wf n s1 h1)
  · exact hfin _ (stopTenant_wf n s1 h1)
  · exact hfin _ (killTenant_wf n s1 h1)
  · have h2 : Memory.wf (switchTenant n s1).2.mem := switchTenant_wf n s1 h1
    split
    · next s2 heq =>
      rw [heq] at h2
      have hload := load_wf n false _ (serveFaults_wf n s2 h2)
      split
      · split
        · next s3 heq =>
          rw [heq] at hload
          exact pair_wf hload
        · next s3 heq =>
          rw [heq] at hload
          exact hfin _ hload
      · exact hfin _ h2
    · exact hfin _ h2
  · exact hfin _ (releaseTenant_wf n s1 h1)

/-! ### The entries that are written -/

/-- The memory that a write of an entry leaves is canonical. -/
def WriteRes.Canonical : WriteRes → Prop
  | .stat _ => True
  | .done s | .pend _ s => Memory.wf s.mem

theorem refuseIf_canonical {bad : Bool} {s : State} (h : Memory.wf s.mem) : (refuseIf bad s).Canonical := by
  unfold refuseIf
  split
  · trivial
  · exact h

theorem writePower_canonical (sub v : Nat) (s : State) (h : Memory.wf s.mem) : (writePower sub v s).Canonical := by
  unfold writePower
  split
  · exact refuseIf_canonical (wf_of_mem_eq (endLowering_mem _) h)
  · exact refuseIf_canonical h

theorem writeAgeing_canonical (sub v : Nat) (s : State) (h : Memory.wf s.mem) : (writeAgeing sub v s).Canonical := by
  unfold writeAgeing
  split
  · exact refuseIf_canonical (wf_of_mem_eq (endLowering_mem _) h)
  · split
    · exact h
    · trivial

theorem writeLinks_canonical (sub v : Nat) (s : State) (h : Memory.wf s.mem) : (writeLinks sub v s).Canonical := by
  unfold writeLinks
  split
  · exact refuseIf_canonical (settlePorts_wf _ h)
  · exact refuseIf_canonical (settlePorts_wf _ h)
  · exact h
  · exact h
  · exact refuseIf_canonical h
  · exact settlePorts_wf _ h
  · exact refuseIf_canonical (wf_of_mem_eq (zeroLinks_mem s) h)

theorem writeLoad_canonical (n v : Nat) (s : State) (h : Memory.wf s.mem) : (writeLoad n v s).Canonical := by
  unfold writeLoad
  split
  · trivial
  · split
    · trivial
    · split
      · exact h
      · have hload := load_wf n (v == 1) _ (serveFaults_wf n s h)
        split
        · next heq => rw [heq] at hload; exact hload
        · next heq => rw [heq] at hload; exact hload

theorem writeTenant_canonical (n v : Nat) (s : State) (h : Memory.wf s.mem) : (writeTenant n v s).Canonical := by
  unfold writeTenant
  split
  · trivial
  · split
    · trivial
    · have hcmd := tenantCmd_wf n v s h
      split
      · next heq => rw [heq] at hcmd; exact hcmd
      · next heq => rw [heq] at hcmd; exact hcmd

theorem writePartition_canonical (n sub v : Nat) (s : State) (h : Memory.wf s.mem) : (writePartition n sub v s).Canonical := by
  unfold writePartition
  split
  · exact h
  · exact h
  · exact h
  · exact h
  · split
    · trivial
    · split
      · trivial
      · exact applyTable_wf s h
  · exact refuseIf_canonical (onTenant_wf h)
  · exact onTenant_wf h
  · exact writeTenant_canonical n v s h
  · exact refuseIf_canonical (onTenant_wf h)
  · exact refuseIf_canonical h
  · exact writeLoad_canonical n v s h

theorem writeBlotter_canonical (sub v : Nat) (s : State) (h : Memory.wf s.mem) : (writeBlotter sub v s).Canonical := by
  unfold writeBlotter
  split
  · exact refuseIf_canonical h
  · exact refuseIf_canonical (wf_of_mem_eq (clearBlotter_mem _) h)
  · exact h

theorem writeDump_canonical (sub v : Nat) (s : State) (h : Memory.wf s.mem) : (writeDump sub v s).Canonical := by
  unfold writeDump
  split
  · split
    · trivial
    · split
      · trivial
      · exact wf_of_mem_eq (startDump_mem _) h
  · exact refuseIf_canonical h

theorem retrace_canonical (f : Trace → Trace) (s : State) (h : Memory.wf s.mem) : (retrace f s).Canonical := by
  unfold retrace
  split
  · exact h
  · split
    · next heq => exact traceOn_wf _ _ heq (wf_of_mem_eq (State.onTrace_mem _ _) (traceOff_wf s h))
    · trivial

theorem writeTraceOn_canonical (v : Nat) (s : State) (h : Memory.wf s.mem) : (writeTraceOn v s).Canonical := by
  unfold writeTraceOn
  split
  · exact traceOff_wf s h
  · split
    · next heq => exact traceOn_wf _ _ heq h
    · trivial
  · trivial

theorem writeTrace_canonical (sub v : Nat) (s : State) (h : Memory.wf s.mem) : (writeTrace sub v s).Canonical := by
  unfold writeTrace
  split
  · exact writeTraceOn_canonical v s h
  · split
    · trivial
    · exact retrace_canonical _ s h
  · split
    · trivial
    · exact retrace_canonical _ s h
  · split
    · trivial
    · exact retrace_canonical _ s h
  · exact refuseIf_canonical h
  · exact h
  · exact h
  · exact refuseIf_canonical (wf_of_mem_eq (triggerTrace_mem _) h)
  · exact h
  · exact h
  · exact h
  · exact refuseIf_canonical h
  · exact h
  · exact refuseIf_canonical h

theorem writeAlign_canonical (e : Option Probes) (v : Nat) (s : State) (h : Memory.wf s.mem) : (writeAlign e v s).Canonical := by
  unfold writeAlign
  split
  · trivial
  · split
    · trivial
    · cases e with
      | some => exact h
      | none =>
        have hprobes : Memory.wf (freeProbes s).2.mem := wf_of_mem_eq (freeProbes_mem s) h
        generalize freeProbes s = r at hprobes ⊢
        exact hprobes

theorem writeChallenge_canonical (v : Nat) (s : State) (h : Memory.wf s.mem) : (writeChallenge v s).Canonical := by
  unfold writeChallenge
  split
  · trivial
  · split
    · trivial
    · exact wf_of_mem_eq (makeChallenge_mem _ _) h

theorem writeFirmware_canonical (sub v : Nat) (data : Bytes) (s : State) (h : Memory.wf s.mem) :
    (writeFirmware sub v data s).Canonical := by
  unfold writeFirmware
  split
  · split
    · exact h
    · trivial
  · split
    · exact wf_of_mem_eq (verifySlot_mem s) h
    · trivial
  · exact writeChallenge_canonical v s h
  · exact wf_of_mem_eq (answerChallenge_mem data s) h
  · exact refuseIf_canonical (wf_of_mem_eq (relockAll_mem s) h)

theorem writeRecovery_canonical (n v : Nat) (s : State) (h : Memory.wf s.mem) : (writeRecovery n v s).Canonical := by
  unfold writeRecovery
  split
  · trivial
  · extract_lets s1
    have h1 : Memory.wf s1.mem := wf_of_mem_eq (onCommit_mem _ _ _) h
    refine wf_of_mem_eq (onCommit_mem _ _ _) ?_
    split
    · exact h1
    · split
      · exact forward_wf _ _ _ h1
      · exact back_wf _ _ _ h1

theorem writeEntry_canonical (e : Option Probes) (s : State) (m : Option Nat) (idx sub : Nat) (data : Bytes) (h : Memory.wf s.mem) :
    (writeEntry e s m idx sub data).Canonical := by
  unfold writeEntry
  extract_lets v
  split
  · exact refuseIf_canonical h
  · split
    · exact wf_of_mem_eq (stopAll_mem s) h
    · trivial
  · exact writePower_canonical sub v s h
  · exact refuseIf_canonical h
  · exact writeAgeing_canonical sub v s h
  · exact refuseIf_canonical (wf_of_mem_eq (State.onTime_mem _ _) h)
  · exact writeLinks_canonical sub v s h
  · exact refuseIf_canonical h
  · exact writePartition_canonical _ sub v s h
  · exact writeBlotter_canonical sub v s h
  · exact writeDump_canonical sub v s h
  · exact writeTrace_canonical sub v s h
  · exact writeAlign_canonical e v s h
  · exact writeFirmware_canonical sub v data s h
  · exact writeRecovery_canonical _ v s h

/-! ### The dictionary's requests -/

theorem endWrite_wf {s : State} {r : WriteRes} (h : Memory.wf s.mem) (hr : r.Canonical) : Memory.wf (endWrite s r).s.mem := by
  cases r with
  | stat => exact h
  | done | pend => exact hr

theorem prepareRead_wf {idx sub : Nat} {s : State} (h : Memory.wf s.mem) : Memory.wf (prepareRead idx sub s).mem :=
  wf_of_mem_eq (prepareRead_mem _ _ _) h

theorem doRead_wf (m : Option Nat) (idx : Nat) (e : EntryRow) (r : Req) (s : State) (h : Memory.wf s.mem) :
    Memory.wf (doRead m idx e r s).s.mem := by
  unfold doRead
  split
  · exact h
  · dsimp only
    split
    · exact prepareRead_wf h
    · exact prepareRead_wf h

theorem blockReadOne_wf (m : Option Nat) (idx : Nat) (e : EntryRow) (r : Req) (s : State) (h : Memory.wf s.mem) :
    Memory.wf (blockReadOne m idx e r s).s.mem := by
  unfold blockReadOne
  split
  · exact h
  · split
    · exact h
    · extract_lets now s1 x s2
      have h2 : Memory.wf s2.mem := by
        dsimp only [s2]
        split
        · exact prepareRead_wf h
        · exact h
      split
      · exact h2
      · split
        · exact h2
        · exact h2

theorem blockReadMany_wf (m : Option Nat) (idx : Nat) (r : Req) (s : State) (h : Memory.wf s.mem) :
    Memory.wf (blockReadMany m idx r s).s.mem := by
  unfold blockReadMany
  extract_lets subs rows
  split
  · exact h
  · split
    · exact h
    · have h1 : Memory.wf (subs.foldl (fun s k => prepareRead idx k s) s).mem := foldl_wf _ _ (fun _ _ h => prepareRead_wf h) s h
      split
      · exact h1
      · exact h1

theorem doWrite_wf (p : Option Probes) (m : Option Nat) (idx : Nat) (e : EntryRow) (r : Req) (s : State) (h : Memory.wf s.mem) :
    Memory.wf (doWrite p m idx e r s).s.mem := by
  unfold doWrite
  split
  · exact h
  · exact endWrite_wf h (writeEntry_canonical _ _ _ _ _ _ h)

theorem doBlockWrite_wf (m : Option Nat) (idx : Nat) (e : EntryRow) (r : Req) (s : State) (h : Memory.wf s.mem) :
    Memory.wf (doBlockWrite m idx e r s).s.mem := by
  unfold doBlockWrite
  split
  · exact h
  · split
    · exact h
    · split
      · exact wf_of_mem_eq (writeSlot_mem _ _ _) h
      · split
        · extract_lets v s1
          have h1 : Memory.wf s1.mem := h
          split
          · exact endWrite_wf h1 (writeEntry_canonical _ _ _ _ _ _ h1)
          · exact h1
        · exact endWrite_wf h (writeEntry_canonical _ _ _ _ _ _ h)

theorem doSubscribe_wf (src : BitVec 48) (m : Option Nat) (idx : Nat) (e : EntryRow) (r : Req) (s : State) (h : Memory.wf s.mem) :
    Memory.wf (doSubscribe src m idx e r s).s.mem := by
  unfold doSubscribe
  dsimp only
  split
  · exact h
  · split
    · exact h
    · split
      · exact h
      · exact h

theorem doUnsubscribe_wf (src : BitVec 48) (r : Req) (s : State) (h : Memory.wf s.mem) :
    Memory.wf (doUnsubscribe src r s).s.mem := by
  unfold doUnsubscribe
  split
  · exact h
  · exact h

theorem carryOut_wf (p : Option Probes) (r : Req) (s : State) (h : Memory.wf s.mem) : Memory.wf (carryOut p r s).s.mem := by
  unfold carryOut
  dsimp only
  split
  · exact h
  · split
    · exact h
    · split
      · exact h
      · split
        · exact h
        · split
          · exact h
          · split
            · exact doRead_wf _ _ _ _ _ h
            · exact doWrite_wf _ _ _ _ _ _ h
            · split
              · exact blockReadMany_wf _ _ _ _ h
              · exact blockReadOne_wf _ _ _ _ _ h
            · exact doBlockWrite_wf _ _ _ _ _ h
            · split
              · split
                · exact doSubscribe_wf _ _ _ _ _ _ h
                · exact doUnsubscribe_wf _ _ _ h
              · exact h

theorem deliver_wf {a : IdpAns} {s : State} (h : Memory.wf s.mem) : Memory.wf (deliver a s).mem := wf_of_mem_eq (deliver_mem _ _) h

theorem remember_wf {a : IdpAns} {s : State} (h : Memory.wf s.mem) : Memory.wf (remember a s).mem := wf_of_mem_eq (remember_mem _ _) h

theorem respond_wf (p : Option Probes) (r : Req) (s : State) (h : Memory.wf s.mem) : Memory.wf (respond p r s).mem := by
  unfold respond
  split
  · exact deliver_wf (remember_wf h)
  · extract_lets d a s1
    have hd : Memory.wf d.s.mem := carryOut_wf p r s h
    have h1 : Memory.wf s1.mem := by
      dsimp only [s1]
      split
      · exact hd
      · exact hd
    exact deliver_wf (remember_wf h1)

theorem doorbell_wf (f : FnId) (part : BitVec 3) (v : Byte) (s : State) (h : Memory.wf s.mem) :
    Memory.wf (doorbell f part v s).mem := by
  unfold doorbell
  dsimp only
  split
  · exact h
  · split
    · exact wf_of_mem_eq (raiseCause_mem _ _ _) h
    · split
      · exact deliver_wf h
      · split
        · exact deliver_wf h
        · exact respond_wf _ _ _ h

theorem handle_wf (p : Option Probes) (r : Req) (s : State) (h : Memory.wf s.mem) : Memory.wf (handle p r s).mem := by
  unfold handle
  extract_lets run
  have hrun (s' : State) (h' : Memory.wf s'.mem) : Memory.wf (run s').mem := by
    dsimp only [run]
    split
    · exact deliver_wf h'
    · exact respond_wf _ _ _ h'
  split
  · split
    · exact h
    · exact hrun _ h
  · split
    · exact hrun _ h
    · exact h
  · exact doorbell_wf _ _ _ _ h

theorem request_wf (h : ReqHdr) (index sub : Nat) (data : Bytes) (s : State) (w : Memory.wf s.mem) :
    NextCanonical (request h index sub data s) :=
  .next (handle_wf _ _ _ w)

theorem ask_wf (r : Req) (s : State) (h : Memory.wf s.mem) : NextCanonical (ask r s) := by
  unfold ask
  split
  · exact .next h
  · exact .next (handle_wf _ _ _ h)

theorem endAlign_mem (e : Probes) (s : State) : (endAlign e s).2.mem = s.mem := by
  unfold endAlign
  split
  · rfl
  · rfl

theorem finalOf_wf {q : IdpPend} {s : State} (h : Memory.wf s.mem) {r : Nat × State} (hr : finalOf q s = some r) :
    Memory.wf r.2.mem := by
  unfold finalOf at hr
  split at hr
  · cases hr
    exact h
  · split at hr
    · cases hr
    · dsimp only at hr
      split at hr
      · split at hr
        · cases hr
        · cases hr
          exact h
      · split at hr
        · split at hr
          · cases hr
            exact pair_wf (wf_of_mem_eq (endAlign_mem _ _) h)
          · cases hr
        · split at hr
          · split at hr
            · cases hr
            · cases hr
              exact pair_wf (wf_of_mem_eq (endDump_mem _) h)
          · split at hr
            · cases hr
              exact pair_wf (endTenant_wf _ _ h)
            · cases hr

theorem execIdpFinalAnswer_wf (i : Nat) (s : State) (h : Memory.wf s.mem) : NextCanonical (execIdpFinalAnswer i s) := by
  refine .next ?_
  split
  · exact h
  · split
    · exact h
    · split
      · exact h
      · next q _ _ k s1 heq =>
        have h1 : Memory.wf s1.mem := finalOf_wf h heq
        dsimp only
        split
        · exact h1
        · refine deliver_wf ?_
          split
          · exact h1
          · exact remember_wf h1

theorem execNotify_wf (i : Nat) (s : State) (h : Memory.wf s.mem) : NextCanonical (execNotify i s) := by
  refine .next ?_
  split
  · exact h
  · split
    · exact h
    · exact h

theorem execTransmitOpportunity_wf (s : State) (h : Memory.wf s.mem) : NextCanonical (execTransmitOpportunity s) := by
  refine .next ?_
  dsimp only
  split
  · exact h
  · refine foldl_wf _ _ (fun s a h => ?_) _ h
    split
    · exact wf_of_mem_eq (applyStaged_mem _ _) h
    · exact h

theorem execEventInput_wf (highNs : Nat) (s : State) (h : Memory.wf s.mem) : NextCanonical (execEventInput highNs s) := by
  refine .next (selfTimed_wf h ?_)
  extract_lets t s1 s2
  split
  · exact h
  · have h1 : Memory.wf s1.mem := by
      dsimp only [s1]
      split
      · exact wf_of_mem_eq (triggerTrace_mem _) h
      · exact h
    have h2 : Memory.wf s2.mem := by
      dsimp only [s2]
      split
      · exact haltPart_wf _ _ _ h1
      · exact h1
    split
    · exact wf_of_mem_eq (startDump_mem _) h2
    · exact h2

end Sys2Proof.Machine

/-! SUPPORT. The debugger, the units, the Nib cores, the links, the host and the power commands keep memory canonical. -/
namespace Sys2Proof.Machine

/-! ### The debugger -/

theorem dbgDone_wf {r : MemRes × State} {old : State} (hr : Memory.wf r.2.mem) (h : Memory.wf old.mem) :
    Memory.wf (dbgDone r old).2.mem := by
  obtain ⟨v, s⟩ := r
  cases v with
  | data | ack => exact hr
  | fault => exact h

theorem dbgBulk_wf (a : Nat) (v : Option Word) (s : State) (h : Memory.wf s.mem) : Memory.wf (dbgBulk a v s).2.mem := by
  unfold dbgBulk
  split
  · next v =>
    have hwrite := bulkWrite_wf a (toBytes v.toNat 8) s h
    split
    · next heq => rw [heq] at hwrite; exact hwrite
    · exact h
  · have hread := wf_of_mem_eq (bulkReadLine_mem (a / 128) s) h
    split
    · next heq => rw [heq] at hread; exact hread
    · exact h

theorem dbgLocal_wf (a : Nat) (v : Option Word) (s : State) (h : Memory.wf s.mem) : Memory.wf (dbgLocal a v s).2.mem := by
  unfold dbgLocal
  extract_lets op s1
  split
  · split
    · exact dbgDone_wf (atSram_wf _ _ _ s h) h
    · exact h
  · split
    · exact h
    · split
      · exact pair_wf (wf_of_mem_eq (putBlock_mem _ _ _ _) h)
      · exact h
  · next o _ =>
    split
    · split
      · next heq => exact devWrite_wf _ _ _ _ _ heq h
      · exact h
    · have hread := devReadAt_wf .debugger o s h
      split
      · next heq => rw [heq] at hread; exact hread
      · next heq => rw [heq] at hread; exact hread
  · have h1 : Memory.wf s1.mem := awaitLine_wf a s h
    split
    · exact dbgDone_wf (atBulk_wf _ _ s1 h1) h1
    · exact dbgBulk_wf a v s1 h1
  · exact h

theorem dbgView_mem (a : Nat) (s : State) : (dbgView a s).2.mem = s.mem := by
  unfold dbgView
  extract_lets free
  have hfree (s' : State) : (free s').2.mem = s'.mem := drawFree_mem 64 s'
  split
  · split
    · rfl
    · split
      · exact hfree s
      · rfl
  · split
    · rfl
    · rfl
  · split
    · rfl
    · rfl
  · split
    · exact hfree s
    · split
      · rfl
      · split
        · exact hfree s
        · rfl
  · rfl

/-- An offset of the device debug block at which no register stands. -/
theorem deviceDbg_none (p : DbgPath) {o : Nat} (ho : o ∉ [0, 8, 16]) (v : Option Word) (s : State) :
    deviceDbg p o v s = (none, s) := by
  match o with
  | 0 | 8 | 16 => simp at ho
  | 1 | 2 | 3 | 4 | 5 | 6 | 7 | 9 | 10 | 11 | 12 | 13 | 14 | 15 | _ + 17 => exact ite_self (none, s)

theorem dbg_ite_wf {b : Prop} [Decidable b] {x y : DbgRes} (hx : Memory.wf x.2.mem) (hy : Memory.wf y.2.mem) :
    Memory.wf (if b then x else y).2.mem := by
  split
  · exact hx
  · exact hy

theorem deviceDbg_wf (p : DbgPath) (o : Nat) (v : Option Word) (s : State) (h : Memory.wf s.mem) :
    Memory.wf (deviceDbg p o v s).2.mem := by
  by_cases ho : o ∈ [0, 8, 16]
  · simp only [List.mem_cons, List.not_mem_nil, or_false] at ho
    unfold deviceDbg
    refine dbg_ite_wf h ?_
    obtain rfl | rfl | rfl := ho
    · cases v with
      | none => exact h
      | some v => exact dbg_ite_wf h h
    · cases v with
      | none => exact h
      | some v =>
        refine dbg_ite_wf (pair_wf ?_) h
        exact foldl_wf _ _ (fun s n h => wf_of_mem_eq (resumePart_mem n s) h) _ (foldl_wf _ _ (fun s n h => haltPart_wf _ n s h) s h)
    · cases v with
      | none | some => exact h
  · rw [deviceDbg_none p ho]
    exact h
theorem dbgAccess_wf (p : DbgPath) (a : Nat) (v : Option Word) (s : State) (h : Memory.wf s.mem) :
    Memory.wf (dbgAccess p a v s).2.mem := by
  unfold dbgAccess
  split
  · exact h
  · split
    · split
      · exact dbgLocal_wf a v s h
      · exact h
    · split
      · split
        · exact h
        · split
          · exact wf_of_mem_eq (dbgView_mem _ s) h
          · exact h
      · split
        · dsimp only
          split
          · exact h
          · split
            · split
              · next heq => exact writeTileDbg_wf _ _ _ _ _ heq h
              · exact h
            · split
              · exact h
              · exact h
        · split
          · exact deviceDbg_wf _ _ _ s h
          · exact h

theorem runDbg_wf (p : DbgPath) (a : Nat) (v : Option Word) (s : State) (h : Memory.wf s.mem) :
    Memory.wf (runDbg p a v s).mem := by
  have haccess := dbgAccess_wf p a v s h
  unfold runDbg
  split
  · next heq =>
    rw [heq] at haccess
    exact haccess
  · next s1 heq =>
    rw [heq] at haccess
    exact wf_of_mem_eq (drawFree_mem 64 s1) haccess

theorem refuseBar0_wf {f : FnId} {o : Nat} {s : State} (h : Memory.wf s.mem) : Memory.wf (refuseBar0 f o s).mem :=
  wf_of_mem_eq (refuseBar0_mem _ _ _) h

theorem closedAccess_wf (p : DbgPath) (op : BitVec 2) (s : State) (h : Memory.wf s.mem) :
    Memory.wf (closedAccess p op s).mem := by
  unfold closedAccess
  split
  · exact h
  · next f =>
    have h1 : Memory.wf (refuseBar0 f 0x10000 s).mem := refuseBar0_wf h
    dsimp only
    split
    · split
      · exact wf_of_mem_eq (refuseHost_mem _ _) h1
      · exact h1
    · split
      · exact refuseBar0_wf h1
      · exact h1

theorem execDebugAccess_wf (p : DbgPath) (op : BitVec 2) (addr data : Word) (s : State) (h : Memory.wf s.mem) :
    NextCanonical (execDebugAccess p op addr data s) := by
  refine .next ?_
  split
  · exact h
  · split
    · exact closedAccess_wf p op s h
    · extract_lets s1
      have h1 : Memory.wf s1.mem := by
        cases p with
        | jtag | window => exact h
      split
      · have hrun : Memory.wf (runDbg p addr.toNat none s1).mem := runDbg_wf _ _ _ s1 h1
        unfold windowAnswer
        split
        · exact hrun
        · exact wf_of_mem_eq (hostAnswer_mem _ _ _) hrun
      · split
        · exact runDbg_wf _ _ _ s1 h1
        · exact h1

theorem execDbgHalt_wf (w : Writer) (t : TileId) (force : Bool) (s : State) (h : Memory.wf s.mem) :
    NextCanonical (execDbgHalt w t force s) :=
  .next (selfTimed_wf h (by
    split
    · exact haltTile_wf _ _ s h
    · exact h))

theorem execHaltTakesEffect_wf (t : TileId) (s : State) (h : Memory.wf s.mem) : NextCanonical (execHaltTakesEffect t s) :=
  .next (selfTimed_wf h (by
    split
    · exact wf_of_mem_eq (haltAll_mem _ s) h
    · exact h))

theorem execDbgResume_wf (w : Writer) (t : TileId) (s : State) (h : Memory.wf s.mem) : NextCanonical (execDbgResume w t s) :=
  .next (selfTimed_wf h (by
    split
    · exact wf_of_mem_eq (resumeTile_mem _ s) h
    · exact h))

theorem execDbgStep_wf (w : Writer) (t : TileId) (c : CtxId) (s : State) (h : Memory.wf s.mem) :
    NextCanonical (execDbgStep w t c s) :=
  .next (selfTimed_wf h (by
    split
    · exact wf_of_mem_eq (stepCtx_mem _ _ s) h
    · exact h))

theorem execPartitionHalt_wf (w : Writer) (parts : BitVec 6) (force : Bool) (s : State) (h : Memory.wf s.mem) :
    NextCanonical (execPartitionHalt w parts force s) :=
  .next (selfTimed_wf h (by
    split
    · exact foldl_wf _ _ (fun s n h => haltPart_wf force n s h) s h
    · exact h))

theorem execPartitionResume_wf (w : Writer) (parts : BitVec 6) (s : State) (h : Memory.wf s.mem) :
    NextCanonical (execPartitionResume w parts s) :=
  .next (selfTimed_wf h (by
    split
    · exact foldl_wf _ _ (fun s n h => wf_of_mem_eq (resumePart_mem n s) h) s h
    · exact h))

theorem execPcsample_wf (t : TileId) (s : State) (h : Memory.wf s.mem) : NextCanonical (execPcsample t s) :=
  .next (selfTimed_wf h (by
    dsimp only
    split
    · exact h
    · exact traceTile_wf _ _ _ _ _ s h))

theorem execCounterFold_wf (r : RegionId) (s : State) (h : Memory.wf s.mem) : NextCanonical (execCounterFold r s) :=
  .next (selfTimed_wf h (by
    split
    · exact foldl_wf _ _ (fun s t h => wf_of_mem_eq (foldTile_mem t s) h) _ (wf_of_mem_eq (serveDump_mem _ s) h)
    · exact h))

/-! ### The engines and the transfer units -/

theorem execMmCompletion_wf (t : TileId) (s : State) (h : Memory.wf s.mem) : NextCanonical (execMmCompletion t s) := by
  refine .next ?_
  split
  · split
    · exact selfTimed_wf h (endStopped_wf _ _ s (runMm_wf _ _ s h))
    · split
      · exact h
      · exact complete_wf _ _ _ (runMm_wf t) s h
  · exact h

theorem execMovtCompletion_wf (t : TileId) (s : State) (h : Memory.wf s.mem) : NextCanonical (execMovtCompletion t s) := by
  refine .next (selfTimed_wf h ?_)
  split
  · exact h
  · next op _ =>
    extract_lets ps go
    split
    · exact h
    · have hturn : Memory.wf (if injects s t op then takeTurn t 4 1 s else (true, s)).2.mem := by
        split
        · exact wf_of_mem_eq (takeTurn_mem _ _ _ s) h
        · exact h
      split
      · next heq =>
        rw [heq] at hturn
        exact hturn
      · next s1 heq =>
        rw [heq] at hturn
        split
        · exact endMovt_wf _ _ _ _ s1 hturn
        · split
          · exact endMovt_wf _ _ _ _ _ (movePieces_wf _ _ _ _ _ s1 hturn)
          · exact pump_wf _ _ s1 hturn

theorem onBranch_wf {b : Option RegionId} {f : EnlBranch → EnlBranch} {s : State} (h : Memory.wf s.mem) :
    Memory.wf (onBranch b f s).mem :=
  wf_of_mem_eq (onBranch_mem _ _ _) h

theorem execEnlTransferStart_wf (b : Option RegionId) (s : State) (h : Memory.wf s.mem) : NextCanonical (execEnlTransferStart b s) := by
  refine .next (selfTimed_wf h ?_)
  cases b with
  | some | none =>
    dsimp only
    split
    · split
      · exact onBranch_wf h
      · exact h
    · exact h

theorem execEnlLineLanding_wf (b : Option RegionId) (s : State) (h : Memory.wf s.mem) : NextCanonical (execEnlLineLanding b s) := by
  refine .next (selfTimed_wf h ?_)
  split
  · exact h
  · next q k _ =>
    split
    · exact h
    · have hadmit := wf_of_mem_eq (enlAdmit_mem q s) h
      split
      · next heq =>
        rw [heq] at hadmit
        exact hadmit
      · next s1 heq =>
        rw [heq] at hadmit
        have hline := enlLine_wf q k s1 hadmit
        split
        · next heq =>
          rw [heq] at hline
          exact wf_of_mem_eq (tileFault_mem _ _ _) (onBranch_wf hline)
        · next d s2 heq =>
          rw [heq] at hline
          extract_lets s3
          have h3 : Memory.wf s3.mem :=
            wf_of_mem_eq (countLines_mem _ _) (foldl_wf _ _ (fun s t h => landLine_wf q k d t s h) s2 hline)
          split
          · exact onBranch_wf h3
          · exact traceDoneFree_wf _ _ _ _ (onBranch_wf h3)

theorem execStartQueueAcceptance_wf (t : TileId) (unit : Fin 5) (u : Upset) (s : State) (h : Memory.wf s.mem) :
    NextCanonical (execStartQueueAcceptance t unit u s) :=
  .next (selfTimed_wf h (withUpset_wf _ _ _ (fun s h => takeHead_wf _ _ s h) s h))

/-! ### The Nib cores -/

theorem execWaitCancel_wf (i : Nat) (s : State) (h : Memory.wf s.mem) : NextCanonical (execWaitCancel i s) :=
  .next (selfTimed_wf h (by
    split
    · exact h
    · dsimp only
      split
      · exact wf_of_mem_eq (tileFault_mem _ _ _) h
      · exact h))

theorem execTimeoutScan_wf (r : RegionId) (elapsed : Nat) (s : State) (h : Memory.wf s.mem) :
    NextCanonical (execTimeoutScan r elapsed s) :=
  .next (selfTimed_wf h (by
    dsimp only
    split
    · exact h
    · exact h))

theorem sendSetpoint_wf {mv : Nat} {s : State} (h : Memory.wf s.mem) : Memory.wf (sendSetpoint mv s).mem :=
  wf_of_mem_eq (sendSetpoint_mem _ _) h

theorem execSetpointLowering_wf (elapsed : Nat) (s : State) (h : Memory.wf s.mem) : NextCanonical (execSetpointLowering elapsed s) :=
  .next (selfTimed_wf h (by
    dsimp only
    split
    · exact h
    · exact wf_of_mem_eq (State.onPower_mem _ _) (sendSetpoint_wf h)))

theorem execCommitStamp_wf (n : PartId) (s : State) (h : Memory.wf s.mem) : NextCanonical (execCommitStamp n s) :=
  .next (selfTimed_wf h (by
    split
    · split
      · exact stampStep_wf _ _ s h
      · exact h
    · exact h))

theorem execCommitApply_wf (n : PartId) (s : State) (h : Memory.wf s.mem) : NextCanonical (execCommitApply n s) :=
  .next (selfTimed_wf h (by
    split
    · split
      · exact applyStep_wf _ _ _ _ _ (nibFetch_wf _ _ _ s h)
      · exact h
    · exact h))

theorem execPhaseDeclaration_wf (r : RegionId) (s : State) (h : Memory.wf s.mem) : NextCanonical (execPhaseDeclaration r s) :=
  .next (selfTimed_wf h (by
    dsimp only
    split
    · exact h
    · split
      · exact endLoad_wf _ s h
      · exact wf_of_mem_eq (finishLoad_mem _ _) (declareRegion_wf _ s h)))

theorem execFaultRecord_wf (i : Nat) (s : State) (h : Memory.wf s.mem) : NextCanonical (execFaultRecord i s) := by
  refine .next ?_
  split
  · split
    · exact receiveRec_wf _ _ h
    · exact h
  · exact h

theorem execNibWatchdog_wf (r : RegionId) (s : State) (h : Memory.wf s.mem) : NextCanonical (execNibWatchdog r s) := by
  refine .next ?_
  split
  · exact leaveService_wf _ _ _ (wf_of_mem_eq (raiseRec_mem _ s) h)
  · exact h

/-! ### The links -/

theorem updateLevel_wf {s : State} (h : Memory.wf s.mem) : Memory.wf (updateLevel s).mem := wf_of_mem_eq (updateLevel_mem _) h

theorem drain_wf {p : Nat} {s : State} (h : Memory.wf s.mem) : Memory.wf (drain p s).mem := wf_of_mem_eq (drain_mem _ _) h

theorem onPort_wf {p : Nat} {f : PortSt → PortSt} {s : State} (h : Memory.wf s.mem) : Memory.wf (s.onPort p f).mem := h

theorem execFlitReceived_wf (p : PortId) (fec : Option Nat) (flit : Bytes) (u : Upset) (s : State) (h : Memory.wf s.mem) :
    NextCanonical (execFlitReceived p fec flit u s) := by
  refine .next (selfTimed_wf h (withUpset_wf _ _ _ (fun s h => ?_) s h))
  split
  · exact h
  · extract_lets s1 hd s2
    have h1 : Memory.wf s1.mem := h
    have h2 : Memory.wf s2.mem := drain_wf (onPort_wf h1)
    split
    · exact onPort_wf h1
    · split
      · exact onPort_wf (takeFlit_wf _ _ _ s2 h2)
      · exact h2

theorem execPortTraining_wf (p : PortId) (partner : Partner) (s : State) (h : Memory.wf s.mem) :
    NextCanonical (execPortTraining p partner s) := by
  refine .next (selfTimed_wf h (updateLevel_wf ?_))
  split
  · exact h
  · split
    · exact markDown_wf _ s h
    · extract_lets s1 s2
      have h2 : Memory.wf s2.mem := h
      split
      · exact mismatch_wf _ s2 h2
      · split
        · exact markDown_wf _ s2 h2
        · exact drain_wf (onPort_wf h2)

theorem execRetrainEnd_wf (p : PortId) (ok : Bool) (lanes : Nat) (s : State) (h : Memory.wf s.mem) :
    NextCanonical (execRetrainEnd p ok lanes s) := by
  refine .next (selfTimed_wf h (updateLevel_wf ?_))
  split
  · exact h
  · split
    · exact markDown_wf _ s h
    · exact releaseSys_wf _ (drain_wf (onPort_wf h))

theorem execDetourLive_wf (p : PortId) (s : State) (h : Memory.wf s.mem) : NextCanonical (execDetourLive p s) := by
  refine .next (selfTimed_wf h (updateLevel_wf ?_))
  split
  · exact h
  · split
    · exact h
    · exact releaseSys_wf _ (reroute_wf _ _ _ (onPort_wf h))

/-! ### Time, power and background work -/

theorem execTbeatPublication_wf (beats hops : List Nat) (s : State) (h : Memory.wf s.mem) :
    NextCanonical (execTbeatPublication beats hops s) := by
  refine .next ?_
  extract_lets s1 s2
  have h1 : Memory.wf s1.mem := wf_of_mem_eq (endDump_mem _) (wf_of_mem_eq (advanceTime_mem _ s) h)
  have h2 : Memory.wf s2.mem := wf_of_mem_eq (leavePosted_mem _ s1) h1
  split
  · exact wf_of_mem_eq (countBeats_mem _) (wf_of_mem_eq (publishBeats_mem _ _ s2) h2)
  · exact h2

theorem execPoolPublication_wf (s : State) (h : Memory.wf s.mem) : NextCanonical (execPoolPublication s) :=
  .next (selfTimed_wf h (by
    split
    · exact wf_of_mem_eq (publishPools_mem s) h
    · exact h))

theorem execThermalRead_wf (temps : List (List Int)) (periphery : List Int) (s : State) (h : Memory.wf s.mem) :
    NextCanonical (execThermalRead temps periphery s) :=
  .next (selfTimed_wf h (by
    split
    · exact wf_of_mem_eq (readHeat_mem _ _ s) h
    · exact h))

theorem execSetpointStep_wf (up : Bool) (s : State) (h : Memory.wf s.mem) : NextCanonical (execSetpointStep up s) := by
  refine .next (selfTimed_wf h ?_)
  dsimp only
  split
  · exact h
  · split
    · split
      · exact h
      · split
        · rw [State.onPower_mem]
          exact sendSetpoint_wf (wf_of_mem_eq (lowerFor_mem _ s) h)
        · exact wf_of_mem_eq (lowerFor_mem _ s) h
    · split
      · exact h
      · exact sendSetpoint_wf h

theorem execFadeMeasurement_wf (rows regions : List Nat) (hours : Nat) (s : State) (h : Memory.wf s.mem) :
    NextCanonical (execFadeMeasurement rows regions hours s) := by
  refine .next (selfTimed_wf h ?_)
  split
  · exact h
  · extract_lets s1
    have h1 : Memory.wf s1.mem := wf_of_mem_eq (addHours_mem _ s) h
    split
    · exact h1
    · split
      · exact wf_of_mem_eq (measure_mem _ _ s1) h1
      · split
        · exact h1
        · exact h1

theorem execPatrolScrub_wf (addr : Nat) (u : Upset) (s : State) (h : Memory.wf s.mem) : NextCanonical (execPatrolScrub addr u s) := by
  refine .next ?_
  split
  · exact withUpset_wf _ _ _ (fun s h => wf_of_mem_eq (patrol_mem _ s) h) s h
  · exact h

theorem execBackgroundScrub_wf (s : State) (h : Memory.wf s.mem) : NextCanonical (execBackgroundScrub s) := by
  refine .next ?_
  split
  · exact scrubGranule_wf _ s h
  · exact h

/-! ### SPDM -/

theorem spdmAnswer_wf {f st : Nat} {d : Bytes} {s : State} (h : Memory.wf s.mem) : Memory.wf (spdmAnswer f st d s).mem :=
  wf_of_mem_eq (spdmAnswer_mem _ _ _ _) h

theorem spdmFail_wf {f code data : Nat} {s : State} (h : Memory.wf s.mem) : Memory.wf (spdmFail f code data s).mem :=
  wf_of_mem_eq (spdmFail_mem _ _ _ _) h

theorem spdmShow_wf {f code : Nat} {q : SpdmReq} {d : Bytes} {s : State} (h : Memory.wf s.mem) :
    Memory.wf (spdmShow f code q d s).mem := h

theorem onFn_wf {k : Nat} {f : Fn → Fn} {s : State} (h : Memory.wf s.mem) : Memory.wf (s.onFn k f).mem := h

theorem spdmSummary_mem (f kind : Nat) (s : State) : (spdmSummary f kind s).2.mem = s.mem := by
  unfold spdmSummary
  split
  · rfl
  · exact drawBytes_mem _ s
  · rfl
  · rfl

theorem execGetVersion_wf (fn : FnId) (p1 p2 : Byte) (body : Bytes) (ver : Byte) (s : State) (h : Memory.wf s.mem) :
    NextCanonical (execGetVersion fn s p1 p2 body ver) :=
  .next (spdmRequest_wf _ _ _ _ _ _ _ (fun _ h => by exact onFn_wf (spdmAnswer_wf h)) s h)

theorem execGetCapabilities_wf (fn : FnId) (p1 p2 : Byte) (body : Bytes) (ver : Byte) (s : State) (h : Memory.wf s.mem) :
    NextCanonical (execGetCapabilities fn s p1 p2 body ver) :=
  .next (spdmRequest_wf _ _ _ _ _ _ _ (fun s h => by
    have hct := wf_of_mem_eq (drawFree_mem 8 s) h
    generalize drawFree 8 s = r at hct ⊢
    exact onFn_wf (spdmAnswer_wf hct)) s h)

theorem execNegotiateAlgorithms_wf (fn : FnId) (p1 p2 : Byte) (body : Bytes) (ver : Byte) (s : State) (h : Memory.wf s.mem) :
    NextCanonical (execNegotiateAlgorithms fn p1 p2 s body ver) :=
  .next (spdmRequest_wf _ _ _ _ _ _ _ (fun _ h => by
    split
    · exact onFn_wf (spdmAnswer_wf h)
    · exact spdmFail_wf h) s h)

theorem execGetDigests_wf (fn : FnId) (p1 p2 : Byte) (body : Bytes) (ver : Byte) (s : State) (h : Memory.wf s.mem) :
    NextCanonical (execGetDigests fn s p1 p2 body ver) :=
  .next (spdmRequest_wf _ _ _ _ _ _ _ (fun _ h => spdmShow_wf h) s h)

theorem execGetCertificate_wf (fn : FnId) (p1 p2 : Byte) (body : Bytes) (ver : Byte) (s : State) (h : Memory.wf s.mem) :
    NextCanonical (execGetCertificate fn p1 p2 body s ver) :=
  .next (spdmRequest_wf _ _ _ _ _ _ _ (fun _ h => by
    dsimp only
    split
    · exact spdmFail_wf h
    · exact spdmShow_wf h) s h)

theorem execChallenge_wf (fn : FnId) (p1 p2 : Byte) (body : Bytes) (ver : Byte) (s : State) (h : Memory.wf s.mem) :
    NextCanonical (execChallenge fn p1 p2 s body ver) :=
  .next (spdmRequest_wf _ _ _ _ _ _ _ (fun s h => by
    have hsum := wf_of_mem_eq (spdmSummary_mem fn.val p2.toNat s) h
    split
    · next s1 heq =>
      replace hsum : Memory.wf s1.mem := by rw [heq] at hsum; exact hsum
      split
      · exact spdmFail_wf hsum
      · exact onFn_wf (wf_of_mem_eq (drawBytes_mem _ s1) hsum)
    · next s1 heq =>
      replace hsum : Memory.wf s1.mem := by rw [heq] at hsum; exact hsum
      exact spdmFail_wf hsum) s h)

theorem execGetMeasurements_wf (fn : FnId) (p1 p2 : Byte) (body : Bytes) (ver : Byte) (s : State) (h : Memory.wf s.mem) :
    NextCanonical (execGetMeasurements fn p1 p2 body s ver) := by
  unfold execGetMeasurements
  extract_lets
  refine .next (spdmRequest_wf _ _ _ _ _ _ _ (fun s h => ?_) s h)
  extract_lets
  split
  · split
    · exact spdmFail_wf h
    · exact onFn_wf (wf_of_mem_eq (drawBytes_mem _ s) h)
  · exact spdmFail_wf h

theorem execUnsupportedRequest_wf (fn : FnId) (code p1 p2 : Byte) (body : Bytes) (ver : Byte) (s : State) (h : Memory.wf s.mem) :
    NextCanonical (execUnsupportedRequest fn code s p1 p2 body ver) :=
  .next (spdmRequest_wf _ _ _ _ _ _ _ (fun _ h => spdmFail_wf h) s h)

theorem execDoeAbort_wf (fn : FnId) (s : State) (h : Memory.wf s.mem) : NextCanonical (execDoeAbort fn s) := by
  refine .next ?_
  split
  · exact h
  · exact h

/-! ### The host -/

theorem mailboxGo_wf (f : FnId) (v : Word) (s : State) (h : Memory.wf s.mem) : Memory.wf (mailboxGo f v s).mem := by
  unfold mailboxGo
  split
  · exact handle_wf _ _ s h
  · exact h

theorem writeBar0_wf (f : FnId) (o : Nat) (v : Word) (s : State) (h : Memory.wf s.mem) : Memory.wf (writeBar0 f o v s).mem := by
  unfold writeBar0
  split
  · exact refuseBar0_wf h
  · split
    · split
      · exact refuseBar0_wf h
      · split
        · exact doorbell_wf _ _ _ s h
        · split
          · exact mailboxGo_wf f v s h
          · split
            · exact onFn_wf h
            · split
              · exact wf_of_mem_eq (writeMask_mem _ _ s) h
              · split
                · exact onFn_wf h
                · exact h
    · split
      · dsimp only
        split
        · exact refuseBar0_wf h
        · split
          · exact h
          · split
            · exact runDbg_wf _ _ _ s h
            · exact h
      · split
        · exact refuseBar0_wf h
        · split
          · dsimp only
            split
            · exact wf_of_mem_eq (installEntry_mem _ _ _ s) h
            · exact wf_of_mem_eq (stageEntry_mem _ _ _ s) h
          · split
            · exact wf_of_mem_eq (writeMsix_mem _ _ _ _ s) h
            · split
              · exact wf_of_mem_eq (writeBlock_mem _ _ _ _ s) h
              · split
                · exact writeDev_wf _ _ _ s h
                · exact h

theorem execRegisterWrite_wf (w : Writer) (a : RegAddr) (v : Word) (s : State) (h : Memory.wf s.mem) :
    NextCanonical (execRegisterWrite w a v s) := by
  refine .next ?_
  split
  · exact writeBar0_wf _ _ v s h
  · exact h
  · split
    · exact wf_of_mem_eq (refuseWrite_mem _ _ _ s) h
    · split
      · exact wf_of_mem_eq (writeBlock_mem _ _ _ _ s) h
      · exact writeDev_wf _ _ _ s h
      · exact wf_of_mem_eq (refuseWrite_mem _ _ _ s) h

theorem execIntCauseClear_wf (fn : FnId) (v : Word) (s : State) (h : Memory.wf s.mem) : NextCanonical (execIntCauseClear fn v s) := by
  refine .next ?_
  split
  · exact onFn_wf h
  · exact refuseBar0_wf h

theorem execIntMaskWrite_wf (fn : FnId) (v : Word) (s : State) (h : Memory.wf s.mem) : NextCanonical (execIntMaskWrite fn v s) := by
  refine .next ?_
  split
  · exact wf_of_mem_eq (writeMask_mem _ _ s) h
  · exact refuseBar0_wf h

theorem resetFns_wf {s : State} (h : Memory.wf s.mem) : Memory.wf (resetFns s).mem := wf_of_mem_eq (resetFns_mem _) h

theorem linkDown_wf {s : State} (h : Memory.wf s.mem) : Memory.wf (linkDown s).mem := wf_of_mem_eq (linkDown_mem _) h

theorem execPerstN_wf (level : Bool) (s : State) (h : Memory.wf s.mem) : NextCanonical (execPerstN level s) := by
  refine .next ?_
  dsimp only
  split
  · exact h
  · exact linkDown_wf (resetFns_wf h)

theorem execFlr_wf (fn : FnId) (s : State) (h : Memory.wf s.mem) : NextCanonical (execFlr fn s) := by
  refine .next ?_
  split
  · exact h
  · split
    · exact resetFns_wf h
    · exact wf_of_mem_eq (resetFn_mem _ s) h

theorem execVfEnableClear_wf (s : State) (h : Memory.wf s.mem) : NextCanonical (execVfEnableClear s) := by
  refine .next ?_
  split
  · exact wf_of_mem_eq (resetVfs_mem s) h
  · exact h

theorem execVfEnableSet_wf (s : State) (h : Memory.wf s.mem) : NextCanonical (execVfEnableSet s) := by
  refine .next ?_
  split
  · exact h
  · exact h

theorem execPcieLinkUp_wf (s : State) (h : Memory.wf s.mem) : NextCanonical (execPcieLinkUp s) := by
  refine .next ?_
  extract_lets b s1
  have h1 : Memory.wf s1.mem := wf_of_mem_eq (trainLink_mem s) h
  split
  · split
    · exact wf_of_mem_eq (drawFree_mem 32 s1) h1
    · exact h1
  · exact h

theorem execD3hot_wf (fn : FnId) (s : State) (h : Memory.wf s.mem) : NextCanonical (execD3hot fn s) := by
  refine .next ?_
  split
  · exact onFn_wf h
  · exact h

theorem execD0Entry_wf (fn : FnId) (s : State) (h : Memory.wf s.mem) : NextCanonical (execD0Entry fn s) := by
  refine .next ?_
  split
  · exact onFn_wf h
  · exact h

/-! ### Power -/

theorem execPwronRstNAssertion_wf (s : State) (h : Memory.wf s.mem) : NextCanonical (execPwronRstNAssertion s) := by
  refine .next ?_
  split
  · exact h
  · exact keepAon_wf s

theorem execVddAonLoss_wf (s : State) : NextCanonical (execVddAonLoss s) := .next (keepAon_wf s)

theorem execPwronRstN_wf (si : Silicon) (s : State) (h : Memory.wf s.mem) : NextCanonical (execPwronRstN si s) := by
  refine .next ?_
  split
  · exact h
  · exact startUp_wf si s h

theorem execIgnoredFrame_wf (s : State) (h : Memory.wf s.mem) : NextCanonical (execIgnoredFrame s) := by
  refine .next ?_
  split
  · exact h
  · exact h

end Sys2Proof.Machine

/-! O59: every command, and so every step, keeps memory canonical. -/
namespace Sys2Proof.Machine

/-! ### Every command -/

/-- Every command answers a next state, and keeps the memory canonical: each arm by the lemma of what it does. -/
theorem exec_canonical (i : Instr) (s : State) (h : Memory.wf s.mem) : NextCanonical (exec i s) := by
  cases i with
  | alu | fpu => exact .next (sForm_wf _ _ _ _ _ _ _ _ s h)
  | addi | andi | ori | xori | slli | srli | srai | slti => exact .next (iForm_wf _ _ _ _ _ _ s h)
  | lui => exact execLui_wf _ _ _ _ _ s h
  | lsh => exact execLsh_wf _ _ _ _ _ s h
  | beq | bne | blt | bge | bltu | bgeu => exact .next (branch_wf _ _ _ _ _ _ s h)
  | jal => exact execJal_wf _ _ _ _ _ s h
  | jalr => exact execJalr_wf _ _ _ _ _ s h
  | ld => exact execLd_wf _ _ _ _ _ _ _ _ s h
  | st => exact execSt_wf _ _ _ _ _ _ _ s h
  | sta => exact execSta_wf _ _ _ _ _ _ _ s h
  | ldf => exact execLdf_wf _ _ _ _ _ _ _ s h
  | stf => exact execStf_wf _ _ _ _ _ _ _ s h
  | ldd => exact execLdd_wf _ _ _ _ _ _ _ s h
  | std => exact execStd_wf _ _ _ _ _ _ _ s h
  | mmSet | mmAcc | mmSpill | mmSpillacc | vop | vtr | cvt | fill | movtCopy | movtGather | ligIsect
    | ligUnion | ligBuild | ligCheck | ligSelect | grnBits | grnUniform | grnMask | opt | samp =>
    exact .next (dForm_wf _ _ _ _ _ _ _ _ _ _ s h)
  | xstart => exact execXstart_wf _ _ _ _ _ _ s h
  | msg => exact execMsg_wf _ _ _ _ _ _ s h
  | enl => exact execEnl_wf _ _ _ _ _ _ s h
  | tfSet => exact execTfSet_wf _ _ _ _ _ s h
  | tfClr => exact execTfClr_wf _ _ _ _ _ s h
  | tfTst => exact execTfTst_wf _ _ _ _ _ s h
  | tfTas => exact execTfTas_wf _ _ _ _ _ s h
  | tfWait | tfWaitc => exact .next (tfWait_wf _ _ _ _ _ _ s h)
  | gfSet | gfSetRel | gfClr | gfClrRel | gfTst | gfTstAcq | gfTas | gfWait | gfWaitAcq | gfWaitc =>
    exact .next (gfForm_wf _ _ _ _ _ _ _ _ s h)
  | semSignal | semSignalRel | semWait | semWaitAcq | semRead => exact .next (semForm_wf _ _ _ _ _ _ _ _ s h)
  | barArrive => exact execBarArrive_wf _ _ _ _ _ s h
  | barWait => exact execBarWait_wf _ _ _ _ _ s h
  | barArriveWait => exact execBarArriveWait_wf _ _ _ _ _ s h
  | fenceFull => exact execFenceFull_wf _ _ _ _ _ s h
  | csrRead => exact execCsrRead_wf _ _ _ _ _ s h
  | csrWrite => exact execCsrWrite_wf _ _ _ _ _ s h
  | ctxStart => exact execCtxStart_wf _ _ _ _ _ s h
  | ctxStop => exact execCtxStop_wf _ _ _ _ _ s h
  | hret => exact execHret_wf _ _ _ _ _ s h
  | bkpt => exact execBkpt_wf _ _ _ _ _ s h
  | startQueueAcceptance => exact execStartQueueAcceptance_wf _ _ _ s h
  | mmCompletion => exact execMmCompletion_wf _ s h
  | veCompletion => exact .next (complete_wf _ _ _ (runVector_wf _) s h)
  | ligCompletion => exact .next (complete_wf _ _ _ runLig_wf s h)
  | grnCompletion => exact .next (complete_wf _ _ _ (runGrn_wf _) s h)
  | movtCompletion => exact execMovtCompletion_wf _ s h
  | remoteAccessArrival => exact execRemoteAccessArrival_wf _ s h
  | remoteAnswer => exact execRemoteAnswer_wf _ s h
  | homeSliceRequest => exact execHomeSliceRequest_wf _ _ s h
  | bulkStoreFill => exact execBulkStoreFill_wf _ s h
  | hostCompletion => exact execHostCompletion_wf _ _ _ s h
  | rowClose | bankRefresh | timestampWrap | plcaStatusChange | refclkTsLockChange => exact .next h
  | hubOperation => exact execHubOperation_wf _ _ s h
  | hubAnswer => exact execHubAnswer_wf _ s h
  | rowArrival => exact execRowArrival_wf _ s h
  | hubRowArrival => exact execHubRowArrival_wf _ s h
  | barrierRelease => exact execBarrierRelease_wf _ _ s h
  | systemArrival => exact execSystemArrival_wf _ s h
  | systemRelease => exact execSystemRelease_wf _ s h
  | listAcceptance => exact execListAcceptance_wf _ s h
  | sendSlot => exact execSendSlot_wf _ s h
  | segmentArrival => exact execSegmentArrival_wf _ s h
  | segmentAcknowledgement => exact execSegmentAcknowledgement_wf _ s h
  | segmentRefusal => exact execSegmentRefusal_wf _ s h
  | recvAccTurn => exact execRecvAccTurn_wf _ _ s h
  | msgInjection => exact execMsgInjection_wf _ _ s h
  | messageHeaderArrival => exact execMessageHeaderArrival_wf _ s h
  | messageAcceptance => exact execMessageAcceptance_wf _ s h
  | nack => exact execNack_wf _ s h
  | reject => exact execReject_wf _ s h
  | retry => exact execRetry_wf _ _ s h
  | handlerDispatch => exact execHandlerDispatch_wf _ s h
  | enlTransferStart => exact execEnlTransferStart_wf _ s h
  | enlLineLanding => exact execEnlLineLanding_wf _ s h
  | portTraining => exact execPortTraining_wf _ _ s h
  | flitReceived => exact execFlitReceived_wf _ _ _ _ s h
  | nakRepeat => exact .next (selfTimed_wf h (onPort_wf h))
  | linkStall => exact .next (selfTimed_wf h (updateLevel_wf (onPort_wf h)))
  | retrainEnd => exact execRetrainEnd_wf _ _ _ s h
  | detourLive => exact execDetourLive_wf _ s h
  | gfSetRegister | gfClrRegister | semWrite | rcCtlFlush | rcCtlInval | rcCtlZero | lkRdnfClear | rdGo
    | apDecl => exact .next (writeDev_wf _ _ _ s h)
  | reductionStart => exact execReductionStart_wf _ _ s h
  | reductionSegment => exact execReductionSegment_wf _ _ s h
  | reductionDone => exact execReductionDone_wf _ _ s h
  | timeoutScan => exact execTimeoutScan_wf _ _ s h
  | waitCancel => exact execWaitCancel_wf _ s h
  | nibWatchdog => exact execNibWatchdog_wf _ s h
  | faultRecord => exact execFaultRecord_wf _ s h
  | counterFold => exact execCounterFold_wf _ s h
  | phaseDeclaration => exact execPhaseDeclaration_wf _ s h
  | setpointLowering => exact execSetpointLowering_wf _ s h
  | commitStamp => exact execCommitStamp_wf _ s h
  | commitApply => exact execCommitApply_wf _ s h
  | tbeatPublication => exact execTbeatPublication_wf _ _ s h
  | poolPublication => exact execPoolPublication_wf s h
  | thermalRead => exact execThermalRead_wf _ _ s h
  | fadeMeasurement => exact execFadeMeasurement_wf _ _ _ s h
  | setpointStep => exact execSetpointStep_wf _ s h
  | patrolScrub => exact execPatrolScrub_wf _ _ s h
  | backgroundScrub => exact execBackgroundScrub_wf s h
  | pcsample => exact execPcsample_wf _ s h
  | rlbInv | tfValueClear | tfSetWrite | nfClear | evselWrite => exact .next (wf_of_mem_eq (writeBlock_mem _ _ _ _ s) h)
  | intCauseClear => exact execIntCauseClear_wf _ _ s h
  | intMaskWrite => exact execIntMaskWrite_wf _ _ s h
  | translationInstall => exact .next (wf_of_mem_eq (installEntry_mem _ _ _ s) h)
  | dbgHalt => exact execDbgHalt_wf _ _ _ s h
  | haltTakesEffect => exact execHaltTakesEffect_wf _ s h
  | dbgResume => exact execDbgResume_wf _ _ s h
  | dbgStep => exact execDbgStep_wf _ _ _ s h
  | partitionHalt => exact execPartitionHalt_wf _ _ _ s h
  | partitionResume => exact execPartitionResume_wf _ _ s h
  | debugAccess => exact execDebugAccess_wf _ _ _ _ s h
  | registerWrite => exact execRegisterWrite_wf _ _ _ s h
  | idpRead | blockRead | blockWrite | subscribe | unsubscribe | slotWrite | totalsRead => exact ask_wf _ s h
  | idpWrite | timeMeasure => exact .next (handle_wf _ _ s h)
  | notify => exact execNotify_wf _ s h
  | idpFinalAnswer => exact execIdpFinalAnswer_wf _ s h
  | tbeatPeakReset | dumpCapture | linkCounterZero | loadVerify | loadService | forget | apply | assign | stop
    | kill | switch | release | forward | back | stopAll | counterRaise | verify | challengeRequest
    | signedResponse | relock | measurementRequest | blotterClear | bulkCounterZero | traceTrigger
    | traceEnable => exact request_wf _ _ _ _ s h
  | perstN => exact execPerstN_wf _ s h
  | hotReset => exact .next (linkDown_wf (resetFns_wf h))
  | flr => exact execFlr_wf _ s h
  | vfEnableClear => exact execVfEnableClear_wf s h
  | pcieLinkDown => exact .next (linkDown_wf h)
  | d3hot => exact execD3hot_wf _ s h
  | doeAbort => exact execDoeAbort_wf _ s h
  | getVersion => exact execGetVersion_wf _ _ _ _ _ s h
  | getCapabilities => exact execGetCapabilities_wf _ _ _ _ _ s h
  | negotiateAlgorithms => exact execNegotiateAlgorithms_wf _ _ _ _ _ s h
  | getDigests => exact execGetDigests_wf _ _ _ _ _ s h
  | getCertificate => exact execGetCertificate_wf _ _ _ _ _ s h
  | challenge => exact execChallenge_wf _ _ _ _ _ s h
  | getMeasurements => exact execGetMeasurements_wf _ _ _ _ _ s h
  | unsupportedRequest => exact execUnsupportedRequest_wf _ _ _ _ _ _ s h
  | pwronRstN => exact execPwronRstN_wf _ s h
  | vddAonLoss => exact execVddAonLoss_wf s
  | eventInput => exact execEventInput_wf _ s h
  | rcCtlBusyEnd => exact execRcCtlBusyEnd_wf _ s h
  | pcieLinkUp => exact execPcieLinkUp_wf s h
  | vfEnableSet => exact execVfEnableSet_wf s h
  | d0Entry => exact execD0Entry_wf _ s h
  | pwronRstNAssertion => exact execPwronRstNAssertion_wf s h
  | transmitOpportunity => exact execTransmitOpportunity_wf s h
  | ignoredFrame => exact execIgnoredFrame_wf s h

theorem step_canonical (s : State) (h : Memory.wf s.mem) : NextCanonical (step s) := by
  unfold step
  split
  · exact .next h
  · exact exec_canonical _ _ h

/-- Settles O59: a step is the front command's, and each command keeps the memory canonical. -/
theorem memoryStaysCanonical : Obligations.MemoryStaysCanonical := by
  unfold Obligations.MemoryStaysCanonical
  intro s s' h hstep
  have hs := step_canonical s h
  rw [hstep] at hs
  cases hs with
  | next h' => exact h'

end Sys2Proof.Machine

/-! SUPPORT. Where an access leads (08 R204–R206); O12. -/
namespace Sys2Proof.Machine

/-! ### Where an access leads, before and after its fetch -/

/-- Where an address leads is a matter of the links alone. -/
theorem routeOf_congr {s s' : State} (h : s'.dev = s.dev) (w : Word) : routeOf s' w = routeOf s w := by
  have hsize : systemSize s' = systemSize s := by rw [systemSize, systemSize, dims, dims, h]
  rw [routeOf, routeOf, hsize, h]

theorem place_congr {s s' : State} (h : s'.dev = s.dev) (a : Nat) : s'.place a = s.place a := by
  simp only [State.place, h]

/-! ### Accesses that fault -/

theorem dataAddr_eq (addr : Word) : dataAddr addr = addr.toNat % 2 ^ 47 := by
  rw [dataAddr, fld, Nat.pow_zero, Nat.div_one]

/-- An aligned access that leads nowhere. -/
theorem withTarget_bad {s : State} {t c : Nat} {k : AccKind} {size code : Nat} {rb : BitVec 5} {off : BitVec 11} {addr v : Word}
    (haddr : memAddr s t c rb off size = addr) (halign : addr.toNat % size = 0)
    (htarget : targetOf s t k size addr v = .bad code) (body : Target → State → Eff) :
    withTarget t c k size rb off body s v = .fault code (addr.toNat % 2 ^ 47) := by
  rw [withTarget]
  simp only [haddr, halign, ne_eq, not_true, if_false, htarget, dataAddr_eq]

/-- Whether a place holds memory that no accumulation reaches: the Bulk Store, the host window, a register (08 R206). -/
def Place.noAcc : Place → Bool
  | .bulk | .host _ | .block _ _ | .devreg _ => true
  | .sram _ _ | .none => false

/-- An accumulation outside tile memory leads nowhere, on this device or on another (08 R206). -/
theorem targetOf_acc_outside {s : State} {addr : Word} {a : Nat} (t size : Nat) (v : Word)
    (h : routeOf s addr = .here a ∧ (s.place a).noAcc = true ∨
      (∃ d, routeOf s addr = .far d a) ∧ ∀ u o, placeOf 186 a ≠ .sram u o) :
    targetOf s t .acc size addr v = .bad 0x02 := by
  rcases h with ⟨hroute, hplace⟩ | ⟨⟨d, hroute⟩, hplace⟩
  · simp only [targetOf, hroute]
    cases hp : s.place a with
    | bulk | host | block | devreg => simp
    | sram | none => simp [hp, Place.noAcc] at hplace
  · simp only [targetOf, hroute]
    cases hp : placeOf 186 a with
    | sram u o => exact absurd hp (hplace u o)
    | bulk | host | block | devreg | none => simp

/-- Settles O12: the access leads nowhere, so its instruction ends with the fault. -/
theorem staOutsideTileMemoryFaults : Obligations.StaOutsideTileMemoryFaults := by
  unfold Obligations.StaOutsideTileMemoryFaults
  intro s t c rt rb width mode off size w a hsize hw hle hrt h addr halign hplace
  have hlegal : (rtOk rt size && (match accSize mode with | some w => decide (w ≤ size) | none => false)) = true := by
    simp [rtOk, hrt, hw, hle]
  have houtside : routeOf (fetched t c s) addr = .here a ∧ ((fetched t c s).place a).noAcc = true ∨
      (∃ d, routeOf (fetched t c s) addr = .far d a) ∧ ∀ u o, placeOf 186 a ≠ .sram u o := by
    rw [routeOf_congr (fetched_dev t c s), place_congr (fetched_dev t c s)]
    refine hplace.imp (fun ⟨hroute, hp⟩ => ⟨hroute, ?_⟩) id
    rcases hp with hp | ⟨_, hp⟩ | ⟨_, _, hp⟩ | ⟨_, hp⟩ <;> rw [hp] <;> rfl
  refine congrArg Host.Outcome.next ((mForm_ready hsize h hlegal _).trans ?_)
  rw [withTarget_bad (memAddr_fetched s t c rb off size) halign (targetOf_acc_outside t size 0 houtside)]
  exact finish_fault _ t c _ _

end Sys2Proof.Machine

/-! SUPPORT. How an access leaves for another place (08 R204–R207, R225; 03 R93, R98, R99); O10. -/
namespace Sys2Proof.Machine

/-! ### A state in which an access is about to be sent -/

/-- What the send of an access reads stands in `s'` as it does in `s`: the maps, the stamp's number and the context's PC; and
no byte of memory differs. -/
structure Unsent (t c : Nat) (s s' : State) : Prop where
  dev : s'.dev = s.dev
  parts : s'.parts = s.parts
  mem : s'.mem = s.mem
  lines : s'.net.lines = s.net.lines
  pc : (s'.cx t c).pc = (s.cx t c).pc

theorem Unsent.trans {t c : Nat} {x y z : State} (h : Unsent t c x y) (h' : Unsent t c y z) : Unsent t c x z :=
  ⟨h'.dev.trans h.dev, h'.parts.trans h.parts, h'.mem.trans h.mem, h'.lines.trans h.lines, h'.pc.trans h.pc⟩

theorem Unsent.fetched (t c : Nat) (s : State) : Unsent t c s (fetched t c s) := by
  refine ⟨fetched_dev t c s, ?_, fetched_mem t c s, ?_, fetched_pc t c t c s⟩ <;>
    rcases fetched_eq t c s with h | ⟨_, h⟩ <;> rw [h] <;> rfl

/-- A change of a tile that leaves its contexts as they are. -/
theorem Unsent.onTile {t c : Nat} {f : Tile → Tile} (s : State) (hf : ((f (s.tile t)).cx c).pc = (s.cx t c).pc) :
    Unsent t c s (s.onTile t f) :=
  ⟨rfl, rfl, rfl, rfl, by rw [State.cx_onTile, if_pos rfl, hf]⟩

theorem Unsent.onCx {t c : Nat} {f : Ctx → Ctx} (s : State) (hf : (f (s.cx t c)).pc = (s.cx t c).pc) :
    Unsent t c s (s.onCx t c f) :=
  Unsent.onTile s (by rw [Tile.ext_cx, if_pos rfl]; exact hf)

theorem Unsent.mapReqs (t c : Nat) (f : MemReq → MemReq) (s : State) : Unsent t c s (mapReqs f s) := ⟨rfl, rfl, rfl, rfl, rfl⟩

theorem Unsent.dropOwnLine (t c : Nat) (g : Target) (s : State) : Unsent t c s (dropOwnLine t g s) := by
  have hdrop (p : Nat → Bool) : Unsent t c s (dropLines t p s) := (Unsent.onTile s (by rfl)).trans (Unsent.mapReqs _ _ _ _)
  cases g with
  | mesh | slice | far => exact hdrop _
  | own | bad => exact ⟨rfl, rfl, rfl, rfl, rfl⟩

/-- Counting events leaves the contexts. -/
theorem Tile.count_cx (x : Tile) (code k c : Nat) : (x.count code k).cx c = x.cx c := by
  obtain ⟨hctx, -⟩ := Tile.count_fields x code k
  rw [Tile.cx, Tile.cx, hctx]

theorem countLoad_cx (t : Nat) (g : Target) (x : Tile) (c : Nat) : (countLoad t g x).cx c = x.cx c := by
  cases g with
  | mesh | far =>
    rw [countLoad]
    split
    · exact Tile.count_cx _ _ _ _
    · rfl
  | own | slice | bad => rfl

/-! ### What the send leaves -/

/-- The end at which an access is served, and the partition it is sent for, do not depend on what `Unsent` lets differ. -/
theorem Unsent.nodeAt {t c : Nat} {s s' : State} (h : Unsent t c s s') (a : Nat) : nodeAt s' a = nodeAt s a := by
  have hpart (n : Nat) : s'.part n = s.part n := by rw [State.part, State.part, h.parts]
  simp only [Machine.nodeAt, place_congr h.dev, homeOf, shareOwner, hpart]

theorem Unsent.partOf {t c : Nat} {s s' : State} (h : Unsent t c s s') (u : Nat) : partOf s' u = partOf s u := by
  simp only [Machine.partOf, partOfRegion, inBand, State.part, h.parts]

/-- The request that context `c`'s access to local offset `a` leaves as: the model's stamp is the mesh's next one (log 79). -/
def accessReq (s : State) (t c a : Nat) (op : MemOp) : MemReq :=
  { iss := .ctx t c (s.cx t c).pc, part := partOf s t, addr := a, op := op,
    sent := { no := s.net.lines, leg := some (.tile t, nodeAt s a) } }

theorem Unsent.accessReq {t c : Nat} {s s' : State} (h : Unsent t c s s') (a : Nat) (op : MemOp) :
    accessReq s' t c a op = accessReq s t c a op := by
  simp only [Machine.accessReq, h.pc, h.partOf, h.lines, h.nodeAt]

/-- The access `op` of context `c` has left towards `g`, and stands last among the requests in flight there. -/
structure Left (t c a : Nat) (g : Target) (op : MemOp) (s s' : State) : Prop where
  mem : s'.mem = s.mem
  pc : (s'.cx t c).pc = (s.cx t c).pc
  reqs : g = .mesh a → s'.net.reqs.getLast? = some (accessReq s t c a op)
  slice : g = .slice a → s'.net.slice.getLast? = some (accessReq s t c a op)

/-- Counting the line of a sent access changes nothing that `Left` speaks of. -/
theorem Left.counted {t c a : Nat} {g : Target} {op : MemOp} {s s' : State} (h : Left t c a g op s s') (b : Bool) :
    Left t c a g op s (countLine 0x20 (some (.tile t)) (if b then s'.onTile t (fun x => x.count 0x27 1) else s')) := by
  have hcount (code : Nat) {x : State} (hx : Left t c a g op s x) : Left t c a g op s (x.onTile t (fun x => x.count code 1)) :=
    ⟨hx.mem, by rw [State.cx_onTile, if_pos rfl, Tile.count_cx]; exact hx.pc, hx.reqs, hx.slice⟩
  cases b with
  | true => exact hcount _ (hcount _ h)
  | false => exact hcount _ h

theorem sendAccess_left {t c a : Nat} {g : Target} (hg : g = .mesh a ∨ g = .slice a) {s s' : State} (h : Unsent t c s s')
    (op : MemOp) : ∃ s2, sendAccess t c g op s' = .done s2 ∧ Left t c a g op s s2 := by
  rcases hg with rfl | rfl
  · refine ⟨_, rfl, Left.counted ?_ _⟩
    refine ⟨h.mem, h.pc, fun _ => ?_, nofun⟩
    exact List.getLast?_concat.trans (congrArg some (h.accessReq a op))
  · refine ⟨_, rfl, Left.counted ?_ _⟩
    refine ⟨h.mem, h.pc, nofun, fun _ => ?_⟩
    exact List.getLast?_concat.trans (congrArg some (h.accessReq a op))

/-- An aligned access to another place. -/
theorem withTarget_away {s : State} {t c a : Nat} {k : AccKind} {size : Nat} {rb : BitVec 5} {off : BitVec 11} {addr v : Word}
    {g : Target} (hg : g = .mesh a ∨ g = .slice a) (haddr : memAddr s t c rb off size = addr) (halign : addr.toNat % size = 0)
    (htarget : targetOf s t k size addr v = g) (body : Target → State → Eff) :
    withTarget t c k size rb off body s v = body g s := by
  rw [withTarget]
  simp only [haddr, halign, ne_eq, not_true, if_false, htarget]
  rcases hg with rfl | rfl <;> rfl

/-- What the end of an instruction that sent an access leaves. -/
def Leaves (s : State) (t c a : Nat) (r : Res) (g : Target) (op : MemOp) : Prop :=
  ∃ s', r = .next s' ∧ s'.mem = s.mem ∧ (s'.cx t c).pc = (s.cx t c).pc + 4 ∧
    (g = .mesh a → s'.net.reqs.getLast? = some (accessReq s t c a op)) ∧
    (g = .slice a → s'.net.slice.getLast? = some (accessReq s t c a op))

/-- An instruction of a ready context whose effect is a send. -/
theorem leaves_of_send {s s1 : State} {t c a : Nat} {u : Uses} (hready : Ready s t c u) {g : Target}
    (hg : g = .mesh a ∨ g = .slice a) (h : Unsent t c s s1) {op : MemOp} {r : Res}
    (hr : r = .next (finish t c (fetched t c s) (sendAccess t c g op s1))) : Leaves s t c a r g op := by
  obtain ⟨s2, hsend, hleft⟩ := sendAccess_left hg h op
  rw [hsend, finish_done hready] at hr
  refine ⟨_, hr, hleft.mem, ?_, hleft.reqs, hleft.slice⟩
  rw [retired_cx]
  rfl

/-- A store's bytes leave where its target is another place. -/
theorem storeTo_away {s : State} {t c a : Nat} {g : Target} (hg : g = .mesh a ∨ g = .slice a) (bs : Bytes) :
    storeTo t c bs g s = sendAccess t c g (.store bs) (dropOwnLine t g s) := by
  rcases hg with rfl | rfl <;> rfl

/-- A load of another place whose line the remote line buffer does not hold. -/
theorem loadFrom_away {s : State} {t c a rt size : Nat} {g : Target} (hg : g = .mesh a ∨ g = .slice a)
    (hmiss : ∀ l ∈ (s.tile t).rlb, l.addr ≠ lineKey none a) :
    ∃ s', Unsent t c s s' ∧ loadFrom t c rt size false g s =
      sendAccess t c g (.load rt size false (fillable s g && !(s.cx t c).bypass)) s' := by
  have hkey : g.key = lineKey none a := by rcases hg with rfl | rfl <;> rfl
  have hfind (may : Bool) : (s.tile t).rlb.find? (fun l => may && l.addr == g.key) = none := by
    refine List.find?_eq_none.2 fun l hl => ?_
    rw [hkey]
    simp [hmiss l hl]
  refine ⟨(s.onTile t (fun x => countLoad t g (if fillable s g && !false && !(s.cx t c).bypass then x.count 0x25 1 else x))).onCx t c
    (fun k => { k with bypass := false }), (Unsent.onTile s ?_).trans (Unsent.onCx _ rfl), ?_⟩
  · rw [countLoad_cx]
    split
    · rw [Tile.count_cx]; rfl
    · rfl
  · rcases hg with rfl | rfl <;> simp only [loadFrom, hfind, Bool.not_false, Bool.and_true]

theorem fetched_rlb (t c : Nat) (s : State) : ((fetched t c s).tile t).rlb = (s.tile t).rlb := by
  rcases fetched_eq t c s with h | ⟨_, h⟩ <;> rw [h]
  rw [State.onCx, State.onTile_tile]
  rfl

/-- Settles O10: each form's instruction is a send, which leaves the request that its operands name. -/
theorem remoteAccesses : Obligations.RemoteAccesses := by
  unfold Obligations.RemoteAccesses
  intro s t c rt rb off a s1 pc req leaves g hg
  have hfetch := Unsent.fetched t c s
  have hdrop : Unsent t c s (dropOwnLine t g s1) := hfetch.trans (Unsent.dropOwnLine t c g s1)
  refine ⟨fun width size hsize hrt => ?_, fun hready halign htarget => ?_, fun hrt => ?_⟩
  · intro addr bs halign
    refine ⟨fun hready htarget hmiss => ?_, fun hready htarget => ?_, fun mode w hready hw hle htarget => ?_⟩
    · obtain ⟨s2, hs2, hload⟩ := loadFrom_away (s := s1) (rt := rt.toNat) (size := size) hg (by rw [fetched_rlb]; exact hmiss)
      rw [fetched_bypass] at hload
      refine leaves_of_send hready hg (hfetch.trans hs2) (congrArg Host.Outcome.next ?_)
      refine (mForm_ready hsize hready (by simp [rtOk, hrt]) _).trans ?_
      dsimp only [strike]
      rw [withTarget_away hg (memAddr_fetched s t c rb off size) halign htarget]
      exact congrArg _ hload
    · refine leaves_of_send hready hg hdrop (congrArg Host.Outcome.next ?_)
      refine (mForm_ready hsize hready (by simp [rtOk, hrt]) _).trans ?_
      rw [if_neg (by simp)]
      dsimp only
      rw [fetched_storeBytes, withTarget_away hg (memAddr_fetched s t c rb off size) halign htarget, storeTo_away hg]
    · refine leaves_of_send hready hg hdrop (congrArg Host.Outcome.next ?_)
      refine (mForm_ready hsize hready (by simp [rtOk, hrt, hw, hle]) _).trans ?_
      rw [withTarget_away hg (memAddr_fetched s t c rb off size) halign htarget, fetched_storeBytes]
      rcases hg with rfl | rfl <;> rfl
  · refine leaves_of_send hready hg hdrop (congrArg Host.Outcome.next ?_)
    refine (mForm_ready (size := 8) rfl hready (by simp) _).trans ?_
    rw [withTarget_away hg (memAddr_fetched s t c rb off 8) halign htarget, fetched_storeBytes]
    rcases hg with rfl | rfl <;> rfl
  · intro addr halign
    refine ⟨fun hready htarget => ?_, fun hready htarget => ?_⟩
    · refine leaves_of_send hready hg (hfetch.trans (Unsent.onTile s1 (f := countLoad t g) (by rw [countLoad_cx]; rfl)))
        (congrArg Host.Outcome.next ?_)
      refine (issue_ready hready _).trans (congrArg _ ((legal_of (by simp [hrt]) _ _).trans ?_))
      rw [withTarget_away hg (memAddr_fetched s t c rb off 32) halign htarget]
      rcases hg with rfl | rfl <;> rfl
    · refine leaves_of_send hready hg hdrop (congrArg Host.Outcome.next ?_)
      refine (issue_ready hready _).trans (congrArg _ ((legal_of (by simp [hrt]) _ _).trans ?_))
      rw [withTarget_away hg (memAddr_fetched s t c rb off 32) halign htarget, storeTo_away hg, fetched_desc]

end Sys2Proof.Machine

/-! SUPPORT. An access that arrives at a tile (08 R209, R225; 03 R76). -/
namespace Sys2Proof.Machine

/-! ### What a unit owns -/

theorem Map.mem_place {α : Type} {k : Nat} {v : α} {m : SMap α} {p : Nat × α} (h : p ∈ Map.place k v m) : p = (k, v) ∨ p ∈ m := by
  induction m with
  | nil => exact .inl (List.mem_singleton.1 h)
  | cons q m ih =>
    rw [Map.place] at h
    split at h
    · exact List.mem_cons.1 h
    · rcases List.mem_cons.1 h with h | h
      · exact .inr (List.mem_cons.2 (.inl h))
      · exact (ih h).imp_right (List.mem_cons_of_mem _)

theorem Map.mem_set {α : Type} [DecidableEq α] {d : α} {m : SMap α} {k : Nat} {v : α} {p : Nat × α} (h : p ∈ Map.set d m k v) :
    p = (k, v) ∨ p ∈ m := by
  rw [Map.set] at h
  split at h
  · exact .inr ((Map.drop_sublist k m).subset h)
  · exact (Map.mem_place h).imp_right fun h => (Map.drop_sublist k m).subset h

/-- What a map holds at a key is its default or a listed value. -/
theorem Map.get_eq_or_mem {α : Type} (d : α) (m : SMap α) (k : Nat) : Map.get d m k = d ∨ (k, Map.get d m k) ∈ m := by
  induction m with
  | nil => exact .inl rfl
  | cons p m ih =>
    rw [Map.get]
    split
    · next hk => exact .inr (List.mem_cons.2 (.inl (by rw [← hk])))
    · exact ih.imp_right (List.mem_cons_of_mem _)

/-- A test that no listed tile passes, nor an empty one, is passed by none after a change of a tile that it does not see. -/
theorem tiles_any_onTile {f : Nat × Tile → Bool} {s : State} {t : Nat} {g : Tile → Tile} (hempty : f (t, {}) = false)
    (hg : ∀ x, f (t, g x) = f (t, x)) (h : s.tiles.any f = false) : (s.onTile t g).tiles.any f = false := by
  rw [List.any_eq_false] at h ⊢
  intro p hp
  rcases Map.mem_set hp with rfl | hp
  · rw [hg]
    rcases Map.get_eq_or_mem {} s.tiles t with hget | hget
    · rw [hget, hempty]
      simp
    · exact h _ hget
  · exact h p hp

/-- Bytes that no unit owns stay so where a tile's units and mail do. -/
theorem ownedResult_onTile {s : State} {t a n : Nat} {g : Tile → Tile} (hun : ∀ x, (g x).un = x.un) (hmail : ∀ x, (g x).mail = x.mail)
    (h : ownedResult s a n = false) : ownedResult (s.onTile t g) a n = false := by
  simp only [ownedResult, ownedByOp, Bool.or_eq_false_iff] at h ⊢
  obtain ⟨⟨hop, henl⟩, hlist⟩ := h
  exact ⟨⟨tiles_any_onTile rfl (fun x => by simp only [hun]) hop, henl⟩,
    tiles_any_onTile rfl (fun x => by simp only [hun, hmail]) hlist⟩

theorem readShared_free {s : State} {a n : Nat} (h : ownedResult s a n = false) : readShared a n s = (s.bytes a n, s) := by
  rw [readShared, h]
  rfl

/-! ### Counted events -/

theorem Tile.count_mail (x : Tile) (code k : Nat) : (x.count code k).mail = x.mail := by
  obtain ⟨m, hm⟩ := Tile.count_eq x code k
  rw [hm]

theorem KeepsTile.count (x : Tile) (code k : Nat) : KeepsTile x (x.count code k) := by
  obtain ⟨m, hm⟩ := Tile.count_eq x code k
  rw [hm]
  exact ⟨rfl, rfl, rfl, rfl, rfl, rfl, rfl, rfl, rfl, rfl, rfl, rfl, rfl, rfl, rfl⟩

/-- The tiles of `s'` are those of `s` but for event counters. -/
def Counted (s s' : State) : Prop := ∀ u, KeepsTile (s.tile u) (s'.tile u) ∧ ∀ c, s'.cx u c = s.cx u c

theorem Counted.trans {x y z : State} (h : Counted x y) (h' : Counted y z) : Counted x z :=
  fun u => ⟨(h u).1.trans (h' u).1, fun c => ((h' u).2 c).trans ((h u).2 c)⟩

theorem Counted.count (s : State) (t code k : Nat) : Counted s (s.onTile t (fun x => x.count code k)) := by
  intro u
  by_cases hu : u = t
  · subst hu
    refine ⟨?_, fun c => ?_⟩
    · rw [State.onTile_tile]
      exact KeepsTile.count _ _ _
    · rw [State.cx_onTile, if_pos rfl, Tile.count_cx]
      rfl
  · refine ⟨?_, fun c => ?_⟩
    · rw [State.onTile_tile_ne _ _ _ hu]
      exact KeepsTile.refl _
    · rw [State.cx_onTile, if_neg hu]

/-! ### An access at a tile's SRAM -/

/-- A state in which the `i`-th access in flight has arrived at tile `t`, and counts as a line ejected there (log 8). -/
def arrived (i t : Nat) (s : State) : State :=
  (s.onNet (fun n => { n with reqs := dropAt i n.reqs })).onTile t (fun x => x.count 0x21 1)

theorem arrived_counted (i t : Nat) (s : State) : Counted s (arrived i t s) :=
  Counted.count (s.onNet (fun n => { n with reqs := dropAt i n.reqs })) t 0x21 1

/-- State `s'` is one in which access `r`, the `i`-th in flight of `s`, took effect at tile `t` and is yet to be answered. -/
structure Served (i t : Nat) (r : MemReq) (s s' : State) : Prop where
  net : s'.net = { s.net with reqs := dropAt i s.net.reqs }
  node : nodeAt s' r.addr = .tile t

theorem nodeAt_sram {s : State} {a t o : Nat} (h : s.place a = .sram t o) : nodeAt s a = .tile t := by
  rw [nodeAt, h]

theorem arrived_served {i t o : Nat} {r : MemReq} {s : State} (h : s.place r.addr = .sram t o) : Served i t r s (arrived i t s) :=
  ⟨rfl, nodeAt_sram (s := arrived i t s) h⟩

/-- REMOTE_ACCESS_ARRIVAL of an access that nothing holds back, from an agent of this device, at a tile's SRAM. -/
theorem remoteAccessArrival_sram {s : State} {i t o : Nat} {r : MemReq} (htrip : s.dev.boot.trip = false)
    (hreq : s.net.reqs[i]? = some r) (hfirst : firstReq s.net.reqs i r = true) (harrives : arrives s r.sent = true)
    (hplace : s.place r.addr = .sram t o) (hnear : ∀ d k x p, r.iss ≠ .far d k x p) :
    exec (.remoteAccessArrival i) s =
      .next (answer r (arriveAt r (arrived i t s)).1 (arriveAt r (arrived i t s)).2) := by
  have hforeign (v : MemRes) (s' : State) : noteForeign r v s' = s' := by
    cases hiss : r.iss with
    | far d k x p => exact absurd hiss (hnear d k x p)
    | ctx | xfer | nib => simp only [noteForeign, hiss]
  refine congrArg Host.Outcome.next ?_
  simp only [selfTimed, htrip, hreq, hfirst, harrives, nodeAt_sram hplace, hforeign]
  rfl

/-- The answer to a served access stands last among the answers in flight. -/
theorem Served.answer {i t : Nat} {r : MemReq} {s s' : State} (h : Served i t r s s') (v : MemRes) :
    (answer r v s').net.answers = s.net.answers ++ [
      { req := r, res := v, sent := { no := s.net.lines, leg := r.iss.node.map (fun d => (.tile t, d)) } }] ∧
    (answer r v s').net.reqs = dropAt i s.net.reqs := by
  have hnet : (Machine.answer r v s').net = { s'.net with
      answers := s'.net.answers ++ [{ req := r, res := v, sent := { no := s'.net.lines, leg := r.iss.node.map (fun d => (.tile t, d)) } }],
      lines := s'.net.lines + 1 } := by
    simp only [Machine.answer, h.node]
    rfl
  rw [hnet, h.net]
  exact ⟨rfl, rfl⟩

/-- The answer changes nothing of the tiles but counters. -/
theorem Served.answer_eq {i t : Nat} {r : MemReq} {s s' : State} (h : Served i t r s s') (v : MemRes) :
    ∃ f, Machine.answer r v s' = (s'.onNet f).onTile t (fun x => x.count 0x20 1) :=
  ⟨_, by rw [Machine.answer, h.node]; rfl⟩

theorem Served.answer_counted {i t : Nat} {r : MemReq} {s s' : State} (h : Served i t r s s') (v : MemRes) :
    Counted s' (Machine.answer r v s') := by
  obtain ⟨f, hf⟩ := h.answer_eq v
  rw [hf]
  exact Counted.count (s'.onNet f) t 0x20 1

/-- Whether tile `t` refuses access `r` (01 R25, R39; 03 R85; 08 R209). -/
def refuses (s : State) (r : MemReq) (t : Nat) : Bool :=
  (s.tile t).fenced || (s.tile t).clearing || (match r.iss with
    | .nib k => decide (regionOf t ≠ k)
    | _ => decide (6 ≤ r.part) || decide (partOf s t ≠ r.part))

theorem arriveAt_sram {s : State} {r : MemReq} {t o : Nat} (hplace : s.place r.addr = .sram t o) :
    arriveAt r s = if refuses s r t then (.fault 0x0A#8 r.addr, s) else atSram r t o s := by
  rw [arriveAt, hplace]
  rfl

/-- An access from outside, by R25 and R209. -/
theorem refuses_iff (s : State) (r : MemReq) (t : Nat) : refuses s r t = true ↔ (s.tile t).fenced = true ∨ (s.tile t).clearing = true ∨
    (∃ k, r.iss = .nib k ∧ regionOf t ≠ k) ∨ (∀ k, r.iss ≠ .nib k) ∧ (partOf s t ≠ r.part ∨ 6 ≤ r.part) := by
  unfold refuses
  cases hiss : r.iss with
  | nib k => simp [or_assoc]
  | ctx | xfer | far => simp [or_assoc, or_comm (a := 6 ≤ r.part)]

theorem arrived_refuses (i t : Nat) (s : State) (r : MemReq) : refuses (arrived i t s) r t = refuses s r t := by
  obtain ⟨-, -, -, -, -, hfenced, hclearing, -⟩ := (arrived_counted i t s t).1
  rw [refuses, hfenced, hclearing]
  rfl

end Sys2Proof.Machine

/-! SUPPORT. The effect of an arrived access and its answer. -/
namespace Sys2Proof.Machine

/-! ### The effect of an access at a tile's SRAM -/

theorem writeShared_net (a : Nat) (bs : Bytes) (s : State) (own : Bool) : (writeShared a bs s own).net = s.net := by
  rw [writeShared, touchWrite]
  dsimp only
  split <;> rfl

theorem writeShared_place (a : Nat) (bs : Bytes) (s : State) (own : Bool) (b : Nat) :
    (writeShared a bs s own).place b = s.place b := by
  rw [writeShared, touchWrite]
  dsimp only
  split <;> rfl

/-- A write at the tile leaves the access served. -/
theorem Served.writeShared {i t o : Nat} {r : MemReq} {s s' : State} (h : Served i t r s s') (hplace : s'.place r.addr = .sram t o)
    (a : Nat) (bs : Bytes) (own : Bool) : Served i t r s (writeShared a bs s' own) :=
  ⟨(writeShared_net a bs s' own).trans h.net, nodeAt_sram ((writeShared_place a bs s' own r.addr).trans hplace)⟩

/-- A fill of an empty word that no context waits for (03 R93, R94). -/
theorem fillStore_unawaited {s : State} {t w : Nat} {bs : Bytes} (own : Bool) (hempty : (s.tile t).full w = false)
    (hnone : ∀ c, feWaiter (s.tile t) c w = none) :
    fillStore t w bs s own = .ok (setFull t w true (writeShared (tileBase t + 8 * w) bs s own)) := by
  have hserve : ∀ c, feWaiter ((setFull t w true (writeShared (tileBase t + 8 * w) bs s own)).tile t) c w = none := by
    intro c
    have hcx : ((setFull t w true (writeShared (tileBase t + 8 * w) bs s own)).tile t).cx c = s.cx t c := by
      rw [setFull, State.onTile_tile]
      exact (writeShared_tile _ bs s own t).cx c
    rw [feWaiter_congr w (congrArg Ctx.st hcx) (congrArg Ctx.wait hcx), ← hnone c]
  rw [fillStore, hempty, serveFull_none hserve]
  rfl

/-- The local offset of a place in tile SRAM. -/
theorem addr_of_sram {g a t o : Nat} (h : placeOf g a = .sram t o) : a = tileBase t + o := by
  unfold placeOf at h
  split at h
  · obtain ⟨rfl, rfl⟩ := Place.sram.inj h
    rw [tileBase]
    omega
  · (repeat' split at h) <;> cases h

/-- Where an arrived access is answered: what `arriveAt` answered stands in the answer, and the tiles and memory are those it
left, but for counters. -/
def AnsweredAs (s : State) (i t : Nat) (r : MemReq) (v : MemRes) (s2 s' : State) : Prop :=
  exec (.remoteAccessArrival i) s = .next s' ∧
    (s'.net.answers = s.net.answers ++ [
      { req := r, res := v, sent := { no := s.net.lines, leg := r.iss.node.map (fun d => (.tile t, d)) } }] ∧
      s'.net.reqs = dropAt i s.net.reqs) ∧
    s'.mem = s2.mem ∧ Counted s2 s'

section
variable {s : State} {i t o : Nat} {r : MemReq} (htrip : s.dev.boot.trip = false)
  (hreq : s.net.reqs[i]? = some r) (hfirst : firstReq s.net.reqs i r = true) (harrives : arrives s r.sent = true)
  (hplace : s.place r.addr = .sram t o) (hnear : ∀ d k x p, r.iss ≠ .far d k x p)
include htrip hreq hfirst harrives hplace hnear

theorem answered_of_arriveAt {v : MemRes} {s2 : State} (hat : arriveAt r (arrived i t s) = (v, s2)) (hserved : Served i t r s s2) :
    ∃ s', AnsweredAs s i t r v s2 s' := by
  refine ⟨answer r v s2, ?_, hserved.answer v, answer_mem r v s2, hserved.answer_counted v⟩
  rw [remoteAccessArrival_sram htrip hreq hfirst harrives hplace hnear, hat]

/-- A refused access is answered with fault 0x0A. -/
theorem answered_of_refused (h : refuses s r t = true) : ∃ s', AnsweredAs s i t r (.fault 0x0A#8 r.addr) (arrived i t s) s' := by
  refine answered_of_arriveAt htrip hreq hfirst harrives hplace hnear ?_ (arrived_served hplace)
  rw [arriveAt_sram (s := arrived i t s) hplace, arrived_refuses, h]
  rfl

theorem answered_of_atSram (h : refuses s r t = false) {v : MemRes} {s2 : State} (hat : atSram r t o (arrived i t s) = (v, s2))
    (hserved : Served i t r s s2) : ∃ s', AnsweredAs s i t r v s2 s' := by
  refine answered_of_arriveAt htrip hreq hfirst harrives hplace hnear ?_ hserved
  rw [arriveAt_sram (s := arrived i t s) hplace, arrived_refuses, h]
  exact hat

end

end Sys2Proof.Machine

/-! O36: what each operation does at a tile's SRAM. -/
namespace Sys2Proof.Machine

/-! ### What the answered access leaves -/

theorem AnsweredAs.bytes {s s2 s' : State} {i t : Nat} {r : MemReq} {v : MemRes} (h : AnsweredAs s i t r v s2 s') (a n : Nat) :
    s'.bytes a n = s2.bytes a n := by
  obtain ⟨-, -, hmem, -⟩ := h
  rw [State.bytes, hmem]
  rfl

/-- An access that left the tile's state as it had arrived moves no byte and, of the tiles, event counters alone. -/
theorem AnsweredAs.counted {s s' : State} {i t : Nat} {r : MemReq} {v : MemRes} (h : AnsweredAs s i t r v (arrived i t s) s') :
    s'.mem = s.mem ∧ Counted s s' := by
  obtain ⟨-, -, hmem, hcount⟩ := h
  exact ⟨hmem, (arrived_counted i t s).trans hcount⟩

theorem AnsweredAs.wrote {s s2 s' : State} {i t a : Nat} {r : MemReq} {v : MemRes} {bs : Bytes} (h : AnsweredAs s i t r v s2 s')
    (hw : WroteAt a bs (arrived i t s) s2) :
    s'.bytes a bs.length = bs ∧ ∀ b, b < a ∨ a + bs.length ≤ b → s'.bytes b 1 = s.bytes b 1 := by
  obtain ⟨hin, hout⟩ := hw
  exact ⟨(h.bytes _ _).trans hin, fun b hb => (h.bytes _ _).trans (hout b hb)⟩

theorem AnsweredAs.fe {s s2 s' : State} {i t : Nat} {r : MemReq} {v : MemRes} (h : AnsweredAs s i t r v s2 s') :
    (s'.tile t).fe = (s2.tile t).fe := by
  obtain ⟨-, -, -, hcount⟩ := h
  obtain ⟨-, hfe, -⟩ := (hcount t).1
  exact hfe

theorem AnsweredAs.nf {s s2 s' : State} {i t : Nat} {r : MemReq} {v : MemRes} (h : AnsweredAs s i t r v s2 s') :
    (s'.tile t).nf = (s2.tile t).nf := by
  obtain ⟨-, -, -, hcount⟩ := h
  obtain ⟨-, -, -, -, hnf, -⟩ := (hcount t).1
  exact hnf

theorem arrived_fe (i t : Nat) (s : State) : ((arrived i t s).tile t).fe = (s.tile t).fe := by
  obtain ⟨-, hfe, -⟩ := (arrived_counted i t s t).1
  exact hfe

theorem arrived_nf (i t : Nat) (s : State) : ((arrived i t s).tile t).nf = (s.tile t).nf := by
  obtain ⟨-, -, -, -, hnf, -⟩ := (arrived_counted i t s t).1
  exact hnf

/-! ### Each operation at the SRAM -/

/-- A run of bytes that an access reads: good check bits, and no unit's result. -/
theorem arrived_read {s : State} {i t a n : Nat} (hbad : s.badIn a n = none)
    (hfree : ownedResult (s.onNet (fun m => { m with reqs := dropAt i m.reqs })) a n = false) :
    (arrived i t s).badIn a n = none ∧ readShared a n (arrived i t s) = (s.bytes a n, arrived i t s) :=
  ⟨hbad, readShared_free (ownedResult_onTile (fun x => Tile.count_un x 0x21 1) (fun x => Tile.count_mail x 0x21 1) hfree)⟩

/-- A load's bytes, or a descriptor's, are read and nothing changes. -/
theorem atSram_read {s : State} {i t o : Nat} {r : MemReq}
    (hop : (∃ rt size acq fill, r.op = .load rt size acq fill) ∨ ∃ d, r.op = .loadDesc d)
    (hbad : s.badIn (r.op.span r.addr).1 (r.op.span r.addr).2 = none)
    (hfree : ownedResult (s.onNet (fun m => { m with reqs := dropAt i m.reqs })) (r.op.span r.addr).1 (r.op.span r.addr).2 = false) :
    atSram r t o (arrived i t s) = (.data (s.bytes (r.op.span r.addr).1 (r.op.span r.addr).2), arrived i t s) := by
  obtain ⟨hbad', hread⟩ := arrived_read (t := t) hbad hfree
  rcases hop with ⟨rt, size, acq, fill, hop⟩ | ⟨d, hop⟩ <;> rw [hop] at hbad' hread ⊢ <;> simp only [atSram, hop, hbad', hread]

theorem atSram_store {s : State} {t o : Nat} {r : MemReq} {d : Bytes} (hop : r.op = .store d)
    (hmerge : mergeBad s r.addr d.length = none) : atSram r t o s = (.ack, writeShared r.addr d s) := by
  simp only [atSram, hop, hmerge]

/-- An accumulation's sums stand in memory and its non-finite mark in the tile. -/
theorem atSram_acc {s : State} {i t o : Nat} {r : MemReq} {ty : BitVec 2} {d : Bytes} (hop : r.op = .acc ty d)
    (hbad : s.badIn r.addr d.length = none)
    (hfree : ownedResult (s.onNet (fun m => { m with reqs := dropAt i m.reqs })) r.addr d.length = false) :
    atSram r t o (arrived i t s) = (.ack,
      (writeShared r.addr (accBytes ty (s.bytes r.addr d.length) d).1 (arrived i t s)).onTile t
        (Tile.accumulated (accBytes ty (s.bytes r.addr d.length) d).2)) := by
  have hfree' : ownedResult (arrived i t s) r.addr d.length = false :=
    ownedResult_onTile (fun x => Tile.count_un x 0x21 1) (fun x => Tile.count_mail x 0x21 1) hfree
  have hacc := accumulate_eq (t := t) (s := arrived i t s) (a := r.addr) (ty := ty) (bs := d) false hbad hfree'
  simp only [atSram, hop, hacc]
  rfl

theorem feWord_of {o : Nat} (hword : o % 8 = 0) (hlow : o < 0x10000) : feWord o = some (o / 8) := by
  rw [feWord, if_pos ⟨hlow, hword⟩]

theorem atSram_fill_full {s : State} {t o : Nat} {r : MemReq} {d : Bytes} (hop : r.op = .fillStore d) (hword : feWord o = some (o / 8))
    (hfull : (s.tile t).full (o / 8) = true) : atSram r t o s = (.fault 0x0C#8 r.addr, s) := by
  simp only [atSram, hop, hword, fillStore, hfull, if_true]

theorem atSram_fill_empty {s : State} {t o : Nat} {r : MemReq} {d : Bytes} (hop : r.op = .fillStore d)
    (hword : feWord o = some (o / 8)) (haddr : r.addr = tileBase t + 8 * (o / 8)) (hempty : (s.tile t).full (o / 8) = false)
    (hnone : ∀ c, feWaiter (s.tile t) c (o / 8) = none) :
    atSram r t o s = (.ack, setFull t (o / 8) true (writeShared r.addr d s)) := by
  simp only [atSram, hop, hword, fillStore_unawaited false hempty hnone, haddr]

/-- The full/empty bits after a fill. -/
theorem setFull_full {t w v : Nat} {s : State} (hw : w < 8192) :
    ((setFull t w true s).tile t).full v = if v = w then true else (s.tile t).full v := by
  rw [setFull, State.onTile_tile, Tile.full, getLsbD_setBit _ _ _ _ hw]
  rfl

/-- Settles O36: the access arrives as one counted line, takes its effect or is refused, and its answer leaves. -/
theorem remoteAccessTakesEffect : Obligations.RemoteAccessTakesEffect := by
  unfold Obligations.RemoteAccessTakesEffect
  intro s i r t o htrip hreq hfirst harrives hplace hnear s0 answers counted outside
  have hserved := arrived_served (i := i) hplace
  refine ⟨fun hbar => ?_, fun hfenced hclearing hinside => ?_⟩
  · obtain ⟨s', h⟩ := answered_of_refused htrip hreq hfirst harrives hplace hnear ((refuses_iff s r t).2 hbar)
    exact ⟨s', ⟨h.1, h.2.1⟩, h.counted⟩
  have hopen : refuses s r t = false := by
    refine Bool.eq_false_iff.2 fun h => ?_
    rcases (refuses_iff s r t).1 h with h | h | h
    · exact absurd (hfenced.symm.trans h) (by decide)
    · exact absurd (hclearing.symm.trans h) (by decide)
    · exact hinside h
  have hat {v : MemRes} {s2 : State} := answered_of_atSram htrip hreq hfirst harrives hplace hnear hopen (v := v) (s2 := s2)
  refine ⟨fun d hop hword hlow => ⟨fun hfull => ?_, fun hempty hnone hlen => ?_⟩, fun rt size acq fill hop => ?_,
    fun d hop hbad hfree => ?_, fun d hop hmerge => ?_, fun ty d hop hbad hfree => ?_⟩
  · obtain ⟨s', h⟩ := hat (atSram_fill_full hop (feWord_of hword hlow) (by rw [Tile.full, arrived_fe]; exact hfull)) hserved
    exact ⟨s', ⟨h.1, h.2.1⟩, h.counted⟩
  · have haddr : r.addr = tileBase t + 8 * (o / 8) := by
      have := addr_of_sram hplace
      omega
    have hwait : ∀ c, feWaiter ((arrived i t s).tile t) c (o / 8) = none := fun c => by
      have hcx := (arrived_counted i t s t).2 c
      rw [feWaiter_congr (o / 8) (congrArg Ctx.st hcx) (congrArg Ctx.wait hcx)]
      exact hnone c
    have hwrite := hserved.writeShared (o := o) hplace r.addr d false
    obtain ⟨s', h⟩ := hat (atSram_fill_empty hop (feWord_of hword hlow) haddr (by rw [Tile.full, arrived_fe]; exact hempty) hwait)
      ⟨hwrite.net, hwrite.node⟩
    have hfull (w : Nat) : (s'.tile t).full w = if w = o / 8 then true else (s.tile t).full w := by
      rw [Tile.full, h.fe]
      refine (setFull_full (by omega)).trans ?_
      rw [Tile.full, (writeShared_tile r.addr d (arrived i t s) false t).fe, arrived_fe]
      rfl
    obtain ⟨hin, hout⟩ := h.wrote (a := r.addr) (bs := d) (writeShared_wroteAt r.addr d (arrived i t s) false)
    rw [hlen] at hin hout
    exact ⟨s', ⟨h.1, h.2.1⟩, (hfull _).trans (if_pos rfl), hin, hout, fun w hw => (hfull w).trans (if_neg hw)⟩
  · intro a n hbad hfree
    have hspan : r.op.span r.addr = (a, n) := by
      rw [hop]
      cases fill <;> rfl
    have hread := atSram_read (s := s) (i := i) (t := t) (o := o) (.inl ⟨rt, size, acq, fill, hop⟩)
      (by rw [hspan]; exact hbad) (by rw [hspan]; exact hfree)
    rw [hspan] at hread
    obtain ⟨s', h⟩ := hat hread hserved
    exact ⟨s', ⟨h.1, h.2.1⟩, h.counted⟩
  · have hspan : r.op.span r.addr = (r.addr, 32) := by rw [hop]; rfl
    have hread := atSram_read (s := s) (i := i) (t := t) (o := o) (.inr ⟨d, hop⟩)
      (by rw [hspan]; exact hbad) (by rw [hspan]; exact hfree)
    rw [hspan] at hread
    obtain ⟨s', h⟩ := hat hread hserved
    exact ⟨s', ⟨h.1, h.2.1⟩, h.counted⟩
  · obtain ⟨s', h⟩ := hat (atSram_store hop hmerge) (hserved.writeShared (o := o) hplace r.addr d false)
    exact ⟨s', ⟨h.1, h.2.1⟩, h.wrote (writeShared_wroteAt r.addr d (arrived i t s) false)⟩
  · intro q
    have hwrite := hserved.writeShared (o := o) hplace r.addr q.1 false
    obtain ⟨s', h⟩ := hat (atSram_acc hop hbad hfree) ⟨hwrite.net, hwrite.node⟩
    obtain ⟨hin, hout⟩ := h.wrote (a := r.addr) (bs := q.1) (writeShared_wroteAt r.addr q.1 (arrived i t s) false)
    refine ⟨s', ⟨h.1, h.2.1⟩, hin, hout, ?_⟩
    obtain ⟨-, hnf, -⟩ := Tile.accumulated_fields ((writeShared r.addr q.1 (arrived i t s)).tile t) q.2
    rw [h.nf, State.onTile_tile, hnf, (writeShared_tile r.addr q.1 (arrived i t s) false t).nf, arrived_nf]

end Sys2Proof.Machine

/-! SUPPORT. Answers, home slices and the host window (08 R211–R220, R225–R228); O37, O38. -/
namespace Sys2Proof.Machine

/-! ### The answer to an access -/

/-- What an answer's data does at its context (03 R98, R100), of a line that is not a fill: all of it. -/
theorem takeData_load {t c rt size : Nat} {acq : Bool} {r : MemReq} {d : Bytes} (s : State) (hop : r.op = .load rt size acq false)
    (hlen : d.length = size) : takeData t c r d s =
      if acq then acquire t c (s.onCx t c (fun k => k.loadRegs rt d)) else s.onCx t c (fun k => k.loadRegs rt d) := by
  simp only [takeData, hop, hlen, Nat.le_refl, if_true, Bool.false_eq_true, if_false]

/-- The part of a 64 B line that its load asked for. -/
theorem takeData_fill {t c rt size : Nat} {r : MemReq} {d : Bytes} (s : State) (hop : r.op = .load rt size false true)
    (hlen : d.length = 64) (hsize : size < 64 ∨ size = 64 ∧ r.addr % 64 = 0) : takeData t c r d s =
      (s.onTile t (fun x => x.fillLine (lineKey r.dev r.addr) d)).onCx t c
        (fun k => k.loadRegs rt ((d.drop (r.addr % 64)).take size)) := by
  have hpart : (if d.length ≤ size then d else (d.drop (r.addr % 64)).take size) = (d.drop (r.addr % 64)).take size := by
    rw [hlen]
    rcases hsize with hsize | ⟨rfl, halign⟩
    · rw [if_neg (by omega)]
    · rw [if_pos (by omega), halign, List.drop_zero, List.take_of_length_le (by omega)]
  simp only [takeData, hop, if_true, hpart, Bool.false_eq_true, if_false]

/-- Settles O37: the answer leaves the mesh, counts as a line, and does what it carries; then the fences that waited go on. -/
theorem remoteAnswerReachesItsContext : Obligations.RemoteAnswerReachesItsContext := by
  unfold Obligations.RemoteAnswerReachesItsContext
  intro s i t c pc a htrip hans harrives hiss s0
  have hexec : exec (.remoteAnswer i) s = .next (wakeFences t (match a.res with
      | .data d => takeData t c a.req d s0
      | .ack => s0
      | .fault code x => tileFault t { code := code, daddr := x, ctx := c, iaddr := pc } s0)) := by
    refine congrArg Host.Outcome.next ?_
    simp only [selfTimed, htrip, hans, harrives, hiss]
    rfl
  refine ⟨fun d rt size acq hres hop hlen => ?_, fun d rt size hres hop hlen hsize => ?_, fun d j hres hop => ?_, fun hres => ?_,
    fun code x hres => ?_⟩
  · rw [hexec, hres]
    exact congrArg (fun s => Host.Outcome.next (wakeFences t s)) (takeData_load s0 hop hlen)
  · rw [hexec, hres]
    exact congrArg (fun s => Host.Outcome.next (wakeFences t s)) (takeData_fill s0 hop hlen hsize)
  · rw [hexec, hres]
    simp only [takeData, hop]
  · rw [hexec, hres]
  · rw [hexec, hres]

/-! ### Home slices -/

theorem selfTimed_run {s act : State} (h : s.dev.boot.trip = false) : selfTimed s act = act := by
  rw [selfTimed, h]
  rfl

/-- A request at a home slice that no upset accompanies. -/
theorem homeSliceRequest_run {s : State} (h : s.dev.boot.trip = false) (q : SliceReq) :
    exec (.homeSliceRequest q .none) s = .next (offerSlice q s) :=
  congrArg Host.Outcome.next (selfTimed_run h)

/-- An access in flight is never held by the requests of the host and the Nib cores. -/
theorem offerSlice_flight (i : Nat) (s : State) : offerSlice (.flight i) s = flightRequest i s := by
  have hagent (p : SliceReq) : sameAgent p (.flight i) = false := by cases p <;> rfl
  have hheld : s.net.held.any (fun p => sameAgent p (.flight i)) = false := by simp [hagent]
  rw [offerSlice, hheld]
  rfl

/-- A request whose slice is BUSY or whose line is on its way is held. -/
theorem offerSlice_held {q : SliceReq} {s : State} (h : slicesBusy s q = true) :
    offerSlice q s = s.onNet (fun n => { n with held := n.held ++ [q] }) := by
  rw [offerSlice, h]
  rfl

/-- An access that nothing holds back, to a Bulk Store line whose slice is not BUSY. -/
theorem flightRequest_bulk {s : State} {i : Nat} {r : MemReq} (hreq : s.net.slice[i]? = some r)
    (hfirst : firstReq s.net.slice i r = true) (harrives : arrives s r.sent = true) (hplace : s.place r.addr = .bulk)
    (hfree : sliceBusy s (shareOwner s r.addr) r.addr = false) :
    flightRequest i s = sliceRequest r (s.onNet (fun n => { n with slice := dropAt i n.slice })) := by
  simp only [flightRequest, hreq, hfirst, harrives, hplace, hfree]
  rfl

theorem sliceRequest_outside {s : State} {r : MemReq} (h : inShare s r.part r.addr = false) :
    sliceRequest r s = answer r (.fault 0x0A r.addr) (noteForeign r (.fault 0x0A r.addr) s) := by
  simp only [sliceRequest, h]
  rfl

theorem sliceRequest_filling {s : State} {r : MemReq} (h : inShare s r.part r.addr = true) (hfill : fillOf s (r.addr / 128) = true) :
    sliceRequest r s = joinFill r s := by
  simp only [sliceRequest, h, hfill]
  rfl

theorem sliceRequest_held {s : State} {r : MemReq} (h : inShare s r.part r.addr = true) (hfill : fillOf s (r.addr / 128) = false)
    (hheld : held s (shareOwner s r.addr) r.addr = true) : sliceRequest r s = answer r (atBulk true r s).1 (atBulk true r s).2 := by
  simp only [sliceRequest, h, hfill, hheld]
  rfl

theorem sliceRequest_begins {s : State} {r : MemReq} (h : inShare s r.part r.addr = true) (hfill : fillOf s (r.addr / 128) = false)
    (hheld : held s (shareOwner s r.addr) r.addr = false) :
    sliceRequest r s = s.onNet (fun k => { k with fills := k.fills ++ [{ line := r.addr / 128, waiting := [r] }] }) := by
  simp only [sliceRequest, h, hfill, hheld]
  rfl

/-- An access that waits joins the accesses of its line's fill, and of no other. -/
theorem joinFill_fills {s : State} {r : MemReq} {k : Nat} {f : Fill} (h : s.net.fills[k]? = some f) :
    (joinFill r s).net.fills[k]? = some (if f.line = r.addr / 128 then { f with waiting := f.waiting ++ [r] } else f) := by
  rw [joinFill, State.onNet_net, List.getElem?_map, h]
  rfl

theorem endFill_some {s : State} {i : Nat} {f : Fill} (h : s.net.fills[i]? = some f) :
    endFill i s = serveWaiting f.waiting (s.onNet (fun n => { n with fills := dropAt i n.fills })) := by
  rw [endFill, h]

/-! ### The host window's completions -/

theorem countLine_net (code : Nat) (x : Option Node) (s : State) : (countLine code x s).net = s.net := by
  unfold countLine
  split <;> rfl

theorem countLine_out (code : Nat) (x : Option Node) (s : State) : (countLine code x s).out = s.out := by
  unfold countLine
  split <;> rfl

/-- An answer joins those in flight, and nothing else of the mesh changes but the number of the next line. -/
theorem answer_net (r : MemReq) (v : MemRes) (s : State) : (answer r v s).net = { s.net with
    answers := s.net.answers ++ [
      { req := r, res := v, sent := { no := s.net.lines, leg := r.iss.node.map (fun d => (nodeAt s r.addr, d)) } }],
    lines := s.net.lines + 1 } := by
  rw [answer, countLine_net]
  rfl

theorem answer_out (r : MemReq) (v : MemRes) (s : State) : (answer r v s).out = s.out := countLine_out _ _ _

theorem padTo_length {k : Nat} {bs : Bytes} (h : bs.length = k) : padTo k bs = bs := by
  rw [padTo, h, Nat.sub_self, List.take_of_length_le h.le]
  exact List.append_nil bs

/-- The completion of an outstanding read is its answer, after the posted writes that stood before it have left (08 R220). -/
theorem hostCompletion_outstanding {s : State} {i : Nat} {h : HostReq} (htrip : s.dev.boot.trip = false) (hi : i < 256)
    (hreq : s.net.hostq[i]? = some h) (ok : Bool) (d : Bytes) :
    exec (.hostCompletion i ok d) s = .next (answer h.req
      (if ok then .data (padTo (h.req.op.span h.req.addr).2 d) else .fault 0x02#8 h.req.addr)
      ((leavePosted h.behind s).onNet (fun n => { n with hostq := dropAt i n.hostq }))) := by
  have hout : ¬ maxNonPosted ≤ i := by rw [maxNonPosted]; omega
  refine congrArg Host.Outcome.next ((selfTimed_run htrip).trans ?_)
  rw [if_neg hout, hreq]

/-- A bank of the Bulk Store whose row is closed. -/
def rowClosed (bank : Nat) (s : State) : State :=
  s.onBulk (fun b => { b with openRows := Map.set none b.openRows bank none })

theorem rowClosed_same (bank : Nat) (s : State) : Map.get none (rowClosed bank s).dev.bulk.openRows bank = none :=
  Map.get_set_self none s.dev.bulk.openRows bank none

theorem rowClosed_other {bank k : Nat} (s : State) (h : k ≠ bank) :
    Map.get none (rowClosed bank s).dev.bulk.openRows k = Map.get none s.dev.bulk.openRows k :=
  Map.get_set_ne none s.dev.bulk.openRows none h

/-- Settles O38, along the checks that a request meets at its slice, then fills, completions and rows. -/
theorem homeSliceRequests : Obligations.HomeSliceRequests := by
  unfold Obligations.HomeSliceRequests
  intro s
  refine ⟨fun i r htrip hreq hfirst harrives hplace hfree => ?_, fun q htrip hbusy => ?_, fun i f htrip hfill => ?_,
    fun i h ok d rt size htrip hi hreq hop hlen => ?_, fun site bank c hc => ?_⟩
  · intro s0 n
    have hexec : exec (.homeSliceRequest (.flight i) .none) s = .next (sliceRequest r s0) :=
      (homeSliceRequest_run htrip _).trans
        (congrArg _ ((offerSlice_flight i s).trans (flightRequest_bulk hreq hfirst harrives hplace hfree)))
    rw [hexec]
    refine ⟨fun hout => congrArg _ (sliceRequest_outside hout), fun hin => ⟨fun hfill hheld => ?_, fun hfill => ?_, fun hheld hfill => ?_⟩⟩
    · exact congrArg _ (sliceRequest_held hin hfill hheld)
    · exact ⟨_, rfl, by rw [sliceRequest_filling hin hfill]; exact joinFill_mem r s0,
        fun k f hk => by rw [sliceRequest_filling hin hfill]; exact joinFill_fills (s := s0) hk⟩
    · exact congrArg _ (sliceRequest_begins hin hfill hheld)
  · exact (homeSliceRequest_run htrip q).trans (congrArg _ (offerSlice_held hbusy))
  · refine congrArg Host.Outcome.next ((selfTimed_run htrip).trans ?_)
    rw [endFill_some hfill]
    rfl
  · have hres : (if ok then MemRes.data (padTo (h.req.op.span h.req.addr).2 d) else .fault 0x02#8 h.req.addr) =
        if ok then .data d else .fault 0x02 h.req.addr := by
      rw [hop]
      exact congrArg (fun b => if ok then MemRes.data b else .fault 0x02 h.req.addr) (padTo_length hlen)
    refine ⟨_, hostCompletion_outstanding htrip hi hreq ok d, ?_, ?_, ?_, ?_⟩
    · rw [answer_net, hres]
      rfl
    · rw [answer_net]
      rfl
    · rw [answer_out]
      rfl
    · rw [answer_mem]
      rfl
  · refine ⟨rowClosed (site.val * 16 + bank.val) s, ?_, rowClosed_same _ s, fun k hk => rowClosed_other s hk, rfl, rfl⟩
    rcases hc with rfl | rfl <;> rfl

end Sys2Proof.Machine

/-!
SUPPORT. What the Sync Hub does with an operation on a flag or a semaphore (09 R238–R244), and what its answer does at
the context that waits (09 R239).
-/
namespace Sys2Proof.Machine

/-- An operation at the hub that no upset accompanies. -/
theorem hubOperation_run {s : State} {i : Nat} {o : HubOp} (htrip : s.dev.boot.trip = false)
    (hop : s.net.hubOps[i]? = some o) : exec (.hubOperation i .none) s =
      .next (applyHub o (s.onNet (fun n => { n with hubOps := dropAt i n.hubOps }))) := by
  refine congrArg Host.Outcome.next ((selfTimed_run htrip).trans ?_)
  rw [hop]
  rfl

/-! ### Each kind of operation (09 R240–R244) -/

theorem applyHub_foreign {s : State} {o : HubOp}
    (hown : ownedBy (if o.kind.isFlag then s.hub.ownGf else s.hub.ownSem) (partOf s o.t) o.obj = false) :
    applyHub o s = hubFault o 0x0A s := by
  rw [applyHub]
  simp only [hown, Bool.not_false, if_true]

section Flag
variable {s : State} {o : HubOp} (hown : ownedBy s.hub.ownGf (partOf s o.t) o.obj = true)
include hown

theorem applyHub_gfSet (hkind : o.kind = .gfSet) : applyHub o s = answerHub o none (putGf o.obj true s) := by
  simp [applyHub, hkind, HubKind.isFlag, hown]

theorem applyHub_gfClr (hkind : o.kind = .gfClr) : applyHub o s = answerHub o none (putGf o.obj false s) := by
  simp [applyHub, hkind, HubKind.isFlag, hown]

theorem applyHub_gfTst (hkind : o.kind = .gfTst) : applyHub o s = answerHub o (some (boolWord (gfValue s o.obj))) s := by
  simp [applyHub, hkind, HubKind.isFlag, hown]

theorem applyHub_gfTas (hkind : o.kind = .gfTas) :
    applyHub o s = answerHub o (some (boolWord (gfValue s o.obj))) (putGf o.obj true s) := by
  simp [applyHub, hkind, HubKind.isFlag, hown]

/-- A wait is satisfied where the flag has the value that it waits for. -/
theorem applyHub_gfWaits_done (hkind : o.kind = .gfWait ∧ gfValue s o.obj = true ∨ o.kind = .gfWaitc ∧ gfValue s o.obj = false) :
    applyHub o s = answerHub o none s := by
  rcases hkind with ⟨hkind, hv⟩ | ⟨hkind, hv⟩ <;> simp [applyHub, hkind, HubKind.isFlag, hown, hv]

theorem applyHub_gfWaits_joins (hkind : o.kind = .gfWait ∧ gfValue s o.obj = false ∨ o.kind = .gfWaitc ∧ gfValue s o.obj = true)
    (hwaits : stillWaits s o = true) : applyHub o s = s.onHub (fun h => { h with gfWait := h.gfWait ++ [o] }) := by
  rcases hkind with ⟨hkind, hv⟩ | ⟨hkind, hv⟩ <;> simp [applyHub, hkind, HubKind.isFlag, hown, hv, hwaits]

end Flag

section Semaphore
variable {s : State} {o : HubOp} (hown : ownedBy s.hub.ownSem (partOf s o.t) o.obj = true)
include hown

theorem applyHub_semSignal (hkind : o.kind = .semSignal) : applyHub o s = semSignal o s := by
  simp [applyHub, hkind, HubKind.isFlag, hown]

theorem applyHub_semWait_takes (hkind : o.kind = .semWait) (hempty : (s.hub.sem o.obj).queue = [])
    (hcount : o.n.toNat ≤ (s.hub.sem o.obj).count.toNat) :
    applyHub o s = answerHub o none (s.onSem o.obj (fun m => { m with count := m.count - o.n })) := by
  simp [applyHub, hkind, HubKind.isFlag, hown, hempty, hcount]

theorem applyHub_semWait_joins (hkind : o.kind = .semWait)
    (hmore : (s.hub.sem o.obj).queue ≠ [] ∨ (s.hub.sem o.obj).count.toNat < o.n.toNat) (hwaits : stillWaits s o = true) :
    applyHub o s = s.onSem o.obj (fun m => { m with queue := m.queue ++ [o] }) := by
  have hno : ¬((s.hub.sem o.obj).queue = [] ∧ o.n.toNat ≤ (s.hub.sem o.obj).count.toNat) := by
    rintro ⟨hempty, hcount⟩
    rcases hmore with h | h
    · exact h hempty
    · omega
  simp [applyHub, hkind, HubKind.isFlag, hown, hno, hwaits]

theorem applyHub_semRead (hkind : o.kind = .semRead) : applyHub o s = answerHub o
    (some (BitVec.ofNat 64 ((s.hub.sem o.obj).count.toNat + b2n (s.hub.sem o.obj).sat * 2 ^ 16))) s := by
  simp [applyHub, hkind, HubKind.isFlag, hown]

end Semaphore

/-! ### Flags (09 R240, R241) -/

/-- A list of operations is answered in its order. -/
theorem foldl_answerHub (l : List HubOp) (s : State) : l.foldl (fun s o => answerHub o none s) s =
    s.onNet (fun n => { n with hubAns := n.hubAns ++ l.map (fun o => { op := o, val := none }) }) := by
  induction l generalizing s with
  | nil => simp [State.onNet]
  | cons o l ih => rw [List.foldl_cons, ih]; simp [answerHub, State.onNet]

/-- From `s`, flag `obj` has become `b` and `answers` have left the hub; no other flag, no other object but the flags'
waiters, no tile and no memory has changed. -/
def FlagEnds (s : State) (obj : Nat) (b : Bool) (answers : List HubAns) (s' : State) : Prop :=
  s'.hub.gf.getLsbD obj = b ∧ (∀ g, g ≠ obj → s'.hub.gf.getLsbD g = s.hub.gf.getLsbD g) ∧
    s'.net.hubAns = s.net.hubAns ++ answers ∧ s'.net.hubOps = s.net.hubOps ∧ s'.tiles = s.tiles ∧
    s'.mem = s.mem ∧ s'.hub.sems = s.hub.sems ∧ s'.hub.bars = s.hub.bars

theorem FlagEnds.refl (s : State) (obj : Nat) : FlagEnds s obj (gfValue s obj) [] s :=
  ⟨rfl, fun _ _ => rfl, (List.append_nil _).symm, rfl, rfl, rfl, rfl, rfl⟩

theorem FlagEnds.answer {s s' : State} {obj : Nat} {b : Bool} {answers : List HubAns} (h : FlagEnds s obj b answers s')
    (o : HubOp) (v : Option Word) : FlagEnds s obj b (answers ++ [{ op := o, val := v }]) (answerHub o v s') := by
  obtain ⟨hflag, hothers, hans, hrest⟩ := h
  refine ⟨hflag, hothers, ?_, hrest⟩
  rw [← List.append_assoc, ← hans]
  rfl

/-- A write of a flag answers the waiters that it satisfies, oldest first. -/
theorem putGf_ends {obj : Nat} (hobj : obj < 1024) (b : Bool) (s : State) : FlagEnds s obj b
    ((s.hub.gfWait.filter (fun w => w.obj = obj ∧ w.kind = if b then .gfWait else .gfWaitc)).map
      (fun w => { op := w, val := none })) (putGf obj b s) := by
  have hgf (g : Nat) := getLsbD_setBit s.hub.gf obj g b hobj
  rw [putGf, foldl_answerHub]
  refine ⟨(hgf obj).trans (if_pos rfl), fun g hg => (hgf g).trans (if_neg hg), ?_, rfl, rfl, rfl, rfl, rfl⟩
  simp [beq_eq_decide]

/-- Settles O29: each kind is a write of the flag or none, then an answer or none. -/
theorem globalFlagOperationsAtTheHub : Obligations.GlobalFlagOperationsAtTheHub := by
  unfold Obligations.GlobalFlagOperationsAtTheHub
  intro s i o htrip hop hobj hown v old woken ends
  let s0 := s.onNet (fun n => { n with hubOps := dropAt i n.hubOps })
  have hrun := hubOperation_run htrip hop
  have ends_of {b : Bool} {answers : List HubAns} {s' : State} (happly : applyHub o s0 = s')
      (h : FlagEnds s0 o.obj b answers s') : ends b answers := ⟨s', hrun.trans (congrArg _ happly), h⟩
  have hput (b : Bool) := putGf_ends hobj b s0
  have hold : boolWord (gfValue s0 o.obj) = old := rfl
  refine ⟨fun hk => ?_, fun hk => ?_, fun hk => ?_, fun hk => ?_, fun hk hv => ?_, fun hk hv => ?_, fun hk hwaits => ?_⟩
  · exact ends_of (applyHub_gfSet hown hk) ((hput true).answer o none)
  · exact ends_of (applyHub_gfClr hown hk) ((hput false).answer o none)
  · exact ends_of (applyHub_gfTst hown hk) ((FlagEnds.refl s0 o.obj).answer o (some old))
  · exact ends_of (applyHub_gfTas hown hk) ((hput true).answer o (some old))
  · have h := (FlagEnds.refl s0 o.obj).answer o none
    rw [show gfValue s0 o.obj = true from hv] at h
    exact ends_of (applyHub_gfWaits_done hown (.inl ⟨hk, hv⟩)) h
  · have h := (FlagEnds.refl s0 o.obj).answer o none
    rw [show gfValue s0 o.obj = false from hv] at h
    exact ends_of (applyHub_gfWaits_done hown (.inr ⟨hk, hv⟩)) h
  · have happly := applyHub_gfWaits_joins (s := s0) hown hk hwaits
    exact ⟨ends_of happly (FlagEnds.refl s0 o.obj), _, hrun.trans (congrArg _ happly), rfl⟩

/-! ### Semaphores (09 R242–R244) -/

/-- A queue is served from its head while the count lasts. -/
theorem serveQueue_append (served rest : List HubOp) (k : Nat) (htaken : (served.map (fun w => w.n.toNat)).sum ≤ k)
    (hrest : ∀ w ∈ rest.head?, k - (served.map (fun w => w.n.toNat)).sum < w.n.toNat) :
    serveQueue k (served ++ rest) = (k - (served.map (fun w => w.n.toNat)).sum, rest, served) := by
  induction served generalizing k with
  | nil =>
    cases rest with
    | nil => rfl
    | cons w rest =>
      have hmore : ¬ w.n.toNat ≤ k := Nat.not_le.2 (hrest w rfl)
      simp [serveQueue, hmore]
  | cons w served ih =>
    simp only [List.map_cons, List.sum_cons] at htaken hrest ⊢
    rw [← Nat.sub_sub] at hrest ⊢
    have hfits : w.n.toNat ≤ k := by omega
    simp only [List.cons_append, serveQueue, if_pos hfits, ih (k - w.n.toNat) (by omega) hrest]

/-- From `s`, semaphore `obj` has become `m` and `answers` have left the hub; no other semaphore, no flag, no tile and no
memory has changed. -/
def SemEnds (s : State) (obj : Nat) (m : SemSt) (answers : List HubAns) (s' : State) : Prop :=
  s'.hub.sem obj = m ∧ (∀ g, g ≠ obj → s'.hub.sem g = s.hub.sem g) ∧ s'.net.hubAns = s.net.hubAns ++ answers ∧
    s'.tiles = s.tiles ∧ s'.mem = s.mem ∧ s'.hub.gf = s.hub.gf

theorem SemEnds.answer {s s' : State} {obj : Nat} {m : SemSt} {answers : List HubAns} (h : SemEnds s obj m answers s')
    (o : HubOp) (v : Option Word) : SemEnds s obj m (answers ++ [{ op := o, val := v }]) (answerHub o v s') := by
  obtain ⟨hsem, hothers, hans, hrest⟩ := h
  refine ⟨hsem, hothers, ?_, hrest⟩
  rw [← List.append_assoc, ← hans]
  rfl

theorem onSem_ends (s : State) (obj : Nat) (f : SemSt → SemSt) : SemEnds s obj (f (s.hub.sem obj)) [] (s.onSem obj f) :=
  ⟨State.onSem_sem s obj f, fun _ hg => State.onSem_sem_ne s obj f hg, (List.append_nil _).symm, rfl, rfl, rfl⟩

/-- A service of the queue answers those that it serves, in their order. -/
theorem SemEnds.serve {s s' : State} {obj k : Nat} {m : SemSt} {answers : List HubAns} {served rest : List HubOp}
    (h : SemEnds s obj m answers s') (hserve : serveQueue m.count.toNat m.queue = (k, rest, served)) :
    SemEnds s obj { m with count := BitVec.ofNat 16 k, queue := rest } (answers ++ served.map (fun o => { op := o, val := none }))
      (serveSem obj s') := by
  obtain ⟨rfl, hothers, hans, hrest⟩ := h
  rw [serveSem, hserve]
  refine ⟨State.onSem_sem s' obj _, fun g hg => (State.onSem_sem_ne s' obj _ hg).trans (hothers g hg), ?_, hrest⟩
  rw [← List.append_assoc, ← hans]
  rfl

theorem semSignal_below {o : HubOp} {s : State} (hsum : ((s.hub.sem o.obj).count.toNat : Int) + o.n.toInt < 0) :
    semSignal o s = hubFault o 0x04 s := by
  rw [semSignal]
  exact if_pos hsum

/-- A signal whose sum is not below 0 sets the count, then serves the queue, then is answered. -/
theorem semSignal_counts {o : HubOp} {s : State} {sum : Int} (hsum : ((s.hub.sem o.obj).count.toNat : Int) + o.n.toInt = sum)
    (hpos : 0 ≤ sum) : semSignal o s = answerHub o none (serveSem o.obj (s.onSem o.obj (fun m =>
      { m with count := BitVec.ofNat 16 (min sum 65535).toNat, sat := m.sat || decide (65535 < sum) }))) := by
  have hcap : (if 65535 < sum then (65535 : Nat) else sum.toNat) = (min sum 65535).toNat := by split <;> omega
  subst hsum
  rw [semSignal]
  simp only [if_neg (Int.not_lt.2 hpos), decide_eq_true_eq, hcap]

/-- A count that was set is taken by those at the head of the queue whom it serves, who are answered before the signaller. -/
theorem serveSem_ends {o : HubOp} {s : State} {served rest : List HubOp} {k taken : Nat} (hk : k ≤ 65535)
    (hqueue : (s.hub.sem o.obj).queue = served ++ rest) (hsum : (served.map (fun w => w.n.toNat)).sum = taken) (htaken : taken ≤ k)
    (hrest : ∀ w ∈ rest.head?, k - taken < w.n.toNat) (sat : SemSt → Bool) :
    SemEnds s o.obj { s.hub.sem o.obj with count := BitVec.ofNat 16 (k - taken), sat := sat (s.hub.sem o.obj), queue := rest }
      ((served ++ [o]).map (fun w => { op := w, val := none }))
      (answerHub o none (serveSem o.obj (s.onSem o.obj (fun m => { m with count := BitVec.ofNat 16 k, sat := sat m })))) := by
  subst hsum
  have hk16 : (BitVec.ofNat 16 k).toNat = k := by rw [BitVec.toNat_ofNat]; omega
  have hserve : serveQueue (BitVec.ofNat 16 k).toNat (s.hub.sem o.obj).queue =
      (k - (served.map (fun w => w.n.toNat)).sum, rest, served) := by
    rw [hk16, hqueue, serveQueue_append served rest k htaken hrest]
  have hset := onSem_ends s o.obj (fun m => { m with count := BitVec.ofNat 16 k, sat := sat m })
  rw [List.map_append]
  exact (hset.serve hserve).answer o none

/-- Settles O30: a signal goes through its count, the service of the queue and its answer; a wait takes or joins. -/
theorem semaphoreOperationsAtTheHub : Obligations.SemaphoreOperationsAtTheHub := by
  unfold Obligations.SemaphoreOperationsAtTheHub
  intro s i o htrip hop hobj hown m s0 sum ends
  have hrun := hubOperation_run htrip hop
  have ends_of {m' : SemSt} {answers : List HubAns} {s' : State} (happly : applyHub o s0 = s')
      (h : SemEnds s0 o.obj m' answers s') : ends m' answers := ⟨s', hrun.trans (congrArg _ happly), h⟩
  refine ⟨fun hk => ⟨fun hneg => ?_, fun served rest hqueue hpos => ?_⟩, fun hk => ⟨fun hempty hcount => ?_, fun hmore hwaits => ?_⟩⟩
  · exact hrun.trans (congrArg _ ((applyHub_semSignal (s := s0) hown hk).trans (semSignal_below hneg)))
  · intro taken left htaken hrest
    have hcap : (min sum 65535).toNat ≤ 65535 := by omega
    exact ends_of ((applyHub_semSignal (s := s0) hown hk).trans (semSignal_counts (sum := sum) rfl hpos))
      (serveSem_ends (s := s0) hcap hqueue List.sum_eq_foldl htaken hrest _)
  · exact ends_of (applyHub_semWait_takes hown hk hempty hcount) ((onSem_ends s0 o.obj _).answer o none)
  · exact ends_of (applyHub_semWait_joins hown hk hmore hwaits) (onSem_ends s0 o.obj _)

/-- What a READ answers. -/
def semReadWord (m : SemSt) : Word := BitVec.ofNat 64 (m.count.toNat + b2n m.sat * 2 ^ 16)

theorem semReadWord_toNat (m : SemSt) : (semReadWord m).toNat = m.count.toNat + b2n m.sat * 2 ^ 16 := by
  have hcount := m.count.isLt
  have hsat : b2n m.sat ≤ 1 := by cases m.sat <;> decide
  rw [semReadWord, BitVec.toNat_ofNat, Nat.mod_eq_of_lt (by omega)]

theorem semReadWord_fields (m : SemSt) : (semReadWord m).extractLsb' 0 16 = m.count ∧ (semReadWord m).getLsbD 16 = m.sat ∧
    (semReadWord m).extractLsb' 17 47 = 0 := by
  have hcount := m.count.isLt
  have hword := semReadWord_toNat m
  refine ⟨BitVec.eq_of_toNat_eq ?_, ?_, BitVec.eq_of_toNat_eq ?_⟩
  · rw [toNat_extractLsb', hword]
    omega
  · rw [← BitVec.testBit_toNat, hword, Nat.testBit_eq_decide_div_mod_eq]
    cases m.sat <;> simp [b2n] <;> omega
  · have hsat : b2n m.sat ≤ 1 := by cases m.sat <;> decide
    rw [toNat_extractLsb', hword, Nat.div_eq_of_lt (by omega)]
    rfl

/-- Settles O31. -/
theorem semaphoreReadChangesNothing : Obligations.SemaphoreReadChangesNothing := by
  unfold Obligations.SemaphoreReadChangesNothing
  intro s i o htrip hop hkind hown
  obtain ⟨hcount, hsat, hzero⟩ := semReadWord_fields (s.hub.sem o.obj)
  exact ⟨_, hcount, hsat, hzero, (hubOperation_run htrip hop).trans (congrArg _ (applyHub_semRead hown hkind))⟩

/-- Settles O32. -/
theorem foreignHubObjectsFault : Obligations.ForeignHubObjectsFault := by
  unfold Obligations.ForeignHubObjectsFault
  intro s i o htrip hop hown
  exact (hubOperation_run htrip hop).trans (congrArg _ (applyHub_foreign hown))

/-! ### The hub's answer (09 R239, 08 R227) -/

theorem hubAnswer_run {s : State} {i : Nat} {a : HubAns} (htrip : s.dev.boot.trip = false)
    (hans : s.net.hubAns[i]? = some a) : exec (.hubAnswer i) s =
      .next (takeHubAnswer a (s.onNet (fun n => { n with hubAns := dropAt i n.hubAns }))) := by
  refine congrArg Host.Outcome.next ((selfTimed_run htrip).trans ?_)
  rw [hans]

/-- The context of an answer with the answer's value. -/
def givenAnswer (a : HubAns) (s : State) : State :=
  match a.val with
  | some v => s.onCx a.op.t a.op.c (fun k => k.setReg a.op.rd v)
  | none => s

/-- The value of an answer is in the register that its operation names, and nothing else has changed. -/
theorem givenAnswer_effect (a : HubAns) (s : State) : let t := a.op.t; let c := a.op.c; let s' := givenAnswer a s
    KeepsRest t c s s' ∧ (s'.cx t c).pc = (s.cx t c).pc ∧
    (∀ v, a.val = some v → a.op.rd ≠ 0 → (s'.cx t c).reg a.op.rd = v) ∧
    (∀ r, r ≠ a.op.rd ∨ a.val = none → (s'.cx t c).reg r = (s.cx t c).reg r) := by
  intro t c s'
  cases hval : a.val with
  | none =>
    have hs : s' = s := by simp only [s', givenAnswer, hval]
    rw [hs]
    exact ⟨KeepsRest.refl t c s, rfl, fun v hv => absurd hv (by simp), fun _ _ => rfl⟩
  | some v =>
    have hs : s' = s.onCx t c (fun k => k.setReg a.op.rd v) := by simp only [s', givenAnswer, hval]; rfl
    rw [hs, State.onCx_cx]
    refine ⟨KeepsRest.onCx t c _ s, Ctx.setReg_pc .., fun w hw hrd => ?_, fun r hr => ?_⟩
    · cases hw
      rw [Ctx.reg_setReg, if_pos ⟨rfl, hrd⟩]
    · rw [Ctx.reg_setReg, if_neg (fun h => hr.elim (fun hne => hne h.1) (by simp))]

theorem invalidateRlb_tile (t u : Nat) (s : State) :
    (invalidateRlb t s).tile u = if u = t then { s.tile t with rlb := [] } else s.tile u := by
  change (s.onTile t (fun x => { x with rlb := x.rlb.filter (fun _ => !true) })).tile u = _
  rw [State.tile_onTile]
  simp

/-- An acquire empties the remote line buffer and makes the next remote LD bypass it (08 R227). -/
theorem acquire_effect (t c : Nat) (s : State) : ((acquire t c s).tile t).rlb = [] ∧
    (acquire t c s).cx t c = { s.cx t c with bypass := true } ∧ ∀ u, u ≠ t → (acquire t c s).tile u = s.tile u := by
  refine ⟨?_, ?_, fun u hu => ?_⟩
  · rw [acquire, State.onCx, State.onTile_tile, Tile.onCx_rlb, invalidateRlb_tile, if_pos rfl]
  · rw [acquire, State.onCx_cx, State.cx, invalidateRlb_tile, if_pos rfl]
    rfl
  · rw [acquire, State.onCx, State.onTile_tile_ne _ _ _ hu, invalidateRlb_tile, if_neg hu]

/-- What a context has of its answer before its wait ends: the value, then the effect of an acquire. -/
def takenAnswer (a : HubAns) (s : State) : State :=
  if a.op.acq then acquire a.op.t a.op.c (givenAnswer a s) else givenAnswer a s

theorem takenAnswer_effect (a : HubAns) (s : State) : let t := a.op.t; let c := a.op.c; let s' := takenAnswer a s
    s'.mem = s.mem ∧ s'.hub = s.hub ∧ (∀ u, u ≠ t → s'.tile u = s.tile u) ∧ (s'.cx t c).pc = (s.cx t c).pc ∧
    (∀ v, a.val = some v → a.op.rd ≠ 0 → (s'.cx t c).reg a.op.rd = v) ∧
    (∀ r, r ≠ a.op.rd ∨ a.val = none → (s'.cx t c).reg r = (s.cx t c).reg r) ∧
    (a.op.acq = true → (s'.tile t).rlb = [] ∧ (s'.cx t c).bypass = true) ∧
    (a.op.acq = false → (s'.tile t).rlb = (s.tile t).rlb) := by
  intro t c s'
  obtain ⟨hkeeps, hpc, hval, hregs⟩ := givenAnswer_effect a s
  obtain ⟨⟨-, hmem, -, hhub, -⟩, ⟨-, -, hrlb, -⟩, htiles, -⟩ := hkeeps
  cases hacq : a.op.acq with
  | false =>
    have hs : s' = givenAnswer a s := by simp only [s', takenAnswer, hacq]; rfl
    rw [hs]
    exact ⟨hmem, hhub, htiles, hpc, hval, hregs, by simp, fun _ => hrlb⟩
  | true =>
    have hs : s' = acquire t c (givenAnswer a s) := by simp only [s', takenAnswer, hacq]; rfl
    obtain ⟨hempty, hcx, hothers⟩ := acquire_effect t c (givenAnswer a s)
    rw [hs, hcx]
    exact ⟨(acquire_mem ..).trans hmem, (acquire_hub ..).trans hhub, fun u hu => (hothers u hu).trans (htiles u hu), hpc, hval,
      hregs, fun _ => ⟨hempty, rfl⟩, by simp⟩

/-- Whether a wait is for the object of an operation. -/
def HubOp.awaitedBy (o : HubOp) (w : Option WaitFor) : Prop :=
  (∃ b, w = some (.gf o.obj b)) ∧ o.kind.isFlag = true ∨ (∃ b n, w = some (.sem o.obj b n)) ∧ o.kind.isFlag = false

theorem takeHubAnswer_awaited {a : HubAns} {s : State} (hdrop : a.op.drop = false) (hst : (s.cx a.op.t a.op.c).st = .wait)
    (hwait : a.op.awaitedBy (s.cx a.op.t a.op.c).wait) : takeHubAnswer a s =
      (takenAnswer a s).onTile a.op.t (fun x => x.endWait a.op.c) := by
  have hne : ¬ CtxSt.wait = .fault := by decide
  rcases hwait with ⟨⟨b, hw⟩, hk⟩ | ⟨⟨b, n, hw⟩, hk⟩ <;>
    simp only [takeHubAnswer, hdrop, hst, hw, hk, hne] <;> rfl

/-- Settles O33: the context gets the value, then the acquire's effect, and its wait ends. -/
theorem hubAnswerEndsTheWait : Obligations.HubAnswerEndsTheWait := by
  unfold Obligations.HubAnswerEndsTheWait
  intro s i a htrip hans hdrop hst hwait
  let s0 := s.onNet (fun n => { n with hubAns := dropAt i n.hubAns })
  obtain ⟨hmem, hhub, htiles, hpc, hval, hregs, hacq, hplain⟩ := takenAnswer_effect a s0
  refine ⟨_, (hubAnswer_run htrip hans).trans (congrArg _ (takeHubAnswer_awaited (s := s0) hdrop hst hwait)), ?_⟩
  generalize takenAnswer a s0 = s1 at *
  have hcx : (s1.onTile a.op.t (fun x => x.endWait a.op.c)).cx a.op.t a.op.c =
      (s1.cx a.op.t a.op.c).unwait.retired ((s1.cx a.op.t a.op.c).pc + 4) := by
    rw [State.cx, State.onTile_tile, Tile.endWait_cx, if_pos rfl]
    rfl
  have hrlb : ((s1.onTile a.op.t (fun x => x.endWait a.op.c)).tile a.op.t).rlb = (s1.tile a.op.t).rlb := by
    obtain ⟨-, -, hkept, -⟩ := KeepsTile.endWait (s1.tile a.op.t) a.op.c
    rw [State.onTile_tile, hkept]
  rw [hcx, hrlb]
  exact ⟨rfl, congrArg (· + 4) hpc, hval, hregs, hacq, hplain, hmem, hhub,
    fun u hu => (State.onTile_tile_ne s1 _ _ hu).trans (htiles u hu)⟩

/-! ### BAR and FENCE.FULL at issue (09 R248, 08 R228) -/

/-- An instruction that first has something to wait for. -/
theorem finish_waitOr {s : State} {t c : Nat} {u : Uses} (h : Ready s t c u) (p : Prop) [Decidable p] (w : WaitFor) (e : Eff) :
    finish t c (fetched t c s) (if p then .wait w else e) =
      if p then waiting t c w (fetched t c s) else finish t c (fetched t c s) e := by
  rw [apply_ite (finish t c (fetched t c s)), finish_wait h]

/-- What a BAR instruction does in a ready context: it faults where another partition has the barrier. -/
theorem barForm_ready {s : State} {t c : Nat} (h : Ready s t c {}) {b : BitVec 12} (hb : b.toNat ≤ 31) (body : State → Eff) :
    barForm t c 0 0 b body s = finish t c (fetched t c s)
      (if ownedBy s.hub.ownBar (partOf s t) b.toNat then body (fetched t c s) else .fault 0x0A 0) := by
  have hlegal : ((0 : BitVec 5) == 0#5 && (0 : BitVec 5) == 0#5 && decide (b.toNat ≤ 31)) = true := by simp [hb]
  rw [barForm, issue_ready h, hlegal, legal_true, fetched_hub, partOf_fetched]
  cases ownedBy s.hub.ownBar (partOf s t) b.toNat <;> rfl

@[simp] theorem fetched_gateHolds (t c b : Nat) (s : State) :
    gateHolds ((fetched t c s).tile t) b = gateHolds (s.tile t) b := by
  simp only [gateHolds, fetched_unit, fetched_un]

@[simp] theorem fetched_barPending (t c : Nat) (s : State) : ((fetched t c s).tile t).barPending = (s.tile t).barPending := by
  obtain ⟨-, -, -, -, -, -, -, -, -, hpending, -⟩ := fetched_keepsTile t c s
  exact hpending

/-- Settles O18, form by form: each goes on or waits as its one test says. -/
theorem barrierAndFenceInstructions : Obligations.BarrierAndFenceInstructions := by
  unfold Obligations.BarrierAndFenceInstructions
  intro s t c b h s1 n
  refine ⟨fun hn hown => ⟨?_, ?_, ?_⟩, fun hn hown => ?_, ?_⟩
  · refine congrArg Host.Outcome.next ?_
    rw [barForm_ready h hn, if_pos hown, fetched_gateHolds, finish_waitOr h, finish_done h]
  · refine congrArg Host.Outcome.next ?_
    rw [barForm_ready h hn, if_pos hown, fetched_barPending, finish_waitOr h, finish_done h]
  · refine congrArg Host.Outcome.next ?_
    rw [barForm_ready h hn, if_pos hown, fetched_gateHolds, finish_waitOr h, finish_left h]
    rfl
  · have hfault (body : State → Eff) : barForm t c 0 0 b body s = issueFault t c 0x0A s1 := by
      rw [barForm_ready h hn, if_neg (Bool.eq_false_iff.1 hown), finish_fault]
    exact ⟨congrArg _ (hfault _), congrArg _ (hfault _), congrArg _ (hfault _)⟩
  · refine congrArg Host.Outcome.next ?_
    rw [issue_ready h]
    refine (congrArg (finish t c s1) (legal_of rfl _ _)).trans ?_
    rw [finish_waitOr h, finish_done h]

end Sys2Proof.Machine

/-!
SUPPORT. A release whose trace record takes the way of a dirty line of the Contact Sheet (08 R213, 18 R498).
-/
namespace Sys2Proof.Machine

/-- P0 is traced with one way of each set for the Contact Sheet. Its first 512 lines are written, the first of them still
stands dirty in the trace way of set 0, and the next record's line is of that set. A release of barrier 0 is due at
tile 0. -/
def fullTraceWay : State :=
  { regions := [(0, { rc := { trace := 1, lines := [{ line := bulkBase / 128, set := 0, way := 15, dirty := true,
                                                      poisoned := false, used := 0, data := List.replicate 128 1#8 }] } })],
    parts := [(0, { band := some (0, 1), share := (0, 1) })],
    hub := { bars := [(0, { due := [0] })] },
    dev := { trace := { on := 1, st := 2, size := 0x20000, written := 1024 }, bulk := { scrubbed := [(0, 1024)] } } }

/-- The byte at an address of the memory that a command leaves. -/
def byteAfter (r : Res) (a : Nat) : Byte :=
  match r with
  | .next s => Map.get 0#8 s.mem a
  | _ => 0

/-- Refutes O34: BARRIER_RELEASE changes memory where the trace record of the release takes the way of a dirty line, which
is written back. -/
theorem not_barrierArrivalsAndReleases : ¬ Obligations.BarrierArrivalsAndReleases := by
  unfold Obligations.BarrierArrivalsAndReleases
  intro h
  obtain ⟨-, -, hrelease⟩ := h fullTraceWay rfl
  obtain ⟨s', hrun, hmem, -⟩ := hrelease 0 0 (by decide +kernel)
  have hwritten : byteAfter (exec (.barrierRelease 0 0) fullTraceWay) bulkBase = 1 := by decide +kernel
  rw [hrun, byteAfter, hmem] at hwritten
  exact absurd hwritten (by decide +kernel)

end Sys2Proof.Machine

/-!
SUPPORT. What the declaration of a phase leaves unchanged, and a phase that region 1 declares (14 R394, R401).
-/
namespace Sys2Proof.Machine

/-! ### Outside its region a declaration sets no flag -/

/-- A flag of tile `t`, beside the partitions and the trace settings, on which what a Nib core does next depends. -/
def State.flagView (t f : Nat) (s : State) : SMap Part × Trace × Bool := (s.parts, s.dev.trace, (s.tile t).flag f)

theorem flagView_eq_iff {t f : Nat} {s s' : State} : s'.flagView t f = s.flagView t f ↔
    s'.parts = s.parts ∧ s'.dev.trace = s.dev.trace ∧ (s'.tile t).flag f = (s.tile t).flag f := by
  simp only [State.flagView, Prod.mk.injEq]

theorem foldl_flagView {α : Type} {t f : Nat} {g : State → α → State} (l : List α)
    (h : ∀ s, ∀ x ∈ l, (g s x).flagView t f = s.flagView t f) (s : State) : (l.foldl g s).flagView t f = s.flagView t f :=
  List.foldlRecOn (motive := fun s' => s'.flagView t f = s.flagView t f) l g rfl (fun s' hs x hx => (h s' x hx).trans hs)

theorem onTile_flagView {t u f : Nat} {g : Tile → Tile} (hg : t = u → ∀ x, (g x).flag f = x.flag f) (s : State) :
    (s.onTile u g).flagView t f = s.flagView t f := by
  refine flagView_eq_iff.mpr ⟨rfl, rfl, ?_⟩
  rw [State.tile_onTile]
  split
  · next h => rw [hg h, h]
  · rfl

theorem onRegion_flagView (t f r : Nat) (g : Reg → Reg) (s : State) : (s.onRegion r g).flagView t f = s.flagView t f := by rfl

theorem writeShared_flagView (t f a : Nat) (bs : Bytes) (s : State) : (writeShared a bs s).flagView t f = s.flagView t f := by
  have hdev : (writeShared a bs s).parts = s.parts ∧ (writeShared a bs s).dev.trace = s.dev.trace := by
    rw [writeShared, touchWrite]
    dsimp only
    split <;> exact ⟨rfl, rfl⟩
  exact flagView_eq_iff.mpr ⟨hdev.1, hdev.2, (writeShared_tile a bs s false t).flag f⟩

theorem assign_flagView (t f r ri v at' : Nat) (o : TiledOp) (id : Nat) (h : Shape) (s : State) :
    (assign r ri v at' o id h s).flagView t f = s.flagView t f := by
  rw [assign]
  exact foldl_flagView _ (fun s _ _ => writeShared_flagView t f _ _ s) s

theorem giveTokens_flagView (t f r : Nat) (m : BitVec 1024) (s : State) : (giveTokens r m s).flagView t f = s.flagView t f := by
  rw [giveTokens]
  refine foldl_flagView _ (fun s j _ => onTile_flagView ?_ s) s
  intro _ x
  rfl

theorem traceHub_off {s : State} (htrace : s.dev.trace.on = 0) (r n kind : Nat) (bs : Bytes) : traceHub r n kind bs s = s := by
  simp [traceHub, kindOn, htrace]

/-- Without tracing, a map that is latched or refused changes no flag (15 R412). -/
theorem latch_flagView (t f r phase : Nat) {s : State} (htrace : s.dev.trace.on = 0) :
    (latch r phase s).flagView t f = s.flagView t f := by
  have hgive := giveTokens_flagView t f r (s.region r).pool.map s
  obtain ⟨-, hgiven, -⟩ := flagView_eq_iff.mp hgive
  rw [latch]
  dsimp only
  split
  · rw [onPool, onRegion_flagView]
  · rw [traceHub_off (by rw [onPool, State.onRegion_dev, hgiven, htrace]), onPool, onRegion_flagView, hgive]

theorem mem_tilesOf (r t : Nat) : t ∈ tilesOf r ↔ 256 * r ≤ t ∧ t < 256 * r + 256 := by
  rw [tilesOf, List.mem_map]
  constructor
  · rintro ⟨j, hj, rfl⟩
    have := List.mem_range.mp hj
    omega
  · exact fun h => ⟨t - 256 * r, List.mem_range.mpr (by omega), by omega⟩

/-- A declaration sets TF255 at the tiles of its region, and a flag of no other tile (14 R394). -/
theorem declare_flagView {t f r n ri : Nat} {p : PlateInfo} {d : Declared} {s : State} (htrace : s.dev.trace.on = 0)
    (ht : ¬ (256 * r ≤ t ∧ t < 256 * r + 256)) : (declare r n ri p false d s).flagView t f = s.flagView t f := by
  rw [declare]
  split
  · rw [waitPool, onPool, onRegion_flagView]
    rfl
  · next v m _ =>
    have hassign := foldl_flagView d.ops (fun s o _ => assign_flagView t f r ri v p.assign o.2.1 o.1 o.2.2 s) s
    obtain ⟨-, hassigned, -⟩ := flagView_eq_iff.mp hassign
    dsimp only
    rw [if_neg Bool.false_ne_true, foldl_flagView, setClaims, State.onRc, onRegion_flagView, latch_flagView, onRegion_flagView, hassign]
    · rw [State.onRegion_dev, hassigned, htrace]
    · intro s u hu
      exact onTile_flagView (fun e : t = u => absurd ((mem_tilesOf r t).mp (e ▸ hu)) ht) s

/-! ### The command -/

theorem finishLoad_of_running {n : Nat} {s : State} (hst : (s.part n).load.st = 2) : finishLoad n s = s := by
  rw [finishLoad]
  split
  · rfl
  · exact if_pos (.inl (by rw [hst]; decide))

/-- With no duty before it, a running partition's region that can declares, which sets a flag of no tile elsewhere (14 R375, R394). -/
theorem phaseDeclaration_elsewhere {s s' : State} {r : RegionId} {p : PlateInfo} {d : Declared} {t : Nat} (f : Nat)
    (htrip : s.dev.boot.trip = false) (hplate : (s.part (partOfRegion s r)).load.plate = some p)
    (hst : (s.part (partOfRegion s r)).load.st = 2) (halive : (s.region r).nib.alive = true)
    (hdeclaring : (s.region r).nib.declaring = true) (hreached : boundaryReached s r p.boundary = true) (hfault : faultDue s r = false)
    (hcommit : commitDue s r = false) (htrace : s.dev.trace.on = 0) (hwindow : (s.region r).pool.window = true)
    (hread : readDecl s r p false (bandOf s (partOfRegion s r)).length = .ok d) (ht : ¬ (256 * r.val ≤ t ∧ t < 256 * r.val + 256))
    (hrun : exec (.phaseDeclaration r) s = .next s') : (s'.tile t).flag f = (s.tile t).flag f := by
  obtain ⟨hreleased, hidle⟩ := Bool.and_eq_true_iff.mp hreached
  have hloading : ((s.part (partOfRegion s r)).load.st == 1) = false := by rw [hst]; rfl
  have hdeclare : declareRegion r s = declare r (partOfRegion s r) (r - leadRegion s (partOfRegion s r)) p false d s := by
    rw [declareRegion]
    simp only [hplate, hloading, halive, hdeclaring, hreleased, hidle, hwindow, hread, Bool.not_true, Bool.or_self, Bool.or_true,
      Bool.false_eq_true, if_false]
  obtain ⟨hparts, -, hflag⟩ := flagView_eq_iff.mp ((congrArg (State.flagView t f) hdeclare).trans (declare_flagView htrace ht))
  have hruns : exec (.phaseDeclaration r) s = .next (declareRegion r s) := by
    refine congrArg Host.Outcome.next ((selfTimed_run htrip).trans ?_)
    dsimp only
    rw [if_neg (by simp [hfault, hcommit]), if_neg (by simp [hst]), finishLoad_of_running (by rw [State.part, hparts, ← State.part, hst])]
  rw [← Host.Outcome.next.inj (hruns.symm.trans hrun), hflag]

/-! ### A declaration of region 1 -/

/-- A phase table of one phase, without operations, and one variant, whose map gives no tile a token. -/
def idlePhases : Bytes := toBytes (1 + 64 * 2 ^ 32) 64 ++ toBytes (80 * 2 ^ 96) 16 ++ zeros 128

/-- A Plate with this table; its boundary barrier is 31. -/
def idlePlate : PlateInfo :=
  { boundary := 31, timeout := 0, entry := 0, assign := 0, pword := 0x800, phase0 := 0, phases := idlePhases, tiling := [], digest := 0 }

/-- P0 runs that Plate in region 1 alone, whose live Nib core has a declaration to make. -/
def declaring1 : State :=
  { regions := [(1, { nib := { alive := true, declaring := true }, pool := { window := true } })],
    parts := [(0, { band := some (1, 1), load := { st := 2, plate := some idlePlate } })] }

/-- What region 1 declares. -/
def idleDecl : Declared := { pid := 0, ph := phaseRec idlePhases 0, ops := [] }

/-- Refutes O47: the declaration of region 1 sets TF255 at tiles 256 to 511, while the statement, whose `t` and bounds
`256 * r` are `RegionId`s and so taken modulo 18, claims it of tile 4. -/
theorem not_nibCoresWatchAndDeclare : ¬ Obligations.NibCoresWatchAndDeclare := by
  unfold Obligations.NibCoresWatchAndDeclare
  intro h
  obtain ⟨-, -, -, -, -, hdeclaration⟩ := h declaring1 rfl
  have hplate : (declaring1.part (partOfRegion declaring1 (1 : RegionId))).load.plate = some idlePlate := by decide +kernel
  have hst : (declaring1.part (partOfRegion declaring1 (1 : RegionId))).load.st = 2 := by decide +kernel
  have hreached : boundaryReached declaring1 (1 : RegionId) idlePlate.boundary = true := by decide +kernel
  have hread : readDecl declaring1 (1 : RegionId) idlePlate false (bandOf declaring1 (partOfRegion declaring1 (1 : RegionId))).length =
      .ok idleDecl := by decide +kernel
  obtain ⟨-, -, hdeclares⟩ := hdeclaration 1 idlePlate hplate hst rfl rfl hreached rfl (by decide +kernel) rfl
  obtain ⟨-, hmade⟩ := hdeclares idleDecl rfl hread
  obtain ⟨s', hrun, -, -, -, -, -, -, -, hflags⟩ := hmade 0 0 (by decide +kernel)
  have hset : (s'.tile 4).flag 255 = true := hflags 4 (by decide) (by decide)
  have hunset := phaseDeclaration_elsewhere 255 rfl hplate hst rfl rfl hreached rfl (by decide +kernel) rfl rfl hread
    (t := 4) (by decide) hrun
  rw [hset] at hunset
  exact absurd hunset (by decide +kernel)

end Sys2Proof.Machine

/-!
SUPPORT. The list that a tile's engine runs (10 R268–R272), acceptance and sending.
-/
namespace Sys2Proof.Machine

/-! ### What a step leaves of a tile's list engine -/

/-- What tile `t` shows of its list engine: the XSTART handed to it, the list that runs, and the flags. -/
def State.listView (t : Nat) (s : State) : Option StartReq × Option RunList × BitVec 256 :=
  ((s.tile t).un.handed, (s.tile t).un.list, (s.tile t).flags)

theorem listView_eq_iff {t : Nat} {s : State} {q : Option StartReq} {l : Option RunList} {v : BitVec 256} :
    s.listView t = (q, l, v) ↔ (s.tile t).un.handed = q ∧ (s.tile t).un.list = l ∧ (s.tile t).flags = v := by
  simp only [State.listView, Prod.mk.injEq]

theorem listView_of_tiles {s s' : State} (t : Nat) (h : s'.tiles = s.tiles) : s'.listView t = s.listView t := by
  rw [State.listView, State.tile, h]
  rfl

theorem onTile_listView (t : Nat) (f : Tile → Tile) (s : State) :
    (s.onTile t f).listView t = ((f (s.tile t)).un.handed, (f (s.tile t)).un.list, (f (s.tile t)).flags) := by
  rw [State.listView, State.onTile_tile]

/-- A change of a tile outside its units and its flags. -/
theorem onTile_listView_same {t : Nat} {f : Tile → Tile} {s : State} (hun : (f (s.tile t)).un = (s.tile t).un)
    (hflags : (f (s.tile t)).flags = (s.tile t).flags) : (s.onTile t f).listView t = s.listView t := by
  rw [onTile_listView, hun, hflags]
  rfl

theorem foldl_listView {α : Type} {t : Nat} (g : State → α → State) (h : ∀ s x, (g s x).listView t = s.listView t) (l : List α)
    (s : State) : (l.foldl g s).listView t = s.listView t :=
  List.foldlRecOn (motive := fun s' => s'.listView t = s.listView t) l g rfl (fun s' hs x _ => (h s' x).trans hs)

theorem putFlag_listView (t f : Nat) (b : Bool) (s : State) :
    (putFlag t f b s).listView t = ((s.tile t).un.handed, (s.tile t).un.list, setBit (s.tile t).flags f b) := by
  rw [putFlag, onTile_listView, Tile.putFlag_un, Tile.putFlag_flags]

/-- The flag that a write of the flags leaves. -/
theorem Tile.flag_of_setBit {x : Tile} {v : BitVec 256} {f : BitVec 8} {b : Bool} (h : x.flags = setBit v f.toNat b) :
    x.flag f.toNat = b := by
  rw [Tile.flag, h, getLsbD_setBit _ _ _ _ f.isLt, if_pos rfl]

theorem onList_list {t : Nat} {l : RunList} {s : State} (f : RunList → RunList) (hlist : (s.tile t).un.list = some l) :
    ((onList t f s).tile t).un.list = some (f l) := by
  rw [onList, State.onTile_tile]
  exact congrArg (Option.map f) hlist

theorem onList_net (t : Nat) (f : RunList → RunList) (s : State) : (onList t f s).net = s.net := by
  rw [onList, State.onTile_net]

theorem onList_dev (t : Nat) (f : RunList → RunList) (s : State) : (onList t f s).dev = s.dev := by
  rw [onList, State.onTile_dev]

theorem foldl_lists {α : Type} (g : Tile → α → Tile) (h : ∀ x a, (g x a).un.handed = x.un.handed ∧ (g x a).un.list = x.un.list)
    (l : List α) (x : Tile) : (l.foldl g x).un.handed = x.un.handed ∧ (l.foldl g x).un.list = x.un.list :=
  List.foldlRecOn (motive := fun y : Tile => y.un.handed = x.un.handed ∧ y.un.list = x.un.list) l g ⟨rfl, rfl⟩
    (fun y hy a _ => ⟨(h y a).1.trans hy.1, (h y a).2.trans hy.2⟩)

/-- A write that a tile sees marks its handed XSTART and its list. -/
theorem Tile.touch_lists (x : Tile) (t a n : Nat) (own : Bool) :
    (x.touch t a n own).un.handed = x.un.handed.map (fun q => q.touch a n) ∧
      (x.touch t a n own).un.list = x.un.list.map (fun l => l.touch t a n) := by
  delta Tile.touch
  extract_lets mark x1 x2 x3 x4
  have h1 : x1.un.handed = x.un.handed ∧ x1.un.list = x.un.list := by
    simp only [x1]
    refine foldl_lists (fun (x : Tile) u => if (x.unit u).ops = [] then x else x.onUnit u (fun q => q.mapOps mark))
      (fun y u => ?_) [0, 1, 2, 3, 4] x
    split <;> exact ⟨rfl, rfl⟩
  clear_value x1
  have h2 : x2.un.handed = x.un.handed.map (fun q => q.touch a n) ∧ x2.un.list = x.un.list.map (fun l => l.touch t a n) := by
    rw [← h1.1, ← h1.2]
    exact ⟨rfl, rfl⟩
  clear_value x2
  have h3 : x3.un.handed = x2.un.handed ∧ x3.un.list = x2.un.list := by
    simp only [x3]
    split <;> exact ⟨rfl, rfl⟩
  clear_value x3
  have h4 : x4.un = x3.un := by
    simp only [x4]
    split <;> rfl
  clear_value x4
  split <;> simp only [h4, h3, h2, and_self]

/-- A tile after a write anywhere, its own marks included. -/
theorem touchWrite_tile_eq (a n : Nat) (s : State) (own : Bool) (t : Nat) :
    (touchWrite a n s own).tile t = if (s.tile t).busy then (s.tile t).touch t a n own else s.tile t := by
  have htiles : (touchWrite a n s own).tiles =
      s.tiles.map (fun p => (p.1, if p.2.busy then p.2.touch p.1 a n own else p.2)) := by
    have hmap : s.tiles.map (fun p => if p.2.busy then (p.1, p.2.touch p.1 a n own) else p) =
        s.tiles.map (fun p => (p.1, if p.2.busy then p.2.touch p.1 a n own else p.2)) :=
      List.map_congr_left (fun p _ => by split <;> rfl)
    rw [← hmap, touchWrite]
    dsimp only
    split <;> rfl
  rw [State.tile, htiles]
  exact Map.get_map_key {} (fun k x => if x.busy then x.touch k a n own else x) s.tiles t rfl

/-- A write finds no list to mark at a tile whose engine has none. -/
theorem touchWrite_listView {t : Nat} {v : BitVec 256} (a n : Nat) (own : Bool) {s : State} (h : s.listView t = (none, none, v)) :
    (touchWrite a n s own).listView t = (none, none, v) := by
  obtain ⟨hhanded, hlist, hflags⟩ := listView_eq_iff.1 h
  refine listView_eq_iff.2 ⟨?_, ?_, ?_⟩
  · rw [touchWrite_tile_eq]
    split
    · rw [(Tile.touch_lists ..).1, hhanded]; rfl
    · exact hhanded
  · rw [touchWrite_tile_eq]
    split
    · rw [(Tile.touch_lists ..).2, hlist]; rfl
    · exact hlist
  · rw [(touchWrite_tile a n s own t).1]
    exact hflags

/-- An arrival is pending at its tile (09 R248). -/
theorem arrive_tile (t c b : Nat) (s : State) :
    (arrive t c b s).tile t = { s.tile t with barPending := setBit (s.tile t).barPending b true } := by
  rw [State.tile, arrive, traceTile_tiles]
  exact State.onTile_tile s t (fun x => { x with barPending := setBit x.barPending b true })

theorem arrive_listView (t c b : Nat) (s : State) : (arrive t c b s).listView t = s.listView t := by
  rw [State.listView, arrive_tile]
  rfl

theorem onCx_listView (t c : Nat) (f : Ctx → Ctx) (s : State) : (s.onCx t c f).listView t = s.listView t := by
  rw [State.onCx]
  exact onTile_listView_same (Tile.onCx_un ..) (Tile.onCx_flags ..)

theorem endWait_listView (t c : Nat) (s : State) : (s.onTile t (fun x => x.endWait c)).listView t = s.listView t := by
  obtain ⟨hflags, -, -, -, -, -, -, -, -, -, hun, -⟩ := KeepsTile.endWait (s.tile t) c
  exact onTile_listView_same hun hflags

theorem releaseHeld_listView (t b : Nat) (s : State) : (releaseHeld t b s).listView t = s.listView t := by
  refine foldl_listView _ (fun s c => ?_) _ s
  split
  · rfl
  · split
    · split
      · rfl
      · split
        · rw [onCx_listView, arrive_listView]
        · rw [endWait_listView, arrive_listView]
    · rfl

/-! ### Acceptance (10 R269–R271) -/

theorem finishList_listView (t : Nat) (l : RunList) (s : State) :
    (finishList t l s).listView t = ((s.tile t).un.handed, none, setBit (s.tile t).flags l.req.tf.toNat true) := by
  rw [finishList, listView_of_tiles t (traceDoneFree_tiles ..), putFlag_listView, State.onTile_tile]
  rfl

/-- A posted list runs with its flag clear; one of no slot has ended with its flag set. -/
theorem startList_listView {t : Nat} {q : StartReq} {l : RunList} {s : State} (hlist : (s.tile t).un.list = none) :
    ∃ hit, (startList t q l s).listView t = if l.nslots = 0 then
        (none, none, setBit (setBit (s.tile t).flags q.tf.toNat false) l.req.tf.toNat true)
      else (none, some { l with tainted := hit }, setBit (s.tile t).flags q.tf.toNat false) := by
  delta startList
  extract_lets s1 s2 hit s3 s4 s5 s6 s7
  refine ⟨hit, ?_⟩
  have h1 : s1.tile t = (s.tile t).onUn (fun u => { u with handed := none }) := State.onTile_tile ..
  have h2 : s2.listView t = (none, none, setBit (s.tile t).flags q.tf.toNat false) := by
    rw [show s2 = putFlag t q.tf.toNat false s1 from rfl, putFlag_listView, h1, ← hlist]
    rfl
  clear_value s2
  have h3 : s3.listView t = s2.listView t := by
    rw [h2]
    exact List.foldlRecOn (motive := fun s' : State => s'.listView t = _) (l.res t) (fun s r => touchWrite r.1 r.2 s) h2
      (fun s' hs r _ => touchWrite_listView r.1 r.2 false hs)
  clear_value s3
  have h5 : s5.listView t = (none, some { l with tainted := hit }, setBit (s.tile t).flags q.tf.toNat false) := by
    obtain ⟨hhanded, -, hflags⟩ := listView_eq_iff.1 ((listView_of_tiles (s' := s4) t rfl).trans (h3.trans h2))
    rw [show s5 = s4.onTile t (fun x => x.onUn (fun u => { u with list := some { l with tainted := hit } })) from rfl,
      onTile_listView, ← hflags, ← hhanded]
    rfl
  clear_value s5
  have h6 : s6.listView t = s5.listView t := listView_of_tiles t (traceStart_tiles ..)
  clear_value s6
  have h7 : s7.listView t = s6.listView t := by
    simp only [s7]
    split
    · exact releaseHeld_listView ..
    · rfl
  clear_value s7
  have hview := h7.trans (h6.trans h5)
  split
  · obtain ⟨hhanded, -, hflags⟩ := listView_eq_iff.1 hview
    rw [finishList_listView, hhanded, hflags]
  · exact hview

section
variable {s s1 : State} {t : TileId} {q : StartReq} {read : Bytes × Bytes} (htrip : s.dev.boot.trip = false)
  (hhanded : (s.tile t).un.handed = some q) (hlist : (s.tile t).un.list = none) (hread : readList q s = (read, s1))
include htrip hhanded hlist hread

/-- LIST_ACCEPTANCE of a list that passes its checks. -/
theorem listAcceptance_posts {l : RunList} (hok : acceptList s1 t q read = .ok l) :
    exec (.listAcceptance t) s = .next (startList t q l s1) := by
  refine congrArg Host.Outcome.next ((selfTimed_run htrip).trans ?_)
  simp only [hhanded, hlist, hread, hok]

/-- LIST_ACCEPTANCE of a list that fails a check. -/
theorem listAcceptance_refuses {d : Denial} (herror : acceptList s1 t q read = .error d) :
    exec (.listAcceptance t) s = .next (refuseStart t q d s1) := by
  refine congrArg Host.Outcome.next ((selfTimed_run htrip).trans ?_)
  simp only [hhanded, hlist, hread, herror]

end

/-! ### Sending (10 R272) -/

/-- The segment of slot `j`. -/
def segOf (s : State) (t j : Nat) (l : RunList) : Segment :=
  { srcDev := s.dev.link.self, srcTile := t, srcIdx := j, dstTile := (l.slot j).peer, tag := (s.tile t).phaseStep.setWidth 16,
    part := partOf s t, len := (l.slot j).len, data := s.bytes (tileBase t + (l.slot j).loc) (l.slot j).len,
    sent := { no := s.net.lines, leg := some (.tile t, .tile (l.slot j).peer) } }

/-- A list of which slot `j` has left. -/
def RunList.sent (j : Nat) (l : RunList) : RunList := { l with next := j + 1, outstanding := l.outstanding ++ [j] }

/-- State `s` with slot `j` sent to a tile of this device. -/
def slotSent (t j : Nat) (l : RunList) (s : State) : State :=
  (onList t (RunList.sent j) (s.onNet (fun n => { n with segs := n.segs ++ [segOf s t j l], lines := n.lines + 1 }))).onTile t
    (fun x => x.count 0x20 (lineCount (l.slot j).len))

/-- A slot to a tile of this device leaves where its memory reads and nothing has touched it. -/
theorem sendSlotNow_here {s : State} {t j : Nat} {l : RunList} (hhere : (l.slot j).peerDev s = s.dev.link.self)
    (huntouched : l.tainted.contains j = false) (hgood : s.badIn (tileBase t + (l.slot j).loc) (l.slot j).len = none) :
    sendSlotNow t j l s = slotSent t j l s := by
  simp only [sendSlotNow, hgood, huntouched, hhere, Bool.false_eq_true, if_false, if_true]
  rfl

theorem slotSent_list {s : State} {t j : Nat} {l : RunList} (hlist : (s.tile t).un.list = some l) :
    ((slotSent t j l s).tile t).un.list = some (l.sent j) := by
  rw [slotSent, State.onTile_tile, Tile.count_un]
  exact onList_list _ hlist

theorem slotSent_segs (s : State) (t j : Nat) (l : RunList) : (slotSent t j l s).net.segs = s.net.segs ++ [segOf s t j l] := by
  rw [slotSent, State.onTile_net, onList_net, State.onNet_net]

theorem slotSent_mem (s : State) (t j : Nat) (l : RunList) : (slotSent t j l s).mem = s.mem := by
  rw [slotSent, State.onTile_mem, onList_mem, State.onNet_mem]

/-- SEND_SLOT of a list that may send. -/
theorem sendSlot_run {s : State} {t : TileId} {l : RunList} {j : Nat} (htrip : s.dev.boot.trip = false)
    (hlist : (s.tile t).un.list = some l) (hnext : l.nextSend = some j) (hruns : l.stopped = false)
    (hgate : gateOpen (s.tile t) l = true) (hroom : l.outstanding.length < 16) (hturn : (takeTurn t 5 1 s).1 = true) :
    exec (.sendSlot t) s = .next (sendSlotNow t j l (takeTurn t 5 1 s).2) := by
  refine congrArg Host.Outcome.next ((selfTimed_run htrip).trans ?_)
  have hopen : (l.stopped || !gateOpen (s.tile t) l || decide (16 ≤ l.outstanding.length)) = false := by
    rw [hruns, hgate, decide_eq_false (by omega)]
    rfl
  have hpair : takeTurn t 5 1 s = (true, (takeTurn t 5 1 s).2) := Prod.ext hturn rfl
  simp only [hlist, hnext, hopen, Bool.false_eq_true, if_false]
  rw [hpair]

/-- Settles O39: a list's acceptance seen at its tile, and the segment of a slot that may leave. -/
theorem listsArePostedAndSent : Obligations.ListsArePostedAndSent := by
  unfold Obligations.ListsArePostedAndSent
  intro s t htrip
  refine ⟨fun q hhanded hlist => ?_, fun l j hlist hnext hruns hgate hroom hturn hhere huntouched hgood => ?_⟩
  · intro rd
    have hread : readList q s = (rd.1, rd.2) := rfl
    have htile : rd.2.tile t = s.tile t := by rw [State.tile, readList_tiles]; rfl
    refine ⟨fun d herror => listAcceptance_refuses htrip hhanded hlist hread herror, fun l hok => ?_⟩
    obtain ⟨hit, hview⟩ := startList_listView (q := q) (l := l) (s := rd.2) (t := t) (by rw [htile]; exact hlist)
    refine ⟨_, listAcceptance_posts htrip hhanded hlist hread hok, ?_⟩
    by_cases hslots : l.nslots = 0
    · rw [if_pos hslots] at hview
      obtain ⟨hnone, hended, hflags⟩ := listView_eq_iff.1 hview
      exact ⟨hnone, fun h => absurd hslots h, fun _ => ⟨hended, Tile.flag_of_setBit hflags⟩⟩
    · rw [if_neg hslots] at hview
      obtain ⟨hnone, hruns, hflags⟩ := listView_eq_iff.1 hview
      exact ⟨hnone, fun _ => ⟨⟨hit, hruns⟩, Tile.flag_of_setBit hflags⟩, fun h => absurd h hslots⟩
  · have hturned := takeTurn_eq_onTile (Prod.ext hturn rfl : takeTurn t 5 1 s = (true, (takeTurn t 5 1 s).2))
    have hrun := sendSlot_run htrip hlist hnext hruns hgate hroom hturn
    rw [hturned] at hrun
    refine ⟨_, hrun.trans (congrArg Host.Outcome.next (sendSlotNow_here hhere huntouched hgood)), ?_, slotSent_list ?_,
      (slotSent_mem ..).trans (State.onTile_mem ..)⟩
    · rw [slotSent_segs, segOf, State.onTile_tile, State.onTile_net]
      rfl
    · rw [State.onTile_tile]
      exact hlist

end Sys2Proof.Machine

/-!
SUPPORT. A slot that completes, and what a list's engine adds (10 R274, R275, R289).
-/
namespace Sys2Proof.Machine

/-! ### A slot completes (10 R274) -/

theorem traceTile_off (t kind ctx iaddr : Nat) (bs : Bytes) {s : State} (htrace : s.dev.trace.on = 0) :
    traceTile t kind ctx iaddr bs s = s := by
  simp [traceTile, kindOn, htrace]

/-- Good codewords stay good under a write. -/
theorem poke_badIn {s : State} {b n : Nat} (a : Nat) (bs : Bytes) (h : s.badIn b n = none) : (s.poke a bs).badIn b n = none := by
  rw [State.badIn, List.find?_eq_none] at h ⊢
  exact fun k hk => h k (List.mem_of_mem_filter hk)

theorem poke_mergeBad {s : State} {b n : Nat} (a : Nat) (bs : Bytes) (h : mergeBad s b n = none) :
    mergeBad (s.poke a bs) b n = none := by
  rw [mergeBad] at h ⊢
  split
  · next hnarrow =>
    rw [if_pos hnarrow] at h
    exact poke_badIn a bs h
  · rfl

/-- The byte of the completion bitmap that holds slot `j`'s bit (10 R267). -/
def RunList.bitAt (l : RunList) (t j : Nat) : Nat := tileBase t + l.bitmap + j / 8

/-- State `s` with slot `j`'s bit set in the bitmap. -/
def bitSet (t j : Nat) (l : RunList) (s : State) : State :=
  s.poke (l.bitAt t j) [BitVec.ofNat 8 (leNat (s.bytes (l.bitAt t j) 1) ||| 2 ^ (j % 8))]

/-- Slot `j` of list `l`, which tile `t` runs in `s`, is complete in `s'`: its bit is set, and the last one's completion has
ended the list (10 R274). -/
structure CompletedSlot (t j : Nat) (l : RunList) (s s' : State) : Prop where
  net : s'.net = s.net
  dev : s'.dev = s.dev
  mem : s'.mem = (bitSet t j l s).mem
  goesOn : l.done.length + 1 ≠ l.nslots → (s'.tile t).un.list = some { l with done := l.done ++ [j] }
  ends : l.done.length + 1 = l.nslots → (s'.tile t).un.list = none ∧ (s'.tile t).flag l.req.tf.toNat = true

theorem State.onNet_tile (s : State) (f : Net → Net) (t : Nat) : (s.onNet f).tile t = s.tile t := rfl

theorem State.poke_tile (s : State) (a : Nat) (bs : Bytes) (t : Nat) : (s.poke a bs).tile t = s.tile t := rfl

theorem State.poke_net (s : State) (a : Nat) (bs : Bytes) : (s.poke a bs).net = s.net := rfl

theorem State.poke_dev (s : State) (a : Nat) (bs : Bytes) : (s.poke a bs).dev = s.dev := rfl

theorem drawFree_net (w : Nat) (s : State) : (drawFree w s).2.net = s.net := rfl

theorem drawFree_dev (w : Nat) (s : State) : (drawFree w s).2.dev = s.dev := rfl

theorem finishList_off {t : Nat} {l : RunList} {s : State} (htrace : s.dev.trace.on = 0) :
    (finishList t l s).net = s.net ∧ (finishList t l s).dev = s.dev ∧ (finishList t l s).mem = s.mem := by
  have hoff : finishList t l s = (drawFree 32 (putFlag t l.req.tf.toNat true
      (s.onTile t (fun x => x.onUn (fun u => { u with list := none }))))).2 := traceDone_off _ _ _ _ htrace
  simp only [hoff, drawFree_net, drawFree_dev, drawFree_mem, putFlag, State.onTile_net, State.onTile_dev, State.onTile_mem, and_self]

/-- Without tracing, a slot whose bit can be written completes. -/
theorem slotDone_completes {t j : Nat} {l : RunList} {s : State} (hlist : (s.tile t).un.list = some l)
    (hnew : l.done.contains j = false) (hgood : mergeBad s (l.bitAt t j) 1 = none) (htrace : s.dev.trace.on = 0) :
    CompletedSlot t j l s (slotDone t j s) := by
  let l' := { l with done := l.done ++ [j] }
  let s1 := onList t (fun _ => l') (bitSet t j l s)
  have hdone : slotDone t j s = if l'.done.length = l'.nslots then finishList t l' s1 else s1 := by
    rw [RunList.bitAt] at hgood
    simp only [slotDone, hlist, hnew, hgood, Bool.false_eq_true, if_false]
    rw [traceTile_off]
    · rfl
    · exact htrace
  have hlen : l'.done.length = l.done.length + 1 := List.length_append
  have hlist1 : (s1.tile t).un.list = some l' := onList_list (s := bitSet t j l s) (fun _ => l') hlist
  rw [hdone, hlen]
  by_cases hlast : l.done.length + 1 = l.nslots
  · rw [if_pos hlast]
    obtain ⟨hnet, hdev, hmem⟩ := finishList_off (t := t) (l := l') (s := s1) htrace
    obtain ⟨-, hnone, hflags⟩ := listView_eq_iff.1 (finishList_listView t l' s1)
    exact ⟨hnet.trans (onList_net ..), hdev.trans (onList_dev ..), hmem.trans (onList_mem ..),
      fun h => absurd hlast h, fun _ => ⟨hnone, Tile.flag_of_setBit hflags⟩⟩
  · rw [if_neg hlast]
    exact ⟨onList_net .., onList_dev .., onList_mem .., fun _ => hlist1, fun h => absurd h hlast⟩

/-! ### Acknowledgements, refusals and turns (10 R273–R275) -/

/-- Staged data that nothing has touched are read from the staging place. -/
theorem stagedData_untouched {t j : Nat} {l : RunList} {s : State} (huntouched : l.tainted.contains j = false)
    (hfree : ownedByOp s (tileBase t + (l.slot j).stage) (l.slot j).len = false) :
    stagedData t j l s = (s.bytes (tileBase t + (l.slot j).stage) (l.slot j).len, s) := by
  simp only [stagedData, huntouched, hfree, Bool.or_self, Bool.false_eq_true, if_false]

theorem badLine_none {s : State} {a n : Nat} (hgood : s.badIn a n = none) : badLine s a n = none := by
  rw [badLine, hgood]
  rfl

/-- Settles O41: each event carried out, its guards met. -/
theorem segmentRepliesAndTurns : Obligations.SegmentRepliesAndTurns := by
  unfold Obligations.SegmentRepliesAndTurns
  intro s htrip
  refine ⟨fun i r l hreply harrives hlist hwaits hruns => ?_, fun i r l hreply harrives hlist => ?_,
    fun t j l hlist hruns hstaged hturn huntouched hfree hgood => ?_⟩
  · refine congrArg Host.Outcome.next ((selfTimed_run htrip).trans ?_)
    have hgo : awaits s r = true := by rw [awaits, hlist]; exact hwaits
    have hleft : ((dropOutstanding r (s.onNet (fun n => { n with segAcks := dropAt i n.segAcks }))).tile r.srcTile).un.list =
        some { l with outstanding := l.outstanding.filter (· ≠ r.srcIdx) } :=
      onList_list (s := s.onNet (fun n => { n with segAcks := dropAt i n.segAcks })) _ hlist
    simp only [hreply, harrives, hgo, hleft, hruns, Bool.not_true, Bool.not_false, Bool.and_self, Bool.false_eq_true, if_false, if_true]
    rfl
  · let s0 := s.onNet (fun n => { n with segRefs := dropAt i n.segRefs })
    refine ⟨dropOutstanding r s0, ?_, rfl, rfl, onList_list (s := s0) _ hlist⟩
    refine congrArg Host.Outcome.next ((selfTimed_run htrip).trans ?_)
    simp only [hreply, harrives, if_true]
    rfl
  · intro l'
    refine congrArg Host.Outcome.next ((selfTimed_run htrip).trans ?_)
    have hbad : stagedBad s t j l' = none := badLine_none hgood
    have hdata : stagedData t j l' s = (s.bytes (tileBase t + (l.slot j).stage) (l.slot j).len, s) :=
      stagedData_untouched (l := l') huntouched hfree
    have hgo : (l.stopped || !l.staged.contains j || !hasTurn l j) = false := by
      rw [hruns, hstaged, hturn]
      rfl
    rw [hlist]
    dsimp only
    rw [hgo, if_neg Bool.false_ne_true, hbad, hdata]

end Sys2Proof.Machine

/-!
SUPPORT. A segment at its receiver (01 R39, 10 R273–R275), and the fault of a tile's list engine (03 R105, 10 R289).
-/
namespace Sys2Proof.Machine

/-! ### The reply (10 R273, R274) -/

/-- The reply to segment `g` that leaves over the mesh of this device. -/
def replyOf (g : Segment) (n : Net) : SegReply :=
  { dstDev := g.srcDev, srcTile := g.srcTile, srcIdx := g.srcIdx,
    sent := { no := n.lines, leg := some (.tile g.dstTile, .tile g.srcTile) } }

def Net.ackSeg (g : Segment) (n : Net) : Net := { n with segAcks := n.segAcks ++ [replyOf g n], lines := n.lines + 1 }

def Net.refuseSeg (g : Segment) (n : Net) : Net := { n with segRefs := n.segRefs ++ [replyOf g n], lines := n.lines + 1 }

theorem replySeg_ack {g : Segment} {s : State} (hhere : g.srcDev = s.dev.link.self) :
    replySeg g true s = s.onNet (Net.ackSeg g) := if_pos hhere

theorem replySeg_refuse {g : Segment} {s : State} (hhere : g.srcDev = s.dev.link.self) :
    replySeg g false s = s.onNet (Net.refuseSeg g) := if_pos hhere

/-! ### A fault behind the issue (03 R105, 16 R440) -/

/-- The device is as it was, and the mesh but for the hub's answers. -/
def KeepsMesh (s s' : State) : Prop := s'.dev = s.dev ∧ s'.net = { s.net with hubAns := s'.net.hubAns }

theorem KeepsMesh.refl (s : State) : KeepsMesh s s := ⟨rfl, rfl⟩

theorem KeepsMesh.trans {x y z : State} (h : KeepsMesh x y) (h' : KeepsMesh y z) : KeepsMesh x z := by
  obtain ⟨hdev, hnet⟩ := h
  obtain ⟨hdev', hnet'⟩ := h'
  refine ⟨hdev'.trans hdev, hnet'.trans ?_⟩
  rw [hnet]

theorem onTile_keepsMesh (t : Nat) (f : Tile → Tile) (s : State) : KeepsMesh s (s.onTile t f) := ⟨rfl, rfl⟩

theorem leaveHub_keepsMesh (t c : Nat) (s : State) : KeepsMesh s (leaveHub t c s) := by
  rw [leaveHub]
  dsimp only
  split <;> exact ⟨rfl, rfl⟩

theorem leaveHubs_keepsMesh (t : Nat) (l : List Nat) (s : State) :
    KeepsMesh s (l.foldl (fun s c => if ((s.cx t c).wait).isSome then leaveHub t c s else s) s) := by
  refine List.foldlRecOn (motive := fun s' : State => KeepsMesh s s') l _ (KeepsMesh.refl s) (fun s' hs c _ => ?_)
  split
  · exact KeepsMesh.trans hs (leaveHub_keepsMesh t c s')
  · exact hs

theorem stopTile_keepsMesh (t : Nat) (s : State) : KeepsMesh s (stopTile t s) := by
  delta stopTile
  extract_lets s1
  exact (leaveHubs_keepsMesh t [0, 1, 2, 3] s).trans (onTile_keepsMesh t _ s1)

/-- A fault of an engine of tile `t`: the first fault's record goes on its way, and nothing else over the mesh but answers of
the hub. -/
theorem tileFault_engine {t : Nat} {fi : FaultInfo} (s : State) (hback : fi.back = false) :
    ((tileFault t fi s).tile t).faulted = true ∧ (tileFault t fi s).dev = s.dev ∧
      (tileFault t fi s).net = { s.net with
        recs := s.net.recs ++ (if (s.tile t).faulted then [] else [tileRec s t 1 fi]), hubAns := (tileFault t fi s).net.hubAns } := by
  let s1 := if (s.tile t).faulted then s else s.onNet (fun n => { n with recs := n.recs ++ [tileRec s t 1 fi] })
  have hfault : tileFault t fi s = (stopTile t s1).onTile t (fun x => { x with faulted := true }) := by
    rw [tileFault, hback, Bool.false_and, if_neg Bool.false_ne_true, raiseRec_tileRec]
  have hraised : s1.dev = s.dev ∧ s1.net = { s.net with
      recs := s.net.recs ++ (if (s.tile t).faulted then [] else [tileRec s t 1 fi]) } := by
    simp only [s1]
    split
    · exact ⟨rfl, by rw [List.append_nil]⟩
    · exact ⟨rfl, rfl⟩
  obtain ⟨hdev, hnet⟩ := (stopTile_keepsMesh t s1).trans (onTile_keepsMesh t (fun x => { x with faulted := true }) _)
  rw [hfault]
  exact ⟨by rw [State.onTile_tile], hdev.trans hraised.1, hnet.trans (by rw [hraised.2])⟩

/-! ### Arrival (10 R273) -/

/-- State `s` without the `i`-th segment in flight. -/
def segTaken (i : Nat) (s : State) : State := s.onNet (fun n => { n with segs := dropAt i n.segs })

theorem segTaken_dev (i : Nat) (s : State) : (segTaken i s).dev = s.dev := by rw [segTaken, State.onNet_dev]

theorem segTaken_mem (i : Nat) (s : State) : (segTaken i s).mem = s.mem := by rw [segTaken, State.onNet_mem]

theorem segmentArrival_run {s : State} {i : Nat} {g : Segment} (htrip : s.dev.boot.trip = false) (hseg : s.net.segs[i]? = some g)
    (hwhole : g.whole = true) (hfirst : firstSeg s.net.segs i g = true) (harrives : arrives s g.sent = true) :
    exec (.segmentArrival i) s = .next (receiveSeg g (segTaken i s)) := by
  refine congrArg Host.Outcome.next ((selfTimed_run htrip).trans ?_)
  simp only [hseg, hwhole, hfirst, harrives, Bool.and_self, if_true]
  rfl

/-- State `s` with the lines of `g` counted at its receiver (18 R496). -/
def segCounted (g : Segment) (s : State) : State := s.onTile g.dstTile (fun x => x.count 0x21 (lineCount g.len))

theorem segCounted_tile (g : Segment) (s : State) : KeepsTile (s.tile g.dstTile) ((segCounted g s).tile g.dstTile) := by
  rw [segCounted, State.onTile_tile]
  exact KeepsTile.count ..

theorem segCounted_un (g : Segment) (s : State) : ((segCounted g s).tile g.dstTile).un = (s.tile g.dstTile).un := by
  rw [segCounted, State.onTile_tile, Tile.count_un]

theorem segCounted_matchSlot (g : Segment) (s : State) : matchSlot (segCounted g s) g = matchSlot s g := by
  obtain ⟨-, -, -, hstep, -⟩ := segCounted_tile g s
  rw [matchSlot, matchSlot, segCounted_un, hstep]
  rfl

/-- A list of which a segment has filled slot `j`. -/
def RunList.fill (l : RunList) (j : Nat) : RunList := { l with filled := l.filled ++ [j] }

/-- State `s` with the lines of `g` counted and slot `j` of its receiver's list `l` filled. -/
def slotFilled (g : Segment) (l : RunList) (j : Nat) (s : State) : State := onList g.dstTile (fun _ => l.fill j) (segCounted g s)

theorem slotFilled_list {g : Segment} {l : RunList} {j : Nat} {s : State} (hlist : (s.tile g.dstTile).un.list = some l) :
    ((slotFilled g l j s).tile g.dstTile).un.list = some (l.fill j) :=
  onList_list (s := segCounted g s) _ (by rw [segCounted_un]; exact hlist)

theorem slotFilled_net (g : Segment) (l : RunList) (j : Nat) (s : State) : (slotFilled g l j s).net = s.net := by
  rw [slotFilled, onList_net, segCounted, State.onTile_net]

theorem slotFilled_dev (g : Segment) (l : RunList) (j : Nat) (s : State) : (slotFilled g l j s).dev = s.dev := by
  rw [slotFilled, onList_dev, segCounted, State.onTile_dev]

theorem slotFilled_mem (g : Segment) (l : RunList) (j : Nat) (s : State) : (slotFilled g l j s).mem = s.mem := by
  rw [slotFilled, onList_mem, segCounted, State.onTile_mem]

theorem receiveSeg_fenced {g : Segment} {s : State} (hfenced : (s.tile g.dstTile).fenced = true) :
    receiveSeg g s = replySeg g false s := if_pos hfenced

section
variable {g : Segment} {s : State} (hopen : (s.tile g.dstTile).fenced = false)
include hopen

/-- A segment that matches no slot is fault 0x06 at the receiver, with its source as the data address. -/
theorem receiveSeg_unmatched (hmatch : matchSlot s g = none) : ∃ fi : FaultInfo, fi.back = false ∧ fi.code = 0x06#8 ∧
    fi.daddr = 0x7E0000000000 + g.srcTile * 2 ^ 16 + g.srcIdx ∧
    receiveSeg g s = replySeg g false (tileFault g.dstTile fi (segCounted g s)) := by
  rw [receiveSeg]
  dsimp only
  rw [if_neg (Bool.eq_false_iff.1 hopen), ← segCounted, segCounted_un, segCounted_matchSlot, hmatch]
  cases (s.tile g.dstTile).un.list <;> exact ⟨_, rfl, rfl, rfl, rfl⟩

variable {l : RunList} {j : Nat} (hlist : (s.tile g.dstTile).un.list = some l) (hmatch : matchSlot s g = some j)
include hlist hmatch

theorem receiveSeg_matched : receiveSeg g s = replySeg g true (
    if (l.slot j).kind = 1 then landRecv g.dstTile j (l.fill j) g.data (slotFilled g l j s)
    else if hasTurn (l.fill j) j then addRecv g.dstTile j (l.fill j) g.data none (slotFilled g l j s)
    else (onList g.dstTile (fun l => { l with staged := l.staged ++ [j] }) (slotFilled g l j s)).poke
      (tileBase g.dstTile + (l.slot j).stage) g.data) := by
  rw [receiveSeg]
  dsimp only
  rw [if_neg (Bool.eq_false_iff.1 hopen), ← segCounted, segCounted_un, segCounted_matchSlot, hmatch, hlist,
    apply_ite (replySeg g true), apply_ite (replySeg g true)]
  rfl

end

end Sys2Proof.Machine

/-!
SUPPORT. The bytes that a segment leaves at its slot (10 R273–R276, 03 R88).
-/
namespace Sys2Proof.Machine

/-! ### What a received slot leaves -/

/-- In `s'` slot `j` of list `l` of tile `t` holds `bs` and is complete, by the bitmap as it was in `s`. -/
def SlotHolds (t j : Nat) (l : RunList) (bs : Bytes) (s s' : State) : Prop :=
  s'.bytes (tileBase t + (l.slot j).loc) (l.slot j).len = bs ∧
    s'.bytes (l.bitAt t j) 1 = [BitVec.ofNat 8 (leNat (s.bytes (l.bitAt t j) 1) ||| 2 ^ (j % 8))] ∧
    (l.done.length + 1 ≠ l.nslots → (s'.tile t).un.list = some { l with done := l.done ++ [j] }) ∧
    (l.done.length + 1 = l.nslots → (s'.tile t).un.list = none ∧ (s'.tile t).flag l.req.tf.toNat = true)

/-- Slot `j` of list `l` may complete in `s`: it has not yet, its bit can be written, and the bitmap lies outside its bytes. -/
structure MayComplete (t j : Nat) (l : RunList) (s : State) : Prop where
  list : (s.tile t).un.list = some l
  new : l.done.contains j = false
  trace : s.dev.trace.on = 0
  good : mergeBad s (l.bitAt t j) 1 = none
  bound : j / 8 < 512
  apart : l.bitmap + 512 ≤ (l.slot j).loc ∨ (l.slot j).loc + (l.slot j).len ≤ l.bitmap

theorem mergeBad_onTile (s : State) (t a n : Nat) (f : Tile → Tile) : mergeBad (s.onTile t f) a n = mergeBad s a n := by
  rw [mergeBad, mergeBad, State.badIn, State.badIn, State.onTile_bad]

theorem MayComplete.onTile {t j : Nat} {l : RunList} {s : State} (h : MayComplete t j l s) {f : Tile → Tile}
    (hun : (f (s.tile t)).un = (s.tile t).un) : MayComplete t j l (s.onTile t f) :=
  ⟨by rw [State.onTile_tile, hun, h.list], h.new, by rw [State.onTile_dev, h.trace], by rw [mergeBad_onTile, h.good], h.bound, h.apart⟩

/-- A slot whose bytes are written then completes. -/
theorem MayComplete.writes {t j : Nat} {l : RunList} {s : State} {bs : Bytes} (h : MayComplete t j l s)
    (hlen : bs.length = (l.slot j).len) : let s' := slotDone t j (s.poke (tileBase t + (l.slot j).loc) bs)
    s'.net = s.net ∧ s'.dev = s.dev ∧ SlotHolds t j l bs s s' := by
  intro s'
  let s1 := s.poke (tileBase t + (l.slot j).loc) bs
  have hapart : l.bitAt t j + 1 ≤ tileBase t + (l.slot j).loc ∨ tileBase t + (l.slot j).loc + (l.slot j).len ≤ l.bitAt t j := by
    have hbound := h.bound
    have hapart := h.apart
    rw [RunList.bitAt]
    omega
  have hdone : CompletedSlot t j l s1 s' := slotDone_completes (s := s1) h.list h.new (poke_mergeBad _ _ h.good) h.trace
  have hold : s1.bytes (l.bitAt t j) 1 = s.bytes (l.bitAt t j) 1 := bytes_poke_out s bs (by omega)
  have hbytes (a n : Nat) : s'.bytes a n = (bitSet t j l s1).bytes a n := by rw [State.bytes, hdone.mem]; rfl
  refine ⟨hdone.net, hdone.dev, ?_, ?_, hdone.goesOn, hdone.ends⟩
  · rw [hbytes, bitSet, bytes_poke_out _ _ hapart.symm, ← hlen, bytes_poke]
  · rw [hbytes, bitSet, hold]
    exact bytes_poke s1 _ _

/-! ### Landing and adding (10 R273, R275) -/

theorem blurOverlaps_none {t j : Nat} {l : RunList} (s : State) (h : overlaps l j = []) : blurOverlaps t l j s = s := by
  rw [blurOverlaps, h]
  rfl

/-- Nothing but its own segment touches slot `j` of list `l` (03 R76, 10 R276). -/
structure Alone (j : Nat) (l : RunList) : Prop where
  untouched : l.tainted.contains j = false
  apart : overlaps l j = []

/-- The data of a RECV slot that nothing else touches stand at its destination. -/
theorem landRecv_alone {t j : Nat} {l : RunList} (data : Bytes) (s : State) (halone : Alone j l) :
    landRecv t j l data s = slotDone t j (s.poke (tileBase t + (l.slot j).loc) data) := by
  rw [landRecv, halone.untouched]
  dsimp only
  rw [blurOverlaps_none _ halone.apart]
  rfl

/-- A tile with its non-finite mark of accumulations set where `b` (03 R88). -/
def Tile.marked (b : Bool) (x : Tile) : Tile := { x with nf := { x.nf with aw := x.nf.aw || b } }

theorem Tile.marked_un (b : Bool) (x : Tile) : (x.marked b).un = x.un := rfl

/-- The data of a RECV.ACC slot that nothing else touches are added to its destination. -/
theorem addRecv_alone {t j : Nat} {l : RunList} {data : Bytes} {s : State} (halone : Alone j l) (hlen : (l.slot j).len = data.length)
    (hfree : ownedByOp s (tileBase t + (l.slot j).loc) (l.slot j).len = false)
    (hgood : s.badIn (tileBase t + (l.slot j).loc) (l.slot j).len = none) :
    let r := accBytes (BitVec.ofNat 2 (l.slot j).acct) (s.bytes (tileBase t + (l.slot j).loc) (l.slot j).len) data
    addRecv t j l data none s = slotDone t j ((s.onTile t (Tile.marked r.2)).poke (tileBase t + (l.slot j).loc) r.1) := by
  intro r
  have hstop : addStop s t j l none = none := by
    rw [addStop, badLine_none hgood]
  have hadd : addPrefix t j l data (l.slot j).len s =
      (s.onTile t (Tile.marked r.2)).poke (tileBase t + (l.slot j).loc) r.1 := by
    rw [addPrefix, halone.untouched]
    dsimp only
    rw [hfree, List.take_of_length_le hlen.ge]
    rfl
  rw [addRecv, hstop]
  dsimp only
  rw [hadd, blurOverlaps_none _ halone.apart]

/-- Bytes that no unit's operation writes stay so where a tile's units do. -/
theorem ownedByOp_onTile {s : State} {t a n : Nat} {f : Tile → Tile} (hunits : ∀ x, (f x).un.units = x.un.units)
    (h : ownedByOp s a n = false) : ownedByOp (s.onTile t f) a n = false := by
  simp only [ownedByOp, Bool.or_eq_false_iff] at h ⊢
  exact ⟨tiles_any_onTile rfl (fun x => by simp only [hunits]) h.1, h.2⟩

theorem slotFilled_ownedByOp {s : State} {g : Segment} {l : RunList} {j a n : Nat} (h : ownedByOp s a n = false) :
    ownedByOp (slotFilled g l j s) a n = false :=
  ownedByOp_onTile (fun _ => rfl) (ownedByOp_onTile (fun x => by rw [Tile.count_un]) h)

/-! ### The cases of an arrival (10 R273, R275) -/

/-- Segment `g`, the `i`-th in flight, comes whole from a tile of this device and nothing of its way holds it back. -/
structure Arriving (i : Nat) (g : Segment) (s : State) : Prop where
  trip : s.dev.boot.trip = false
  seg : s.net.segs[i]? = some g
  whole : g.whole = true
  first : firstSeg s.net.segs i g = true
  arrives : arrives s g.sent = true
  here : g.srcDev = s.dev.link.self

section
variable {i : Nat} {g : Segment} {s : State} (h : Arriving i g s)
include h

theorem Arriving.run : exec (.segmentArrival i) s = .next (receiveSeg g (segTaken i s)) :=
  segmentArrival_run h.trip h.seg h.whole h.first h.arrives

theorem Arriving.fenced (hfenced : (s.tile g.dstTile).fenced = true) :
    exec (.segmentArrival i) s = .next ((segTaken i s).onNet (Net.refuseSeg g)) := by
  rw [h.run, receiveSeg_fenced (s := segTaken i s) hfenced, replySeg_refuse (s := segTaken i s) h.here]

/-- A segment that is received by writing `bs` at its slot in a state `y`: the slot completes and the acknowledgement leaves. -/
theorem Arriving.completes {y : State} {l : RunList} {j : Nat} {bs : Bytes} (hy : MayComplete g.dstTile j l y)
    (hlen : bs.length = (l.slot j).len) (hdev : y.dev = s.dev) (hnet : y.net = (segTaken i s).net) (hmem : y.mem = s.mem)
    (hreceive : receiveSeg g (segTaken i s) =
      replySeg g true (slotDone g.dstTile j (y.poke (tileBase g.dstTile + (l.slot j).loc) bs))) :
    ∃ s', exec (.segmentArrival i) s = .next s' ∧ s'.net.segAcks = s.net.segAcks ++ [replyOf g s.net] ∧
      SlotHolds g.dstTile j l bs s s' := by
  obtain ⟨hnet', hdev', hbytes, hbit, hends⟩ := hy.writes hlen
  rw [replySeg_ack (by rw [hdev', hdev]; exact h.here)] at hreceive
  refine ⟨_, h.run.trans (congrArg _ hreceive), ?_, hbytes, hbit.trans ?_, hends⟩
  · rw [State.onNet_net, Net.ackSeg, replyOf, hnet', hnet]
    rfl
  · rw [State.bytes, State.bytes, hmem]

/-- A segment that matches no slot: the receiver's fault, and the refusal. -/
theorem Arriving.unmatched (hopen : (s.tile g.dstTile).fenced = false) (hmatch : matchSlot s g = none) :
    ∃ s', exec (.segmentArrival i) s = .next s' ∧
    s'.net.segRefs = s.net.segRefs ++ [replyOf g s.net] ∧ (s'.tile g.dstTile).faulted = true ∧ s'.mem = s.mem ∧
    ((s.tile g.dstTile).faulted = false → ∃ fi : FaultInfo, fi.code = 0x06#8 ∧
      fi.daddr = 0x7E0000000000 + g.srcTile * 2 ^ 16 + g.srcIdx ∧
      s'.net.recs = s.net.recs ++ [tileRec (segCounted g (segTaken i s)) g.dstTile 1 fi]) := by
  let s1 := segCounted g (segTaken i s)
  obtain ⟨fi, hback, hcode, hdaddr, hfault⟩ := receiveSeg_unmatched (s := segTaken i s) hopen hmatch
  obtain ⟨hfaulted, hdev, hnet⟩ := tileFault_engine (t := g.dstTile) s1 hback
  obtain ⟨-, -, -, -, -, -, -, hsame, -⟩ := segCounted_tile g (segTaken i s)
  have hrun := h.run
  rw [hfault, replySeg_refuse (by rw [hdev]; exact h.here)] at hrun
  refine ⟨_, hrun, ?_, hfaulted, tileFault_mem .., fun hwell => ⟨fi, hcode, hdaddr, ?_⟩⟩
  · rw [State.onNet_net, Net.refuseSeg, replyOf, hnet]
    rfl
  · rw [State.onNet_net, Net.refuseSeg, hnet, hsame]
    change s.net.recs ++ (if (s.tile g.dstTile).faulted = true then _ else _) = _
    rw [hwell]
    rfl

end

/-- The segment matches slot `j` of the list `l` that its receiver, not fenced, runs. -/
structure Matching (i : Nat) (g : Segment) (l : RunList) (j : Nat) (s : State) : Prop extends Arriving i g s where
  unfenced : (s.tile g.dstTile).fenced = false
  list : (s.tile g.dstTile).un.list = some l
  slot : matchSlot s g = some j

section
variable {i : Nat} {g : Segment} {l : RunList} {j : Nat} {s : State} (h : Matching i g l j s)
include h

theorem Matching.receives : receiveSeg g (segTaken i s) = replySeg g true (
    if (l.slot j).kind = 1 then landRecv g.dstTile j (l.fill j) g.data (slotFilled g l j (segTaken i s))
    else if hasTurn (l.fill j) j then addRecv g.dstTile j (l.fill j) g.data none (slotFilled g l j (segTaken i s))
    else (onList g.dstTile (fun l => { l with staged := l.staged ++ [j] }) (slotFilled g l j (segTaken i s))).poke
      (tileBase g.dstTile + (l.slot j).stage) g.data) :=
  receiveSeg_matched (s := segTaken i s) h.unfenced h.list h.slot

/-- A segment for a RECV.ACC slot whose turn has not come waits in the staging place. -/
theorem Matching.staged (hkind : (l.slot j).kind = 2) (hwaits : hasTurn (l.fill j) j = false) :
    ∃ s', exec (.segmentArrival i) s = .next s' ∧ s'.net.segAcks = s.net.segAcks ++ [replyOf g s.net] ∧
      s'.bytes (tileBase g.dstTile + (l.slot j).stage) g.data.length = g.data ∧
      (s'.tile g.dstTile).un.list = some { l.fill j with staged := l.staged ++ [j] } := by
  let s1 := onList g.dstTile (fun l => { l with staged := l.staged ++ [j] }) (slotFilled g l j (segTaken i s))
  let s2 := s1.poke (tileBase g.dstTile + (l.slot j).stage) g.data
  have hnet : s2.net = (segTaken i s).net := by rw [State.poke_net, onList_net, slotFilled_net]
  have hdev : s2.dev = s.dev := by rw [State.poke_dev, onList_dev, slotFilled_dev, segTaken_dev]
  have hstage : receiveSeg g (segTaken i s) = s2.onNet (Net.ackSeg g) := by
    rw [h.receives, if_neg (by rw [hkind]; decide), if_neg (Bool.eq_false_iff.1 hwaits)]
    exact replySeg_ack (s := s2) (by rw [hdev]; exact h.here)
  refine ⟨_, h.run.trans (congrArg _ hstage), ?_, ?_, ?_⟩
  · rw [State.onNet_net, Net.ackSeg, hnet]
    rfl
  · rw [State.bytes, State.onNet_mem]
    exact bytes_poke s1 _ g.data
  · rw [State.onNet_tile, State.poke_tile]
    exact onList_list _ (slotFilled_list (s := segTaken i s) h.list)

variable (halone : Alone j (l.fill j))
  (hmay : MayComplete g.dstTile j (l.fill j) (slotFilled g l j (segTaken i s))) (hlen : (l.slot j).len = g.data.length)
include halone hmay hlen

/-- The data of a RECV slot stand at its destination. -/
theorem Matching.recv (hkind : (l.slot j).kind = 1) :
    ∃ s', exec (.segmentArrival i) s = .next s' ∧ s'.net.segAcks = s.net.segAcks ++ [replyOf g s.net] ∧
      SlotHolds g.dstTile j (l.fill j) g.data s s' := by
  refine h.completes (l := l.fill j) hmay hlen.symm (by rw [slotFilled_dev, segTaken_dev]) (slotFilled_net ..)
    (by rw [slotFilled_mem, segTaken_mem]) ?_
  rw [h.receives, if_pos hkind]
  exact congrArg _ (landRecv_alone (l := l.fill j) g.data _ halone)

/-- The sums of a RECV.ACC slot whose turn has come stand at its destination. -/
theorem Matching.recvAcc (hkind : (l.slot j).kind = 2) (hturn : hasTurn (l.fill j) j = true)
    (hfree : ownedByOp s (tileBase g.dstTile + (l.slot j).loc) (l.slot j).len = false)
    (hgood : s.badIn (tileBase g.dstTile + (l.slot j).loc) (l.slot j).len = none) :
    let sums := (accBytes (BitVec.ofNat 2 (l.slot j).acct) (s.bytes (tileBase g.dstTile + (l.slot j).loc) (l.slot j).len) g.data)
    sums.1.length = (l.slot j).len →
    ∃ s', exec (.segmentArrival i) s = .next s' ∧ s'.net.segAcks = s.net.segAcks ++ [replyOf g s.net] ∧
      SlotHolds g.dstTile j (l.fill j) sums.1 s s' := by
  intro sums hsum
  let s1 := slotFilled g l j (segTaken i s)
  have hfree1 : ownedByOp s1 (tileBase g.dstTile + (l.slot j).loc) (l.slot j).len = false :=
    slotFilled_ownedByOp (s := segTaken i s) hfree
  have hmarked : MayComplete g.dstTile j (l.fill j) (s1.onTile g.dstTile (Tile.marked sums.2)) := hmay.onTile (Tile.marked_un ..)
  refine h.completes (l := l.fill j) hmarked hsum (by rw [State.onTile_dev, slotFilled_dev, segTaken_dev])
    (by rw [State.onTile_net, slotFilled_net]) (by rw [State.onTile_mem, slotFilled_mem, segTaken_mem]) ?_
  rw [h.receives, if_neg (by rw [hkind]; decide), if_pos hturn]
  exact congrArg _ (addRecv_alone (l := l.fill j) (s := s1) halone hlen hfree1 hgood)

end

/-- Settles O40, along the cases of a segment's receiver. -/
theorem segmentsArrive : Obligations.SegmentsArrive := by
  unfold Obligations.SegmentsArrive
  intro s i g htrip hseg hwhole hfirst harrives hhere t r
  have h : Arriving i g s := ⟨htrip, hseg, hwhole, hfirst, harrives, hhere⟩
  refine ⟨fun hfenced => ⟨_, h.fenced hfenced, rfl, rfl, rfl⟩, fun hopen hmatch => ?_, fun l j hopen hlist hmatch => ?_⟩
  · obtain ⟨s', hrun, hrefs, hfaulted, hmem, hrecs⟩ := h.unmatched hopen hmatch
    refine ⟨s', hrun, hrefs, hfaulted, hmem, fun hwell => ?_⟩
    obtain ⟨fi, hcode, hdaddr, hrec⟩ := hrecs hwell
    exact ⟨_, hrec, hcode, rfl, rfl, rfl, congrArg (BitVec.ofNat 47) hdaddr⟩
  · intro k l' d bit completes
    have h : Matching i g l j s := ⟨h, hopen, hlist, hmatch⟩
    refine ⟨fun huntouched halone htrace hlen hnew hgood hbound hapart => ?_, fun hkind hwaits => ?_⟩
    · have hmay : MayComplete t j (l.fill j) (slotFilled g l j (segTaken i s)) :=
        ⟨slotFilled_list (s := segTaken i s) hlist, hnew, htrace, hgood, hbound, hapart⟩
      have halone : Alone j (l.fill j) := ⟨huntouched, halone⟩
      exact ⟨h.recv halone hmay hlen, h.recvAcc halone hmay hlen⟩
    · exact h.staged hkind hwaits

end Sys2Proof.Machine

/-!
SUPPORT. How a handler starts (11 R301, R303): the tile and the context that the XP leaves, and the words in g1 to g4.
-/
namespace Sys2Proof.Machine

/-! ### The words that a handler finds in g3 and g4 (11 R303) -/

/-- The source of a message as its handler reads it: device, tile and context. -/
def MsgHead.source (h : MsgHead) : Word := BitVec.ofNat 64 (h.dev + h.src * 2 ^ 16 + h.ctx * 2 ^ 29)

/-- The handler, queue, SEQ and entry of a message as its handler reads them. -/
def MsgHead.tag (h : MsgHead) (q1 : Bool) (i : Nat) : Word :=
  BitVec.ofNat 64 (h.handler + b2n q1 * 2 ^ 6 + h.seq * 2 ^ 16 + i * 2 ^ 32)

/-- A field of a word is the field of its number. -/
theorem extractLsb'_ofNat_fld {n lo w v : Nat} (hw : lo + w ≤ 64) (h : fld n lo w = v % 2 ^ w) :
    (BitVec.ofNat 64 n).extractLsb' lo w = BitVec.ofNat w v := by
  apply BitVec.eq_of_toNat_eq
  rw [BitVec.extractLsb'_toNat, BitVec.toNat_ofNat, BitVec.toNat_ofNat, Nat.shiftRight_eq_div_pow, ← h]
  exact fld_mod hw

theorem msgHeadOf_source (v : BitVec 128) :
    let h := msgHeadOf v
    h.source.extractLsb' 0 16 = BitVec.ofNat 16 h.dev ∧ h.source.extractLsb' 16 13 = BitVec.ofNat 13 h.src ∧
      h.source.extractLsb' 29 2 = BitVec.ofNat 2 h.ctx ∧ h.source.extractLsb' 31 33 = 0 := by
  intro h
  have hdev : h.dev < 2 ^ 16 := fld_lt _ _ _
  have hsrc : h.src < 2 ^ 13 := fld_lt _ _ _
  have hctx : h.ctx < 2 ^ 2 := fld_lt _ _ _
  refine ⟨?_, ?_, ?_, ?_⟩ <;> refine extractLsb'_ofNat_fld (by decide) ?_ <;> simp only [fld] <;> omega

theorem msgHeadOf_tag (v : BitVec 128) (q1 : Bool) (i : Nat) :
    let h := msgHeadOf v
    (h.tag q1 i).extractLsb' 0 6 = BitVec.ofNat 6 h.handler ∧ (h.tag q1 i).getLsbD 6 = q1 ∧ (h.tag q1 i).extractLsb' 7 9 = 0 ∧
      (h.tag q1 i).extractLsb' 16 16 = BitVec.ofNat 16 h.seq ∧ (h.tag q1 i).extractLsb' 32 32 = BitVec.ofNat 32 i := by
  intro h
  have hhandler : h.handler < 2 ^ 6 := fld_lt _ _ _
  have hseq : h.seq < 2 ^ 16 := fld_lt _ _ _
  have hq : b2n q1 < 2 := by cases q1 <;> decide
  have hbit : (h.tag q1 i).extractLsb' 6 1 = BitVec.ofNat 1 (b2n q1) :=
    extractLsb'_ofNat_fld (by decide) (by simp only [fld]; omega)
  refine ⟨?_, ?_, ?_, ?_, ?_⟩
  case refine_2 =>
    have hget : (h.tag q1 i).getLsbD 6 = (BitVec.ofNat 1 (b2n q1)).getLsbD 0 := by
      rw [← hbit, BitVec.getLsbD_extractLsb']
      simp only [Nat.zero_lt_one, decide_true, Bool.true_and, Nat.add_zero]
    rw [hget]
    cases q1 <;> rfl
  all_goals refine extractLsb'_ofNat_fld (by decide) ?_; simp only [fld]; omega

/-! ### The context and the tile -/

/-- The handler's context with its message in g1 to g4, its next remote LD past the remote line buffer (11 R303). -/
def Ctx.withMessage (k : Ctx) (r : BitVec 2176) (q1 : Bool) (e : QEntry) : Ctx :=
  { ((((k.setReg 1 (BitVec.ofNat 64 ((queueGeom r q1).2.2 + 64 * (queueGeom r q1).2.1 * e.idx + 16))).setReg 2
        (BitVec.ofNat 64 (msgHeadOf e.hdr).len)).setReg 3 (msgHeadOf e.hdr).source).setReg 4
        ((msgHeadOf e.hdr).tag q1 e.idx)) with bypass := true }

theorem Ctx.withMessage_st (k : Ctx) (r : BitVec 2176) (q1 : Bool) (e : QEntry) : (k.withMessage r q1 e).st = k.st := by
  simp [Ctx.withMessage]

theorem Ctx.withMessage_pc (k : Ctx) (r : BitVec 2176) (q1 : Bool) (e : QEntry) : (k.withMessage r q1 e).pc = k.pc := by
  simp [Ctx.withMessage]

/-- The registers of a handler's context: its message in g1 to g4, the others as they were. -/
theorem Ctx.withMessage_reg (k : Ctx) (r : BitVec 2176) (q1 : Bool) (e : QEntry) :
    (k.withMessage r q1 e).reg 1 = BitVec.ofNat 64 ((queueGeom r q1).2.2 + 64 * (queueGeom r q1).2.1 * e.idx + 16) ∧
      (k.withMessage r q1 e).reg 2 = BitVec.ofNat 64 (msgHeadOf e.hdr).len ∧
      (k.withMessage r q1 e).reg 3 = (msgHeadOf e.hdr).source ∧ (k.withMessage r q1 e).reg 4 = (msgHeadOf e.hdr).tag q1 e.idx ∧
      ∀ j, 5 ≤ j → (k.withMessage r q1 e).reg j = k.reg j := by
  have hreg (j : Nat) (x : Ctx) : ({ x with bypass := true } : Ctx).reg j = x.reg j := rfl
  simp only [Ctx.withMessage, hreg, Ctx.reg_setReg]
  refine ⟨by simp, by simp, by simp, by simp, fun j hj => ?_⟩
  rw [if_neg (by omega), if_neg (by omega), if_neg (by omega), if_neg (by omega)]

/-- The tile after a dispatch: the remote line buffer is empty, the entry runs, and the context starts with its message. -/
theorem startHandler_tile (t c : Nat) (r : BitVec 2176) (q1 : Bool) (e : QEntry) (s : State) :
    (startHandler t c r q1 e s).tile t =
      (({ s.tile t with rlb := (s.tile t).rlb.filter (fun _ => false),
                        mail := { (s.tile t).mail with running := some (q1, e.idx) } } : Tile).startCtx c
        (BitVec.ofNat 32 (handlerEntry r (msgHeadOf e.hdr).handler).1)).onCx c (fun k => k.withMessage r q1 e) := by
  simp only [startHandler, State.onMail, State.onTile_tile]
  rw [show ((invalidateRlb t s).tile t) = _ from State.onTile_tile s t (fun x => { x with rlb := x.rlb.filter (fun l => !true) })]
  rfl

/-- The handler's context: it stands at its handler's PC, in RUN or, where the tile is held, in HALT, with its message. -/
theorem startHandler_cx (t c : Nat) (r : BitVec 2176) (q1 : Bool) (e : QEntry) (s : State) :
    (startHandler t c r q1 e s).cx t c = Ctx.withMessage
      { s.cx t c with pc := BitVec.ofNat 32 (handlerEntry r (msgHeadOf e.hdr).handler).1, fetch := none, wait := none,
                      haltedInWait := false, stepGrant := false, st := if (s.tile t).dbg.hold then .halt else .run } r q1 e := by
  rw [State.cx, startHandler_tile, Tile.onCx_cx, Tile.startCtx, Tile.onCx_cx]
  rfl

theorem startHandler_cx_ne {t c d : Nat} (r : BitVec 2176) (q1 : Bool) (e : QEntry) (s : State) (h : d ≠ c) :
    (startHandler t c r q1 e s).cx t d = s.cx t d := by
  rw [State.cx, startHandler_tile, Tile.onCx_cx_ne _ _ _ h, Tile.startCtx, Tile.onCx_cx_ne _ _ _ h]
  rfl

theorem startHandler_running (t c : Nat) (r : BitVec 2176) (q1 : Bool) (e : QEntry) (s : State) :
    ((startHandler t c r q1 e s).tile t).mail.running = some (q1, e.idx) := by
  rw [startHandler_tile]
  rfl

theorem startHandler_rlb (t c : Nat) (r : BitVec 2176) (q1 : Bool) (e : QEntry) (s : State) :
    ((startHandler t c r q1 e s).tile t).rlb = [] := by
  rw [startHandler_tile]
  exact List.filter_eq_nil_iff.2 (fun _ _ => Bool.false_ne_true)

section
variable {s : State} {t : TileId} {r : BitVec 2176} {c : Nat} {q1 : Bool} {e : QEntry} (htrip : s.dev.boot.trip = false)
  (hrecord : (s.tile t).mail.record = some r) (hhandler : (s.tile t).mail.handler = some c) (hoff : (s.cx t c).st = .off)
  (hidle : (s.tile t).mail.running = none) (hclear : (s.tile t).clearing = false) (hopen : (s.tile t).fenced = false)
  (hwell : (s.tile t).faulted = false) (hfree : interlocked s t c { writes := [1, 2, 3, 4] } = false)
  (holdest : q1 = true ∧ oldest (s.tile t).mail.q1 = some e ∨
    q1 = false ∧ oldest (s.tile t).mail.q1 = none ∧ oldest (s.tile t).mail.q0 = some e)
include htrip hrecord hhandler hoff hidle hclear hopen hwell hfree holdest

/-- HANDLER_DISPATCH where nothing holds the oldest message back. -/
theorem handlerDispatch_run : exec (.handlerDispatch t) s = .next (startHandler t c r q1 e s) := by
  refine congrArg Host.Outcome.next ((selfTimed_run htrip).trans ?_)
  have hmay : ¬ ((s.cx t c).st ≠ .off ∨ (s.tile t).mail.running.isSome ∨ (s.tile t).clearing ∨ (s.tile t).fenced ∨
      (s.tile t).faulted ∨ interlocked s t c { writes := [1, 2, 3, 4] }) := by
    simp [hoff, hidle, hclear, hopen, hwell, hfree]
  dsimp only
  rw [hrecord, hhandler]
  dsimp only
  rw [if_neg hmay]
  obtain ⟨rfl, h1⟩ | ⟨rfl, h1, h0⟩ := holdest
  · simp only [h1]
  · simp only [h1, h0]

end

end Sys2Proof.Machine

/-!
SUPPORT. The Enlarger (10 R282, R284, R287): the start of a transfer, a line in one target, a line in all of them, and the
end of a transfer.
-/
namespace Sys2Proof.Machine

/-! ### Branches and the root -/

theorem branchOf_onBranch (b : Option RegionId) (f : EnlBranch → EnlBranch) (s : State) :
    branchOf (onBranch b f s) b = f (branchOf s b) := by
  cases b with
  | none => rfl
  | some r => exact congrArg Reg.enl (State.onRegion_region s r _)

theorem onBranch_trace (b : Option RegionId) (f : EnlBranch → EnlBranch) (s : State) :
    (onBranch b f s).dev.trace = s.dev.trace := by
  cases b <;> rfl

/-- Two changes of a branch that agree on what it holds are one. -/
theorem onBranch_congr {b : Option RegionId} {f g : EnlBranch → EnlBranch} {s : State} (h : f (branchOf s b) = g (branchOf s b)) :
    onBranch b f s = onBranch b g s := by
  cases b with
  | none => exact congrArg (fun e => { s with dev := { s.dev with root := e } }) h
  | some r => exact congrArg (fun e => { s with regions := Map.set {} s.regions r { s.region r with enl := e } }) h

/-- Whether the oldest request `q` of a branch goes first: no chip-wide transfer is ready, or for the root's every branch of the
partition is free (10 R284). -/
def goesFirst (s : State) (b : Option RegionId) (q : EnlReq) : Bool :=
  match b with
  | some r => !chipWaits s r
  | none => (bandOf s (partOf s q.t)).all (fun r => (s.region r).enl.cur.isNone)

/-- ENL_TRANSFER_START of a free branch whose oldest request goes first begins it (10 R284). -/
theorem enlTransferStart_run {s : State} {b : Option RegionId} {q : EnlReq} {rest : List EnlReq} (htrip : s.dev.boot.trip = false)
    (hcur : (branchOf s b).cur = none) (hqueue : (branchOf s b).queue = q :: rest) (hfirst : goesFirst s b q = true) :
    exec (.enlTransferStart b) s = .next (onBranch b (fun e => { e with cur := some (q, 0), queue := rest }) s) := by
  refine congrArg Host.Outcome.next ((selfTimed_run htrip).trans ?_)
  simp only [hcur, hqueue]
  refine (if_pos hfirst).trans (onBranch_congr ?_)
  rw [hqueue]
  rfl

/-! ### A line in one target (10 R282) -/

/-- Where line `k` of a transfer lands in tile `t`. -/
def EnlReq.lineAt (q : EnlReq) (k t : Nat) : Nat := tileBase t + q.dst + 128 * k

/-- The flags of a target tile after line `k`: the first line clears the transfer's flag but at the requester, the last sets it. -/
def EnlReq.flagsAfter (q : EnlReq) (k t : Nat) (v : BitVec 256) : BitVec 256 :=
  let v := if k = 0 ∧ t ≠ q.t then setBit v q.tf.toNat false else v
  if k + 1 = q.lines then setBit v q.tf.toNat true else v

/-- Lines of one transfer in two targets lie apart. -/
theorem EnlReq.lineAt_apart {q : EnlReq} {k t u : Nat} (h : t ≠ u) :
    q.lineAt k t + 128 ≤ q.lineAt k u ∨ q.lineAt k u + 128 ≤ q.lineAt k t := by
  simp only [EnlReq.lineAt, tileBase]
  omega

theorem landLine_clearing {q : EnlReq} {k : Nat} {d : Bytes} {t : Nat} {s : State} (h : (s.tile t).clearing = true) :
    landLine q k d t s = s := if_pos h

theorem putFlag_clearing (t f : Nat) (b : Bool) (s : State) (u : Nat) : ((putFlag t f b s).tile u).clearing = (s.tile u).clearing := by
  by_cases h : u = t
  · subst h
    obtain ⟨-, -, -, -, -, -, hclearing, -⟩ := KeepsTile.endWaits { s.tile u with flags := setBit (s.tile u).flags f b } (.tf f b)
    rw [putFlag_tile]
    exact hclearing
  · rw [putFlag_tile_ne _ _ _ _ h]

/-- What a line leaves at a target that is not in its clearing pass. -/
theorem landLine_lands {q : EnlReq} {k : Nat} {d : Bytes} {t : Nat} {s : State} (h : (s.tile t).clearing = false) :
    (landLine q k d t s).mem = (s.poke (q.lineAt k t) d).mem ∧ ((landLine q k d t s).tile t).flags = q.flagsAfter k t (s.tile t).flags ∧
      (∀ u, u ≠ t → (landLine q k d t s).tile u = s.tile u) ∧
      ∀ u, ((landLine q k d t s).tile u).clearing = (s.tile u).clearing := by
  delta landLine
  rw [if_neg (by rw [h]; decide)]
  extract_lets s1 s2
  have hflags (f : Nat) (b : Bool) (z : State) : ((putFlag t f b z).tile t).flags = setBit (z.tile t).flags f b := by
    rw [putFlag_tile, Tile.putFlag_flags]
  have h2 : s2.mem = s1.mem ∧ (s2.tile t).flags = (if k = 0 ∧ t ≠ q.t then setBit (s1.tile t).flags q.tf.toNat false
      else (s1.tile t).flags) ∧ (∀ u, u ≠ t → s2.tile u = s1.tile u) ∧ ∀ u, (s2.tile u).clearing = (s1.tile u).clearing := by
    simp only [s2]
    split
    · exact ⟨rfl, hflags _ _ _, fun u hu => putFlag_tile_ne _ _ _ _ hu, putFlag_clearing _ _ _ _⟩
    · exact ⟨rfl, rfl, fun _ _ => rfl, fun _ => rfl⟩
  obtain ⟨hmem, hfirst, helse, hclearing⟩ := h2
  clear_value s2
  rw [EnlReq.flagsAfter]
  split
  · refine ⟨hmem, ?_, fun u hu => (putFlag_tile_ne _ _ _ _ hu).trans (helse u hu), fun u => (putFlag_clearing ..).trans (hclearing u)⟩
    rw [hflags, hfirst]
    rfl
  · exact ⟨hmem, hfirst, helse, hclearing⟩

/-- A line leaves every clearing pass as it is. -/
theorem landLine_keepsClearing (q : EnlReq) (k : Nat) (d : Bytes) (t : Nat) (s : State) (u : Nat) :
    ((landLine q k d t s).tile u).clearing = (s.tile u).clearing := by
  cases h : (s.tile t).clearing with
  | true => rw [landLine_clearing h]
  | false => exact (landLine_lands h).2.2.2 u

/-- A line for one tile leaves the flags of the others. -/
theorem landLine_flags_ne {q : EnlReq} {k : Nat} {d : Bytes} {t u : Nat} {s : State} (h : u ≠ t) :
    ((landLine q k d t s).tile u).flags = (s.tile u).flags := by
  cases hclear : (s.tile t).clearing with
  | true => rw [landLine_clearing hclear]
  | false =>
    obtain ⟨-, -, helse, -⟩ := landLine_lands (q := q) (k := k) (d := d) hclear
    rw [helse u h]

/-- The bytes of a state are its memory's. -/
theorem bytes_of_mem {s s' : State} (h : s'.mem = s.mem) (a n : Nat) : s'.bytes a n = s.bytes a n := by
  rw [State.bytes, h]; rfl

/-- Bytes that a line does not meet stay. -/
theorem landLine_bytes_out {q : EnlReq} {k : Nat} {d : Bytes} {t a n : Nat} {s : State} (hlen : d.length = 128)
    (h : (s.tile t).clearing = true ∨ a + n ≤ q.lineAt k t ∨ q.lineAt k t + 128 ≤ a) :
    (landLine q k d t s).bytes a n = s.bytes a n := by
  cases hclear : (s.tile t).clearing with
  | true => rw [landLine_clearing hclear]
  | false =>
    obtain ⟨hmem, -⟩ := landLine_lands (q := q) (k := k) (d := d) hclear
    rw [bytes_of_mem hmem, bytes_poke_out]
    rw [hlen]
    exact h.resolve_left (by rw [hclear]; decide)

/-- The line stands at its target. -/
theorem landLine_bytes {q : EnlReq} {k : Nat} {d : Bytes} {t : Nat} {s : State} (hlen : d.length = 128)
    (h : (s.tile t).clearing = false) : (landLine q k d t s).bytes (q.lineAt k t) 128 = d := by
  obtain ⟨hmem, -⟩ := landLine_lands (q := q) (k := k) (d := d) h
  rw [bytes_of_mem hmem, ← hlen]
  exact bytes_poke s _ d

/-! ### A line in all its targets -/

/-- What a step for one element brings about and no later step undoes holds after a run over a list with that element. -/
theorem foldl_reaches {α β : Type} {g : β → α → β} {I P : β → Prop} (hI : ∀ b y, I b → I (g b y)) {x : α}
    (hset : ∀ b, I b → P (g b x)) (hkeep : ∀ b y, I b → P b → P (g b y)) : ∀ (l : List α) (b : β), x ∈ l → I b → P (l.foldl g b)
  | y :: l, b, hx, h => by
    obtain rfl | hx := List.mem_cons.1 hx
    · exact (List.foldlRecOn (motive := fun b => I b ∧ P b) l g ⟨hI b x h, hset b h⟩
        (fun b hb y _ => ⟨hI b y hb.1, hkeep b y hb.1 hb.2⟩)).2
    · exact foldl_reaches hI hset hkeep l (g b y) hx (hI b y h)

/-- State `s` with line `k` landed in the tiles of a list. -/
def landAll (q : EnlReq) (k : Nat) (d : Bytes) (l : List Nat) (s : State) : State := l.foldl (fun s t => landLine q k d t s) s

section
variable {q : EnlReq} {k : Nat} {d : Bytes} {l : List Nat} {s : State}

theorem landAll_keepsClearing (u : Nat) : ((landAll q k d l s).tile u).clearing = (s.tile u).clearing :=
  List.foldlRecOn (motive := fun s' : State => (s'.tile u).clearing = (s.tile u).clearing) l _ rfl
    (fun s' hs t _ => (landLine_keepsClearing q k d t s' u).trans hs)

/-- What a target that is not in its clearing pass gets from its line and no other target's line takes stays. -/
theorem landAll_reaches {P : State → Prop} {u : Nat} (hu : u ∈ l) (hclear : (s.tile u).clearing = false)
    (hset : ∀ s', (s'.tile u).clearing = false → P (landLine q k d u s'))
    (hkeep : ∀ s' t, t ≠ u → P s' → P (landLine q k d t s')) : P (landAll q k d l s) := by
  refine foldl_reaches (I := fun s' : State => (s'.tile u).clearing = false) (fun s' t h => (landLine_keepsClearing q k d t s' u).trans h)
    hset (fun s' t h hp => ?_) l s hu hclear
  by_cases ht : t = u
  · exact ht ▸ hset s' h
  · exact hkeep s' t ht hp

/-- The line stands at every target that is not in its clearing pass. -/
theorem landAll_bytes {u : Nat} (hlen : d.length = 128) (hu : u ∈ l) (hclear : (s.tile u).clearing = false) :
    (landAll q k d l s).bytes (q.lineAt k u) 128 = d :=
  landAll_reaches (P := fun s' => s'.bytes (q.lineAt k u) 128 = d) hu hclear (fun _ h => landLine_bytes hlen h)
    (fun _ _ ht hs => (landLine_bytes_out hlen (.inr (EnlReq.lineAt_apart (Ne.symm ht)))).trans hs)

/-- The line writes nothing else. -/
theorem landAll_bytes_out {a n : Nat} (hlen : d.length = 128)
    (h : ∀ u ∈ l, (s.tile u).clearing = true ∨ a + n ≤ q.lineAt k u ∨ q.lineAt k u + 128 ≤ a) :
    (landAll q k d l s).bytes a n = s.bytes a n := by
  refine (List.foldlRecOn (motive := fun s' : State => s'.bytes a n = s.bytes a n ∧ ∀ u, (s'.tile u).clearing = (s.tile u).clearing)
    l _ ⟨rfl, fun _ => rfl⟩ (fun s' hs t ht => ⟨?_, fun u => (landLine_keepsClearing q k d t s' u).trans (hs.2 u)⟩)).1
  refine (landLine_bytes_out hlen ?_).trans hs.1
  rw [hs.2 t]
  exact h t ht

/-- The flag of a target that is not in its clearing pass is as its line leaves it. -/
theorem landAll_flag {u : Nat} {b : Bool} (hu : u ∈ l) (hclear : (s.tile u).clearing = false)
    (hset : ∀ v, (q.flagsAfter k u v).getLsbD q.tf.toNat = b) : ((landAll q k d l s).tile u).flag q.tf.toNat = b := by
  refine landAll_reaches (P := fun s' => (s'.tile u).flag q.tf.toNat = b) hu hclear (fun s' h => ?_) (fun s' t ht hs => ?_)
  · obtain ⟨-, hflags, -⟩ := landLine_lands (q := q) (k := k) (d := d) h
    rw [Tile.flag, hflags]
    exact hset _
  · rw [Tile.flag, landLine_flags_ne (Ne.symm ht)]
    exact hs

/-- A tile in its clearing pass, or that its line leaves so, keeps its flags. -/
theorem landAll_flags {u : Nat} (h : (s.tile u).clearing = true ∨ ∀ v, q.flagsAfter k u v = v) :
    ((landAll q k d l s).tile u).flags = (s.tile u).flags := by
  refine (List.foldlRecOn (motive := fun s' : State => (s'.tile u).flags = (s.tile u).flags ∧
    (s'.tile u).clearing = (s.tile u).clearing) l _ ⟨rfl, rfl⟩
    (fun s' hs t _ => ⟨Eq.trans ?_ hs.1, (landLine_keepsClearing q k d t s' u).trans hs.2⟩)).1
  by_cases ht : u = t
  · subst ht
    cases hclear : (s'.tile u).clearing with
    | true => rw [landLine_clearing hclear]
    | false =>
      obtain ⟨-, hflags, -⟩ := landLine_lands (q := q) (k := k) (d := d) hclear
      rw [hflags]
      exact h.resolve_left (by rw [← hs.2, hclear]; decide) _
  · exact landLine_flags_ne ht

end

theorem EnlReq.flagsAfter_first {q : EnlReq} {k t : Nat} (hk : k = 0) (ht : t ≠ q.t) (hmore : k + 1 < q.lines) (v : BitVec 256) :
    (q.flagsAfter k t v).getLsbD q.tf.toNat = false := by
  rw [EnlReq.flagsAfter, if_neg hmore.ne, if_pos ⟨hk, ht⟩, getLsbD_setBit _ _ _ _ q.tf.isLt, if_pos rfl]

theorem EnlReq.flagsAfter_last {q : EnlReq} {k t : Nat} (hlast : k + 1 = q.lines) (v : BitVec 256) :
    (q.flagsAfter k t v).getLsbD q.tf.toNat = true := by
  rw [EnlReq.flagsAfter, if_pos hlast, getLsbD_setBit _ _ _ _ q.tf.isLt, if_pos rfl]

theorem EnlReq.flagsAfter_same {q : EnlReq} {k t : Nat} (h : k ≠ 0 ∨ t = q.t) (hmore : k + 1 < q.lines) (v : BitVec 256) :
    q.flagsAfter k t v = v := by
  rw [EnlReq.flagsAfter, if_neg hmore.ne, if_neg (fun hk => h.elim (absurd hk.1) hk.2)]

/-! ### ENL_LINE_LANDING -/

theorem countLines_dev (q : EnlReq) (s : State) : (countLines q s).dev = s.dev := by
  rw [countLines]
  exact List.foldlRecOn (motive := fun s' : State => s'.dev = s.dev) _ _ rfl (fun s' hs r _ => hs)

theorem landLine_dev (q : EnlReq) (k : Nat) (d : Bytes) (t : Nat) (s : State) : (landLine q k d t s).dev = s.dev := by
  have hflag (f : Nat) (b : Bool) (z : State) : (putFlag t f b z).dev = z.dev := rfl
  simp only [landLine, apply_ite State.dev, hflag, State.poke_dev, ite_self]

theorem landAll_dev (q : EnlReq) (k : Nat) (d : Bytes) (l : List Nat) (s : State) : (landAll q k d l s).dev = s.dev :=
  List.foldlRecOn (motive := fun s' : State => s'.dev = s.dev) l _ rfl (fun s' hs t _ => (landLine_dev q k d t s').trans hs)

/-- Without tracing, the end of an operation moves no part of the state but the count of free values. -/
theorem traceDoneFree_off {t : Nat} {q : StartReq} {progress : Nat} {s : State} (htrace : s.dev.trace.on = 0) :
    traceDoneFree t q progress s = { s with free := s.free + 1 } := by
  rw [traceDoneFree]
  exact traceTile_off _ _ _ _ _ htrace

theorem enlAdmit_trace (q : EnlReq) (s : State) : (enlAdmit q s).2.dev.trace = s.dev.trace := by
  grind [enlAdmit, takeTurn, State.onTile_dev]

theorem enlLine_trace (q : EnlReq) (k : Nat) (s : State) : (enlLine q k s).2.dev.trace = s.dev.trace := by
  grind [enlLine, drawBytes, homeRead_trace]

/-- ENL_LINE_LANDING of a line that is admitted and read (10 R282, R287). -/
theorem enlLineLanding_run {s s1 s2 : State} {b : Option RegionId} {q : EnlReq} {k : Nat} {d : Bytes} (htrip : s.dev.boot.trip = false)
    (hcur : (branchOf s b).cur = some (q, k)) (hwaits : xferWaits s (fld q.src.toNat 0 47 + 128 * k) 128 = false)
    (hadmit : enlAdmit q s = (true, s1)) (hline : enlLine q k s1 = (.ok d, s2)) :
    exec (.enlLineLanding b) s = .next (let s3 := countLines q (landAll q k d (enlTargets s2 q) s2)
      if k + 1 < q.lines then onBranch b (fun e => { e with cur := some (q, k + 1) }) s3
      else traceDoneFree q.t q.req q.lines (onBranch b (fun e => { e with cur := none }) s3)) := by
  refine congrArg Host.Outcome.next ((selfTimed_run htrip).trans ?_)
  simp only [hcur, hwaits, Bool.false_eq_true, if_false]
  rw [hadmit]
  dsimp only
  rw [hline]
  rfl

/-- What line `k` of a transfer leaves in the tiles of a list: its bytes at every one not in its clearing pass, and elsewhere, and
in the flags of those in it, what was there. -/
def LineLands (q : EnlReq) (k : Nat) (d : Bytes) (l : List Nat) (s s' : State) : Prop :=
  (∀ u ∈ l, (s.tile u).clearing = false → s'.bytes (q.lineAt k u) 128 = d) ∧
    (∀ u, (s.tile u).clearing = true → (s'.tile u).flags = (s.tile u).flags) ∧
    ∀ a, (∀ u ∈ l, (s.tile u).clearing = true ∨ a < q.lineAt k u ∨ q.lineAt k u + 128 ≤ a) → s'.bytes a 1 = s.bytes a 1

theorem landAll_lineLands {q : EnlReq} {k : Nat} {d : Bytes} {l : List Nat} {s s' : State} (hlen : d.length = 128)
    (hmem : s'.mem = (landAll q k d l s).mem) (htiles : s'.tiles = (landAll q k d l s).tiles) :
    LineLands q k d l s s' := by
  have htile (u : Nat) : s'.tile u = (landAll q k d l s).tile u := by rw [State.tile, htiles]; rfl
  refine ⟨fun u hu hclear => ?_, fun u hclear => ?_, fun a ha => ?_⟩
  · rw [bytes_of_mem hmem]
    exact landAll_bytes hlen hu hclear
  · rw [htile]
    exact landAll_flags (.inl hclear)
  · rw [bytes_of_mem hmem]
    refine landAll_bytes_out hlen (fun u hu => (ha u hu).imp_right ?_)
    exact Or.imp_left Nat.succ_le_of_lt

section
variable {s s1 s2 : State} {b : Option RegionId} {q : EnlReq} {k : Nat} {d : Bytes} (htrip : s.dev.boot.trip = false)
  (hcur : (branchOf s b).cur = some (q, k)) (hwaits : xferWaits s (fld q.src.toNat 0 47 + 128 * k) 128 = false)
  (hadmit : enlAdmit q s = (true, s1)) (hline : enlLine q k s1 = (.ok d, s2)) (hlen : d.length = 128)
include htrip hcur hwaits hadmit hline hlen

/-- Before its last line a transfer goes on with the next; its first line clears the flag of every target but the requester. -/
theorem enlLineLanding_goesOn (hmore : k + 1 < q.lines) :
    ∃ s', exec (.enlLineLanding b) s = .next s' ∧ (branchOf s' b).cur = some (q, k + 1) ∧ LineLands q k d (enlTargets s2 q) s2 s' ∧
      (k = 0 → ∀ u ∈ enlTargets s2 q, u ≠ q.t → (s2.tile u).clearing = false → (s'.tile u).flag q.tf.toNat = false) ∧
      ∀ u, k ≠ 0 ∨ u = q.t → (s'.tile u).flags = (s2.tile u).flags := by
  let s3 := countLines q (landAll q k d (enlTargets s2 q) s2)
  let s4 := onBranch b (fun e => { e with cur := some (q, k + 1) }) s3
  have hmem : s4.mem = (landAll q k d (enlTargets s2 q) s2).mem := (onBranch_mem b _ s3).trans (countLines_mem _ _)
  have htiles : s4.tiles = (landAll q k d (enlTargets s2 q) s2).tiles := (onBranch_tiles b _ s3).trans (countLines_tiles _ _)
  have htile (u : Nat) : s4.tile u = (landAll q k d (enlTargets s2 q) s2).tile u := by rw [State.tile, htiles]; rfl
  refine ⟨s4, (enlLineLanding_run htrip hcur hwaits hadmit hline).trans (congrArg _ (if_pos hmore)),
    congrArg EnlBranch.cur (branchOf_onBranch b _ s3), landAll_lineLands hlen hmem htiles, fun hk u hu hother hclear => ?_,
    fun u hsame => ?_⟩
  · rw [htile]
    exact landAll_flag hu hclear (EnlReq.flagsAfter_first hk hother hmore)
  · rw [htile]
    exact landAll_flags (.inr (EnlReq.flagsAfter_same hsame hmore))

/-- The last line of a transfer ends it and sets the flag of every target that is not in its clearing pass. -/
theorem enlLineLanding_ends (hlast : k + 1 = q.lines) (htrace : s.dev.trace.on = 0) :
    ∃ s', exec (.enlLineLanding b) s = .next s' ∧ (branchOf s' b).cur = none ∧ LineLands q k d (enlTargets s2 q) s2 s' ∧
      ∀ u ∈ enlTargets s2 q, (s2.tile u).clearing = false → (s'.tile u).flag q.tf.toNat = true := by
  let s3 := countLines q (landAll q k d (enlTargets s2 q) s2)
  let s4 := onBranch b (fun e => { e with cur := none }) s3
  have hmem : s4.mem = (landAll q k d (enlTargets s2 q) s2).mem := (onBranch_mem b _ s3).trans (countLines_mem _ _)
  have htiles : s4.tiles = (landAll q k d (enlTargets s2 q) s2).tiles := (onBranch_tiles b _ s3).trans (countLines_tiles _ _)
  have hadmitted : s1.dev.trace = s.dev.trace := (congrArg (fun p => p.2.dev.trace) hadmit).symm.trans (enlAdmit_trace q s)
  have hread : s2.dev.trace = s1.dev.trace := (congrArg (fun p => p.2.dev.trace) hline).symm.trans (enlLine_trace q k s1)
  have hoff : s4.dev.trace.on = 0 := by rw [onBranch_trace, countLines_dev, landAll_dev, hread, hadmitted, htrace]
  refine ⟨{ s4 with free := s4.free + 1 }, (enlLineLanding_run htrip hcur hwaits hadmit hline).trans
    (congrArg _ ((if_neg hlast.not_lt).trans (traceDoneFree_off hoff))), ?_, landAll_lineLands hlen hmem htiles, fun u hu hclear => ?_⟩
  · have hended : (branchOf s4 b).cur = none := congrArg EnlBranch.cur (branchOf_onBranch b _ s3)
    cases b <;> exact hended
  · have htile : ({ s4 with free := s4.free + 1 } : State).tile u = (landAll q k d (enlTargets s2 q) s2).tile u := by
      rw [State.tile, htiles]; rfl
    rw [htile]
    exact landAll_flag hu hclear (EnlReq.flagsAfter_last hlast)

end

/-- Settles O44: a dispatch seen at its tile, and a line in each target of a transfer. -/
theorem handlersAndTheEnlarger : Obligations.HandlersAndTheEnlarger := by
  unfold Obligations.HandlersAndTheEnlarger
  intro s htrip
  refine ⟨fun t r c q1 e hrecord hhandler hoff hidle hclear hopen hwell hfree holdest => ?_, fun r q rest hcur hqueue hchip => ?_,
    fun q rest hcur hqueue hband => ?_, fun b q k s1 s2 d hcur hwaits hadmit hline hlen _ => ?_⟩
  · have hrun := handlerDispatch_run htrip hrecord hhandler hoff hidle hclear hopen hwell hfree holdest
    have hcx := startHandler_cx t c r q1 e s
    obtain ⟨h1, h2, h3, h4, helse⟩ := Ctx.withMessage_reg _ r q1 e
    rw [← hcx] at h1 h2 h3 h4 helse
    obtain ⟨hhandled, hqueue, hzero, hseq, hentry⟩ := msgHeadOf_tag e.hdr q1 e.idx
    have hsource := msgHeadOf_source e.hdr
    dsimp only at hsource
    rw [← h4] at hhandled hqueue hzero hseq hentry
    rw [← h3] at hsource
    exact ⟨_, hrun, startHandler_running .., by rw [hcx, Ctx.withMessage_pc], by rw [hcx, Ctx.withMessage_st],
      startHandler_rlb .., h1, h2, hsource, ⟨hhandled, hqueue, hzero, hseq, fun _ => hentry⟩, by rw [hcx]; rfl,
      startHandler_mem .., fun d hd => startHandler_cx_ne r q1 e s hd, helse⟩
  · exact enlTransferStart_run (b := some r) htrip hcur hqueue (by rw [goesFirst, hchip]; rfl)
  · exact enlTransferStart_run (b := none) htrip hcur hqueue
      (List.all_eq_true.2 (fun r hr => Option.isNone_iff_eq_none.2 (hband r hr)))
  · exact ⟨enlLineLanding_goesOn htrip hcur hwaits hadmit hline hlen, enlLineLanding_ends htrip hcur hwaits hadmit hline hlen⟩

end Sys2Proof.Machine

/-!
SUPPORT. Two states that hold an entry twice, which no map in canonical form does (log 4).
-/
namespace Sys2Proof.Machine

/-! ### A tile that stands twice among the tiles -/

/-- A record of a Plate: Q0 has one entry of two lines at 0, and handler 0 stands at 0 and is no accumulation (11 R295). -/
def oneEntryRecord : BitVec 2176 := BitVec.ofNat 2176 (1 * 2 ^ 8 + 2 * 2 ^ 16 + 1 * 2 ^ 158)

/-- A message without payload for tile 0's handler 0. -/
def emptyMessage : Message := { hdr := 0, dstDev := 0, payload := [], slot := 0 }

/-- Tile 0 stands twice: first as a receiver of messages, and again with an operation that owns the bytes of its entry. -/
def twiceTile : State :=
  { tiles := [(0, { mail := { record := some oneEntryRecord } }),
              (0, { un := { units := [(1, { running := some { req := { kind := .fill, sub := 0, ctx := 0, iaddr := 0, tf := 1 },
                                                              res := [(0, 16)] } })] } })],
    net := { msgs := [emptyMessage] } }

/-- The marks of the entries of tile 0's Q0 in what a command leaves. -/
def entryMarks (r : Res) : List Bool :=
  match r with
  | .next s => (s.tile 0).mail.q0.entries.map (fun e => e.tainted)
  | _ => []

/-- Refutes O42: the statement marks the entry by the operations of the state before the command; where a tile stands twice, counting
the message's arrival leaves it once, and the operation of the other is no longer there when the entry is written. -/
theorem not_messagesLeaveAndAreJudged : ¬ Obligations.MessagesLeaveAndAreJudged := by
  unfold Obligations.MessagesLeaveAndAreJudged
  intro h
  obtain ⟨-, -, hjudged⟩ := (h twiceTile rfl).2 0 emptyMessage rfl (by decide +kernel) (by decide +kernel)
  obtain ⟨-, -, -, haccepts⟩ := hjudged oneEntryRecord rfl rfl rfl
  obtain ⟨s', n, hrun, -, hentries⟩ := haccepts (by decide +kernel) (by decide +kernel) (by decide +kernel)
  have hunmarked : entryMarks (exec (.messageHeaderArrival 0) twiceTile) = [false] := by decide +kernel
  have hmarked : (s'.tile 0).mail.q0.entries.map (fun e => e.tainted) = [true] := by
    refine (congrArg (List.map (fun e : QEntry => e.tainted)) hentries).trans ?_
    simp only [List.map_append, List.map_cons, List.map_nil]
    decide +kernel
  rw [hrun, entryMarks, hmarked] at hunmarked
  exact absurd hunmarked (by decide)

/-! ### A send slot that stands twice -/

/-- A message in flight to tile 1 that has been refused 63 times, for Q0 or Q1. -/
def refused63 (q1 : Bool) : SendSlot :=
  { dstTile := 1, dstDev := 0, remote := false, q := q1, handler := 0, len := 0, payload := 0, flag := 240, ctx := 0, iaddr := 0,
    seq := 0, refusals := 63, st := .inFlight, order := 0 }

/-- The refusal of the message to tile 1. -/
def refusal : MsgReply := { hdr := 1, slot := 0 }

/-- Send slot 0 of tile 0 stands twice: with a message for Q0, and again with one for Q1. -/
def twiceSlot : State :=
  { tiles := [(0, { mail := { sends := [(0, some (refused63 false)), (0, some (refused63 true))] } })],
    net := { msgNacks := [refusal] } }

/-- What a command leaves in send slot 0 of tile 0. -/
def slotAfter (r : Res) : Option SendSlot :=
  match r with
  | .next s => (s.tile 0).mail.slot 0
  | _ => none

/-- Refutes O43: the 64th refusal takes the messages with the key out of the send slots; where a slot stands twice, the one with
another key then shows in its place, and the statement has the slot free. -/
theorem not_messageRepliesAtTheSender : ¬ Obligations.MessageRepliesAtTheSender := by
  unfold Obligations.MessageRepliesAtTheSender
  intro h
  obtain ⟨-, hnack, -⟩ := (h twiceSlot rfl).1 0 0 0 refusal (refused63 false) (by decide +kernel)
  obtain ⟨-, hlast⟩ := (hnack rfl (by decide +kernel)).1 (.inl rfl)
  obtain ⟨s', hrun, -, -, -, hslots⟩ := hlast (by decide)
  have hfree : (s'.tile 0).mail.slot 0 = none := (hslots 0 (refused63 false) (by decide +kernel)).2 rfl
  have htaken : slotAfter (exec (.nack 0) twiceSlot) = some (refused63 true) := by decide +kernel
  rw [hrun, slotAfter, hfree] at htaken
  exact absurd htaken (by decide)

end Sys2Proof.Machine

/-!
SUPPORT. System barriers between devices (09 R253; 12 R331, R339, R340; 13 R363); O35.
-/
namespace Sys2Proof.Machine

/-! ### Barriers under a packet that leaves and a fault -/

theorem leaveHub_bars (t c : Nat) (s : State) : (leaveHub t c s).hub.bars = s.hub.bars := by
  rw [leaveHub]
  dsimp only
  split <;> rfl

theorem stopTile_bars (t : Nat) (s : State) : (stopTile t s).hub.bars = s.hub.bars := by
  rw [stopTile, State.onTile_hub]
  refine List.foldlRecOn (motive := fun s' : State => s'.hub.bars = s.hub.bars) _ _ rfl (fun s' hs c _ => ?_)
  split
  · rw [leaveHub_bars, hs]
  · exact hs

theorem tileFault_bars (t : Nat) (fi : FaultInfo) (s : State) : (tileFault t fi s).hub.bars = s.hub.bars := by
  simp [tileFault, apply_ite State.hub, stopTile_bars, raiseRec_hub]

theorem barUnreach_bars (b dst port : Nat) (s : State) : (barUnreach b dst port s).hub.bars = s.hub.bars := by
  rw [barUnreach]
  split
  · exact tileFault_bars ..
  · rfl

/-- Send a release of barrier `b` with epoch `e` over port `p` (12 R340). -/
def sendRelease (b e : Nat) (s : State) (p : Nat) : State :=
  (sendOut p false (barPacket s 10 (neighbour s p) b e 0) s).getD (barUnreach b (neighbour s p) p s)

theorem sendRelease_bars (b e p : Nat) (s : State) : (sendRelease b e s p).hub.bars = s.hub.bars := by
  rw [sendRelease]
  cases h : sendOut p false (barPacket s 10 (neighbour s p) b e 0) s with
  | none => exact barUnreach_bars ..
  | some s' => exact congrArg Hub.bars (sendOut_hub _ _ _ _ _ h)

theorem sendReleases_bars (b e : Nat) (l : List Nat) (s : State) : (l.foldl (sendRelease b e) s).hub.bars = s.hub.bars :=
  List.foldlRecOn (motive := fun s' : State => s'.hub.bars = s.hub.bars) l _ rfl (fun s' hs p _ => (sendRelease_bars b e p s').trans hs)

/-! ### The events -/

theorem systemArrival_held {s : State} (htrip : s.dev.boot.trip = false) (hholds : holdsSys s = true) (i : Nat) :
    exec (.systemArrival i) s = .next s :=
  congrArg Host.Outcome.next ((selfTimed_run htrip).trans (if_pos hholds))

theorem systemRelease_held {s : State} (htrip : s.dev.boot.trip = false) (hholds : holdsSys s = true) (i : Nat) :
    exec (.systemRelease i) s = .next s :=
  congrArg Host.Outcome.next ((selfTimed_run htrip).trans (if_pos hholds))

/-- State `s` without the `i`-th arrival at the port logic. -/
def arrivalTaken (i : Nat) (s : State) : State := s.onNet (fun n => { n with sysArr := dropAt i n.sysArr })

/-- State `s` without the `i`-th release at the port logic. -/
def releaseTaken (i : Nat) (s : State) : State := s.onNet (fun n => { n with sysRel := dropAt i n.sysRel })

theorem systemArrival_run {s : State} {i : Nat} {a : SysPkt} (htrip : s.dev.boot.trip = false) (hholds : holdsSys s = false)
    (harr : s.net.sysArr[i]? = some a) : exec (.systemArrival i) s = .next (systemArrival a (arrivalTaken i s)) := by
  refine congrArg Host.Outcome.next ((selfTimed_run htrip).trans ?_)
  rw [if_neg (by simp [hholds]), harr]
  rfl

theorem systemRelease_run {s : State} {i : Nat} {a : SysPkt} (htrip : s.dev.boot.trip = false) (hholds : holdsSys s = false)
    (hrel : s.net.sysRel[i]? = some a) : exec (.systemRelease i) s = .next (systemRelease a (releaseTaken i s)) := by
  refine congrArg Host.Outcome.next ((selfTimed_run htrip).trans ?_)
  rw [if_neg (by simp [hholds]), hrel]
  rfl

/-! ### Arrivals (12 R339) -/

section Arrival
variable {a : SysPkt} {s : State}

/-- A packet from a port with another epoch. -/
theorem systemArrival_stale (hport : a.port.isSome = true) (hepoch : a.epoch ≠ (s.hub.bar a.b).epoch) :
    systemArrival a s = discardSys a.port s := if_pos (by simp [hport, hepoch])

/-- A packet for a line of which this device is not the head. -/
theorem systemArrival_noHead (hport : a.port.isSome = true) (hhead : lineHead s ≠ s.dev.link.self) :
    systemArrival a s = discardSys a.port s := by
  rw [systemArrival]
  simp [hhead, Option.isSome_iff_ne_none.mp hport]

/-- The device's own arrival, where another device is the head. -/
theorem systemArrival_toHead (hport : a.port = none) (hhead : lineHead s ≠ s.dev.link.self) :
    systemArrival a s = sendArrival (lineHead s) a.b a.epoch.toNat a.count s := by
  rw [systemArrival]
  simp [hhead, hport]

section AtHead
variable (hnow : a.port = none ∨ a.epoch = (s.hub.bar a.b).epoch) (hhead : lineHead s = s.dev.link.self)
include hnow hhead

/-- What the head of a line makes of an arrival of this epoch. -/
theorem systemArrival_atHead : systemArrival a s =
    if ofMyLine s a.src then countHead a.b a.count s
    else if s.dev.link.self = s.dev.link.root then countRoot a.b a.count s
    else discardSys a.port s := by
  rw [systemArrival]
  rcases hnow with hnow | hnow <;> simp [hnow, hhead]

theorem systemArrival_myLine (hline : ofMyLine s a.src = true) : systemArrival a s = countHead a.b a.count s := by
  rw [systemArrival_atHead hnow hhead, if_pos hline]

theorem systemArrival_atRoot (hline : ofMyLine s a.src = false) (hroot : s.dev.link.self = s.dev.link.root) :
    systemArrival a s = countRoot a.b a.count s := by
  rw [systemArrival_atHead hnow hhead, if_neg (by simp [hline]), if_pos hroot]

theorem systemArrival_strange (hline : ofMyLine s a.src = false) (hroot : s.dev.link.self ≠ s.dev.link.root) :
    systemArrival a s = discardSys a.port s := by
  rw [systemArrival_atHead hnow hhead, if_neg (by simp [hline]), if_neg hroot]

end AtHead
end Arrival

/-! ### Sums at the head and at the root (12 R339, 13 R363) -/

theorem countHead_more {b k : Nat} {s : State} (hmore : (s.hub.bar b).headCount + k < dimSize s 3) :
    countHead b k s = s.onBar b (fun m => { m with headCount := m.headCount + k }) := if_pos hmore

/-- State `s` with no arrival combined at the head. -/
def headCleared (b : Nat) (s : State) : State := s.onBar b (fun m => { m with headCount := 0 })

theorem countHead_passes {b k : Nat} {s : State} (hlast : dimSize s 3 ≤ (s.hub.bar b).headCount + k)
    (hroot : s.dev.link.self ≠ s.dev.link.root) : countHead b k s =
      sendArrival s.dev.link.root b (s.hub.bar b).epoch.toNat (dimSize s 3) (headCleared b s) := by
  rw [countHead, if_neg (by omega)]
  refine (if_neg hroot).trans ?_
  rw [State.onBar_bar]
  rfl

theorem countHead_counts {b k : Nat} {s : State} (hlast : dimSize s 3 ≤ (s.hub.bar b).headCount + k)
    (hroot : s.dev.link.self = s.dev.link.root) : countHead b k s = countRoot b (dimSize s 3) (headCleared b s) := by
  rw [countHead, if_neg (by omega)]
  exact if_pos hroot

theorem countRoot_more {b k : Nat} {s : State} (hmore : (s.hub.bar b).rootCount + k < systemSize s) :
    countRoot b k s = s.onBar b (fun m => { m with rootCount := m.rootCount + k }) := if_pos hmore

/-- Record the root's epoch `e` of a commit barrier (13 R363). -/
def Part.recordRoot (b : Nat) (e : BitVec 32) (p : Part) : Part :=
  match p.commit.desc with
  | some d => if d.cbar = b then { p with commit := { p.commit with root := e, rootOk := true } } else p
  | none => p

/-- Record the root's epoch at the partition that has barrier `b`. -/
def recordRoot (b : Nat) (e : BitVec 32) (s : State) : State :=
  match Map.get 0 s.hub.ownBar b with
  | 0 => s
  | n + 1 => s.onPart n (Part.recordRoot b e)

theorem recordRoot_keeps (b : Nat) (e : BitVec 32) (s : State) : (recordRoot b e s).hub = s.hub ∧ (recordRoot b e s).net = s.net ∧
    (recordRoot b e s).dev = s.dev ∧ (recordRoot b e s).tiles = s.tiles ∧ (recordRoot b e s).mem = s.mem := by
  rw [recordRoot]
  split <;> exact ⟨rfl, rfl, rfl, rfl, rfl⟩

theorem recordRoot_part {b n : Nat} {e : BitVec 32} {s : State} {d : Commit} (hown : Map.get 0 s.hub.ownBar b = n + 1)
    (hdesc : (s.part n).commit.desc = some d) (hbar : d.cbar = b) :
    ((recordRoot b e s).part n).commit.root = e ∧ ((recordRoot b e s).part n).commit.rootOk = true := by
  rw [recordRoot, hown]
  dsimp only
  rw [State.onPart_part, Part.recordRoot, hdesc]
  dsimp only
  rw [if_pos hbar]
  exact ⟨rfl, rfl⟩

/-- The last device is counted: the root's count starts again, and the release starts. -/
theorem countRoot_last {b k : Nat} {s : State} (hlast : systemSize s ≤ (s.hub.bar b).rootCount + k) : countRoot b k s =
    (recordRoot b ((s.hub.bar b).epoch + 1) (s.onBar b (fun m => { m with rootCount := 0 }))).onNet (fun n => { n with sysRel := n.sysRel ++
      [{ b := b, epoch := (s.hub.bar b).epoch + 1, count := 0, port := none, src := s.dev.link.self }] }) := by
  obtain ⟨-, -, hdev, -⟩ := recordRoot_keeps b ((s.hub.bar b).epoch + 1) (s.onBar b (fun m => { m with rootCount := 0 }))
  rw [countRoot, if_neg (by omega)]
  dsimp only
  rw [State.onBar_bar]
  change (recordRoot b _ _).onNet (fun n => { n with sysRel := n.sysRel ++ [{ src := (recordRoot b _ _).dev.link.self, .. }] }) = _
  rw [hdev]
  rfl

/-- From `s`, all that the root's count of barrier `b` rests on is as it was. -/
def KeepsRoot (b : Nat) (s s1 : State) : Prop :=
  s1.dev = s.dev ∧ s1.parts = s.parts ∧ s1.tiles = s.tiles ∧ s1.mem = s.mem ∧ s1.net.sysRel = s.net.sysRel ∧
    s1.hub.ownBar = s.hub.ownBar ∧ (s1.hub.bar b).rootCount = (s.hub.bar b).rootCount ∧ (s1.hub.bar b).epoch = (s.hub.bar b).epoch

theorem arrivalTaken_keepsRoot (b i : Nat) (s : State) : KeepsRoot b s (arrivalTaken i s) := ⟨rfl, rfl, rfl, rfl, rfl, rfl, rfl, rfl⟩

theorem headCleared_keepsRoot {b : Nat} {s s1 : State} (h : KeepsRoot b s s1) : KeepsRoot b s (headCleared b s1) := by
  have hbar : (headCleared b s1).hub.bar b = { s1.hub.bar b with headCount := 0 } := State.onBar_bar ..
  unfold KeepsRoot
  rw [hbar]
  exact h

theorem KeepsRoot.more {b k : Nat} {s s1 : State} (h : KeepsRoot b s s1) (hmore : (s.hub.bar b).rootCount + k < systemSize s) :
    countRoot b k s1 = s1.onBar b (fun m => { m with rootCount := m.rootCount + k }) := by
  obtain ⟨hdev, -, -, -, -, -, hcount, -⟩ := h
  have hsize : systemSize s1 = systemSize s := by rw [systemSize, dims, hdev]; rfl
  exact countRoot_more (by rw [hcount, hsize]; exact hmore)

theorem KeepsRoot.last {b k : Nat} {s s1 : State} (h : KeepsRoot b s s1) (hlast : systemSize s ≤ (s.hub.bar b).rootCount + k) :
    ((countRoot b k s1).hub.bar b).rootCount = 0 ∧ (countRoot b k s1).net.sysRel = s.net.sysRel ++
      [{ b := b, epoch := (s.hub.bar b).epoch + 1, count := 0, port := none, src := s.dev.link.self }] ∧
    (∀ n d, Map.get 0 s.hub.ownBar b = n + 1 → (s.part n).commit.desc = some d → d.cbar = b →
      ((countRoot b k s1).part n).commit.root = (s.hub.bar b).epoch + 1 ∧ ((countRoot b k s1).part n).commit.rootOk = true) ∧
    (countRoot b k s1).tiles = s.tiles ∧ (countRoot b k s1).mem = s.mem := by
  obtain ⟨hdev, hparts, htiles, hmem, hrel, hown, hcount, hepoch⟩ := h
  have hsize : systemSize s1 = systemSize s := by rw [systemSize, dims, hdev]; rfl
  rw [countRoot_last (by rw [hcount, hsize]; exact hlast), hepoch]
  let s2 := s1.onBar b (fun m => { m with rootCount := 0 })
  obtain ⟨hhub', hnet', -, htiles', hmem'⟩ := recordRoot_keeps b ((s.hub.bar b).epoch + 1) s2
  refine ⟨?_, ?_, fun n d hn hdesc hbar => ?_, htiles'.trans htiles, hmem'.trans hmem⟩
  · rw [State.onNet_hub, hhub', State.onBar_bar]
  · rw [State.onNet_net, hnet', ← hrel, ← hdev]; rfl
  · exact recordRoot_part (s := s2) ((congrArg (fun m => Map.get 0 m b) hown).trans hn)
      ((congrArg (fun l => (Map.get {} l n : Part).commit.desc) hparts).trans hdesc) hbar

/-! ### Releases (09 R253, 12 R340) -/

/-- State `s` with the release of `a` sent on. -/
def releaseSent (a : SysPkt) (s : State) : State := (releasePorts s a.port).foldl (sendRelease a.b a.epoch.toNat) s

/-- A release is applied where it is one ahead of a barrier that waits for it, and discarded elsewhere. -/
theorem systemRelease_eq (a : SysPkt) (s : State) : systemRelease a s =
    if ((s.hub.bar a.b).sysWait && decide (a.epoch = (s.hub.bar a.b).epoch + 1)) = true then epochStep a.b (releaseSent a s)
    else discardSys a.port (releaseSent a s) := by
  have hbar : (releaseSent a s).hub.bar a.b = s.hub.bar a.b := by
    rw [releaseSent, Hub.bar, sendReleases_bars]; rfl
  change (if (((releaseSent a s).hub.bar a.b).sysWait && decide (a.epoch = ((releaseSent a s).hub.bar a.b).epoch + 1)) = true
    then epochStep a.b (releaseSent a s) else discardSys a.port (releaseSent a s)) = _
  rw [hbar]

theorem systemRelease_steps {a : SysPkt} {s : State} (hwait : (s.hub.bar a.b).sysWait = true)
    (hnext : a.epoch = (s.hub.bar a.b).epoch + 1) : systemRelease a s = epochStep a.b (releaseSent a s) := by
  rw [systemRelease_eq, if_pos (by rw [hwait, decide_eq_true hnext]; rfl)]

theorem systemRelease_discards {a : SysPkt} {s : State}
    (hstale : (s.hub.bar a.b).sysWait = false ∨ a.epoch ≠ (s.hub.bar a.b).epoch + 1) :
    systemRelease a s = discardSys a.port (releaseSent a s) := by
  rw [systemRelease_eq, if_neg]
  rcases hstale with h | h
  · simp [h]
  · rw [decide_eq_false h]; simp

/-- A barrier whose epoch has stepped, its release due at the tiles of `l` (09 R251). -/
def BarSt.stepped (l : List Nat) (m : BarSt) : BarSt :=
  { m with epoch := m.epoch + 1, rows := 0, sysWait := false, due := m.due ++ l }

theorem epochStep_bar (b : Nat) (s : State) : ∃ l, (epochStep b s).hub.bar b = (s.hub.bar b).stepped l := by
  rw [epochStep, eventPulse_hub]
  split
  · exact ⟨_, State.onBar_bar ..⟩
  · rw [signalRelease_hub]; exact ⟨_, State.onBar_bar ..⟩

/-! ### Packets of a barrier -/

/-- The fields of a barrier packet's header: barrier, epoch and count (12 R339). -/
theorem barHdr_fields {b e n : Nat} (hb : b < 256) (he : e < 2 ^ 32) (hn : n < 2 ^ 16) :
    fld (barHdr b e n).toNat 0 8 = b ∧ fld (barHdr b e n).toNat 8 32 = e ∧ fld (barHdr b e n).toNat 40 16 = n ∧
      fld (barHdr b e n).toNat 0 40 = b + e * 2 ^ 8 := by
  have hnat : (barHdr b e n).toNat = b + e * 2 ^ 8 + n * 2 ^ 40 := by
    rw [barHdr, BitVec.toNat_ofNat]; omega
  simp only [hnat, fld]
  omega

/-- An arrival joins one at the head of the same egress that is of the same barrier, epoch and destination. -/
theorem mergeArrival_barPacket {s : State} {k b e n n' dst : Nat} {q q' : Packet} {l : List (Nat × Packet)} (hb : b < 256)
    (he : e < 2 ^ 32) (hsum : n + n' < 2 ^ 16) (hq : q = { barPacket s 9 dst b e n with src := q.src, dl := q.dl })
    (hq' : q' = { barPacket s 9 dst b e n' with src := q'.src, dl := q'.dl }) :
    mergeArrival (k, q') ((k, q) :: l) = (k, { q with hdr := barHdr b e (n + n') }) :: l := by
  obtain ⟨hbar, hepoch, hcount, hkey⟩ := barHdr_fields hb he (show n < 2 ^ 16 by omega)
  obtain ⟨-, -, hcount', hkey'⟩ := barHdr_fields hb he (show n' < 2 ^ 16 by omega)
  rw [hq, hq']
  simp [mergeArrival, barPacket, hbar, hepoch, hcount, hkey, hcount', hkey']

/-- Settles O35: each event by the way its packet goes. -/
theorem systemBarrierPackets : Obligations.SystemBarrierPackets := by
  unfold Obligations.SystemBarrierPackets
  intro s i a htrip b m self root discarded
  refine ⟨fun hholds => ⟨systemArrival_held htrip hholds i, systemRelease_held htrip hholds i⟩, fun hholds harr => ?_,
    fun k e n n' dst q q' l hb he hsum hq hq' => mergeArrival_barPacket hb he hsum hq hq', fun hholds hrel => ?_⟩
  · intro s0 goes counts
    have hrun {x : State} (h : systemArrival a s0 = x) : exec (.systemArrival i) s = .next x :=
      (systemArrival_run htrip hholds harr).trans (congrArg _ h)
    have goes_of {dst k : Nat} {s1 : State} (h : systemArrival a s0 = sendArrival dst b m.epoch.toNat k s1) : goes dst k s1 :=
      ⟨fun r hr => hrun (h.trans (by rw [sendArrival, hr])), fun p hp => hrun (h.trans (by rw [sendArrival, hp]))⟩
    have counts_of {k : Nat} {s1 : State} (hkeeps : KeepsRoot b s s1) (h : systemArrival a s0 = countRoot b k s1) : counts k s1 :=
      ⟨fun hmore => hrun (h.trans (hkeeps.more hmore)), fun hlast => ⟨_, hrun h, hkeeps.last hlast⟩⟩
    have htaken := arrivalTaken_keepsRoot b i s
    refine ⟨fun hport hepoch => hrun (systemArrival_stale hport hepoch), fun hport hepoch hhead => ?_,
      fun hport hhead => hrun (systemArrival_noHead hport hhead), fun hnow hhead hline => ?_, fun hnow hhead hline => ?_⟩
    · exact goes_of ((systemArrival_toHead (s := s0) hport hhead).trans (by rw [hepoch]; rfl))
    · have hcounts := systemArrival_myLine (s := s0) hnow hhead hline
      exact ⟨fun hmore => hrun (hcounts.trans (countHead_more hmore)),
        fun hlast hroot => goes_of (hcounts.trans (countHead_passes hlast hroot)),
        fun hlast hroot => counts_of (headCleared_keepsRoot htaken) (hcounts.trans (countHead_counts hlast hroot))⟩
    · exact ⟨fun hroot => counts_of htaken (systemArrival_atRoot hnow hhead hline hroot),
        fun hroot => hrun (systemArrival_strange hnow hhead hline hroot)⟩
  · intro s0 sent
    have hrun {x : State} (h : systemRelease a s0 = x) : exec (.systemRelease i) s = .next x :=
      (systemRelease_run htrip hholds hrel).trans (congrArg _ h)
    refine ⟨fun hwait hnext => ?_, fun hstale => hrun (systemRelease_discards hstale)⟩
    have hstep := hrun (systemRelease_steps (s := s0) hwait hnext)
    refine ⟨hstep, fun hleaf => ?_⟩
    have hsent : releaseSent a s0 = s0 := by
      unfold releaseSent; rw [hleaf]; rfl
    rw [hsent] at hstep
    obtain ⟨l, hbar⟩ := epochStep_bar b s0
    exact ⟨_, hstep, by rw [hbar, hnext]; rfl, by rw [hbar]; rfl, by rw [hbar]; rfl, epochStep_tiles b s0⟩

end Sys2Proof.Machine

/-!
SUPPORT. What a port sends, and the port states while packets leave or cannot be delivered (12 R314–R331; 16 R449).
-/
namespace Sys2Proof.Machine

/-! ### Updates of a port -/

theorem State.onPort_congr {p : Nat} {f g : PortSt → PortSt} {s : State} (h : f (s.port p) = g (s.port p)) :
    s.onPort p f = s.onPort p g := by
  change { s with ports := Map.set {} s.ports p (f (s.port p)) } = { s with ports := Map.set {} s.ports p (g (s.port p)) }
  rw [h]

theorem State.port_onPort (s : State) (p q : Nat) (f : PortSt → PortSt) :
    (s.onPort p f).port q = if q = p then f (s.port p) else s.port q := by
  split
  · next h => rw [h, State.onPort_port]
  · next h => exact State.onPort_port_ne s p f h

/-! ### What a port sends (12 R317, R318, R322) -/

/-- From `x`, a port has only sent packets: its egress, its flits and its turns have changed. -/
def PortSt.Sends (x y : PortSt) : Prop :=
  y = { x with egress := y.egress, wire := y.wire, nextSeq := y.nextSeq, replay := y.replay, sent := y.sent, tx := y.tx,
               turn := y.turn, bal := y.bal, rrCls := y.rrCls }

theorem PortSt.Sends.refl (x : PortSt) : x.Sends x := rfl

theorem PortSt.Sends.trans {x y z : PortSt} (h : x.Sends y) (h' : y.Sends z) : x.Sends z :=
  Eq.trans h' (by rw [h])

theorem PortSt.Sends.st {x y : PortSt} (h : x.Sends y) : y.st = x.st :=
  (congrArg PortSt.st h :)

/-- The port that an egress has chosen a packet of has taken turns at most. -/
theorem nextEgress_sends {hold : Bool} {w : Nat → Nat} {x y : PortSt} {i : Nat} (h : nextEgress hold w x = some (i, y)) :
    x.Sends y ∧ y.egress = x.egress := by
  unfold nextEgress at h
  dsimp only at h
  split at h
  · cases h; exact ⟨rfl, rfl⟩
  · cases h; exact ⟨rfl, rfl⟩
  · split at h
    · cases h
    · obtain ⟨e, -, he⟩ := Option.map_eq_some_iff.mp h
      cases he
      exact ⟨rfl, rfl⟩

theorem drainPort_sends (hold : Bool) (w : Nat → Nat) (fuel : Nat) (x : PortSt) : x.Sends (drainPort hold w fuel x) := by
  induction fuel generalizing x with
  | zero => exact .refl x
  | succ fuel ih =>
    rw [drainPort]
    split
    · exact .refl x
    · next i y hnext =>
      have hturn := (nextEgress_sends hnext).1
      split
      · exact hturn
      · next e _ => exact hturn.trans (PortSt.Sends.trans (y := transmit e { y with egress := dropAt i y.egress }) rfl (ih _))

theorem drain_port (p : Nat) (s : State) : (s.port p).Sends ((drain p s).port p) := by
  rw [drain, State.onPort_port]
  exact drainPort_sends ..

theorem drain_port_ne {p q : Nat} (s : State) (h : q ≠ p) : (drain p s).port q = s.port q := State.onPort_port_ne s p _ h

/-- A port at which nothing waits sends nothing. -/
theorem drain_empty {p : Nat} {s : State} (h : (s.port p).egress = []) : (drain p s).port p = s.port p := by
  rw [drain, State.onPort_port, h]
  rfl

/-! ### The level -/

theorem foldl_ports {α : Type} (g : State → α → State) (l : List α) (h : ∀ s x, (g s x).ports = s.ports) (s : State) :
    (l.foldl g s).ports = s.ports :=
  List.foldlRecOn (motive := fun s' : State => s'.ports = s.ports) l g rfl (fun s' hs x _ => (h s' x).trans hs)

theorem raiseRec_ports (r : Rec) (s : State) : (raiseRec r s).ports = s.ports := by
  simp [raiseRec, apply_ite State.ports]

theorem raiseCause_ports (k i : Nat) (s : State) : (raiseCause k i s).ports = s.ports := by
  simp [raiseCause, signalMsi, apply_ite State.ports]

theorem updateLevel_ports (s : State) : (updateLevel s).ports = s.ports := by
  have hcause (i : Nat) (s : State) : (causeAll i s).ports = s.ports := foldl_ports _ _ (fun s k => raiseCause_ports k i s) s
  simp [updateLevel, apply_ite State.ports, hcause, raiseRec_ports]

theorem updateLevel_port (s : State) (p : Nat) : (updateLevel s).port p = s.port p :=
  congrArg (fun m : SMap PortSt => Map.get ({} : PortSt) m p) (updateLevel_ports s)

/-! ### Port states -/

/-- The states of the ports (12 R343). -/
def State.portSts (s : State) : Nat → Nat := fun p => (s.port p).st

theorem portSts_of_ports {s s' : State} (h : s'.ports = s.ports) : s'.portSts = s.portSts := by
  unfold State.portSts State.port
  rw [h]

theorem foldl_portSts {α : Type} (g : State → α → State) (l : List α) (h : ∀ s x, (g s x).portSts = s.portSts) (s : State) :
    (l.foldl g s).portSts = s.portSts :=
  List.foldlRecOn (motive := fun s' : State => s'.portSts = s.portSts) l g rfl (fun s' hs x _ => (h s' x).trans hs)

/-- A change of a port that leaves its state. -/
theorem State.onPort_portSts (s : State) (p : Nat) {f : PortSt → PortSt} (h : ∀ x, (f x).st = x.st) :
    (s.onPort p f).portSts = s.portSts := by
  funext q
  rw [State.portSts, State.port_onPort]
  split
  · next e => rw [h, e]; rfl
  · rfl

theorem drain_portSts (p : Nat) (s : State) : (drain p s).portSts = s.portSts :=
  State.onPort_portSts s p (fun x => (drainPort_sends _ _ _ x).st)

theorem enqueue_portSts (p k : Nat) (q : Packet) (s : State) : (enqueue p k q s).portSts = s.portSts :=
  (drain_portSts p _).trans (State.onPort_portSts s p (fun _ => rfl))

theorem sendOut_portSts {f : Nat} {dl : Bool} {q : Packet} {s s' : State} (h : sendOut f dl q s = some s') :
    s'.portSts = s.portSts := by
  unfold sendOut at h
  dsimp only at h
  split at h
  · cases h; rfl
  · split at h
    · cases h; exact enqueue_portSts ..
    · split at h
      · split at h
        · cases h; exact enqueue_portSts ..
        · cases h
      · cases h

theorem originate_portSts {q : Packet} {s s' : State} (h : originate q s = .ok s') : s'.portSts = s.portSts := by
  unfold originate routeOut at h
  split at h
  · cases h; rfl
  · dsimp only at h
    split at h
    · next hs => cases h; exact sendOut_portSts hs
    · cases h

/-! ### A packet that cannot be delivered (12 R330) -/

theorem stopTile_ports (t : Nat) (s : State) : (stopTile t s).ports = s.ports := by
  obtain ⟨⟨-, -, -, hports, -⟩, -⟩ := stopTile_frame t s
  exact hports

theorem tileFault_ports (t : Nat) (fi : FaultInfo) (s : State) : (tileFault t fi s).ports = s.ports := by
  simp [tileFault, apply_ite State.ports, raiseRec_ports, stopTile_ports]

theorem touchWrite_ports (a n : Nat) (s : State) (own : Bool) : (touchWrite a n s own).ports = s.ports := by
  rw [touchWrite]
  dsimp only
  split <;> rfl

theorem writeShared_ports (a : Nat) (bs : Bytes) (s : State) (own : Bool) : (writeShared a bs s own).ports = s.ports :=
  touchWrite_ports a bs.length s own

/-- A reduction that stops leaves its command's context and its destination changed, and the ports' states. -/
theorem stopRing_portSts (k : Ring) (s : State) : (stopRing k s).portSts = s.portSts := by
  rw [stopRing]
  refine (foldl_portSts _ _ (fun s i => ?_) _).trans (State.onPort_portSts s k.p (fun _ => rfl))
  exact portSts_of_ports (writeShared_ports ..)

theorem freeSlot_ports (t k : Nat) (s : State) : (freeSlot t k s).ports = s.ports := by
  simp [freeSlot, wakeSend, onSend, State.onMail, wakeFences, apply_ite State.ports]

theorem settleFar_ports (port : Option Nat) (txn : Nat) (v : MemReq → MemRes) (s : State) :
    (settleFar port txn v s).ports = s.ports := by
  unfold settleFar
  split <;> rfl

theorem unreachAt_portSts (t dst port kind tag : Nat) (s : State) : (unreachAt t dst port kind tag s).portSts = s.portSts := by
  unfold unreachAt
  dsimp only
  split
  case h_1 =>
    split
    · exact portSts_of_ports (by simp [stopList, onList, apply_ite State.ports, tileFault_ports])
    · exact portSts_of_ports (tileFault_ports ..)
  case h_2 =>
    split
    · exact portSts_of_ports ((tileFault_ports ..).trans (freeSlot_ports ..))
    · exact portSts_of_ports (tileFault_ports ..)
  case h_3 | h_4 => exact portSts_of_ports (settleFar_ports ..)
  case h_5 =>
    split
    · exact (portSts_of_ports (tileFault_ports ..)).trans (stopRing_portSts ..)
    · exact portSts_of_ports (tileFault_ports ..)
  all_goals exact portSts_of_ports (tileFault_ports ..)

theorem undeliverable_portSts (port : Nat) (q : Packet) (s : State) : (undeliverable port q s).portSts = s.portSts := by
  unfold undeliverable
  split
  · rfl
  · split
    · exact unreachAt_portSts ..
    · split
      · next h => exact originate_portSts h
      · rfl

theorem giveUp_portSts (p : Nat) (s : State) : (giveUp p s).portSts = s.portSts :=
  (foldl_portSts _ _ (fun s q => undeliverable_portSts p q s) _).trans (State.onPort_portSts s p (fun _ => rfl))

theorem overDetour_portSts (f g k : Nat) (q : Packet) (s : State) : (overDetour f g k q s).portSts = s.portSts := by
  unfold overDetour
  split
  · exact undeliverable_portSts ..
  · split
    · rfl
    · exact enqueue_portSts ..

theorem reroute_portSts (p g : Nat) (s : State) : (reroute p g s).portSts = s.portSts :=
  (foldl_portSts _ _ (fun s _ => overDetour_portSts p g _ _ s) _).trans
    ((foldl_portSts _ _ (fun s _ => overDetour_portSts p g _ _ s) _).trans (State.onPort_portSts s p (fun _ => rfl)))

theorem releaseSys_portSts (s : State) : (releaseSys s).portSts = s.portSts := by
  unfold releaseSys
  split
  · rfl
  · refine (foldl_portSts _ _ (fun s p => ?_) _).trans ((foldl_portSts _ _ (fun s e => ?_) _).trans rfl)
    · split
      · rfl
      · exact drain_portSts p s
    · cases h : sendOut e.1 e.2.dl e.2 s with
      | none => exact undeliverable_portSts ..
      | some s' => exact sendOut_portSts h

end Sys2Proof.Machine

/-!
SUPPORT. Training, flits, stalls and detours of a port (12 R310–R331); O45.
-/
namespace Sys2Proof.Machine

/-! ### Ports that send what waits (12 R324, R331) -/

/-- From `s`, ports have only sent: memory and tiles are as they were, and so is a port at which nothing waited. -/
def Drains (s s' : State) : Prop :=
  s'.mem = s.mem ∧ s'.tiles = s.tiles ∧
    ∀ p, (s.port p).Sends (s'.port p) ∧ ((s.port p).egress = [] → s'.port p = s.port p)

theorem Drains.refl (s : State) : Drains s s := ⟨rfl, rfl, fun _ => ⟨.refl _, fun _ => rfl⟩⟩

theorem Drains.trans {x y z : State} (h : Drains x y) (h' : Drains y z) : Drains x z := by
  obtain ⟨hmem, htiles, hports⟩ := h
  obtain ⟨hmem', htiles', hports'⟩ := h'
  refine ⟨hmem'.trans hmem, htiles'.trans htiles, fun p => ?_⟩
  obtain ⟨hsends, hempty⟩ := hports p
  obtain ⟨hsends', hempty'⟩ := hports' p
  exact ⟨hsends.trans hsends', fun h => (hempty' (by rw [hempty h, h])).trans (hempty h)⟩

theorem drain_drains (p : Nat) (s : State) : Drains s (drain p s) := by
  refine ⟨drain_mem p s, drain_tiles p s, fun q => ?_⟩
  by_cases h : q = p
  · rw [h]; exact ⟨drain_port p s, drain_empty⟩
  · rw [drain_port_ne s h]; exact ⟨.refl _, fun _ => rfl⟩

/-- Where the link switch holds nothing, its release lets the ports send. -/
theorem releaseSys_drains {s : State} (hheld : s.dev.link.sysHeld = []) : Drains s (releaseSys s) := by
  unfold releaseSys
  split
  · exact .refl s
  · rw [hheld]
    refine List.foldlRecOn (motive := fun s' : State => Drains s s') _ _ ⟨rfl, rfl, fun _ => ⟨rfl, fun _ => rfl⟩⟩ (fun s' hs p _ => ?_)
    split
    · exact hs
    · exact hs.trans (drain_drains p s')

/-! ### Packets that take a detour (12 R328, R329) -/

theorem holdsSys_congr {s s' : State} (h : s'.portSts = s.portSts) : holdsSys s' = holdsSys s := by
  have hst (p : Nat) : (s'.port p).st = (s.port p).st := congrFun h p
  simp only [holdsSys, hst]

theorem legOpen_congr {s s' : State} (h : s'.portSts = s.portSts) (g : Nat) : legOpen s' g = legOpen s g := by
  have hst : (s'.port g).st = (s.port g).st := congrFun h g
  rw [legOpen, legOpen, hst]

/-- From `s`, packets have left over detours of port `p`: the port itself, memory, tiles and the port states are as they were, and
the link switch holds no more unless it must. -/
def Detours (p : Nat) (s s' : State) : Prop :=
  s'.mem = s.mem ∧ s'.tiles = s.tiles ∧ s'.port p = s.port p ∧ s'.portSts = s.portSts ∧
    (holdsSys s = false → s'.dev.link.sysHeld = s.dev.link.sysHeld)

theorem Detours.refl (p : Nat) (s : State) : Detours p s s := ⟨rfl, rfl, rfl, rfl, fun _ => rfl⟩

theorem Detours.portSts {p : Nat} {s s' : State} (h : Detours p s s') : s'.portSts = s.portSts := by
  obtain ⟨-, -, -, hsts, -⟩ := h
  exact hsts

theorem Detours.trans {p : Nat} {x y z : State} (h : Detours p x y) (h' : Detours p y z) : Detours p x z := by
  obtain ⟨hmem, htiles, hport, hsts, hheld⟩ := h
  obtain ⟨hmem', htiles', hport', hsts', hheld'⟩ := h'
  exact ⟨hmem'.trans hmem, htiles'.trans htiles, hport'.trans hport, hsts'.trans hsts,
    fun hno => (hheld' ((holdsSys_congr hsts).trans hno)).trans (hheld hno)⟩

section Detour
variable {p g : Nat} {s : State} (hg : g ≠ p) (hopen : legOpen s g = true)
include hg hopen

theorem overDetour_detours {k : Nat} (hk : k ≠ 5) (q : Packet) : Detours p s (overDetour p g k q s) := by
  rw [overDetour, if_neg (by simp [hk, hopen])]
  split
  · next h => exact ⟨rfl, rfl, rfl, rfl, fun hno => by simp [hno] at h⟩
  · refine ⟨enqueue_mem .., enqueue_tiles .., ?_, enqueue_portSts .., fun _ => rfl⟩
    rw [enqueue, drain_port_ne _ hg.symm, State.onPort_port_ne _ _ _ hg.symm]

/-- Packets, none of which is on a detour of its own, take the detour one after another. -/
theorem overDetours_detours {α : Type} (cls : α → Nat) (pkt : α → Packet) {l : List α} (hl : ∀ x ∈ l, cls x ≠ 5) :
    Detours p s (l.foldl (fun s x => overDetour p g (cls x) (pkt x) s) s) := by
  refine List.foldlRecOn (motive := fun s' : State => Detours p s s') l _ (.refl p s) (fun s' hs x hx => ?_)
  exact hs.trans (overDetour_detours hg ((legOpen_congr hs.portSts g).trans hopen) (hl x hx) _)

end Detour

/-- State `s` with port `p` cleared of what it has sent and of what waits there. -/
def portCleared (p : Nat) (s : State) : State := s.onPort p (fun x => { x with replay := [], egress := [] })

theorem reroute_detours {p g : Nat} {s : State} (hg : g ≠ p) (hopen : legOpen s g = true)
    (hreplay : ∀ r ∈ (s.port p).replay, r.cls ≠ 5) (hegress : ∀ e ∈ (s.port p).egress, e.1 ≠ 5) :
    Detours p (portCleared p s) (reroute p g s) := by
  have hcleared : (portCleared p s).portSts = s.portSts := State.onPort_portSts s p (fun _ => rfl)
  have hopen' : legOpen (portCleared p s) g = true := (legOpen_congr hcleared g).trans hopen
  have hfirst := overDetours_detours hg hopen' (fun r : Replay => r.cls)
    (fun r => { r.pkt with dup := true, origPort := p, origSeq := r.lastSeq }) hreplay
  exact hfirst.trans (overDetours_detours hg ((legOpen_congr hfirst.portSts g).trans hopen') (fun e : Nat × Packet => e.1)
    (fun e => e.2) hegress)

/-! ### Training (12 R310, R311, R314) -/

/-- Port `p` while it trains with partner `a`: its TRAIN flit is sent and the neighbour is known. -/
def trainPort (p : Nat) (a : Partner) (s : State) : State :=
  (s.onPort p (sendTrain s.dev.link.self p (s.dev.link.lowLat.getLsbD p))).onPort p
    (fun x => { x with nbrDev := a.dev % 2 ^ 16, nbrPort := a.port % 8 })

/-- A port that comes up with some lanes: its sequence numbers, credits and buffers start anew (12 R314). -/
def PortSt.fresh (lanes : Nat) (x : PortSt) : PortSt :=
  { x with st := pUp, lanes := min lanes 4, nextSeq := 0, acked := 0xFFF#12, expSeq := 0, heard := false,
           nak := false, naks := 0, sent := [], ccIn := [], freed := [], partial' := [] }

theorem trainPort_port (p : Nat) (a : Partner) (s : State) : (trainPort p a s).port p =
    { sendTrain s.dev.link.self p (s.dev.link.lowLat.getLsbD p) (s.port p) with nbrDev := a.dev % 2 ^ 16, nbrPort := a.port % 8 } := by
  rw [trainPort, State.onPort_port, State.onPort_port]

theorem trainPort_keeps (p : Nat) (a : Partner) (s : State) : (trainPort p a s).mem = s.mem ∧ (trainPort p a s).tiles = s.tiles := by
  simp [trainPort]

section Training
variable {s : State} {p : PortId} {a : Partner} (htrip : s.dev.boot.trip = false) (htrain : canTrain s p = true)
include htrip htrain

theorem portTraining_noTiles (htiles : (s.port p).noTiles = true) :
    exec (.portTraining p a) s = .next (updateLevel (markDown p s)) := by
  refine congrArg Host.Outcome.next ((selfTimed_run htrip).trans ?_)
  simp only [htrain, htiles, Bool.not_true, Bool.false_eq_true, if_false, if_true]

theorem portTraining_up (htiles : (s.port p).noTiles = false)
    (hpartner : a.dev = neighbour s p ∧ a.port = oppositePort p ∧ a.lowLatency = s.dev.link.lowLat.getLsbD p) (hlanes : 2 ≤ a.lanes) :
    exec (.portTraining p a) s = .next (updateLevel (drain p ((trainPort p a s).onPort p (PortSt.fresh a.lanes)))) := by
  refine congrArg Host.Outcome.next ((selfTimed_run htrip).trans (congrArg updateLevel ?_))
  rw [if_neg (by simp [htrain]), if_neg (by simp [htiles])]
  refine (if_neg ?_).trans (if_neg (Nat.not_lt.mpr hlanes))
  obtain ⟨hdev, hport, hlow⟩ := hpartner
  rintro (h | h | h)
  · exact h hdev
  · exact h hport
  · exact h hlow

theorem portTraining_mismatch (htiles : (s.port p).noTiles = false)
    (hpartner : a.dev ≠ neighbour s p ∨ a.port ≠ oppositePort p ∨ a.lowLatency ≠ s.dev.link.lowLat.getLsbD p) :
    exec (.portTraining p a) s = .next (updateLevel (mismatch p (trainPort p a s))) := by
  refine congrArg Host.Outcome.next ((selfTimed_run htrip).trans (congrArg updateLevel ?_))
  rw [if_neg (by simp [htrain]), if_neg (by simp [htiles])]
  exact if_pos hpartner

end Training

/-- A port with the wrong partner is in MISMATCH, whatever becomes of its packets. -/
theorem mismatch_st (p : Nat) (s : State) : ((mismatch p s).port p).st = pMismatch := by
  let s1 := s.onPort p (fun x => { x with st := pMismatch })
  have hsts : (mismatch p s).portSts = s1.portSts := by
    rw [mismatch, releaseSys_portSts]
    split
    · exact reroute_portSts ..
    · exact giveUp_portSts ..
  exact (congrFun hsts p).trans (congrArg PortSt.st (State.onPort_port ..))

/-- Where nothing waits at the port, the wrong partner changes no memory and no tile. -/
theorem mismatch_quiet {p : Nat} {s : State} (hegress : (s.port p).egress = []) (hreplay : (s.port p).replay = [])
    (hheld : s.dev.link.sysHeld = []) : (mismatch p s).mem = s.mem ∧ (mismatch p s).tiles = s.tiles := by
  let s1 := s.onPort p (fun x => { x with st := pMismatch })
  have hport : s1.port p = { s.port p with st := pMismatch } := State.onPort_port ..
  have hcleared : mismatch p s = releaseSys (portCleared p s1) := by
    rw [mismatch]
    split
    · rw [reroute, hport]; simp only [hegress, hreplay]; rfl
    · rw [giveUp, hport]; simp only [hegress, hreplay]; rfl
  obtain ⟨hmem, htiles, -⟩ := releaseSys_drains (s := portCleared p s1) hheld
  rw [hcleared]
  exact ⟨hmem.trans (by simp [portCleared, s1]), htiles.trans (by simp [portCleared, s1])⟩

/-! ### Flits (12 R316, R317, R324) -/

/-- State `s` with the symbols counted that the FEC corrected (12 R343). -/
def fecCounted (p : Nat) (fec : Option Nat) (s : State) : State :=
  s.onPort p (countPort (fun k => { k with fecCorr := satAdd 64 k.fecCorr (fec.getD 0) }))

/-- State `s` after a good flit's header is heard: what it gives credit for has gone. -/
def flitHeard (p : Nat) (fec : Option Nat) (h : FlitHead) (s : State) : State :=
  drain p ((fecCounted p fec s).onPort p (hearHeader h))

/-- What a port has received in order. -/
def PortSt.received (x : PortSt) : BitVec 12 × SMap Bytes × Word := (x.expSeq, x.partial', x.rx)

theorem PortSt.received_eq_iff {x y : PortSt} :
    y.received = x.received ↔ y.expSeq = x.expSeq ∧ y.partial' = x.partial' ∧ y.rx = x.rx := by
  simp only [PortSt.received, Prod.mk.injEq]

theorem PortSt.Sends.received {x y : PortSt} (h : x.Sends y) : y.received = x.received :=
  (congrArg PortSt.received h :)

theorem replayAll_received (x : PortSt) : (replayAll x).received = x.received := by
  rw [replayAll]
  split <;> rfl

theorem hearHeader_received (h : FlitHead) (x : PortSt) : (hearHeader h x).received = x.received := by
  have hack : (if h.ackv then takeAck h.ack x else x).received = x.received := by split <;> rfl
  change (if h.nak then replayAll (if h.ackv then takeAck h.ack x else x) else if h.ackv then takeAck h.ack x else x).received = _
  split
  · rw [replayAll_received, hack]
  · exact hack

theorem flitHeard_received (p : Nat) (fec : Option Nat) (h : FlitHead) (s : State) :
    ((flitHeard p fec h s).port p).received = (s.port p).received := by
  have hsends : ((flitHeard p fec h s).port p).received = (((fecCounted p fec s).onPort p (hearHeader h)).port p).received :=
    (drain_port p _).received
  rw [hsends, State.onPort_port, hearHeader_received, fecCounted, State.onPort_port]
  rfl

theorem sendIdle_received (x : PortSt) : (sendIdle x).received = x.received := rfl

/-- A port that accepts a flit of `n` lines (12 R317). -/
def PortSt.accept (n : Nat) (x : PortSt) : PortSt :=
  { x with expSeq := x.expSeq + 1, heard := true, nak := false, naks := 0, rx := x.rx + BitVec.ofNat 64 n }

/-- A port that keeps the lines `d` of a class's unfinished packet. -/
def PortSt.keepLines (k : Nat) (d : Bytes) (x : PortSt) : PortSt := { x with partial' := Map.set [] x.partial' k d }

theorem takeFlit_outOfOrder {p : Nat} {h : FlitHead} {b : Bytes} {s : State} (hseq : h.seq ≠ (s.port p).expSeq) :
    takeFlit p h b s = s := if_pos (.inl hseq)

/-- The expected flit whose lines leave the packet unfinished. -/
theorem takeFlit_keeps {p : Nat} {h : FlitHead} {b got : Bytes} {s : State} (hseq : h.seq = (s.port p).expSeq) (hcls : h.cls < 6)
    (hlines : 1 ≤ h.lines ∧ h.lines ≤ 4)
    (hgot : Map.get [] (s.port p).partial' h.cls ++ (List.range h.lines).flatMap (flitLine b) = got)
    (hpart : packetWhole got = false) :
    takeFlit p h b s = (s.onPort p (PortSt.accept h.lines)).onPort p (PortSt.keepLines h.cls got) := by
  have hport : ((s.onPort p (PortSt.accept h.lines)).port p).partial' = (s.port p).partial' := by
    rw [State.onPort_port]; rfl
  rw [takeFlit, if_neg (by simp [hseq]; omega)]
  change takeLines p h.cls _ (s.onPort p (PortSt.accept h.lines)) = _
  rw [takeLines, hport, hgot]
  exact if_neg (by simp [hpart])

theorem flitHeard_keeps (p : Nat) (fec : Option Nat) (h : FlitHead) (s : State) :
    (flitHeard p fec h s).mem = s.mem ∧ (flitHeard p fec h s).tiles = s.tiles ∧ (flitHeard p fec h s).net = s.net := by
  simp [flitHeard, fecCounted, drain]

/-- A flit is refused where it gave no codeword or its CRC is wrong (12 R316). -/
theorem flitRefused_eq (fec : Option Nat) (crcOk : Bool) : (fec.isNone || !crcOk) = !(fec.isSome && crcOk) := by
  cases fec <;> rfl

section Flit
variable {s : State} {p : PortId} {fec : Option Nat} {b : Bytes} (htrip : s.dev.boot.trip = false) (hup : (s.port p).st = pUp)
include htrip hup

theorem flitReceived_discards (hbad : (fec.isSome && flitCrcOk b) = false) :
    exec (.flitReceived p fec b .none) s = .next ((fecCounted p fec s).onPort p (discardFlit fec.isSome)) := by
  refine congrArg Host.Outcome.next ((selfTimed_run htrip).trans ((if_neg (by simp [strike, hup])).trans (if_pos ?_)))
  rw [flitRefused_eq, hbad]
  rfl

theorem flitReceived_data (hgood : (fec.isSome && flitCrcOk b) = true) (hdata : (flitHead b).ftype = 0) :
    exec (.flitReceived p fec b .none) s =
      .next ((takeFlit p (flitHead b) b (flitHeard p fec (flitHead b) s)).onPort p sendIdle) := by
  refine congrArg Host.Outcome.next ((selfTimed_run htrip).trans ((if_neg (by simp [strike, hup])).trans ((if_neg ?_).trans (if_pos hdata))))
  rw [flitRefused_eq, hgood]
  decide

end Flit

/-! ### Stalls, retraining and detours (12 R317, R321, R327–R330) -/

/-- A port that stalls retrains; both are counted (12 R327, R343). -/
def PortSt.stall (x : PortSt) : PortSt :=
  countPort (fun k => { k with stalls := satAdd 32 k.stalls 1, retrains := satAdd 32 k.retrains 1 }) { x with st := pRetrain }

/-- A port that is up again with some lanes replays (12 R327). -/
def PortSt.retrained (lanes : Nat) (x : PortSt) : PortSt := replayAll { x with st := pUp, lanes := min lanes 4 }

theorem PortSt.retrained_fields (lanes : Nat) (x : PortSt) :
    (x.retrained lanes).st = pUp ∧ (x.retrained lanes).lanes = min lanes 4 := by
  unfold PortSt.retrained replayAll
  split <;> exact ⟨rfl, rfl⟩

section Events
variable {s : State} {p : PortId} (htrip : s.dev.boot.trip = false)
include htrip

theorem nakRepeat_run (hup : (s.port p).st = pUp) (hnak : (s.port p).nak = true) :
    exec (.nakRepeat p) s = .next (s.onPort p (fun x => sendIdle { x with naks := x.naks + 1 })) :=
  congrArg Host.Outcome.next ((selfTimed_run htrip).trans (State.onPort_congr (if_pos ⟨hup, hnak⟩)))

theorem linkStall_run (hup : (s.port p).st = pUp) : exec (.linkStall p) s = .next (updateLevel (s.onPort p PortSt.stall)) :=
  congrArg Host.Outcome.next ((selfTimed_run htrip).trans (congrArg updateLevel (State.onPort_congr (if_neg (not_not.mpr hup)))))

theorem retrainEnd_up {lanes : Nat} (hst : (s.port p).st = pRetrain) (hlanes : 2 ≤ lanes) :
    exec (.retrainEnd p true lanes) s = .next (updateLevel (releaseSys (drain p (s.onPort p (PortSt.retrained lanes))))) :=
  congrArg Host.Outcome.next ((selfTimed_run htrip).trans (congrArg updateLevel
    ((if_neg (not_not.mpr hst)).trans (if_neg (by simp; omega)))))

theorem retrainEnd_down {ok : Bool} {lanes : Nat} (hst : (s.port p).st = pRetrain) (hfails : ok = false ∨ lanes < 2) :
    exec (.retrainEnd p ok lanes) s = .next (updateLevel (markDown p s)) :=
  congrArg Host.Outcome.next ((selfTimed_run htrip).trans (congrArg updateLevel
    ((if_neg (not_not.mpr hst)).trans (if_pos (by simpa using hfails)))))

theorem detourLive_run {g : Nat} (hst : (s.port p).st = pSetup) (hdetour : detourOf s p = some g) (hopen : legOpen s g = true) :
    exec (.detourLive p) s =
      .next (updateLevel (releaseSys (reroute p g (s.onPort p (fun x => { x with st := pDetoured }))))) := by
  refine congrArg Host.Outcome.next ((selfTimed_run htrip).trans (congrArg updateLevel ((if_neg (not_not.mpr hst)).trans ?_)))
  rw [hdetour]
  dsimp only
  rw [hopen]
  rfl

end Events

/-- A port whose packets have a way is cleared once its detour is live, and no memory and no tile changes: what the link switch
holds of them stays held. -/
theorem reroute_released {p g : Nat} {s : State} (hg : g ≠ p) (hopen : legOpen s g = true) (hheld : s.dev.link.sysHeld = [])
    (hegress : ∀ e ∈ (s.port p).egress, e.1 ≠ 5) (hreplay : ∀ r ∈ (s.port p).replay, r.cls ≠ 5) :
    (releaseSys (reroute p g s)).port p = (portCleared p s).port p ∧ (releaseSys (reroute p g s)).mem = s.mem ∧
      (releaseSys (reroute p g s)).tiles = s.tiles := by
  obtain ⟨hmem, htiles, hport, hsts, hkept⟩ := reroute_detours hg hopen hreplay hegress
  cases hholds : holdsSys (portCleared p s) with
  | true =>
    have hsame : releaseSys (reroute p g s) = reroute p g s := if_pos ((holdsSys_congr hsts).trans hholds)
    rw [hsame]
    exact ⟨hport, hmem, htiles⟩
  | false =>
    obtain ⟨hmem', htiles', hports⟩ := releaseSys_drains ((hkept hholds).trans hheld)
    have hempty : ((reroute p g s).port p).egress = [] := by rw [hport, portCleared, State.onPort_port]
    exact ⟨((hports p).2 hempty).trans hport, hmem'.trans hmem, htiles'.trans htiles⟩

/-! ### Each event, seen at its port -/

/-- What a port shows of its training once it has sent what waited. -/
theorem PortSt.Sends.training {x y : PortSt} (h : x.Sends y) :
    y.st = x.st ∧ y.lanes = x.lanes ∧ y.expSeq = x.expSeq ∧ y.acked = x.acked ∧ y.nbrDev = x.nbrDev := by
  rw [h]
  exact ⟨rfl, rfl, rfl, rfl, rfl⟩

theorem trained_port (p : Nat) {a : Partner} {s : State} (hdev : a.dev % 2 ^ 16 = a.dev) :
    let x := (drain p ((trainPort p a s).onPort p (PortSt.fresh a.lanes))).port p
    x.st = pUp ∧ x.lanes = min a.lanes 4 ∧ x.expSeq = 0 ∧ x.acked = 0xFFF#12 ∧ x.nbrDev = a.dev := by
  have hsends := drain_port p ((trainPort p a s).onPort p (PortSt.fresh a.lanes))
  rw [State.onPort_port] at hsends
  obtain ⟨hst, hlanes, hexp, hacked, hnbr⟩ := hsends.training
  exact ⟨hst, hlanes, hexp, hacked, hnbr.trans ((congrArg PortSt.nbrDev (trainPort_port p a s)).trans hdev)⟩

theorem flitDiscarded_port (p : Nat) (fec : Option Nat) (s : State) :
    let x := ((fecCounted p fec s).onPort p (discardFlit fec.isSome)).port p
    x.nak = true ∧ x.naks = (s.port p).naks + 1 ∧ x.expSeq = (s.port p).expSeq ∧ x.partial' = (s.port p).partial' := by
  rw [State.onPort_port, fecCounted, State.onPort_port]
  generalize s.port p = x
  exact ⟨rfl, rfl, rfl, rfl⟩

/-- What a port shows of a flit that it has kept and answered. -/
theorem PortSt.accept_keepLines (n k : Nat) (d : Bytes) (x : PortSt) : let y := sendIdle ((x.accept n).keepLines k d)
    y.expSeq = x.expSeq + 1 ∧ y.nak = false ∧ y.heard = true ∧ y.rx = x.rx + BitVec.ofNat 64 n ∧ Map.get [] y.partial' k = d :=
  ⟨rfl, rfl, rfl, rfl, Map.get_set_self ..⟩

/-- Settles O45: each event's next state by its law above, then what the port shows of it. -/
theorem linksTrainCarryAndFail : Obligations.LinksTrainCarryAndFail := by
  unfold Obligations.LinksTrainCarryAndFail
  intro s p htrip
  refine ⟨fun a htrain htiles => ⟨fun ⟨hdev, hpartner⟩ hlanes => ?_, fun hpartner => ?_⟩,
    fun a htrain htiles => portTraining_noTiles htrip htrain htiles, fun fec b hup => ⟨fun hbad => ?_, fun hgood hdata => ?_⟩,
    nakRepeat_run htrip, fun hup => ?_, fun ok lanes hst => ⟨fun hok hlanes hheld => ?_, retrainEnd_down htrip hst⟩,
    fun g hst hdetour hg hopen hheld hegress hreplay => ?_⟩
  · obtain ⟨hst, hup, hexp, hacked, hnbr⟩ := trained_port p (s := s) hdev
    refine ⟨_, portTraining_up htrip htrain htiles hpartner hlanes, ?_⟩
    rw [updateLevel_port, updateLevel_mem, updateLevel_tiles, drain_mem, drain_tiles, State.onPort_mem, State.onPort_tiles]
    exact ⟨hst, hup, hexp, hacked, hnbr, trainPort_keeps p a s⟩
  · refine ⟨_, portTraining_mismatch htrip htrain htiles hpartner, by rw [updateLevel_port, mismatch_st], fun hegress hreplay hheld => ?_⟩
    have hport := trainPort_port p a s
    obtain ⟨hmem, htiles'⟩ := trainPort_keeps p a s
    rw [updateLevel_mem, updateLevel_tiles, ← hmem, ← htiles']
    exact mismatch_quiet (by rw [hport]; exact hegress) (by rw [hport]; exact hreplay) hheld
  · obtain ⟨hnak, hnaks, hexp, hpartial⟩ := flitDiscarded_port p fec s
    exact ⟨_, flitReceived_discards htrip hup hbad, hnak, hnaks, hexp, hpartial, rfl, rfl, rfl, rfl⟩
  · intro h got
    have hheard := flitHeard_received p fec h s
    obtain ⟨hexp, hpartial, hrx⟩ := PortSt.received_eq_iff.mp hheard
    obtain ⟨hexp1, hpartial1, hrx1⟩ := PortSt.received_eq_iff.mp ((sendIdle_received _).trans hheard)
    refine ⟨fun hseq => ⟨_, flitReceived_data htrip hup hgood hdata, ?_⟩,
      fun hseq hcls hfirst hlast hpart => ⟨_, flitReceived_data htrip hup hgood hdata, ?_⟩⟩
    · rw [takeFlit_outOfOrder (by rw [hexp]; exact hseq), State.onPort_port, State.onPort_mem, State.onPort_tiles, State.onPort_net]
      exact ⟨hexp1, hpartial1, hrx1, flitHeard_keeps p fec h s⟩
    · rw [takeFlit_keeps (hseq.trans hexp.symm) hcls ⟨hfirst, hlast⟩ (got := got) (by rw [hpartial]) hpart]
      simp only [State.onPort_port, State.onPort_mem, State.onPort_tiles]
      obtain ⟨hmem, htiles, -⟩ := flitHeard_keeps p fec h s
      obtain ⟨hexp', hnak, hflag, hrx', hkept⟩ := PortSt.accept_keepLines h.lines h.cls got ((flitHeard p fec h s).port p)
      rw [hexp] at hexp'
      rw [hrx] at hrx'
      exact ⟨hexp', hnak, hflag, hrx', hkept, hmem, htiles⟩
  · refine ⟨_, linkStall_run htrip hup, ?_⟩
    rw [updateLevel_port, updateLevel_mem, updateLevel_tiles, State.onPort_port, State.onPort_mem, State.onPort_tiles]
    exact ⟨rfl, rfl, rfl, rfl⟩
  · subst hok
    let s1 := s.onPort p (PortSt.retrained lanes)
    obtain ⟨hmem, htiles, hports⟩ := (drain_drains p s1).trans (releaseSys_drains (s := drain p s1) hheld)
    obtain ⟨hst', hcount, -⟩ := (hports p).1.training
    obtain ⟨hup, hlanes'⟩ := PortSt.retrained_fields lanes (s.port p)
    rw [State.onPort_port] at hst' hcount
    refine ⟨_, retrainEnd_up htrip hst hlanes, ?_⟩
    rw [updateLevel_port, updateLevel_mem, updateLevel_tiles]
    exact ⟨hst'.trans hup, hcount.trans hlanes', hmem.trans (State.onPort_mem ..), htiles.trans (State.onPort_tiles ..)⟩
  · let s1 := s.onPort p (fun x => { x with st := pDetoured })
    have hs1 : s1.port p = { s.port p with st := pDetoured } := State.onPort_port ..
    have hopen1 : legOpen s1 g = true := by
      rw [legOpen, State.onPort_port_ne _ _ _ hg]; exact hopen
    obtain ⟨hport, hmem, htiles⟩ := reroute_released (s := s1) hg hopen1 hheld (by rw [hs1]; exact hegress) (by rw [hs1]; exact hreplay)
    refine ⟨_, detourLive_run htrip hst hdetour hopen, ?_⟩
    rw [updateLevel_port, updateLevel_mem, updateLevel_tiles, hport, portCleared, State.onPort_port, hs1]
    exact ⟨rfl, rfl, hmem.trans (State.onPort_mem ..), htiles.trans (State.onPort_tiles ..)⟩

end Sys2Proof.Machine

/-!
SUPPORT. The reduction engines (12 R333–R338, R342); O46.
-/
namespace Sys2Proof.Machine

/-! ### Register writes by an agent of a partition (08 R207, 12 R342) -/

/-- No rule bars an agent of a partition for what it is, where its function is served. -/
theorem mayWrite_of_part {s : State} {w : Writer} (o : Nat) (hpart : writerPart s w < 6)
    (hserved : ∀ f, w = .host f → hostServed s f = true) : MayWrite s w o := by
  cases w with
  | host f => exact ⟨hserved f rfl, fun h => by simp [writerPart, h] at hpart⟩
  | debugger => simp [writerPart] at hpart
  | tile | nib | steward => trivial

theorem devWrite_port {o : Nat} (ho : o < 0x1000000) (w : Writer) (v : Word) (s : State) :
    devWrite w (0x3000000 + o) v s = writePortBlock w o v s := by
  have hdiv : (0x3000000 + o) / 0x1000000 = 3 := by omega
  have hmod : (0x3000000 + o) % 0x1000000 = o := by omega
  rw [devWrite, hdiv, hmod]
  rfl

/-- What a write of LK_RDNF does. -/
theorem devWrite_rdnf (w : Writer) (v : Word) (s : State) : devWrite w 0x3080000 v s = clearRdnf w v s :=
  devWrite_port (o := 0x80000) (by omega) w v s

/-- What an agent's write of RD_GO of its partition does (12 R333). -/
theorem devWrite_rdGo {w : Writer} {n : PartId} {s : State} (p : PortId) (v : Word) (hrights : fullRights w = false)
    (hacts : actsFor s w n = true) : devWrite w (0x3001020 + 0x10000 * p.val + 0x100 * n.val) v s =
      if v.getLsbD 0 then rdPost p n s else .ok s := by
  have hp := p.isLt
  have hn := n.isLt
  have hwriter : ¬6 ≤ writerPart s w := by
    have h : writerPart s w = n := by simpa [actsFor, hn] using hacts
    omega
  have hport : (0x1020 + 0x10000 * p.val + 0x100 * n.val) / 0x10000 = p.val := by omega
  have hrest : (0x1020 + 0x10000 * p.val + 0x100 * n.val) % 0x10000 = 0x1020 + 0x100 * n.val := by omega
  have hctx : (0x1020 + 0x100 * n.val - 0x1000) / 0x100 = n.val := by omega
  have hreg : (0x1020 + 0x100 * n.val) % 0x100 / 8 = 4 := by omega
  rw [show 0x3001020 + 0x10000 * p.val + 0x100 * n.val = 0x3000000 + (0x1020 + 0x10000 * p.val + 0x100 * n.val) by omega,
    devWrite_port (by omega), writePortBlock]
  dsimp only
  rw [hport, hrest, hctx, hreg, if_neg (by omega), if_neg (by omega), if_neg (by omega), if_neg (by omega), if_pos (by omega),
    if_neg (by simp [hrights, hwriter]), if_neg (by simp [hacts])]
  rfl

/-! ### Posting (12 R333, R334) -/

/-- A command context as RD_GO posts it at epoch `e`. -/
def RdCtx.posted (e : BitVec 32) (x : RdCtx) : RdCtx :=
  { x with busy := true, done := false, nf := false, err := false, epoch := e, started := false, rsGot := 0, agGot := 0, agOn := false }

theorem rdCtx_onRd (p n : Nat) (f : RdCtx → RdCtx) (s : State) : rdCtx (onRd p n f s) p n = f (rdCtx s p n) := by
  rw [rdCtx, onRd, State.onPort_port]
  exact Map.get_mod_self ..

theorem rdPost_ok {p n : Nat} {s : State} (hok : rdOk s p n = true) (howns : rdOwns s n (ringOf s p n) = true) :
    rdPost p n s = .ok (onRd p n (RdCtx.posted (s.hub.bar (ringOf s p n).gate).epoch) s) := by
  rw [rdPost, hok, howns]
  rfl

theorem rdPost_broken {p n : Nat} {s : State} (hok : rdOk s p n = false) : rdPost p n s = .error 0x09 := by
  rw [rdPost, hok]
  rfl

theorem rdPost_foreign {p n : Nat} {s : State} (hok : rdOk s p n = true) (howns : rdOwns s n (ringOf s p n) = false) :
    rdPost p n s = .error 0x0A := by
  rw [rdPost, hok, howns]
  rfl

/-! ### RDNF (12 R337, R342) -/

theorem clearRdnf_own {w : Writer} {v : Word} {s : State} (hpart : writerPart s w < 6)
    (hown : ∀ k < 6, k ≠ writerPart s w → v.getLsbD k = false) : clearRdnf w v s =
      .ok (if v.getLsbD (writerPart s w) then s.onPart (writerPart s w) (fun p => { p with rdnf := false }) else s) := by
  rw [clearRdnf, if_neg (by omega), if_neg]
  simp only [List.any_eq_true, List.mem_range, Bool.and_eq_true, bne_iff_ne, ne_eq, not_exists, not_and]
  intro k hk hbit hne
  rw [hown k hk hne] at hbit
  cases hbit

theorem clearRdnf_foreign {w : Writer} {v : Word} {s : State} {k : Nat} (hpart : writerPart s w < 6) (hk : k < 6)
    (hne : k ≠ writerPart s w) (hbit : v.getLsbD k = true) : clearRdnf w v s = .error 0x02 := by
  rw [clearRdnf, if_neg (by omega), if_pos]
  simp only [List.any_eq_true, List.mem_range, Bool.and_eq_true, bne_iff_ne, ne_eq]
  exact ⟨k, hk, hbit, hne⟩

/-! ### Records of a link (16 R440) -/

/-- A link's record goes on its way to the Steward: no Nib core forwards it, so no full list drops it. -/
theorem raiseRec_link (s s' : State) (code n p : Nat) : raiseRec (plainRec s code 0 3 n 11 p) s' =
    s'.onNet (fun k => { k with recs := k.recs ++ [plainRec s code 0 3 n 11 p] }) := by
  have hregion : recRegion (plainRec s code 0 3 n 11 p) = none := by
    simp [recRegion, stewardRec, plainRec, stamp]
  rw [raiseRec, hregion]
  rfl

theorem plainRec_link (s : State) (code n p : Nat) : let r := plainRec s code 0 3 n 11 p
    r.code = BitVec.ofNat 8 code ∧ r.scope = 3 ∧ r.part = BitVec.ofNat 3 n ∧ r.aux = BitVec.ofNat 8 p := ⟨rfl, rfl, rfl, rfl⟩

/-! ### A segment (12 R335, R338) -/

/-- State `s` once port `p`'s engine has taken the `i`-th segment `q`: its ingress lines are free. -/
def segTakenAt (p i : Nat) (q : Packet) (s : State) : State := freeRing p q (s.onPort p (fun x => { x with rdIn := dropAt i x.rdIn }))

/-- The command contexts and the waiting segments of a port. -/
def PortSt.engine (x : PortSt) : SMap RdCtx × List Packet := (x.rd, x.rdIn)

theorem freeRing_engine (p : Nat) (q : Packet) (s : State) : ((freeRing p q s).port p).engine = (s.port p).engine := by
  rw [freeRing]
  split
  · rfl
  · rw [State.onPort_port, freeLines, State.onPort_port]
    generalize s.port p = x
    dsimp only
    split <;> rfl

theorem segTakenAt_engine (p i : Nat) (q : Packet) (s : State) :
    ((segTakenAt p i q s).port p).engine = ((s.port p).rd, dropAt i (s.port p).rdIn) := by
  rw [segTakenAt, freeRing_engine, State.onPort_port]
  rfl

theorem segTakenAt_keeps (p i : Nat) (q : Packet) (s : State) : (segTakenAt p i q s).dev = s.dev ∧
    (segTakenAt p i q s).net = s.net ∧ (segTakenAt p i q s).mem = s.mem ∧ (segTakenAt p i q s).tiles = s.tiles := by
  rw [segTakenAt, freeRing]
  split <;> simp [freeLines]

theorem segTakenAt_rdIn (p i : Nat) (q : Packet) (s : State) : ((segTakenAt p i q s).port p).rdIn = dropAt i (s.port p).rdIn :=
  (Prod.mk.inj (segTakenAt_engine p i q s)).2

theorem segTakenAt_rdCtx (p i : Nat) (q : Packet) (s : State) (n : Nat) : rdCtx (segTakenAt p i q s) p n = rdCtx s p n :=
  congrArg (fun m => Map.get ({} : RdCtx) m n) (Prod.mk.inj (segTakenAt_engine p i q s)).1

theorem segTakenAt_ringOf (p i : Nat) (q : Packet) (s : State) (n : Nat) : ringOf (segTakenAt p i q s) p n = ringOf s p n := by
  have hdev : (segTakenAt p i q s).dev = s.dev := (segTakenAt_keeps ..).1
  simp only [ringOf, segTakenAt_rdCtx, dimSize, selfCoords, dims, hdev]

/-- The engine asks of a segment what it asked before it took the segment. -/
theorem segTakenAt_segMatches (p i : Nat) (q : Packet) (s : State) :
    segMatches (segTakenAt p i q s) (ringOf s p q.part) q = segMatches s (ringOf s p q.part) q := by
  have hruns : ringRuns (segTakenAt p i q s) (ringOf s p q.part) = ringRuns s (ringOf s p q.part) :=
    congrArg RdCtx.busy (segTakenAt_rdCtx p i q s q.part)
  simp only [segMatches, hruns]

theorem reductionSegment_run {s : State} {p : PortId} {i : Nat} {q : Packet} (htrip : s.dev.boot.trip = false)
    (hq : (s.port p).rdIn[i]? = some q) (hfirst : ((s.port p).rdIn.take i).all (fun r => r.part ≠ q.part) = true)
    (hends : passesOn s (ringOf s p q.part) q = false) :
    exec (.reductionSegment p i) s = .next (takeRing p q (segTakenAt p i q s)) := by
  refine congrArg Host.Outcome.next ((selfTimed_run htrip).trans ?_)
  dsimp only
  rw [hq]
  exact if_neg (by rw [hfirst, hends]; simp)

theorem passesOn_foreign {s : State} {k : Ring} {q : Packet} (h : 6 ≤ q.part ∨ segMatches s k q = false) : passesOn s k q = false := by
  rw [passesOn]
  rcases h with h | h
  · rw [decide_eq_false (by omega)]; rfl
  · rw [h, Bool.and_false]; rfl

theorem passesOn_last {s : State} {k : Ring} {q : Packet} (hresult : nbit q.hdr.toNat 21 = true)
    (hdown : k.down = fld q.hdr.toNat 22 4) : passesOn s k q = false := by
  rw [passesOn, if_pos hresult, decide_eq_false (not_not.mpr hdown), Bool.and_false]

theorem takeRing_foreign {p : Nat} {q : Packet} {s : State} (h : 6 ≤ q.part ∨ segMatches s (ringOf s p q.part) q = false) :
    takeRing p q s = raiseRec (plainRec s 0x06 0 3 q.part 11 p) s := if_pos (by simpa using h)

theorem takeRing_result {p : Nat} {q : Packet} {s : State} (hpart : q.part < 6) (hmatch : segMatches s (ringOf s p q.part) q = true)
    (hresult : nbit q.hdr.toNat 21 = true) :
    takeRing p q s = takeResult (ringOf s p q.part) q (markNf (ringOf s p q.part) (nbit q.hdr.toNat 20) s) :=
  (if_neg (by simp [hmatch, hpart])).trans (if_pos hresult)

/-- Where the result that a segment carries is written (12 R335). -/
def Ring.resultAt (k : Ring) (q : Packet) : Nat :=
  tileBase (k.tfirst + fld q.hdr.toNat 26 13) + k.elemAt k.doff (fld q.hdr.toNat 22 4) (fld q.hdr.toNat 39 20) k.ofmt

/-- A result at the device before its owner is written and goes no further. -/
theorem takeResult_last {k : Ring} {q : Packet} {s : State} (hdown : k.down = fld q.hdr.toNat 22 4) : ∃ nf f,
    takeResult k q s = onRd k.p k.n f (writeShared (k.resultAt q) q.data (markNf k nf s)) :=
  ⟨_, _, if_pos hdown⟩

theorem onRd_rdIn (p n : Nat) (f : RdCtx → RdCtx) (s : State) (p' : Nat) : ((onRd p n f s).port p').rdIn = (s.port p').rdIn := by
  rw [onRd, State.port_onPort]
  split
  · next h => rw [h]
  · rfl

theorem markNf_rdIn (k : Ring) (nf : Bool) (s : State) (p : Nat) : ((markNf k nf s).port p).rdIn = (s.port p).rdIn := by
  rw [markNf]
  split
  · exact onRd_rdIn k.p k.n _ s p
  · rfl

theorem takeResult_last_seen {k : Ring} {q : Packet} {s : State} (hdown : k.down = fld q.hdr.toNat 22 4) :
    (takeResult k q s).bytes (k.resultAt q) q.data.length = q.data ∧
      ∀ p, ((takeResult k q s).port p).rdIn = (s.port p).rdIn := by
  obtain ⟨nf, f, hresult⟩ := takeResult_last (s := s) hdown
  rw [hresult]
  refine ⟨(writeShared_wroteAt (k.resultAt q) q.data (markNf k nf s) false).1, fun p => ?_⟩
  rw [onRd_rdIn, State.port, writeShared_ports]
  exact markNf_rdIn ..

/-! ### Completion (12 R338) -/

/-- A command context whose command is done. -/
def RdCtx.ended (x : RdCtx) : RdCtx := { x with busy := false, done := true }

theorem reductionStart_run {s : State} {p : PortId} {n : PartId} (htrip : s.dev.boot.trip = false) (hbusy : (rdCtx s p n).busy = true)
    (hwaits : (rdCtx s p n).started = false) (hgate : (s.hub.bar (ringOf s p n).gate).epoch ≠ (rdCtx s p n).epoch) :
    exec (.reductionStart p n) s = .next (if (ringOf s p n).op = 1 then
        beginGather (ringOf s p n) (onRd p n (fun x => { x with started := true }) s)
      else sendChunk (ringOf s p n) false (ringOf s p n).up (onRd p n (fun x => { x with started := true }) s)) :=
  congrArg Host.Outcome.next ((selfTimed_run htrip).trans (if_neg (by simp [hbusy, hwaits, hgate])))

/-- What a command that has ended does with its flag (12 R338, 01 R41). -/
def endFlag (k : Ring) (p n : Nat) (s : State) : State :=
  if !k.gfv then s
  else if ownedBy s.hub.ownGf n k.gf then putGf k.gf true s
  else raiseRec (plainRec s 0x0A 0 3 n 11 p) s

theorem reductionDone_run {s : State} {p : PortId} {n : PartId} (htrip : s.dev.boot.trip = false) (hbusy : (rdCtx s p n).busy = true)
    (hstarted : (rdCtx s p n).started = true)
    (hscatter : (ringOf s p n).op = 1 ∨ (ringOf s p n).phaseElems ≤ (rdCtx s p n).rsGot)
    (hgather : (ringOf s p n).op = 0 ∨ ((rdCtx s p n).agOn = true ∧ (ringOf s p n).phaseElems ≤ (rdCtx s p n).agGot))
    (hacked : ringUnacked s (ringOf s p n).out n = false) :
    exec (.reductionDone p n) s = .next (endFlag (ringOf s p n) p n (onRd p n RdCtx.ended s)) := by
  refine congrArg Host.Outcome.next ((selfTimed_run htrip).trans (if_neg ?_))
  simpa [hbusy, hstarted, hacked] using ⟨hscatter.resolve_left, hgather.resolve_left⟩

theorem putGf_ports (f : Nat) (b : Bool) (s : State) : (putGf f b s).ports = s.ports := by
  rw [putGf, foldl_answerHub]
  rfl

theorem endFlag_keeps (k : Ring) (p n : Nat) (s : State) :
    (endFlag k p n s).ports = s.ports ∧ (endFlag k p n s).mem = s.mem ∧ (endFlag k p n s).tiles = s.tiles := by
  rw [endFlag]
  split
  · exact ⟨rfl, rfl, rfl⟩
  · split
    · exact ⟨putGf_ports .., putGf_mem .., putGf_tiles ..⟩
    · exact ⟨raiseRec_ports .., raiseRec_mem .., raiseRec_tiles ..⟩

section EndFlag
variable {k : Ring} {n : Nat} {s : State}

theorem endFlag_none (p : Nat) (hflag : k.gfv = false) : endFlag k p n s = s := if_pos (by simp [hflag])

theorem endFlag_own (p : Nat) (hflag : k.gfv = true) (hown : ownedBy s.hub.ownGf n k.gf = true) :
    endFlag k p n s = putGf k.gf true s := (if_neg (by simp [hflag])).trans (if_pos hown)

theorem endFlag_foreign (p : Nat) (hflag : k.gfv = true) (hown : ownedBy s.hub.ownGf n k.gf = false) :
    endFlag k p n s = s.onNet (fun m => { m with recs := m.recs ++ [plainRec s 0x0A 0 3 n 11 p] }) :=
  (if_neg (by simp [hflag])).trans ((if_neg (by simp [hown])).trans (raiseRec_link ..))

end EndFlag

/-- Settles O46: the register writes by what RD_GO and LK_RDNF do, the engine's events by their laws above. -/
theorem reductionEngineRuns : Obligations.ReductionEngineRuns := by
  unfold Obligations.ReductionEngineRuns
  intro s htrip
  refine ⟨fun w p n v hrights hacts hserved => ?_, fun p n hbusy hwaits hgate => reductionStart_run htrip hbusy hwaits hgate,
    fun p i q hq hfirst => ⟨fun hforeign => ?_, fun hpart hmatch hresult hdown => ?_⟩, fun p n => ?_, fun w v hpart hserved => ?_⟩
  · have hn := n.isLt
    have hwriter : writerPart s w = n := by simpa [actsFor] using hacts
    have hmay := mayWrite_of_part (0x3001020 + 0x10000 * p.val + 0x100 * n.val) (by omega) hserved
    have hwrite := devWrite_rdGo p v hrights hacts
    have hok {s' : State} (h : (if v.getLsbD 0 then rdPost p n s else .ok s) = .ok s') : exec (.rdGo w p n v) s = .next s' :=
      congrArg Host.Outcome.next (writeDev_ok htrip hmay (hwrite.trans h))
    have herror {c : Nat} (h : (if v.getLsbD 0 then rdPost p n s else .ok s) = .error c) : exec (.rdGo w p n v) s =
        .next (refuseWrite w c (devBase + (0x3001020 + 0x10000 * p.val + 0x100 * n.val)) s) :=
      congrArg Host.Outcome.next (writeDev_error htrip hmay (hwrite.trans h))
    refine ⟨fun hbit hrules howns => ⟨_, hok ((if_pos hbit).trans (rdPost_ok hrules howns)), rdCtx_onRd .., ?_⟩,
      fun hbit hrules => herror ((if_pos hbit).trans (rdPost_broken hrules)),
      fun hbit hrules howns => herror ((if_pos hbit).trans (rdPost_foreign hrules howns)), fun hbit => hok (if_neg (by rw [hbit]; decide))⟩
    simp [onRd]
  · obtain ⟨-, hnet, hmem, htiles⟩ := segTakenAt_keeps p i q s
    obtain ⟨hcode, hscope, hrecPart, haux⟩ := plainRec_link (segTakenAt p i q s) 0x06 q.part p
    have hdiscards := (takeRing_foreign (p := p) (by rw [segTakenAt_ringOf, segTakenAt_segMatches]; exact hforeign)).trans
      (raiseRec_link (segTakenAt p i q s) _ _ _ _)
    refine ⟨_, _, (reductionSegment_run htrip hq hfirst (passesOn_foreign hforeign)).trans (congrArg _ hdiscards), ?_, hcode, hscope,
      hrecPart, haux, segTakenAt_rdIn p i q s, hmem, htiles⟩
    rw [State.onNet_net, hnet]
  · have hring := segTakenAt_ringOf p i q s q.part
    have hwrites := takeRing_result hpart (by rw [hring, segTakenAt_segMatches]; exact hmatch) hresult
    rw [hring] at hwrites
    obtain ⟨hbytes, hrdIn⟩ := takeResult_last_seen hdown
    exact ⟨_, (reductionSegment_run htrip hq hfirst (passesOn_last hresult hdown)).trans (congrArg _ hwrites),
      (hrdIn p).trans ((markNf_rdIn ..).trans (segTakenAt_rdIn ..)), hbytes⟩
  · intro x k hbusy hstarted hscatter hgather hacked
    let s1 := onRd p n RdCtx.ended s
    obtain ⟨hports, hmem, htiles⟩ := endFlag_keeps k p n s1
    have hctx : rdCtx (endFlag k p n s1) p n = (rdCtx s p n).ended := by
      rw [rdCtx, State.port, hports]; exact rdCtx_onRd ..
    refine ⟨endFlag k p n s1, reductionDone_run htrip hbusy hstarted hscatter hgather hacked, by rw [hctx]; rfl, by rw [hctx]; rfl,
      fun hflag hown hgf => ?_, fun hflag hown => ?_, fun hflag => ?_, hmem, htiles⟩
    · rw [endFlag_own (s := s1) p hflag hown, putGf_gf, getLsbD_setBit _ _ _ _ hgf, if_pos rfl]
    · rw [endFlag_foreign (s := s1) p hflag hown]
      exact ⟨rfl, _, rfl, rfl, rfl⟩
    · rw [endFlag_none (s := s1) p hflag]
      rfl
  · have hmay := mayWrite_of_part 0x3080000 hpart hserved
    exact ⟨fun hown => congrArg Host.Outcome.next (writeDev_ok htrip hmay ((devWrite_rdnf w v s).trans (clearRdnf_own hpart hown))),
      fun k hk hne hbit => congrArg Host.Outcome.next
        (writeDev_error htrip hmay ((devWrite_rdnf w v s).trans (clearRdnf_foreign hpart hk hne hbit)))⟩

end Sys2Proof.Machine

/-!
SUPPORT. The Grain sequence (13 R366): `grainJump` doubles its step for every bit of the position, so that it is as many
steps as the position says.
-/
namespace Sys2Proof.Machine

/-- A step z -> m z + a modulo 2^64. -/
def affineStep (m a z : Nat) : Nat := (m * z + a) % 2 ^ 64

/-- The multiplier and the addend that `grainJump` doubles to are those of two steps. -/
theorem affineStep_twice (m a : Nat) : (affineStep m a)^[2] = affineStep (m * m % 2 ^ 64) ((m * a + a) % 2 ^ 64) := by
  funext z
  change (m * ((m * z + a) % 2 ^ 64) + a) % 2 ^ 64 = (m * m % 2 ^ 64 * z + (m * a + a) % 2 ^ 64) % 2 ^ 64
  have hleft : m * ((m * z + a) % 2 ^ 64) + a ≡ m * (m * z + a) + a [MOD 2 ^ 64] := ((Nat.mod_modEq _ _).mul_left m).add_right a
  have hright : m * m % 2 ^ 64 * z + (m * a + a) % 2 ^ 64 ≡ m * m * z + (m * a + a) [MOD 2 ^ 64] :=
    ((Nat.mod_modEq _ _).mul_right z).add (Nat.mod_modEq _ _)
  exact hleft.trans ((congrArg (· % 2 ^ 64) (by ring)).trans hright.symm)

/-- A step that is taken where a bit is set. -/
theorem ite_nbit_eq_iterate (f : Nat → Nat) (p i z : Nat) : (if nbit p i then f z else z) = f^[p / 2 ^ i % 2] z := by
  rcases Nat.mod_two_eq_zero_or_one (p / 2 ^ i) with h | h <;> simp [nbit, h]

/-- The bits of a position from bit `64 - k` on count the steps that are left. -/
theorem grainJump_eq_iterate (p : Nat) {k : Nat} (hk : k ≤ 64) (m a z : Nat) :
    grainJump p k m a z = (affineStep m a)^[p / 2 ^ (64 - k) % 2 ^ k] z := by
  induction k generalizing m a z with
  | zero => rw [grainJump, pow_zero, Nat.mod_one]; rfl
  | succ k ih =>
    have hshift : p / 2 ^ (64 - k) = p / 2 ^ (63 - k) / 2 := by
      rw [Nat.div_div_eq_div_mul, ← pow_succ, show 63 - k + 1 = 64 - k by omega]
    have hsteps : p / 2 ^ (64 - (k + 1)) % 2 ^ (k + 1) = 2 * (p / 2 ^ (64 - k) % 2 ^ k) + p / 2 ^ (63 - k) % 2 := by
      rw [show 64 - (k + 1) = 63 - k by omega, hshift, pow_succ', Nat.mod_mul, Nat.add_comm]
    calc grainJump p (k + 1) m a z
        = (affineStep (m * m % 2 ^ 64) ((m * a + a) % 2 ^ 64))^[p / 2 ^ (64 - k) % 2 ^ k]
            (if nbit p (63 - k) then affineStep m a z else z) := ih (by omega) ..
      _ = (affineStep m a)^[2 * (p / 2 ^ (64 - k) % 2 ^ k)] ((affineStep m a)^[p / 2 ^ (63 - k) % 2] z) := by
          rw [← affineStep_twice, ← Function.iterate_mul, ite_nbit_eq_iterate]
      _ = (affineStep m a)^[p / 2 ^ (64 - (k + 1)) % 2 ^ (k + 1)] z := by rw [hsteps, Function.iterate_add_apply]

/-- The state at a position is as many steps from 0. -/
theorem grainState_eq_iterate {p : Nat} (hp : p < 2 ^ 64) :
    grainState p = (affineStep 0x9E6C63D0876A9A4D 0x6A09)^[p] 0 := by
  rw [grainState, grainJump_eq_iterate p le_rfl, Nat.sub_self, pow_zero, Nat.div_one, Nat.mod_eq_of_lt hp]

theorem grainState_succ {p : Nat} (hp : p + 1 < 2 ^ 64) :
    grainState (p + 1) = (0x9E6C63D0876A9A4D * grainState p + 0x6A09) % 2 ^ 64 := by
  rw [grainState_eq_iterate hp, grainState_eq_iterate (Nat.lt_of_succ_lt hp), Function.iterate_succ_apply']
  rfl

theorem grainState_lt {p : Nat} (hp : p < 2 ^ 64) : grainState p < 2 ^ 64 := by
  cases p with
  | zero => decide
  | succ p => rw [grainState_succ hp]; exact Nat.mod_lt _ (by decide)

/-- The output in words: a number below 2^64 is shifted and rotated as the word that holds it. -/
theorem grainOut_eq_rotate {p : Nat} (hp : p < 2 ^ 64) {z : Word} (hz : z = BitVec.ofNat 64 (grainState p)) :
    grainOut p = (((z ^^^ (z >>> 31)) >>> 32).setWidth 32).rotateRight (z >>> 59).toNat := by
  have hval : z.toNat = grainState p := by rw [hz, BitVec.toNat_ofNat, Nat.mod_eq_of_lt (grainState_lt hp)]
  have hword : BitVec.ofNat 32 ((grainState p ^^^ (grainState p / 2 ^ 31)) / 2 ^ 32) = ((z ^^^ (z >>> 31)) >>> 32).setWidth 32 :=
    BitVec.eq_of_toNat_eq (by simp [hval, Nat.shiftRight_eq_div_pow])
  have hturn : grainState p / 2 ^ 59 = (z >>> 59).toNat := by
    rw [BitVec.toNat_ushiftRight, Nat.shiftRight_eq_div_pow, hval]
  rw [grainOut, hword, hturn]

/-- Settles O28: the state is an iterate of the manual's step, and the output is that of the state as a word. -/
theorem grainSequence : Obligations.GrainSequence := by
  unfold Obligations.GrainSequence
  exact ⟨grainState_eq_iterate (by decide), fun _ hp => grainState_succ hp, fun _ hp => grainOut_eq_rotate hp rfl⟩

end Sys2Proof.Machine

/-!
SUPPORT. What an access of a lead Nib core leaves (13 R356, R359): its reads and writes go through the home slices, and none of
them changes a partition's records.
-/
namespace Sys2Proof.Machine

/-! ### Home slices and records -/

theorem foldl_parts {α : Type} (g : State → α → State) (l : List α) (h : ∀ s x, (g s x).parts = s.parts) (s : State) :
    (l.foldl g s).parts = s.parts :=
  List.foldlRecOn (motive := fun s' : State => s'.parts = s.parts) l g rfl (fun s' hs x _ => (h s' x).trans hs)

theorem raiseRec_parts (r : Rec) (s : State) : (raiseRec r s).parts = s.parts := by
  simp [raiseRec, apply_ite State.parts]

theorem bulkPut_parts (a : Nat) (bs : Bytes) (s : State) : (bulkPut a bs s).parts = s.parts := by
  have hscrub (g : Nat) (s : State) : (scrubGranule g s).parts = s.parts := rfl
  have hopen (a : Nat) (s : State) : (openRow a s).parts = s.parts := rfl
  have hpoke (a : Nat) (bs : Bytes) (s : State) : (s.poke a bs).parts = s.parts := rfl
  simp [bulkPut, settleLine, hscrub, hopen, hpoke, apply_ite State.parts]

theorem bulkReadLine_parts (l : Nat) (s : State) : (bulkReadLine l s).2.parts = s.parts := by
  rw [bulkReadLine]; split <;> rfl

theorem bulkWrite_parts (a : Nat) (bs : Bytes) (s : State) : (bulkWrite a bs s).2.parts = s.parts := by
  rw [bulkWrite]; split
  · rfl
  · exact bulkPut_parts a bs s

theorem writeBack_parts (x : CLine) (s : State) : (writeBack x s).parts = s.parts := by
  simp [writeBack, bulkPut_parts, apply_ite State.parts]

theorem allocate_parts (r l set : Nat) (data : Bytes) (dirty : Bool) (s : State) :
    (allocate r l set data dirty s).2.parts = s.parts := by
  rw [allocate]; dsimp only
  split
  · rfl
  · split
    · exact writeBack_parts _ s
    · rfl

theorem homeRead_parts (n a len : Nat) (alloc : Bool) (s : State) : (homeRead n a len alloc s).2.parts = s.parts := by
  have hread := bulkReadLine_parts (a / 128)
  grind [homeRead, countRc, State.onRc_parts, allocate_parts]

theorem homeWrite_parts (n a : Nat) (bs : Bytes) (alloc : Bool) (s : State) : (homeWrite n a bs alloc s).2.parts = s.parts := by
  grind [homeWrite, countRc, State.onRc_parts, allocate_parts, bulkWrite_parts, bulkReadLine_parts]

theorem scanEnd_parts (r : Nat) (s : State) : (scanEnd r s).parts = s.parts := by
  rw [scanEnd]
  split
  · rfl
  · simp [scanSets, writeBack_parts, foldl_parts, apply_ite State.parts]

/-! ### A line that is waited for (08 R212, R217) -/

theorem touchWrite_parts (a n : Nat) (s : State) (own : Bool) : (touchWrite a n s own).parts = s.parts := by
  simp [touchWrite, apply_ite State.parts]

theorem atBulk_parts (alloc : Bool) (r : MemReq) (s : State) : (atBulk alloc r s).2.parts = s.parts := by
  have hdraw (n : Nat) (s : State) : (drawBytes n s).2.parts = s.parts := rfl
  grind [atBulk, homeRead_parts, homeWrite_parts, touchWrite_parts]

theorem answer_parts (r : MemReq) (v : MemRes) (s : State) : (answer r v s).parts = s.parts := by
  unfold answer countLine
  split <;> rfl

theorem endFill_parts (i : Nat) (s : State) : (endFill i s).parts = s.parts := by
  rw [endFill]
  split
  · rfl
  · exact foldl_parts _ _ (fun s r => (answer_parts r _ _).trans (atBulk_parts true r s)) _

theorem awaitLine_parts (a : Nat) (s : State) : (awaitLine a s).parts = s.parts := by
  have hscan : (if sliceBusy s (shareOwner s a) a then scanEnd (homeOf s (shareOwner s a) a).1 s else s).parts = s.parts := by
    rw [apply_ite State.parts, scanEnd_parts, ite_self]
  rw [awaitLine]
  split
  · exact (endFill_parts _ _).trans hscan
  · exact hscan

theorem awaitRead_parts (a len : Nat) (s : State) : (awaitRead a len s).2.parts = s.parts :=
  (homeRead_parts ..).trans (awaitLine_parts a s)

theorem awaitWrite_parts (a : Nat) (d : Bytes) (s : State) : (awaitWrite a d s).2.parts = s.parts :=
  (homeWrite_parts ..).trans (awaitLine_parts a s)

/-! ### The pieces of an access -/

theorem readThen_parts {p : Nat × Nat} {k : State → Except (Nat × Nat) Bytes × State} (hk : ∀ s, (k s).2.parts = s.parts)
    (r : Except Nat Bytes × State) : (readThen p r k).2.parts = r.2.parts := by
  obtain ⟨_ | d, s⟩ := r
  · rfl
  · have hdrawn : (if ownedResult s p.1 p.2 = true then drawBytes p.2 s else (d, s)).2.parts = s.parts := by split <;> rfl
    rw [readThen]
    refine Eq.trans ?_ ((hk _).trans hdrawn)
    dsimp only
    split <;> next h => rw [h]

theorem readPieces_parts (l : List (Nat × Nat)) (s : State) : (readPieces l s).2.parts = s.parts := by
  induction l generalizing s with
  | nil => rfl
  | cons p l ih => exact (readThen_parts ih _).trans (awaitRead_parts ..)

theorem writeThen_parts {p : Nat × Nat} {k : State → Except (Nat × Nat) Unit × State} (hk : ∀ s, (k s).2.parts = s.parts)
    (r : Except Nat Unit × State) : (writeThen p r k).2.parts = r.2.parts := by
  obtain ⟨_ | _, s⟩ := r
  · rfl
  · exact hk s

theorem writePieces_parts (l : List (Nat × Nat)) (d : Bytes) (s : State) : (writePieces l d s).2.parts = s.parts := by
  induction l generalizing d s with
  | nil => rfl
  | cons p l ih => exact (writeThen_parts (ih _) _).trans ((awaitWrite_parts ..).trans (touchWrite_parts ..))

theorem noteBulk_parts (nib : Option Nat) (code a n : Nat) (s : State) : (noteBulk nib code a n s).parts = s.parts := by
  unfold noteBulk
  split
  · exact raiseRec_parts _ s
  · split
    · exact raiseRec_parts _ s
    · rfl

theorem nibFetch_parts (n a len : Nat) (s : State) : (nibFetch n a len s).2.parts = s.parts := by
  have hread := readPieces_parts (hostPieces a len) s
  rw [nibFetch]
  split
  · next h => rw [h] at hread; exact hread
  · next h => rw [h] at hread; exact (noteBulk_parts ..).trans hread

theorem nibPut_parts (n a : Nat) (d : Bytes) (s : State) : (nibPut n a d s).parts = s.parts := by
  have hwrite := writePieces_parts (linePieces a d.length) d s
  rw [nibPut]
  split
  · next h => rw [h] at hwrite; exact hwrite
  · next h => rw [h] at hwrite; exact (noteBulk_parts ..).trans hwrite

/-! ### Flags, causes and seeds -/

theorem putGf_parts (f : Nat) (b : Bool) (s : State) : (putGf f b s).parts = s.parts :=
  foldl_parts (fun s o => answerHub o none s) _ (fun _ _ => rfl) _

theorem putFlag_parts (t f : Nat) (b : Bool) (s : State) : (putFlag t f b s).parts = s.parts := rfl

theorem causePart_parts (n i : Nat) (s : State) : (causePart n i s).parts = s.parts :=
  foldl_parts _ _ (fun s k => by simp [raiseCause, signalMsi, apply_ite State.parts]) s

theorem loadSeeds_parts (n : Nat) (v : Word) (s : State) : (loadSeeds n v s).parts = s.parts := by
  rw [loadSeeds]
  refine foldl_parts _ _ (fun s t => ?_) s
  rfl

end Sys2Proof.Machine

/-!
O49: commits (13 R356–R360), scrubs (16 R430, 17 R481) and samples (18 R502).
-/
namespace Sys2Proof.Machine

/-! ### The stamp (13 R356) -/

theorem State.part_of_parts {s s' : State} (h : s'.parts = s.parts) (n : Nat) : s'.part n = s.part n := by
  rw [State.part, h]; rfl

theorem State.onPart_part_of_parts {s s' : State} (h : s'.parts = s.parts) (n : Nat) (f : Part → Part) :
    (s'.onPart n f).part n = f (s.part n) := by
  rw [State.onPart_part, State.part_of_parts h]

theorem onCommit_part_of_parts {s s' : State} (h : s'.parts = s.parts) (n : Nat) (f : CommitSt → CommitSt) :
    (onCommit n f s').part n = { s.part n with commit := f (s.part n).commit } := State.onPart_part_of_parts h n _

theorem stampStep_part (n : Nat) (d : Commit) (s : State) : (stampStep n d s).part n =
    { s.part n with commit := { (s.part n).commit with st := 2, uSignal := false } } := by
  refine (State.part_of_parts (putFlag_parts ..) n).trans (onCommit_part_of_parts ?_ n _)
  dsimp only
  split
  · exact (nibPut_parts ..).trans (putGf_parts ..)
  · exact (nibPut_parts ..).trans ((nibFetch_parts ..).trans (putGf_parts ..))

theorem stampStep_flag (n : Nat) {d : Commit} (s : State) (hflag : d.flag < 256) :
    ((stampStep n d s).tile d.tile).flag d.flag = true := by
  rw [stampStep, putFlag_tile, Tile.putFlag_flag _ _ _ hflag, if_pos rfl]

/-! ### The apply (13 R359, R360) -/

/-- The commit records after the apply of step `t`, with a loss scale and a run counter and C's epoch. -/
def CommitSt.applied (d : Commit) (t : Word) (written : Bool) (scale : BitVec 32 × Nat) (epoch : BitVec 32) (c : CommitSt) : CommitSt :=
  { c with active := if written then !c.active else c.active, lscale := scale.1, run := scale.2,
           skipped := if written then c.skipped else c.skipped + 1, committed := t, next := t + 1,
           seed := seedFor d.j (t + 1), cEpoch := epoch, st := 1, cSignal := false }

theorem growScale_parts (d : Commit) (c : CommitSt) (s : State) : (growScale d c s).2.2.parts = s.parts := by
  rw [growScale]; dsimp only
  split
  · rfl
  · split <;> rfl

theorem biasValue_parts (rule : BitVec 3) (beta : BitVec 32) (t : Word) (s : State) : (biasValue rule beta t s).2.parts = s.parts := by
  rw [biasValue]
  split
  · rfl
  · split <;> rfl

theorem writeStep_parts (n : Nat) (d : Commit) (s : State) : (writeStep n d s).parts = s.parts :=
  (nibPut_parts ..).trans ((biasValue_parts ..).trans (biasValue_parts ..))

/-- The loss scale and the run counter that an apply finds, and what it has drawn for them. -/
def newScale (d : Commit) (written : Bool) (n : Nat) (s : State) : BitVec 32 × Nat × State :=
  if written then growScale d (s.part n).commit s else (cutScale d (s.part n).commit, 0, s)

theorem newScale_parts (d : Commit) (written : Bool) (n : Nat) (s : State) : (newScale d written n s).2.2.parts = s.parts := by
  rw [newScale]
  split
  · exact growScale_parts ..
  · rfl

/-- An apply leaves the records of the step applied and RDNF clear. -/
theorem applyStep_part (n : Nat) (d : Commit) (t : Word) (written : Bool) (s : State) :
    let scale := newScale d written n s
    (applyStep n d t written s).part n = { s.part n with
      commit := (s.part n).commit.applied d t written (scale.1, scale.2.1) (scale.2.2.hub.bar d.cbar).epoch, rdnf := false } := by
  intro scale
  have hend (s' : State) : (causePart n 7 (putGf d.stepFlag true (loadSeeds n (seedFor d.j (t + 1)) s'))).part n = s'.part n :=
    State.part_of_parts ((causePart_parts ..).trans ((putGf_parts ..).trans (loadSeeds_parts ..))) n
  refine (hend _).trans ((State.onPart_part_of_parts (writeStep_parts ..) n _).trans ?_)
  exact congrArg (fun p : Part => { p with rdnf := false }) (onCommit_part_of_parts (newScale_parts d written n s) n _)

theorem applyStep_stepFlag (n : Nat) {d : Commit} (t : Word) (written : Bool) (s : State) (hflag : d.stepFlag < 1024) :
    (applyStep n d t written s).hub.gf.getLsbD d.stepFlag = true := by
  rw [applyStep, causePart_hub, putGf_gf, getLsbD_setBit _ _ _ _ hflag, if_pos rfl]

/-! ### The commands of a lead Nib core that leads (13 R356, R359) -/

section Commands
variable {n : PartId} {d : Commit} {s : State} (htrip : s.dev.boot.trip = false) (hdesc : (s.part n).commit.desc = some d)
  (hst : (s.part n).load.st = 2) (halive : leadAlive s n = true) (hfault : faultDue s (leadRegion s n) = false)

include htrip hdesc hst halive hfault

theorem commitStamp_run (hsignal : (s.part n).commit.uSignal = true) : exec (.commitStamp n) s = .next (stampStep n d s) := by
  refine congrArg Host.Outcome.next ((selfTimed_run htrip).trans ?_)
  rw [hdesc]
  exact if_pos ⟨hsignal, hst, halive, by simp [hfault]⟩

theorem commitApply_run (hsignal : (s.part n).commit.cSignal = true) :
    let stamp := nibFetch n (stampAt d (!(s.part n).commit.active)) 32 s
    exec (.commitApply n) s =
      .next (applyStep n d (s.part n).commit.next (decide (fieldOf stamp.1 0 32 96 8 = 1)) stamp.2) := by
  refine congrArg Host.Outcome.next ((selfTimed_run htrip).trans ?_)
  rw [hdesc]
  dsimp only
  rw [if_pos ⟨hsignal, hst, halive, by simp [hfault]⟩, State.part_of_parts (nibFetch_parts ..)]

end Commands

/-! ### The patrol scrub (16 R430) -/

theorem raiseRec_bulk (r : Rec) (s : State) : (raiseRec r s).dev.bulk = s.dev.bulk := by
  unfold raiseRec
  extract_lets full
  split <;> rfl

/-- The patrol scrub's read of the line that holds `a`, and the mark of one that it cannot correct. -/
def patrolRead (a : Nat) (s : State) : State :=
  let l := a / 128
  let x := openRow (l * 128) s
  if bulkLineBad s l && !s.dev.bulk.badLines.contains l then
    raiseRec (plainRec x 0x0F 0 2 7 13 0 (l * 128)) (x.onBulk (fun b => { b with badLines := b.badLines ++ [l], marked := satAdd 32 b.marked 1 }))
  else x

theorem patrolRead_keeps (a : Nat) (s : State) : (patrolRead a s).mem = s.mem ∧ (patrolRead a s).tiles = s.tiles ∧
    (patrolRead a s).dev.bulk.gib = s.dev.bulk.gib ∧ (patrolRead a s).dev.bulk.patrolAt = s.dev.bulk.patrolAt ∧
    (patrolRead a s).dev.bulk.patrolHours = s.dev.bulk.patrolHours := by
  unfold patrolRead
  dsimp only
  split
  · rw [raiseRec_mem, raiseRec_tiles, raiseRec_bulk]
    exact ⟨rfl, rfl, rfl, rfl, rfl⟩
  · exact ⟨rfl, rfl, rfl, rfl, rfl⟩

theorem patrolRead_good {a : Nat} {s : State} (h : bulkLineBad s (a / 128) = false) : patrolRead a s = openRow (a / 128 * 128) s :=
  if_neg (by simp [h])

theorem patrolRead_bad {a : Nat} {s : State} (h : bulkLineBad s (a / 128) = true) :
    a / 128 ∈ (patrolRead a s).dev.bulk.badLines := by
  unfold patrolRead
  dsimp only
  split
  · rw [raiseRec_bulk]
    exact List.mem_append_right _ (List.mem_singleton_self _)
  · next hmarked => simpa [h, openRow] using hmarked

/-- Whether a pass ends with line `l`. -/
def passEnds (l : Nat) (s : State) : Bool := decide ((bulkBase + s.dev.bulk.gib * gib) / 128 ≤ l + 1)

/-- The pass moves on where `l` is its next line. -/
def passStep (done : Bool) (l : Nat) (b : Bulk) : Bulk :=
  if l ≠ bulkBase / 128 + b.patrolAt then b
  else { b with patrolAt := if done then 0 else b.patrolAt + 1, patrolHours := if done then 0 else b.patrolHours }

theorem patrol_eq (a : Nat) (s : State) :
    patrol a s = (patrolRead a s).onBulk (passStep (passEnds (a / 128) (patrolRead a s)) (a / 128)) := by
  rw [patrol, patrolRead]
  rfl

theorem passStep_badLines (done : Bool) (l : Nat) (b : Bulk) : (passStep done l b).badLines = b.badLines := by
  rw [passStep]
  split <;> rfl

theorem passStep_other (done : Bool) {l : Nat} {b : Bulk} (h : l ≠ bulkBase / 128 + b.patrolAt) : passStep done l b = b := if_pos h

theorem passStep_next (done : Bool) {l : Nat} {b : Bulk} (h : l = bulkBase / 128 + b.patrolAt) :
    (passStep done l b).patrolAt = (if done then 0 else b.patrolAt + 1) ∧
      (passStep done l b).patrolHours = (if done then 0 else b.patrolHours) := by
  rw [passStep, if_neg (not_not_intro h)]
  exact ⟨rfl, rfl⟩

/-! ### What the patrol leaves -/

theorem patrol_keeps (a : Nat) (s : State) : (patrol a s).mem = s.mem ∧ (patrol a s).tiles = s.tiles := by
  obtain ⟨hmem, htiles, -⟩ := patrolRead_keeps a s
  rw [patrol_eq]
  exact ⟨hmem, htiles⟩

theorem patrol_other {a : Nat} {s : State} (h : a / 128 ≠ bulkBase / 128 + s.dev.bulk.patrolAt) :
    (patrol a s).dev.bulk.patrolAt = s.dev.bulk.patrolAt ∧ (patrol a s).dev.bulk.patrolHours = s.dev.bulk.patrolHours := by
  obtain ⟨-, -, -, hat, hhours⟩ := patrolRead_keeps a s
  rw [patrol_eq, State.onBulk_dev_bulk, passStep_other _ (hat.symm ▸ h)]
  exact ⟨hat, hhours⟩

theorem patrol_next {a : Nat} {s : State} {done : Bool} (h : a / 128 = bulkBase / 128 + s.dev.bulk.patrolAt)
    (hdone : passEnds (a / 128) s = done) :
    (patrol a s).dev.bulk.patrolAt = (if done then 0 else s.dev.bulk.patrolAt + 1) ∧
      (patrol a s).dev.bulk.patrolHours = (if done then 0 else s.dev.bulk.patrolHours) := by
  obtain ⟨-, -, hgib, hat, hhours⟩ := patrolRead_keeps a s
  have hends : passEnds (a / 128) (patrolRead a s) = done := by rw [← hdone, passEnds, hgib, passEnds]
  obtain ⟨hstep, hpass⟩ := passStep_next done (hat.symm ▸ h)
  rw [patrol_eq, State.onBulk_dev_bulk, hends, hstep, hpass, hat, hhours]
  exact ⟨rfl, rfl⟩

theorem patrol_bad {a : Nat} {s : State} (h : bulkLineBad s (a / 128) = true) : a / 128 ∈ (patrol a s).dev.bulk.badLines := by
  rw [patrol_eq, State.onBulk_dev_bulk, passStep_badLines]
  exact patrolRead_bad h

theorem patrol_good {a : Nat} {s : State} (h : bulkLineBad s (a / 128) = false) :
    (patrol a s).dev.bulk.badLines = s.dev.bulk.badLines ∧ (patrol a s).net = s.net := by
  rw [patrol_eq, State.onBulk_dev_bulk, passStep_badLines, patrolRead_good h]
  exact ⟨rfl, rfl⟩

/-- Without an upset, PATROL_SCRUB of a usable line is the patrol's step. -/
theorem patrolScrub_run {a : Nat} {s : State} (h : s.place a = .bulk) : exec (.patrolScrub a .none) s = .next (patrol a s) := by
  refine congrArg Host.Outcome.next ?_
  rw [h]
  rfl

/-! ### The background scrub (17 R481) -/

theorem any_addRange (lo hi g : Nat) (h : lo ≤ g ∧ g < hi) (l : List (Nat × Nat)) :
    (addRange lo hi l).any (fun (a, b) => decide (a ≤ g) && decide (g < b)) = true := by
  induction l generalizing lo hi with
  | nil => simp [addRange, h]
  | cons p l ih =>
    rw [addRange]
    split
    · simp [h]
    · split
      · rw [List.any_cons, ih lo hi h, Bool.or_true]
      · exact ih _ _ (by omega)

theorem scrubGranule_isScrubbed (g : Nat) (s : State) : isScrubbed (scrubGranule g s) g = true :=
  any_addRange g (g + 1) g (by omega) _

theorem Map.get_erase {α : Type} (d : α) (p : Nat → Bool) (m : SMap α) (k : Nat) :
    Map.get d (Map.erase p m) k = if p k then d else Map.get d m k := by
  induction m with
  | nil => simp [Map.erase, Map.get]
  | cons x m ih =>
    have hcons : Map.erase p (x :: m) = if p x.1 then Map.erase p m else x :: Map.erase p m := by
      simp only [Map.erase, List.filter_cons]
      cases p x.1 <;> rfl
    rw [hcons, Map.get]
    by_cases hk : x.1 = k
    · subst hk
      cases hp : p x.1 <;> simp [Map.get, ih, hp]
    · cases p x.1 <;> simp [Map.get, ih, hk]

/-- A byte after a granule was zeroed. -/
theorem scrubGranule_byte (g a : Nat) (s : State) : (scrubGranule g s).bytes a 1 =
    if bulkBase + g * 0x100000 ≤ a ∧ a < bulkBase + (g + 1) * 0x100000 then [0#8] else s.bytes a 1 := by
  have hend : bulkBase + (g + 1) * 0x100000 = bulkBase + g * 0x100000 + 0x100000 := by ring
  rw [hend]
  have hget := Map.get_erase 0#8 (fun a => decide (bulkBase + g * 0x100000 ≤ a) && decide (a < bulkBase + g * 0x100000 + 0x100000)) s.mem a
  simp only [Bool.and_eq_true, decide_eq_true_eq] at hget
  refine (congrArg (fun v => [v]) hget).trans ?_
  split <;> rfl

theorem backgroundScrub_run {s : State} {g : Nat}
    (h : (List.range (s.dev.bulk.gib * 1024)).find? (fun g => !isScrubbed s g) = some g) :
    exec .backgroundScrub s = .next (scrubGranule g s) := by
  refine congrArg Host.Outcome.next ?_
  rw [h]

/-! ### Samples (18 R502) -/

theorem pcsample_off {s : State} (t : TileId) (h : s.dev.trace.sample = 0) : exec (.pcsample t) s = .next s :=
  congrArg Host.Outcome.next ((congrArg (selfTimed s) (if_pos h)).trans (ite_self s))

theorem pcsample_on {s : State} (t : TileId) (htrip : s.dev.boot.trip = false) (h : s.dev.trace.sample ≠ 0) :
    exec (.pcsample t) s = .next (traceTile t 1 0 0xFFFFFFFF
      ([0, 1, 2, 3].flatMap (fun c => toBytes ((s.tile t).cx c).pc.toNat 4)
        ++ [0, 1, 2, 3].map (fun c => BitVec.ofNat 8 (((s.tile t).cx c).st.code + ((s.tile t).cx c).waitInfo.1 * 8))) s) :=
  congrArg Host.Outcome.next ((selfTimed_run htrip).trans (if_neg h))

/-! ### The statement -/

/-- Settles O49: the commands by what the stamp, the apply, the patrol, the scrub and the sample leave. -/
theorem commitsScrubsAndSamples : Obligations.CommitsScrubsAndSamples := by
  unfold Obligations.CommitsScrubsAndSamples
  intro s
  refine ⟨fun n d htrip hdesc hst halive hfault => ⟨fun hsignal => ?_, fun hsignal => ?_⟩, fun a hplace => ?_, fun g hg => ?_,
    fun t htrip => ⟨pcsample_off t, pcsample_on t htrip⟩⟩
  · have hpart := stampStep_part n d s
    exact ⟨_, commitStamp_run htrip hdesc hst halive hfault hsignal, by rw [hpart], by rw [hpart], stampStep_flag n s⟩
  · have hrun := commitApply_run htrip hdesc hst halive hfault hsignal
    have hread := State.part_of_parts (nibFetch_parts n (stampAt d (!(s.part n).commit.active)) 32 s) n
    dsimp only at hrun ⊢
    generalize nibFetch n (stampAt d (!(s.part n).commit.active)) 32 s = r at hrun hread ⊢
    generalize decide (fieldOf r.1 0 32 96 8 = 1) = ok at hrun ⊢
    have hpart := applyStep_part n d (s.part n).commit.next ok r.2
    rw [hread] at hpart
    refine ⟨_, hrun, ?_⟩
    rw [hpart]
    refine ⟨rfl, rfl, rfl, rfl, rfl, ?_, ?_, rfl, applyStep_stepFlag n _ _ _⟩
    · rintro rfl
      exact ⟨rfl, rfl⟩
    · rintro rfl
      exact ⟨rfl, rfl, congrArg (fun p : Part => cutScale d p.commit) hread, rfl⟩
  · obtain ⟨hmem, htiles⟩ := patrol_keeps a s
    exact ⟨_, patrolScrub_run hplace, hmem, htiles, patrol_other, fun hnext => ⟨fun hmore => patrol_next hnext (decide_eq_false (by omega)),
      fun hlast => patrol_next hnext (decide_eq_true hlast)⟩, patrol_bad, patrol_good⟩
  · exact ⟨_, backgroundScrub_run hg, scrubGranule_isScrubbed g s, scrubGranule_tiles g s, rfl,
      fun a hlo hhi => (scrubGranule_byte g a s).trans (if_pos ⟨hlo, hhi⟩),
      fun a hout => (scrubGranule_byte g a s).trans (if_neg (by omega))⟩

end Sys2Proof.Machine

/-!
SUPPORT. What stops, clearing passes and fences of a partition leave of the partitions' records and of its tiles and regions
(14 R376, R386; 17 R479, R480, R482).
-/
namespace Sys2Proof.Machine

/-! ### Records of the partitions -/

theorem setDevState_parts (st : Nat) (s : State) : (setDevState st s).parts = s.parts := by
  rw [setDevState]
  split
  · rfl
  · exact foldl_parts _ _ (fun s k => by simp [raiseCause, signalMsi, apply_ite State.parts]) _

theorem settleDevState_parts (s : State) : (settleDevState s).parts = s.parts := by
  rw [settleDevState]
  split
  · exact setDevState_parts _ s
  · rfl

/-- A change of a load's state changes nothing else of its partition. -/
theorem setLoad_part (n st : Nat) (s : State) :
    (setLoad n st s).part n = { s.part n with load := { (s.part n).load with st := BitVec.ofNat 8 st } } := by
  unfold setLoad
  extract_lets old was s1 s2 p l
  split
  · next hsame => rw [← hsame, BitVec.ofNat_toNat, BitVec.setWidth_eq]
  · have h1 : s1.parts = s.parts := by dsimp only [s1]; split <;> rfl
    have hidle : (if !was && exchangeIdle s2 then newIdle s2 else s2).parts = s2.parts := by split <;> rfl
    rw [State.part_of_parts ((settleDevState_parts _).trans ((causePart_parts ..).trans hidle))]
    exact State.onPart_part_of_parts h1 n _

theorem stopTile_parts (t : Nat) (s : State) : (stopTile t s).parts = s.parts := by
  obtain ⟨⟨-, -, -, -, hparts, -⟩, -⟩ := stopTile_frame t s
  exact hparts

theorem tileFault_parts (t : Nat) (fi : FaultInfo) (s : State) : (tileFault t fi s).parts = s.parts := by
  simp [tileFault, apply_ite State.parts, raiseRec_parts, stopTile_parts]

theorem answerHub_parts (o : HubOp) (v : Option Word) (s : State) : (answerHub o v s).parts = s.parts := rfl

theorem hubFault_parts (o : HubOp) (code : Nat) (s : State) : (hubFault o code s).parts = s.parts := tileFault_parts ..

theorem semSignal_parts (o : HubOp) (s : State) : (semSignal o s).parts = s.parts := by
  rw [semSignal]
  dsimp only
  split
  · exact hubFault_parts o _ s
  · rfl

theorem applyHub_parts (o : HubOp) (s : State) : (applyHub o s).parts = s.parts := by
  unfold applyHub
  extract_lets own v
  split
  · exact hubFault_parts o _ s
  · cases o.kind <;> dsimp only <;>
      simp [apply_ite State.parts, answerHub_parts, putGf_parts, semSignal_parts]

theorem quiesce_parts (n : Nat) (s : State) : (quiesce n s).parts = s.parts := by
  unfold quiesce
  extract_lets ops s1 s2 writes s3 mine self
  have h2 : s2.parts = s.parts := foldl_parts _ _ (fun s o => applyHub_parts o s) s1
  have h3 : s3.parts = s2.parts := foldl_parts _ _ (fun s r => by
    split
    · split
      · exact (atBulk_parts ..).trans (awaitLine_parts ..)
      · rfl
    · rfl) s2
  exact h3.trans h2

theorem settleBars_parts (l : List Nat) (s : State) : (settleBars l s).parts = s.parts :=
  foldl_parts _ _ (fun s b => State.onBar_parts s b _) s

theorem clearTiles_parts (n : Nat) (s : State) : (clearTiles n s).parts = s.parts := by
  unfold clearTiles
  extract_lets s1 s2 ep s3 s4 s5
  have h2 : s2.parts = s.parts := (settleBars_parts ..).trans (quiesce_parts n s)
  have h4 : s4.parts = s3.parts := foldl_parts _ _ (fun s t => State.onTile_parts s t _) s3
  have h5 : s5.parts = s4.parts := foldl_parts _ _ (fun s r => State.onRegion_parts s r _) s4
  exact h5.trans (h4.trans h2)

theorem fence_parts (n : Nat) (b : Bool) (s : State) : (fence n b s).parts = s.parts := by
  rw [fence]
  refine foldl_parts _ _ (fun s t => ?_) s
  rfl

theorem stopTiles_parts (l : List Nat) (s : State) :
    (l.foldl (fun s t => if s.tile t = {} then s else stopTile t s) s).parts = s.parts :=
  foldl_parts _ _ (fun s t => by rw [apply_ite State.parts, stopTile_parts, ite_self]) s

theorem stopRegion_parts (r cause : Nat) (s : State) : (stopRegion r cause s).parts = s.parts := by
  rw [stopRegion]
  split
  · rfl
  · rw [State.onRegion_parts, raiseRec_parts, stopTiles_parts]

theorem returnTokens_parts (r : Nat) (s : State) : (returnTokens r s).parts = s.parts := by
  have hdrop (s : State) : (dropTokens r s).parts = s.parts := by
    rw [dropTokens, State.onRegion_parts, foldl_parts _ _ (fun s t => State.onTile_parts s t _)]
  rw [returnTokens, settleTokens]
  split
  · exact hdrop _
  · rfl

/-! ### Regions -/

theorem foldl_regions {α : Type} (g : State → α → State) (l : List α) (h : ∀ s x, (g s x).regions = s.regions) (s : State) :
    (l.foldl g s).regions = s.regions :=
  List.foldlRecOn (motive := fun s' : State => s'.regions = s.regions) l g rfl (fun s' hs x _ => (h s' x).trans hs)

theorem State.region_of_regions {s s' : State} (h : s'.regions = s.regions) (r : Nat) : s'.region r = s.region r := by
  rw [State.region, h]; rfl

theorem raiseRec_regions (r : Rec) (s : State) : (raiseRec r s).regions = s.regions := by
  simp [raiseRec, apply_ite State.regions]

theorem raiseCause_regions (k i : Nat) (s : State) : (raiseCause k i s).regions = s.regions := by
  simp [raiseCause, signalMsi, apply_ite State.regions]

theorem causePart_regions (n i : Nat) (s : State) : (causePart n i s).regions = s.regions :=
  foldl_regions _ _ (fun s k => raiseCause_regions k i s) s

theorem settleDevState_regions (s : State) : (settleDevState s).regions = s.regions := by
  have hset (st : Nat) : (setDevState st s).regions = s.regions := by
    rw [setDevState]
    split
    · rfl
    · exact foldl_regions _ _ (fun s k => raiseCause_regions k 5 s) _
  rw [settleDevState]
  split
  · exact hset _
  · rfl

theorem setLoad_regions (n st : Nat) (s : State) : (setLoad n st s).regions = s.regions := by
  simp [setLoad, apply_ite State.regions, settleDevState_regions, causePart_regions, newIdle, endLoadRequest]

theorem stopTile_regions (t : Nat) (s : State) : (stopTile t s).regions = s.regions := by
  obtain ⟨⟨-, -, hregions, -⟩, -⟩ := stopTile_frame t s
  exact hregions

theorem stopTiles_regions (l : List Nat) (s : State) :
    (l.foldl (fun s t => if s.tile t = {} then s else stopTile t s) s).regions = s.regions :=
  foldl_regions _ _ (fun s t => by rw [apply_ite State.regions, stopTile_regions, ite_self]) s

/-- A region stop stops its region and no other. -/
theorem stopRegion_stopped (r cause q : Nat) (s : State) : ((stopRegion r cause s).region q).nib.stopped =
    (decide (q = r) || (s.region q).nib.stopped) := by
  rw [stopRegion]
  split
  · next hstopped => by_cases hq : q = r <;> simp [hq, hstopped]
  · rw [State.region_onRegion]
    by_cases hq : q = r
    · rw [if_pos hq, decide_eq_true hq, Bool.true_or]
    · rw [if_neg hq, State.region_of_regions ((raiseRec_regions ..).trans (stopTiles_regions ..)), decide_eq_false hq, Bool.false_or]

theorem stopRegions_stopped (cause : Nat) (l : List Nat) (s : State) {q : Nat} (hq : q ∈ l) :
    ((l.foldl (fun s r => stopRegion r cause s) s).region q).nib.stopped = true := by
  have hkeep (l : List Nat) (s : State) (h : (s.region q).nib.stopped = true) :
      ((l.foldl (fun s r => stopRegion r cause s) s).region q).nib.stopped = true :=
    List.foldlRecOn (motive := fun s' : State => (s'.region q).nib.stopped = true) l _ h
      (fun s' hs r _ => by rw [stopRegion_stopped, hs, Bool.or_true])
  induction l generalizing s with
  | nil => cases hq
  | cons r l ih =>
    rw [List.foldl_cons]
    rcases List.mem_cons.mp hq with rfl | hq
    · exact hkeep l _ (by simp [stopRegion_stopped])
    · exact ih _ hq

/-- Tokens that are given back change nothing of a Nib core. -/
theorem returnTokens_nib (r q : Nat) (s : State) : ((returnTokens r s).region q).nib = (s.region q).nib := by
  have honRegion (f : Reg → Reg) (hf : ∀ g, (f g).nib = g.nib) (s : State) : ((s.onRegion r f).region q).nib = (s.region q).nib := by
    rw [State.region_onRegion]
    split
    · next h => rw [hf, h]
    · rfl
  have hdrop (s : State) : ((dropTokens r s).region q).nib = (s.region q).nib := by
    rw [dropTokens, honRegion, State.region_of_regions (foldl_regions _ _ (fun s t => State.onTile_regions s t _) s)]
    exact fun _ => rfl
  rw [returnTokens, settleTokens]
  rw [apply_ite State.region, apply_ite (fun f : Nat → Reg => (f q).nib), hdrop, ite_self, honRegion]
  exact fun _ => rfl

/-! ### Bands and fences -/

theorem bandOf_of_band {s s' : State} {n : Nat} (h : (s'.part n).band = (s.part n).band) : bandOf s' n = bandOf s n := by
  rw [bandOf, h]; rfl

theorem partTiles_of_band {s s' : State} {n : Nat} (h : (s'.part n).band = (s.part n).band) : partTiles s' n = partTiles s n := by
  rw [partTiles, bandOf_of_band h]; rfl

theorem fence_fenced (n : Nat) (b : Bool) (s : State) {t : Nat} (ht : t ∈ partTiles s n) : ((fence n b s).tile t).fenced = b := by
  have hset (l : List Nat) (s : State) (h : t ∈ l ∨ (s.tile t).fenced = b) :
      ((l.foldl (fun s t => s.onTile t (fun x => { x with fenced := b })) s).tile t).fenced = b := by
    induction l generalizing s with
    | nil => simpa using h
    | cons u l ih =>
      refine ih _ ?_
      rw [State.tile_onTile]
      by_cases hu : t = u
      · simp [hu]
      · simpa [hu] using h
  exact hset _ s (.inl ht)

/-! ### The stop of a partition -/

theorem stopPartition_part {n : Nat} (cause : Nat) {s : State} (h : (s.part n).load.st = 1 ∨ (s.part n).load.st = 2) :
    (stopPartition n cause s).part n = { s.part n with load := { (s.part n).load with st := 3 } } := by
  unfold stopPartition
  extract_lets s1 was s2
  have h1 : s1.part n = s.part n := State.part_of_parts (foldl_parts _ _ (fun s r => stopRegion_parts r cause s) s) n
  have h2 : s2.part n = s1.part n := by
    refine State.part_of_parts ?_ n
    dsimp only [s2]
    split
    · exact foldl_parts _ _ (fun s t => State.onTile_parts s t _) s1
    · rfl
  have hwas : was = 1 ∨ was = 2 := by rwa [← h1] at h
  rw [if_pos hwas, State.part_of_parts (foldl_parts _ _ (fun s r => returnTokens_parts r s) _), setLoad_part, h2, h1]
  rfl

theorem stopPartition_stopped {n : Nat} (cause : Nat) {s : State} (h : (s.part n).load.st = 1 ∨ (s.part n).load.st = 2) {r : Nat}
    (hr : r ∈ bandOf s n) : ((stopPartition n cause s).region r).nib.stopped = true := by
  unfold stopPartition
  extract_lets s1 was s2
  have h1 : s1.part n = s.part n := State.part_of_parts (foldl_parts _ _ (fun s r => stopRegion_parts r cause s) s) n
  have hstop : (s1.region r).nib.stopped = true := stopRegions_stopped cause _ s hr
  have h2 : s2.regions = s1.regions := by
    dsimp only [s2]
    split
    · exact foldl_regions _ _ (fun s t => State.onTile_regions s t _) s1
    · rfl
  have hwas : was = 1 ∨ was = 2 := by rwa [← h1] at h
  rw [if_pos hwas]
  refine List.foldlRecOn (motive := fun s' : State => (s'.region r).nib.stopped = true) _ _ ?_ (fun s' hs q _ => ?_)
  · rwa [State.region_of_regions ((setLoad_regions ..).trans h2)]
  · rwa [returnTokens_nib]

end Sys2Proof.Machine

/-!
O54: loads and FORGET (14 R385, R386, R389), APPLY (17 R476), tenant commands (17 R478–R482), FORWARD and BACK (13 R365).
-/
namespace Sys2Proof.Machine

/-! ### Entries of a partition's mirrors -/

theorem Answered.parts {s s' : State} (h : Answered s s') : s'.parts = s.parts := by
  obtain ⟨-, -, -, -, -, -, -, hparts, -⟩ := h; exact hparts

theorem Answered.regions {s s' : State} (h : Answered s s') : s'.regions = s.regions := by
  obtain ⟨-, -, -, -, -, -, hregions, -⟩ := h; exact hregions

@[simp] theorem heard_part (s : State) (p : Path) (n : Nat) : (heard s p).part n = s.part n :=
  State.part_of_parts (heard_answered s p).parts n

/-- The write of value `v` to entry `k` of partition `n`'s mirror of 0x2800. -/
abbrev partWrite (h : ReqHdr) (n : PartId) (k v : Nat) : Req :=
  plainReq h 2 (BitVec.ofNat 16 (0x3080 + 0x100 * n.val)) (BitVec.ofNat 8 k) [BitVec.ofNat 8 v]

/-- The write of value `v` to 0x2E00:20 of partition `n`'s mirror. -/
abbrev recoveryWrite (h : ReqHdr) (n : PartId) (v : Byte) : Req := plainReq h 2 (BitVec.ofNat 16 (0x30E0 + 0x100 * n.val)) 0x20 [v]

/-- Every mirror of 0x2800 is its partition's. -/
theorem originalOf_partMirror : ∀ n : PartId, originalOf (BitVec.ofNat 16 (0x3080 + 0x100 * n.val)).toNat = some (0x2800, some n.val) := by
  decide

/-- Every mirror of 0x2E00 is its partition's. -/
theorem originalOf_commitMirror : ∀ n : PartId, originalOf (BitVec.ofNat 16 (0x30E0 + 0x100 * n.val)).toNat = some (0x2E00, some n.val) := by
  decide

/-! ### Loads (14 R385–R391) -/

theorem writeEntry_load (n : Nat) (v : Byte) (s : State) : writeEntry none s (some n) 0x2800 0x41 [v] = writeLoad n v.toNat s := by
  have hwrite : writeEntry none s (some n) 0x2800 0x41 [v] = writeLoad n (leNat [v]) s := rfl
  rw [hwrite, leNat_singleton]

theorem writeEntry_forget {n : Nat} {s : State} (hidle : ¬((s.part n).load.st = 1 ∨ (s.part n).tn.cmd = 1)) :
    (writeEntry none s (some n) 0x2800 0x41 [3]).left s = s.onSec (fun k => { k with digests := [] }) := by
  rw [writeEntry_load, writeLoad, if_neg (by decide), if_neg hidle]
  rfl

/-- The write of a load's start, in verify mode or not, leaves what the load leaves. -/
theorem writeLoad_left {n v : Nat} {s : State} (hv : v = 1 ∨ v = 2) (hidle : ¬((s.part n).load.st = 1 ∨ (s.part n).tn.cmd = 1)) :
    (writeLoad n v s).left s = (load n (v == 1) (serveFaults n s)).2 := by
  rw [writeLoad, if_neg (by omega), if_neg hidle, if_neg (by omega)]
  obtain ⟨_ | _, s'⟩ := load n (v == 1) (serveFaults n s) <;> rfl

/-- A load of a partition that runs is refused. -/
theorem load_of_running {n : Nat} (verify : Bool) {s : State} (hruns : (s.part n).load.st = 2) :
    (load n verify s).2 = refuseLoad n verify { reason := 1 } s := by
  have hrefused : load n verify s = (false, refuseLoad n verify { reason := 1 } s) := by
    unfold load
    extract_lets st
    have hst : st = 2 := hruns
    exact if_pos (by rw [hst]; decide)
  rw [hrefused]

/-- What a refused load leaves of its partition (14 R387, R390). -/
theorem refuseLoad_part (n : Nat) (verify : Bool) (r : Refuse) (s : State) : ((refuseLoad n verify r s).part n).load.st = 4 ∧
    ((refuseLoad n verify r s).part n).load.reason = BitVec.ofNat 8 r.reason := by
  unfold refuseLoad
  extract_lets code loc lead s1 s2
  rw [setLoad_part, State.onPart_part_of_parts ((fence_parts ..).trans (clearTiles_parts n s2)), State.onPart_part]
  exact ⟨rfl, rfl⟩

/-! ### A doorbell (19 R514) -/

theorem handle_of_doorbell {r : Req} {f : FnId} {x : BitVec 3} (p : Option Probes) (s : State) (hpath : r.path = .doorbell f x) :
    handle p r s = doorbell f x (r.data.headD 0) s := by
  unfold handle
  extract_lets run
  rw [hpath]

/-- A doorbell that is not pending is a write of its function's own partition. -/
theorem doorbell_of_served {path : Path} {f : FnId} {x : BitVec 3} {s : State} (v : Byte) (hpath : path = .doorbell f x)
    (hserved : pageServed s f = true) (hfree : doorbellPending s f = false) (hready : computeReady s = true)
    (hroom : s.dev.mgmt.pend.length < 8) :
    let p := match vfPath path with | some n => n | none => if s.dev.pcie.vfEnable then x.toNat else 0
    doorbell f x v s = respond none { path := path, ver := 1, op := 2, txn := 0, index := mirrorIndex 8 p, sub := 0x41,
                                      length := 1, data := [v] } s := by
  subst hpath
  unfold doorbell
  extract_lets path n r p
  exact (if_neg (by simp [hserved])).trans ((if_neg (by simp [hfree])).trans ((if_neg (by simp [hready])).trans (if_neg (by omega))))

/-! ### APPLY (17 R476) -/

@[simp] theorem heard_applyResult (s : State) (p : Path) : applyResult (heard s p) = applyResult s := by cases p <;> rfl
@[simp] theorem heard_st (s : State) (p : Path) : (heard s p).dev.boot.st = s.dev.boot.st := by cases p <;> rfl

theorem writeEntry_apply {m : Option Nat} {s : State} (hst : s.dev.boot.st = 5) :
    (writeEntry none s m 0x2800 5 [1]).left s = (applyTable s).2 := by
  have hwrite : writeEntry none s m 0x2800 5 [1] = if s.dev.boot.st ≠ 5 then .stat stNotStopped
      else .pend (stEnd (applyTable s).1) (applyTable s).2 := rfl
  rw [hwrite, if_neg (not_not_intro hst), WriteRes.left]

theorem applyTable_valid {s : State} (hvalid : applyResult s = 1) : (applyTable s).2 =
    (enforce (s.onStaged (fun g => { g with result := 1 })).dev.staged (s.onStaged (fun g => { g with result := 1 }))).onStaged
      (fun g => { g with inForce := true }) := by
  unfold applyTable
  extract_lets k s1
  have hk : k = 1 := hvalid
  rw [if_pos hk]
  dsimp only [s1]
  rw [hk]
  rfl

theorem applyTable_invalid {s : State} (hinvalid : applyResult s ≠ 1) : (applyTable s).2 =
    s.onStaged (fun g => { g with result := BitVec.ofNat 8 (applyResult s) }) := by
  rw [applyTable, if_neg hinvalid]

/-! ### FORWARD and BACK (13 R365) -/

theorem writeEntry_recovery (n : Nat) (v : Byte) (s : State) : writeEntry none s (some n) 0x2E00 0x20 [v] = writeRecovery n v.toNat s := by
  have hwrite : writeEntry none s (some n) 0x2E00 0x20 [v] = writeRecovery n (leNat [v]) s := rfl
  rw [hwrite, leNat_singleton]

section Recovery
variable {n : Nat} {s : State} {d : Commit}

theorem onCommit_part (f : CommitSt → CommitSt) : (onCommit n f s).part n = { s.part n with commit := f (s.part n).commit } :=
  State.onPart_part ..

/-- What a FORWARD (1) or BACK gives as its result and leaves; without a commit description the result is 2 (log 26). -/
def recoveryRun (n v : Nat) (s : State) : Nat × State :=
  match (s.part n).commit.desc with
  | none => (2, s)
  | some d => if v = 1 then forward n d s else back n d s

theorem recoveryRun_none (v : Nat) (hdesc : (s.part n).commit.desc = none) : recoveryRun n v s = (2, s) := by rw [recoveryRun, hdesc]

theorem recoveryRun_some (v : Nat) (hdesc : (s.part n).commit.desc = some d) :
    recoveryRun n v s = if v = 1 then forward n d s else back n d s := by rw [recoveryRun, hdesc]

/-- The write of a FORWARD or BACK notes the command, runs it and notes its result. -/
theorem writeRecovery_left {v : Byte} (hv : v = 1 ∨ v = 2) : (writeRecovery n v.toNat s).left s =
    onCommit n (fun c => { c with result := BitVec.ofNat 8 (recoveryRun n v.toNat (onCommit n (fun c => { c with cmd := v }) s)).1 })
      (recoveryRun n v.toNat (onCommit n (fun c => { c with cmd := v }) s)).2 := by
  rcases hv with rfl | rfl <;> rfl

/-- BACK makes the step after the committed one the next, and clears RDNF. -/
theorem back_part (n : Nat) (d : Commit) (s : State) : (back n d s).2.part n = { s.part n with
    commit := { (s.part n).commit with next := (s.part n).commit.committed + 1, seed := seedFor d.j ((s.part n).commit.committed + 1), st := 1 },
    rdnf := false } := by
  rw [back, State.onPart_part_of_parts (writeStep_parts ..), onCommit_part]

end Recovery

/-! ### The ends of tenant commands (17 R478) -/

section Tenants
variable {n : Nat} {s : State}

/-- A tenant command of partition `n` begins. -/
def commanded (n : Nat) (s : State) : State := settleDevState (onTenant n (fun t => { t with cmd := 1 }) s)

/-- A tenant command of partition `n` ends with success. -/
def concluded (n : Nat) (s : State) : State := causePart n 3 (settleDevState (onTenant n (fun t => { t with cmd := 2 }) s))

theorem onTenant_part (f : Tenant → Tenant) : (onTenant n f s).part n = { s.part n with tn := f (s.part n).tn } := State.onPart_part ..

theorem onTenant_band (f : Tenant → Tenant) : ((onTenant n f s).part n).band = (s.part n).band := by rw [onTenant_part]

theorem commanded_part : (commanded n s).part n = { s.part n with tn := { (s.part n).tn with cmd := 1 } } :=
  (State.part_of_parts (settleDevState_parts _) n).trans (onTenant_part _)

theorem commanded_heard_part (p : Path) : (commanded n (heard s p)).part n = { s.part n with tn := { (s.part n).tn with cmd := 1 } } := by
  rw [commanded_part, heard_part]

theorem commanded_heard_band (p : Path) : ((commanded n (heard s p)).part n).band = (s.part n).band := by
  rw [commanded_heard_part]

theorem commanded_heard_part_ne (p : Path) {k : Nat} (hk : k ≠ n) : (commanded n (heard s p)).part k = s.part k :=
  (State.part_of_parts (settleDevState_parts _) k).trans ((State.onPart_part_ne _ _ _ hk).trans (heard_part s p k))

theorem commanded_heard_tiles (n : Nat) (s : State) (p : Path) : (commanded n (heard s p)).tiles = s.tiles :=
  (settleDevState_tiles _).trans (heard_answered s p).tiles

theorem commanded_heard_mem (n : Nat) (s : State) (p : Path) : (commanded n (heard s p)).mem = s.mem :=
  (settleDevState_mem _).trans (heard_answered s p).mem

theorem concluded_part : (concluded n s).part n = { s.part n with tn := { (s.part n).tn with cmd := 2 } } :=
  (State.part_of_parts ((causePart_parts ..).trans (settleDevState_parts _)) n).trans (onTenant_part _)

theorem concluded_part_ne {k : Nat} (hk : k ≠ n) : (concluded n s).part k = s.part k :=
  (State.part_of_parts ((causePart_parts ..).trans (settleDevState_parts _)) k).trans (State.onPart_part_ne _ _ _ hk)

theorem concluded_tiles (n : Nat) (s : State) : (concluded n s).tiles = s.tiles := (causePart_tiles ..).trans (settleDevState_tiles _)

theorem concluded_regions (n : Nat) (s : State) : (concluded n s).regions = s.regions :=
  (causePart_regions ..).trans (settleDevState_regions _)

theorem concluded_mem (n : Nat) (s : State) : (concluded n s).mem = s.mem := (causePart_mem ..).trans (settleDevState_mem _)

/-- What tenant command `v` runs, 1 ASSIGN to 5 RELEASE (17 R478). -/
def tenantRun (n : Nat) : Nat → State → TenRes
  | 1 => assignTenant n
  | 2 => stopTenant n
  | 3 => killTenant n
  | 4 => switchTenant n
  | _ => releaseTenant n

/-- A tenant command whose run succeeds ends with it, if it is no SWITCH that goes on with a load. -/
theorem tenantCmd_concluded {v : Nat} {s' : State} (hv : 1 ≤ v ∧ v ≤ 5) (hauto : v = 4 → (s.part n).tn.autoLoad ≠ 1)
    (hrun : tenantRun n v (commanded n s) = (none, s')) : tenantCmd n v s = (some true, concluded n s') := by
  unfold tenantCmd
  extract_lets b fin auto
  have hfin : fin (none, s') = (some true, concluded n s') := rfl
  rw [← hfin]
  obtain rfl | rfl | rfl | rfl | rfl : v = 1 ∨ v = 2 ∨ v = 3 ∨ v = 4 ∨ v = 5 := by omega
  · exact congrArg fin hrun
  · exact congrArg fin hrun
  · exact congrArg fin hrun
  · have hload : auto = false := by
      have hb : ((commanded n s).part n).tn.autoLoad = (s.part n).tn.autoLoad := by rw [commanded_part]
      exact (congrArg (· == 1) hb).trans (beq_false_of_ne (hauto rfl))
    have hswitch : switchTenant n b = (none, s') := hrun
    rw [hswitch, hload]
    rfl
  · exact congrArg fin hrun

/-- A tenant command's write that ends well leaves what the command leaves, but for its answer. -/
theorem tenantCommand_concluded {c : Instr} {h : ReqHdr} {n : PartId} {v : Nat} {s s1 : State} (hv : 1 ≤ v ∧ v ≤ 5)
    (hexec : exec c s = .next (handle none (partWrite h n 0x24 v) s)) (hruns : WriteRuns s (partWrite h n 0x24 v))
    (hfree : (s.part n).tn.cmd ≠ 1) (hauto : v = 4 → (s.part n).tn.autoLoad ≠ 1)
    (hrun : tenantRun n v (commanded n (heard s h.path)) = (none, s1)) :
    ∃ s', exec c s = .next s' ∧ s'.part n = { s1.part n with tn := { (s1.part n).tn with cmd := 2 } } ∧
      (∀ k, k ≠ n.val → s'.part k = s1.part k) ∧ s'.tiles = s1.tiles ∧ s'.regions = s1.regions ∧ s'.mem = s1.mem := by
  have hleft : (writeEntry none (heard s h.path) (some n.val) 0x2800 (BitVec.ofNat 8 0x24).toNat [BitVec.ofNat 8 v]).left (heard s h.path) =
      concluded n s1 := by
    have hwrite : writeEntry none (heard s h.path) (some n.val) 0x2800 (BitVec.ofNat 8 0x24).toNat [BitVec.ofNat 8 v] =
        writeTenant n (leNat [BitVec.ofNat 8 v]) (heard s h.path) := rfl
    have hnat : leNat [BitVec.ofNat 8 v] = v := by
      rw [leNat_singleton, BitVec.toNat_ofNat]
      omega
    rw [hwrite, hnat, writeTenant, if_neg (by omega), heard_part, if_neg hfree,
      tenantCmd_concluded hv (by rwa [heard_part]) hrun]
    rfl
  obtain ⟨s', hnext, hanswer⟩ := entryCommand_answered hexec (originalOf_partMirror n) hleft hruns
  exact ⟨s', hnext, (State.part_of_parts hanswer.parts n).trans concluded_part,
    fun k hk => (State.part_of_parts hanswer.parts k).trans (concluded_part_ne hk), hanswer.tiles.trans (concluded_tiles ..),
    hanswer.regions.trans (concluded_regions ..), hanswer.mem.trans (concluded_mem ..)⟩

/-! ### ASSIGN, STOP and KILL (17 R479, R482) -/

/-- ASSIGN of a partition without a tenant: the new tenant is the current one. -/
theorem assignTenant_vacant (hnew : (s.part n).tn.newId ≠ 0) (hcur : (s.part n).tn.cur = 0) : ∃ s' k, assignTenant n s = (none, s') ∧
    s'.part n = { s.part n with tn := { (s.part n).tn with cur := (s.part n).tn.newId, curKey := (s.part n).tn.newKey, shareKey := some k } } ∧
    (∀ k, k ≠ n → s'.part k = s.part k) ∧ s'.tiles = s.tiles ∧ s'.mem = s.mem := by
  unfold assignTenant
  extract_lets p
  rw [if_neg hnew, if_pos hcur]
  have hparts (lo hi : Nat) (key : BitVec 512) (f : Trace → Trace) (s : State) : (rekey lo hi key (s.onTrace f)).parts = s.parts := rfl
  refine ⟨_, (newKey s).1, rfl, ?_, fun k hk => ?_, rfl, rfl⟩
  · rw [State.part_of_parts (hparts ..), onTenant_part]
    rfl
  · exact (State.part_of_parts (hparts ..) k).trans (State.onPart_part_ne _ _ _ hk)

theorem stopTenant_of_busy (hbusy : (s.part n).load.st = 1 ∨ (s.part n).load.st = 2) :
    stopTenant n s = (none, stopPartition n 0 s) := by
  rw [stopTenant, if_pos hbusy]

/-- KILL of a tenant fences the tiles, marks the kill, and stops what loads or runs. -/
theorem killTenant_effect (hcur : (s.part n).tn.cur ≠ 0) : ∃ s', killTenant n s = (none, s') ∧ (s'.part n).tn.killed = true ∧
    (∀ t ∈ partTiles s n, (s'.tile t).fenced = true) ∧
    ((s.part n).load.st = 1 ∨ (s.part n).load.st = 2 → (s'.part n).load.st = 3) := by
  unfold killTenant
  rw [if_neg hcur]
  extract_lets st s1
  have hband : (s1.part n).band = (s.part n).band := by
    dsimp only [s1]
    split
    · next hbusy => rw [stopPartition_part 0 hbusy]
    · rfl
  have hpart : (fence n true (onTenant n (fun t => { t with killed := true }) s1)).part n =
      { s1.part n with tn := { (s1.part n).tn with killed := true } } := (State.part_of_parts (fence_parts ..) n).trans (onTenant_part _)
  refine ⟨_, rfl, by rw [hpart], fun t ht => fence_fenced n true _ ?_, fun hbusy => ?_⟩
  · rwa [partTiles_of_band ((onTenant_band _).trans hband)]
  · have hs1 : s1 = stopPartition n 0 s := if_pos hbusy
    rw [hpart, hs1, stopPartition_part 0 hbusy]

/-! ### SWITCH and RELEASE (17 R480–R482) -/

/-- A partition after R480 steps 1 to 4. -/
def Part.wiped (p : Part) : Part :=
  { p with rdnf := false, trans := disabled p.trans, transHi := [], commit := {}, load := { p.load with plate := none, st := 0 },
           tn := { p.tn with shareKey := none, curKey := 0, cur := 0 } }

theorem endUnlock_parts (n : Nat) (s : State) : (endUnlock n s).parts = s.parts := by rfl

theorem freshObjects_parts (n : Nat) (s : State) : (freshObjects n s).parts = s.parts := by rfl

theorem unscrub_parts (lo hi : Nat) (s : State) : (unscrub lo hi s).parts = s.parts := by rfl

theorem newKey_parts (s : State) : (newKey s).2.parts = s.parts := by rfl

theorem zeroSlice_parts (r : Nat) (s : State) : (zeroSlice r s).parts = s.parts := by rfl

theorem wipe_part (n : Nat) (s : State) : (wipe n s).part n = (s.part n).wiped := by
  unfold wipe
  extract_lets s1 s2 s3 s4 s5 s6 r
  have h2 : s2.parts = s1.parts := (clearTiles_parts ..).trans ((freshObjects_parts ..).trans (quiesce_parts n s1))
  have h3 : s3.parts = s2.parts := foldl_parts _ _ (fun s t => State.onTile_parts s t _) s2
  have h4 : s4.parts = s3.parts := foldl_parts _ _ (fun s r => zeroSlice_parts r s) s3
  have h5 : s5.parts = s4.parts := foldl_parts _ _ (fun s p => State.onPort_parts s p _) s4
  have h1 : s5.parts = s.parts := h5.trans (h4.trans (h3.trans (h2.trans (endUnlock_parts n s))))
  rw [setLoad_part, State.part_of_parts (unscrub_parts ..)]
  dsimp only [s6]
  rw [State.onPart_part_of_parts h1]
  rfl

/-- The fence of a KILL ends for every tile of the partition. -/
theorem openPart_fenced {t : Nat} (ht : t ∈ partTiles s n) : ((openPart n s).tile t).fenced = false :=
  fence_fenced n false _ (by rwa [partTiles_of_band (onTenant_band _)])

theorem openPart_part : (openPart n s).part n = { s.part n with tn := { (s.part n).tn with killed := false } } :=
  (State.part_of_parts (fence_parts ..) n).trans (onTenant_part _)

/-- SWITCH puts the next tenant, with the pending share and its key, or else the new tenant in the cleared partition. -/
theorem switchTenant_effect (hopen : switchBar s n = none) : ∃ s', switchTenant n s = (none, openPart n s') ∧
    (s'.part n).band = (s.part n).band ∧ (s'.part n).load.st = 0 ∧ (s'.part n).rdnf = false ∧
    ((s.part n).tn.next ≠ 0 → (s'.part n).tn.cur = (s.part n).tn.next ∧ (s'.part n).share = (s.part n).pend ∧
      (s'.part n).tn.shareKey = (s.part n).tn.pendKey) ∧
    ((s.part n).tn.next = 0 → (s'.part n).tn.cur = (s.part n).tn.newId) := by
  rw [switchTenant, hopen]
  dsimp only
  by_cases hnext : (s.part n).tn.next = 0
  · rw [if_neg (not_not_intro hnext)]
    refine ⟨_, rfl, ?_⟩
    rw [onTenant_part, State.part_of_parts (newKey_parts _), wipe_part]
    exact ⟨rfl, rfl, rfl, fun hne => absurd hnext hne, fun _ => rfl⟩
  · rw [if_pos hnext]
    refine ⟨_, rfl, ?_⟩
    rw [State.part_of_parts (State.onStaged_parts ..), State.onPart_part, wipe_part]
    exact ⟨rfl, rfl, rfl, fun _ => ⟨rfl, rfl, rfl⟩, fun heq => absurd heq hnext⟩

/-- RELEASE leaves the partition cleared and without a tenant. -/
theorem releaseTenant_effect (hopen : switchBar s n = none) : ∃ s', releaseTenant n s = (none, openPart n s') ∧
    s'.part n = { (s.part n).wiped with tn := { (s.part n).wiped.tn with next := 0, nextKey := 0, pendKey := none } } := by
  rw [releaseTenant, hopen]
  dsimp only
  refine ⟨_, rfl, ?_⟩
  rw [onTenant_part, State.part_of_parts (unscrub_parts ..), wipe_part]

end Tenants

/-! ### The commands -/

section Commands
variable {s : State} {h : ReqHdr} {n : PartId}

theorem heard_idle (p : Path) (hidle : (s.part n).load.st ≠ 1 ∧ (s.part n).tn.cmd ≠ 1) :
    ¬(((heard s p).part n).load.st = 1 ∨ ((heard s p).part n).tn.cmd = 1) := by
  rw [heard_part]
  exact not_or.mpr hidle

/-- LOAD_VERIFY (1) and LOAD_SERVICE (2), once the fault records of the partition are served. -/
theorem loadCommand_answered {c : Instr} {v : Nat} (hexec : exec c s = .next (handle none (partWrite h n 0x41 v) s)) (hv : v = 1 ∨ v = 2)
    (hruns : WriteRuns s (partWrite h n 0x41 v)) (hidle : (s.part n).load.st ≠ 1 ∧ (s.part n).tn.cmd ≠ 1) :
    ∃ s', exec c s = .next s' ∧ Answered (load n (v == 1) (serveFaults n (heard s h.path))).2 s' := by
  have hnat : (BitVec.ofNat 8 v).toNat = v := by rw [BitVec.toNat_ofNat]; omega
  have hwrite := writeEntry_load n (BitVec.ofNat 8 v) (heard s h.path)
  rw [hnat] at hwrite
  exact entryCommand_answered hexec (originalOf_partMirror n)
    ((congrArg (WriteRes.left _) hwrite).trans (writeLoad_left hv (heard_idle h.path hidle))) hruns

/-- A load of a partition that runs once its fault records are served ends with reason 1. -/
theorem loadService_refused {served s' : State} (hrunning : (served.part n).load.st = 2) (hanswer : Answered (load n false served).2 s') :
    (s'.part n).load.st = 4 ∧ (s'.part n).load.reason = 1 := by
  rw [State.part_of_parts hanswer.parts, load_of_running false hrunning]
  exact refuseLoad_part n false { reason := 1 } served

theorem forget_answered (hruns : WriteRuns s (partWrite h n 0x41 3)) (hidle : (s.part n).load.st ≠ 1 ∧ (s.part n).tn.cmd ≠ 1) :
    ∃ s', exec (.forget h n) s = .next s' ∧ Answered ((heard s h.path).onSec (fun k => { k with digests := [] })) s' :=
  entryCommand_answered rfl (originalOf_partMirror n) (writeEntry_forget (heard_idle h.path hidle)) hruns

theorem apply_answered (hruns : WriteRuns s (plainReq h 2 0x2800 5 [1#8])) (hst : s.dev.boot.st = 5) :
    ∃ s', exec (.apply h) s = .next s' ∧ Answered (applyTable (heard s h.path)).2 s' :=
  entryCommand_answered rfl rfl (writeEntry_apply (m := none) (by rwa [heard_st])) hruns

/-- FORWARD (1) and BACK (2). -/
theorem recovery_answered {c : Instr} {v : Byte} (hexec : exec c s = .next (handle none (recoveryWrite h n v) s)) (hv : v = 1 ∨ v = 2)
    (hruns : WriteRuns s (recoveryWrite h n v)) {r : Nat × State}
    (hr : recoveryRun n v.toNat (onCommit n (fun c => { c with cmd := v }) (heard s h.path)) = r) :
    ∃ s', exec c s = .next s' ∧ Answered (onCommit n (fun c => { c with result := BitVec.ofNat 8 r.1 }) r.2) s' := by
  subst hr
  exact entryCommand_answered hexec (originalOf_commitMirror n)
    ((congrArg (WriteRes.left _) (writeEntry_recovery n v _)).trans (writeRecovery_left hv)) hruns

theorem noted_desc (v : Byte) (p : Path) :
    ((onCommit n (fun c => { c with cmd := v }) (heard s p)).part n).commit.desc = (s.part n).commit.desc := by
  rw [onCommit_part, heard_part]

theorem back_effect {d : Commit} (hruns : WriteRuns s (recoveryWrite h n 2)) (hdesc : (s.part n).commit.desc = some d) :
    ∃ s', exec (.back h n) s = .next s' ∧ (s'.part n).commit.result = 1 ∧
      (s'.part n).commit.next = (s.part n).commit.committed + 1 ∧ (s'.part n).commit.committed = (s.part n).commit.committed ∧
      (s'.part n).rdnf = false := by
  obtain ⟨s', hexec, hanswer⟩ := recovery_answered (c := .back h n) rfl (.inr rfl) hruns
    ((recoveryRun_some 2 ((noted_desc 2 h.path).trans hdesc)).trans (if_neg (by decide)))
  refine ⟨s', hexec, ?_⟩
  rw [State.part_of_parts hanswer.parts, onCommit_part, back_part, onCommit_part, heard_part]
  exact ⟨rfl, rfl, rfl, rfl⟩

theorem assign_effect (hruns : WriteRuns s (partWrite h n 0x24 1)) (hfree : (s.part n).tn.cmd ≠ 1) (hnew : (s.part n).tn.newId ≠ 0)
    (hcur : (s.part n).tn.cur = 0) : ∃ s', exec (.assign h n) s = .next s' ∧ (s'.part n).tn.cur = (s.part n).tn.newId ∧
      (s'.part n).tn.curKey = (s.part n).tn.newKey ∧ (s'.part n).tn.cmd = 2 ∧ s'.tiles = s.tiles ∧ s'.mem = s.mem ∧
      ∀ k, k ≠ n.val → s'.part k = s.part k := by
  have hbegun := commanded_heard_part (n := n) (s := s) h.path
  obtain ⟨s1, k, hrun, hpart, hother, htiles, hmem⟩ := assignTenant_vacant (s := commanded n (heard s h.path)) (by rwa [hbegun])
    (by rwa [hbegun])
  obtain ⟨s', hexec, hdone, hdoneOther, hdoneTiles, -, hdoneMem⟩ :=
    tenantCommand_concluded (v := 1) (c := .assign h n) (by decide) rfl hruns hfree nofun hrun
  refine ⟨s', hexec, ?_, ?_, by rw [hdone], hdoneTiles.trans (htiles.trans (commanded_heard_tiles ..)),
    hdoneMem.trans (hmem.trans (commanded_heard_mem ..)),
    fun k hk => (hdoneOther k hk).trans ((hother k hk).trans (commanded_heard_part_ne h.path hk))⟩
  · rw [hdone, hpart, hbegun]
  · rw [hdone, hpart, hbegun]

theorem stop_effect (hruns : WriteRuns s (partWrite h n 0x24 2)) (hfree : (s.part n).tn.cmd ≠ 1)
    (hbusy : (s.part n).load.st = 1 ∨ (s.part n).load.st = 2) : ∃ s', exec (.stop h n) s = .next s' ∧ (s'.part n).load.st = 3 ∧
      (s'.part n).tn.cmd = 2 ∧ ∀ r ∈ bandOf s n, (s'.region r).nib.stopped = true := by
  have hbegun : ((commanded n (heard s h.path)).part n).load.st = 1 ∨ ((commanded n (heard s h.path)).part n).load.st = 2 := by
    rwa [commanded_heard_part]
  obtain ⟨s', hexec, hdone, -, -, hregions, -⟩ :=
    tenantCommand_concluded (v := 2) (c := .stop h n) (by decide) rfl hruns hfree nofun (stopTenant_of_busy hbegun)
  refine ⟨s', hexec, by rw [hdone, stopPartition_part 0 hbegun], by rw [hdone], fun r hr => ?_⟩
  rw [State.region_of_regions hregions]
  exact stopPartition_stopped 0 hbegun (by rwa [bandOf_of_band (commanded_heard_band h.path)])

theorem kill_effect (hruns : WriteRuns s (partWrite h n 0x24 3)) (hfree : (s.part n).tn.cmd ≠ 1) (hcur : (s.part n).tn.cur ≠ 0) :
    ∃ s', exec (.kill h n) s = .next s' ∧ (s'.part n).tn.killed = true ∧ (s'.part n).tn.cmd = 2 ∧
      (∀ t ∈ partTiles s n, (s'.tile t).fenced = true) ∧
      ((s.part n).load.st = 1 ∨ (s.part n).load.st = 2 → (s'.part n).load.st = 3) := by
  have hbegun := commanded_heard_part (n := n) (s := s) h.path
  obtain ⟨s1, hrun, hkilled, hfenced, hstopped⟩ := killTenant_effect (s := commanded n (heard s h.path)) (by rwa [hbegun])
  obtain ⟨s', hexec, hdone, -, htiles, -⟩ := tenantCommand_concluded (v := 3) (c := .kill h n) (by decide) rfl hruns hfree nofun hrun
  rw [partTiles_of_band (commanded_heard_band h.path)] at hfenced
  rw [hbegun] at hstopped
  refine ⟨s', hexec, by rw [hdone, hkilled], by rw [hdone], fun t ht => ?_, fun hbusy => ?_⟩
  · rw [State.tile, htiles]
    exact hfenced t ht
  · rw [hdone]
    exact hstopped hbusy

theorem switchBar_commanded (p : Path) : switchBar (commanded n (heard s p)) n = switchBar s n := by
  rw [switchBar, commanded_heard_part]
  rfl

theorem switch_effect (hruns : WriteRuns s (partWrite h n 0x24 4)) (hfree : (s.part n).tn.cmd ≠ 1) (hopen : switchBar s n = none)
    (hauto : (s.part n).tn.autoLoad ≠ 1) : ∃ s', exec (.switch h n) s = .next s' ∧ (s'.part n).tn.cmd = 2 ∧
      (s'.part n).tn.killed = false ∧ (s'.part n).load.st = 0 ∧ (s'.part n).rdnf = false ∧
      (∀ t ∈ partTiles s n, (s'.tile t).fenced = false) ∧
      ((s.part n).tn.next ≠ 0 → (s'.part n).tn.cur = (s.part n).tn.next ∧ (s'.part n).share = (s.part n).pend ∧
        (s'.part n).tn.shareKey = (s.part n).tn.pendKey) ∧
      ((s.part n).tn.next = 0 → (s'.part n).tn.cur = (s.part n).tn.newId) := by
  obtain ⟨s1, hrun, hband, hst, hrdnf, hnext, hnew⟩ := switchTenant_effect ((switchBar_commanded h.path).trans hopen)
  obtain ⟨s', hexec, hdone, -, htiles, -⟩ :=
    tenantCommand_concluded (v := 4) (c := .switch h n) (by decide) rfl hruns hfree (fun _ => hauto) hrun
  rw [commanded_heard_part] at hnext hnew
  refine ⟨s', hexec, ?_⟩
  rw [hdone, openPart_part]
  refine ⟨rfl, rfl, hst, hrdnf, fun t ht => ?_, hnext, hnew⟩
  rw [State.tile, htiles]
  exact openPart_fenced (by rwa [partTiles_of_band (hband.trans (commanded_heard_band h.path))])

theorem release_effect (hruns : WriteRuns s (partWrite h n 0x24 5)) (hfree : (s.part n).tn.cmd ≠ 1) (hopen : switchBar s n = none) :
    ∃ s', exec (.release h n) s = .next s' ∧ (s'.part n).tn.cmd = 2 ∧ (s'.part n).tn.cur = 0 ∧ (s'.part n).tn.next = 0 ∧
      (s'.part n).load.st = 0 ∧ (s'.part n).tn.killed = false := by
  obtain ⟨s1, hrun, hpart⟩ := releaseTenant_effect ((switchBar_commanded h.path).trans hopen)
  obtain ⟨s', hexec, hdone, -⟩ := tenantCommand_concluded (v := 5) (c := .release h n) (by decide) rfl hruns hfree nofun hrun
  refine ⟨s', hexec, ?_⟩
  rw [hdone, openPart_part, hpart]
  exact ⟨rfl, rfl, rfl, rfl, rfl⟩

end Commands

/-! ### The statement -/

/-- Settles O54, a command at a time: each is the write of its partition's entry, and leaves what that write leaves. -/
theorem tenantAndLoadCommands : Obligations.TenantAndLoadCommands := by
  unfold Obligations.TenantAndLoadCommands
  intro s h n s0 runs does idle served
  refine ⟨loadCommand_answered (c := .loadVerify h n) (v := 1) rfl (.inl rfl), ?service, ?doorbell, forget_answered, ?apply,
    fun hruns ⟨_, hfree⟩ => assign_effect hruns hfree, stop_effect, kill_effect, switch_effect, release_effect, ?recovery⟩
  case service =>
    intro hruns hidle
    obtain ⟨s', hexec, hanswer⟩ := loadCommand_answered (c := .loadService h n) (v := 2) rfl (.inr rfl) hruns hidle
    exact ⟨⟨s', hexec, hanswer⟩, fun hrunning => ⟨load_of_running false hrunning, s', hexec, loadService_refused hrunning hanswer⟩⟩
  case doorbell =>
    intro f x hpath hserved hfree hready hroom p
    exact congrArg Host.Outcome.next ((handle_of_doorbell none s hpath).trans (doorbell_of_served 1 hpath hserved hfree hready hroom))
  case apply =>
    intro hruns hst
    have hdone := apply_answered hruns hst
    refine ⟨fun hvalid => ?_, fun hinvalid => ?_⟩
    · rwa [applyTable_valid (by rwa [heard_applyResult])] at hdone
    · rwa [applyTable_invalid (by rwa [heard_applyResult]), heard_applyResult] at hdone
  case recovery =>
    intro v hruns s1
    refine ⟨?forwardNone, ?backNone, ?forward, ?back⟩
    case forwardNone =>
      rintro hdesc rfl
      exact recovery_answered rfl (.inl rfl) hruns (recoveryRun_none 1 ((noted_desc 1 h.path).trans hdesc))
    case backNone =>
      rintro hdesc rfl
      exact recovery_answered rfl (.inr rfl) hruns (recoveryRun_none 2 ((noted_desc 2 h.path).trans hdesc))
    case forward =>
      rintro d hdesc rfl
      exact recovery_answered rfl (.inl rfl) hruns ((recoveryRun_some 1 ((noted_desc 1 h.path).trans hdesc)).trans (if_pos rfl))
    case back =>
      rintro d hdesc rfl
      exact back_effect hruns hdesc

end Sys2Proof.Machine
